-- ==== Sys2Proof/Word.lean ====
section
/-!
DEFINITION. Word.lean: the register word and the byte.
-/
namespace Sys2Proof

/-- A register word: every register is 32 bits wide (R33). -/
abbrev Word := BitVec 32

/-- The smallest addressable unit of the package address space. -/
abbrev Byte := BitVec 8

end Sys2Proof
end

