-- ==== Sys2Proof/Syntax.lean ====
section
/-!
DEFINITION. Syntax.lean: the commands and events of the block, one constructor per row of the spec's table, in the
table's order. Operands that name a core, an engine, a cluster are global indexes (64·die + 8·cluster + core, four
engines to a core, 8·die + cluster). An operand `ini` is the initiator ID of R41.
-/
namespace Sys2Proof

/-- One channel of a die's memory. -/
structure MemChannel where
  d : Nat
  ch : Nat
  deriving DecidableEq, Repr

/-- A read burst of a channel; `parity` when a parity error struck its queue (R215). -/
structure ReadBurst where
  d : Nat
  ch : Nat
  parity : Bool
  deriving DecidableEq, Repr

/-- A flit as its receiver finds it: the bytes, the lanes that the monitors name when the CRC fails (R230), on a span link
the symbols that FEC corrected and whether a codeword was uncorrectable (R246). -/
structure RxFlit where
  bytes : List Byte
  lanes : List Nat
  ce : Nat
  unc : Bool
  deriving DecidableEq, Repr

/-- A lane of a receive direction that fails; `lock` when it lost lock (R230). -/
structure LaneFault where
  lane : Nat
  lock : Bool
  deriving DecidableEq, Repr

/-- Where a span message comes from: the package, and of its common word the initiator there, the class label and the
urgency (R233, R247). -/
structure SpanSource where
  pkg : Nat
  ini : Nat
  cls : Nat
  urg : Bool
  deriving DecidableEq, Repr

/-- The operation of a span message's SEM word, with the count of a signal-n (R332). -/
structure SpanSemOp where
  op : Nat
  count : Nat
  deriving DecidableEq, Repr

/-- Who sends a host message: the module it comes on and its requester bits (R261). -/
structure HostSender where
  m : Nat
  req : Nat
  deriving DecidableEq, Repr

/-- What an agent's estimates say of a sample: a raise would keep the budget and the ramp (`room`), the average falls
faster than the ramp of R486 (`fall`). -/
structure Headroom where
  room : Bool
  fall : Bool
  deriving DecidableEq, Repr

/-- The commands: each is one row of the opcode table, with the row's operands. -/
inductive Instr where
  /-- REGISTER_WRITE (R33). -/
  | registerWrite (ini : Nat) (addr : Nat) (width : Nat) (v : Word)
  /-- CLOCK_FAULT (R24). -/
  | clockFault (pll : Bool)
  /-- TRIGGER_CLOCK_FAULT (R382). -/
  | triggerClockFault
  /-- RD_REQUEST (R115). -/
  | rdRequest (ini : Nat) (txid : Nat) (addr : Nat) (len : Nat)
  /-- WR_REQUEST (R115). -/
  | wrRequest (ini : Nat) (txid : Nat) (addr : Nat) (data : List Byte)
  /-- ENG_GO_MMA (R80). -/
  | engGoMma (ini : Nat) (e : Nat) (v : Word)
  /-- ENG_GO_WB (R80). -/
  | engGoWb (ini : Nat) (e : Nat) (v : Word)
  /-- ENG_GO_LOAD (R82). -/
  | engGoLoad (ini : Nat) (e : Nat) (v : Word)
  /-- ENG_OPERATION_START (R81). -/
  | engOperationStart (e : Nat) (wbPipe : Bool)
  /-- MMA_COMPLETE (R85). -/
  | mmaComplete (e : Nat)
  /-- WB_COMPLETE (R68). -/
  | wbComplete (e : Nat)
  /-- LOAD_COMPLETE (R85). -/
  | loadComplete (e : Nat)
  /-- ENG_SR_SEED_WRITE (R76). -/
  | engSrSeedWrite (ini : Nat) (e : Nat) (v : Word)
  /-- ENG_ERR_CLEAR (R84). -/
  | engErrClear (ini : Nat) (e : Nat) (v : Word)
  /-- SEQ_NOP (R96). -/
  | seqNop (k : Nat)
  /-- SEQ_END (R96). -/
  | seqEnd (k : Nat)
  /-- SEQ_FAIL (R96). -/
  | seqFail (k : Nat)
  /-- SEQ_LI (R96). -/
  | seqLi (k : Nat)
  /-- SEQ_ADD (R96). -/
  | seqAdd (k : Nat)
  /-- SEQ_SUB (R96). -/
  | seqSub (k : Nat)
  /-- SEQ_AND (R96). -/
  | seqAnd (k : Nat)
  /-- SEQ_OR (R96). -/
  | seqOr (k : Nat)
  /-- SEQ_XOR (R96). -/
  | seqXor (k : Nat)
  /-- SEQ_MUL (R96). -/
  | seqMul (k : Nat)
  /-- SEQ_SHL (R96). -/
  | seqShl (k : Nat)
  /-- SEQ_SHR (R96). -/
  | seqShr (k : Nat)
  /-- SEQ_BR (R96). -/
  | seqBr (k : Nat)
  /-- SEQ_LD (R96). -/
  | seqLd (k : Nat)
  /-- SEQ_ST (R96). -/
  | seqSt (k : Nat)
  /-- SEQ_WREG (R96). -/
  | seqWreg (k : Nat)
  /-- SEQ_RREG (R96). -/
  | seqRreg (k : Nat)
  /-- SEQ_VEC (R88). -/
  | seqVec (k : Nat)
  /-- SEQ_SMV (R104). -/
  | seqSmv (k : Nat)
  /-- SEQ_WAIT (R98). -/
  | seqWait (k : Nat)
  /-- WAIT_RETIRE (R98). -/
  | waitRetire (k : Nat)
  /-- SEQ_SEM_WAIT (R332). -/
  | seqSemWait (k : Nat)
  /-- SEQ_SEM_SIGNAL (R332). -/
  | seqSemSignal (k : Nat)
  /-- SEQ_SEM_TRY_WAIT (R332). -/
  | seqSemTryWait (k : Nat)
  /-- SEM_RESULT_ARRIVE (R331). -/
  | semResultArrive (k : Nat)
  /-- SEQ_SACQ (R96). -/
  | seqSacq (k : Nat)
  /-- SACQ_RETIRE (R99). -/
  | sacqRetire (k : Nat)
  /-- SEQ_SREL (R124). -/
  | seqSrel (k : Nat)
  /-- SEQ_CYC (R96). -/
  | seqCyc (k : Nat)
  /-- ILLOP (R96). -/
  | illop (k : Nat)
  /-- SEQ_STALL_RELEASE (R99). -/
  | seqStallRelease (k : Nat)
  /-- VEC_DESCRIPTOR_START (R88). -/
  | vecDescriptorStart (k : Nat)
  /-- VEC_ADD (R90). -/
  | vecAdd (k : Nat)
  /-- VEC_SUB (R90). -/
  | vecSub (k : Nat)
  /-- VEC_MUL (R90). -/
  | vecMul (k : Nat)
  /-- VEC_FMA (R90). -/
  | vecFma (k : Nat)
  /-- VEC_MAX (R90). -/
  | vecMax (k : Nat)
  /-- VEC_MIN (R90). -/
  | vecMin (k : Nat)
  /-- VEC_ABS (R90). -/
  | vecAbs (k : Nat)
  /-- VEC_CVT (R91). -/
  | vecCvt (k : Nat)
  /-- VEC_EXP (R92). -/
  | vecExp (k : Nat)
  /-- VEC_RCP (R92). -/
  | vecRcp (k : Nat)
  /-- VEC_RSQRT (R92). -/
  | vecRsqrt (k : Nat)
  /-- VEC_TANH (R92). -/
  | vecTanh (k : Nat)
  /-- VEC_ERF (R92). -/
  | vecErf (k : Nat)
  /-- VEC_RSUM (R93). -/
  | vecRsum (k : Nat)
  /-- VEC_RMAX (R90). -/
  | vecRmax (k : Nat)
  /-- VEC_RSCALE (R90). -/
  | vecRscale (k : Nat)
  /-- VEC_DESCRIPTOR_COMPLETE (R88). -/
  | vecDescriptorComplete (k : Nat)
  /-- SM_COPY (R104). -/
  | smCopy (k : Nat) (m : Nat)
  /-- SM_FILL (R106). -/
  | smFill (k : Nat) (m : Nat)
  /-- SM_STREAM_OUT (R124). -/
  | smStreamOut (k : Nat) (m : Nat)
  /-- SM_DESCRIPTOR_COMPLETE (R104). -/
  | smDescriptorComplete (k : Nat) (m : Nat)
  /-- STRSEG (R124). -/
  | strseg (st : Nat)
  /-- STRCRED (R124). -/
  | strcred (st : Nat)
  /-- STREAM_CLOSE (R122). -/
  | streamClose (st : Nat)
  /-- CORE_CMD_START (R97). -/
  | coreCmdStart (ini : Nat) (k : Nat)
  /-- CORE_CMD_PREEMPT (R128). -/
  | coreCmdPreempt (ini : Nat) (k : Nat)
  /-- CORE_PREEMPT_COMPLETE (R128). -/
  | corePreemptComplete (k : Nat)
  /-- CORE_CMD_RESUME (R128). -/
  | coreCmdResume (ini : Nat) (k : Nat)
  /-- CORE_CMD_ABORT (R581). -/
  | coreCmdAbort (ini : Nat) (k : Nat)
  /-- CORE_WATCHDOG_EXPIRY (R492). -/
  | coreWatchdogExpiry (k : Nat)
  /-- HANG_ESCALATE (R492). -/
  | hangEscalate (k : Nat)
  /-- LANDING_INIT (R131). -/
  | landingInit (ini : Nat) (c : Nat)
  /-- LANDING_INIT_DONE (R131). -/
  | landingInitDone (c : Nat)
  /-- CLUSTER_NET_STALL (R131). -/
  | clusterNetStall (c : Nat)
  /-- DC_HEARTBEAT (R421). -/
  | dcHeartbeat (d : Nat)
  /-- STEP_LOAD (R141). -/
  | stepLoad (tg : Nat)
  /-- PANTRY_ENABLE (R163). -/
  | pantryEnable (ini : Nat) (d : Nat) (v : Word)
  /-- PANTRY_READY (R163). -/
  | pantryReady (d : Nat)
  /-- TCMD_OPEN (R170). -/
  | tcmdOpen (ini : Nat) (d : Nat)
  /-- TCMD_RESET (R170). -/
  | tcmdReset (ini : Nat) (d : Nat)
  /-- TCMD_CLOSE (R170). -/
  | tcmdClose (ini : Nat) (d : Nat)
  /-- TCMD_QUERY (R170). -/
  | tcmdQuery (ini : Nat) (d : Nat)
  /-- TCMD_CLOSE_CTX (R170). -/
  | tcmdCloseCtx (ini : Nat) (d : Nat)
  /-- TCMD_LEASES_DRAINED (R168). -/
  | tcmdLeasesDrained (d : Nat)
  /-- SCRUB_PAGE (R165). -/
  | scrubPage (d : Nat) (p : Nat)
  /-- ATTN_POST (R173). -/
  | attnPost (k : Nat) (m : Nat) (slot : Nat) (data : List Byte)
  /-- ATTN_COMMAND_START (R175). -/
  | attnCommandStart (c : Nat)
  /-- ATTN_APPEND (R182). -/
  | attnAppend (c : Nat)
  /-- ATTN_SELF (R183). -/
  | attnSelf (c : Nat)
  /-- ATTN_CROSS (R187). -/
  | attnCross (c : Nat)
  /-- PAGE_RECYCLE_RESUME (R179). -/
  | pageRecycleResume (c : Nat)
  /-- ATTN_COMPLETE (R181). -/
  | attnComplete (c : Nat) (att : Bool)
  /-- PAN_ATT_SEQ_RST (R193). -/
  | panAttSeqRst (ini : Nat) (c : Nat) (v : Word)
  /-- SC_READ (R194). -/
  | scRead
  /-- SC_WRITE (R195). -/
  | scWrite
  /-- INV (R196). -/
  | inv
  /-- INVACK (R196). -/
  | invack (d : Nat)
  /-- DRAM_READ (R204). -/
  | dramRead (b : ReadBurst)
  /-- DRAM_WRITE (R205). -/
  | dramWrite (c : MemChannel)
  /-- ROW_IDLE_CLOSE (R209). -/
  | rowIdleClose (d : Nat) (ch : Nat) (bank : Nat)
  /-- REFRESH_WINDOW (R211). -/
  | refreshWindow (d : Nat) (ch : Nat) (mr4 : Nat)
  /-- PATROL_READ (R218). -/
  | patrolRead (d : Nat) (ch : Nat)
  /-- MEM_INIT (R219). -/
  | memInit (ini : Nat) (d : Nat)
  /-- MEM_INIT_DONE (R219). -/
  | memInitDone (d : Nat) (fail : Nat)
  /-- ELOG_CLEAR (R216). -/
  | elogClear (ini : Nat) (d : Nat)
  /-- IL_WINDOW_WRITE (R223). -/
  | ilWindowWrite (ini : Nat) (v : Word)
  /-- IL_SYNC (R223). -/
  | ilSync
  /-- SC_INVALIDATE_ALL (R194). -/
  | scInvalidateAll (ini : Nat) (v : Word)
  /-- SC_INVALIDATE_DONE (R194). -/
  | scInvalidateDone
  /-- LINK_TRAINING (R228). -/
  | linkTraining (e : Nat)
  /-- LINK_UP (R228). -/
  | linkUp (e : Nat) (rx : Nat) (tx : Nat)
  /-- FLIT_RECEIVE (R238). -/
  | flitReceive (e : Nat) (flit : RxFlit)
  /-- NAK_RECEIVE (R238). -/
  | nakReceive (e : Nat) (seq : Nat)
  /-- REPLAY_TIMEOUT (R238). -/
  | replayTimeout (e : Nat)
  /-- ACK_SEND (R238). -/
  | ackSend (e : Nat)
  /-- LANE_HARD_FAIL (R230). -/
  | laneHardFail (e : Nat) (lane : LaneFault)
  /-- LINK_RETRAIN (R239). -/
  | linkRetrain (e : Nat) (ok : Bool)
  /-- MODULE_DOWN (R243). -/
  | moduleDown (e : Nat)
  /-- RDRSP (R244). -/
  | rdrsp (ini : Nat) (txid : Nat)
  /-- WRACK (R234). -/
  | wrack (ini : Nat) (txid : Nat)
  /-- ERRRSP (R235). -/
  | errrsp (ini : Nat) (txid : Nat)
  /-- MSG (R234). -/
  | msg (f : Nat) (t : Nat) (words : List Nat)
  /-- CAP (R249). -/
  | cap (x : Nat) (pkg : Nat) (part : Nat) (ver : Nat)
  /-- ROUTE_CHANGE (R242). -/
  | routeChange (ini : Nat) (d : Nat) (v : Word)
  /-- ROUTE_CHANGE_DONE (R242). -/
  | routeChangeDone (d : Nat)
  /-- SPAN_LINK_TRAIN (R250). -/
  | spanLinkTrain (x : Nat) (opn : Nat) (shrt : Nat) (pol : Nat) (rev : Bool)
  /-- SPAN_LANE_FAULT (R250). -/
  | spanLaneFault (x : Nat) (lane : Nat)
  /-- SPAN_DISCOVERY (R252). -/
  | spanDiscovery (ini : Nat)
  /-- SPAN_DISCOVERY_DONE (R252). -/
  | spanDiscoveryDone (routes : List Nat)
  /-- SPAN_MESSAGE_IN (R252). -/
  | spanMessageIn (x : Nat) (dst : Nat) (src : SpanSource) (ttl : Nat) (mtype : Nat) (txid : Nat) (addr : Nat) (len : Nat) (data : List Byte) (sem : Nat) (op : SpanSemOp)
  /-- HOST_MODULE_TRAIN (R257). -/
  | hostModuleTrain (m : Nat) (rx : Nat) (tx : Nat)
  /-- SIDEBAND_PARAM (R259). -/
  | sidebandParam (p : Nat) (v : Nat)
  /-- H_WAKE (R474). -/
  | hWake
  /-- HOST_REQUEST (R267). -/
  | hostRequest (m : Nat) (req : Nat) (txid : Nat) (write : Bool) (addr : Nat) (len : Nat) (data : List Byte)
  /-- HOST_MODULE_DOWN (R265). -/
  | hostModuleDown (m : Nat)
  /-- DBELL_QUEUE (R272). -/
  | dbellQueue (m : HostSender) (q : Nat) (index : Nat)
  /-- DBELL_CQ_HEAD (R272). -/
  | dbellCqHead (m : HostSender) (cq : Nat) (index : Nat)
  /-- PENDING_DOORBELL_APPLY (R295). -/
  | pendingDoorbellApply
  /-- PACKET_PARSE (R273). -/
  | packetParse
  /-- NOP (R279). -/
  | nop (tg : Nat)
  /-- BARRIER (R277). -/
  | barrier (tg : Nat)
  /-- CANCEL (R299). -/
  | cancel (tg : Nat)
  /-- CTX_CREATE (R278). -/
  | ctxCreate (tg : Nat)
  /-- CTX_DESTROY (R501). -/
  | ctxDestroy (tg : Nat)
  /-- QUEUE_CREATE (R290). -/
  | queueCreate (tg : Nat)
  /-- QUEUE_DESTROY (R282). -/
  | queueDestroy (tg : Nat)
  /-- QUEUE_PIN (R294). -/
  | queuePin (tg : Nat)
  /-- QUEUE_UNPIN (R294). -/
  | queueUnpin (tg : Nat)
  /-- CQ_CREATE (R286). -/
  | cqCreate (tg : Nat)
  /-- CQ_DESTROY (R282). -/
  | cqDestroy (tg : Nat)
  /-- WINDOW_SET (R267). -/
  | windowSet (tg : Nat)
  /-- WINDOW_CLEAR (R269). -/
  | windowClear (tg : Nat)
  /-- DEVICE_INFO (R279). -/
  | deviceInfo (tg : Nat)
  /-- IMAGE_REGISTER (R135). -/
  | imageRegister (tg : Nat)
  /-- IMAGE_UNREGISTER (R136). -/
  | imageUnregister (tg : Nat)
  /-- STEP (R280). -/
  | step (tg : Nat)
  /-- RESERVE (R307). -/
  | reserve (tg : Nat)
  /-- UNRESERVE (R308). -/
  | unreserve (tg : Nat)
  /-- SEM_INIT (R330). -/
  | semInit (tg : Nat)
  /-- SEM_SIGNAL (R330). -/
  | semSignal (tg : Nat)
  /-- SEM_QUERY (R330). -/
  | semQuery (tg : Nat)
  /-- TRACK_OPEN (R170). -/
  | trackOpen (tg : Nat)
  /-- TRACK_RESET (R170). -/
  | trackReset (tg : Nat)
  /-- TRACK_CLOSE (R170). -/
  | trackClose (tg : Nat)
  /-- TRACK_QUERY (R170). -/
  | trackQuery (tg : Nat)
  /-- POOL_SET (R158). -/
  | poolSet (tg : Nat)
  /-- PANTRY_SET (R163). -/
  | pantrySet (tg : Nat)
  /-- SENSOR_CONFIG (R373). -/
  | sensorConfig (tg : Nat) (up : Bool) (loss : Nat) (peer : Nat) (pal : Nat)
  /-- PORT_DISABLE_DONE (R373). -/
  | portDisableDone (p : Nat)
  /-- CAMERA_RESTART (R385). -/
  | cameraRestart (tg : Nat)
  /-- CAMERA_RESTART_DONE (R385). -/
  | cameraRestartDone (n : Nat) (up : Bool) (loss : Nat) (peer : Nat) (pal : Nat)
  /-- TRIGGER_SET (R379). -/
  | triggerSet (tg : Nat)
  /-- CALIB_CAMERA (R395). -/
  | calibCamera (tg : Nat)
  /-- CALIB_LIDAR (R396). -/
  | calibLidar (tg : Nat)
  /-- CALIB_IMU (R397). -/
  | calibImu (tg : Nat)
  /-- CALIB_WHEEL (R398). -/
  | calibWheel (tg : Nat)
  /-- CALIB_INTEGRATOR (R413). -/
  | calibIntegrator (tg : Nat)
  /-- CALIB_PROJECTION (R413). -/
  | calibProjection (tg : Nat)
  /-- POLICY_WRITE (R430). -/
  | policyWrite (tg : Nat)
  /-- POLICY_PREPARE_TIMEOUT (R431). -/
  | policyPrepareTimeout (isl : Nat)
  /-- POLICY_READ (R432). -/
  | policyRead (tg : Nat)
  /-- SAFE_ACK (R424). -/
  | safeAck (tg : Nat)
  /-- POWER_STATE_ACTIVE (R474). -/
  | powerStateActive (tg : Nat)
  /-- POWER_STATE_DOZE (R474). -/
  | powerStateDoze (tg : Nat)
  /-- POWER_STATE_NAP (R474). -/
  | powerStateNap (tg : Nat)
  /-- POWER_STATE_CELLAR (R474). -/
  | powerStateCellar (tg : Nat)
  /-- NAP_GATE (R474). -/
  | napGate
  /-- CELLAR_EXIT (R222). -/
  | cellarExit (fails : List Nat) (late : List Nat) (gold : List Nat)
  /-- POWER_LIMIT (R465). -/
  | powerLimit (tg : Nat)
  /-- UNIT_FENCE (R507). -/
  | unitFence (tg : Nat)
  /-- UNIT_RETURN (R509). -/
  | unitReturn (tg : Nat)
  /-- UNIT_RESET (R508). -/
  | unitReset (tg : Nat)
  /-- DUMP (R505). -/
  | dump (tg : Nat)
  /-- ATTEST (R531). -/
  | attest (tg : Nat)
  /-- UPDATE_BEGIN (R532). -/
  | updateBegin (tg : Nat)
  /-- UPDATE_BLOCK (R533). -/
  | updateBlock (tg : Nat)
  /-- UPDATE_VERIFY (R534). -/
  | updateVerify (tg : Nat) (bad : List Nat)
  /-- UPDATE_ACTIVATE (R536). -/
  | updateActivate (tg : Nat) (late : List Nat) (gold : List Nat)
  /-- UPDATE_ACTIVATE_REPLY (R537). -/
  | updateActivateReply
  /-- SPAN_CONFIG (R248). -/
  | spanConfig (tg : Nat)
  /-- SPAN_WINDOW (R253). -/
  | spanWindow (tg : Nat)
  /-- TELEMETRY_COUNTERS (R556). -/
  | telemetryCounters (tg : Nat)
  /-- TELEMETRY_POWER (R556). -/
  | telemetryPower (tg : Nat)
  /-- TELEMETRY_ERROR_LOGS (R504). -/
  | telemetryErrorLogs (tg : Nat)
  /-- REPLY_WRITE (R283). -/
  | replyWrite (tg : Nat)
  /-- NOTIFY_COAL_TIMEOUT (R284). -/
  | notifyCoalTimeout (cq : Nat)
  /-- EVENT_WRITE (R286). -/
  | eventWrite
  /-- CMD_PAUSE (R289). -/
  | cmdPause (ini : Nat) (v : Word)
  /-- ADMISSION_DECISION (R303). -/
  | admissionDecision (tg : Nat)
  /-- LINK_GROUP_TIMEOUT (R309). -/
  | linkGroupTimeout (tg : Nat)
  /-- BOOKING_START (R321). -/
  | bookingStart (tg : Nat)
  /-- BOOKED_EARLY_START (R319). -/
  | bookedEarlyStart (tg : Nat)
  /-- QUEUED_PLACE (R318). -/
  | queuedPlace
  /-- VICTIM_RESUME (R324). -/
  | victimResume (tg : Nat)
  /-- BOOKING_OVERRUN (R314). -/
  | bookingOverrun (tg : Nat)
  /-- SCAN_ROTATE (R316). -/
  | scanRotate
  /-- GUARANTEE_SUSPEND (R312). -/
  | guaranteeSuspend
  /-- GUARANTEE_RESUME (R312). -/
  | guaranteeResume
  /-- ADM_FAULT_WRITE (R313). -/
  | admFaultWrite (ini : Nat) (v : Word)
  /-- SEMUNIT_WAIT (R332). -/
  | semunitWait (d : Nat)
  /-- SEMUNIT_SIGNAL (R332). -/
  | semunitSignal (d : Nat)
  /-- SEMUNIT_TRY_WAIT (R332). -/
  | semunitTryWait (d : Nat)
  /-- SEMUNIT_SIGNAL_N (R332). -/
  | semunitSignalN (d : Nat)
  /-- SEM_CANCEL (R334). -/
  | semCancel (d : Nat)
  /-- TAG_RELEASE (R338). -/
  | tagRelease (tg : Nat)
  /-- LEDGER_SIDEBAND_EXCHANGE (R343). -/
  | ledgerSidebandExchange (e : Nat) (terms : List Nat)
  /-- INHERITANCE_TIMEOUT (R349). -/
  | inheritanceTimeout (tg : Nat)
  /-- SYN_SEM_WRITE (R352). -/
  | synSemWrite (ini : Nat) (n : Nat) (v : Word)
  /-- BWR_FLOOR_WRITE (R357). -/
  | bwrFloorWrite (ini : Nat) (d : Nat) (p : Nat) (r : Nat) (v : Word)
  /-- CAMERA_FRAME (R383). -/
  | cameraFrame (n : Nat) (fine : Nat) (fs : Bool) (fe : Bool) (dt : Nat) (emb : Nat) (lines : Nat) (stride : Nat) (data : List Byte) (crc : Bool)
  /-- CAMERA_FRAME_MISSING (R383). -/
  | cameraFrameMissing (n : Nat)
  /-- ETH_FRAME (R368). -/
  | ethFrame (m : Nat) (fine : Nat) (frame : List Byte) (crc : Bool)
  /-- CAN_FRAME (R368). -/
  | canFrame (k : Nat) (fine : Nat) (id : Nat) (data : List Byte) (err : Bool) (cnt : Nat) (boff : Bool)
  /-- IMU_BURST (R368). -/
  | imuBurst (j : Nat) (fine : Nat) (data : List Byte)
  /-- INGEST_DRAIN (R390). -/
  | ingestDrain
  /-- RECORD_COMMIT (R369). -/
  | recordCommit (p : Nat)
  /-- PTP_SYNC (R376). -/
  | ptpSync (ofs : Int)
  /-- TIME_HOLDOVER (R376). -/
  | timeHoldover
  /-- TIME_UNSYNC (R376). -/
  | timeUnsync
  /-- TRIGGER_PERIOD (R380). -/
  | triggerPeriod (fine : Nat)
  /-- TRIGGER_EDGE (R379). -/
  | triggerEdge (x : Nat) (fine : Nat) (ua : Nat)
  /-- POC_SAMPLE (R388). -/
  | pocSample (n : Nat) (code : Nat)
  /-- RAIL_SAMPLE (R386). -/
  | railSample (r : Nat) (mv : Nat)
  /-- ETH_QUALITY_SAMPLE (R386). -/
  | ethQualitySample (m : Nat) (sqi : Nat)
  /-- ETH_CABLE_DIAG (R386). -/
  | ethCableDiag (m : Nat) (result : Nat) (dist : Nat)
  /-- TRIG_PIN_SHORT (R575). -/
  | trigPinShort (x : Nat) (ev : Nat)
  /-- CAN_PIN_FAULT (R576). -/
  | canPinFault (k : Nat) (wh : Nat) (on : Bool)
  /-- INTEGRATOR_TICK (R400). -/
  | integratorTick
  /-- LIDAR_RECORD_PROCESS (R409). -/
  | lidarRecordProcess
  /-- POINT_PROJECT (R406). -/
  | pointProject
  /-- POINT_WAIT_TIMEOUT (R410). -/
  | pointWaitTimeout
  /-- LOCKSTEP_MISMATCH (R417). -/
  | lockstepMismatch (isl : Nat)
  /-- HEARTBEAT_LOST (R421). -/
  | heartbeatLost (isl : Nat) (src : Nat)
  /-- ISLAND_EVENT (R422). -/
  | islandEvent (isl : Nat)
  /-- CLAMP_HOLD_EXPIRY (R424). -/
  | clampHoldExpiry (isl : Nat)
  /-- CLAMP_READBACK (R461). -/
  | clampReadback (isl : Nat)
  /-- ISLAND_BOOT (R420). -/
  | islandBoot (isl : Nat)
  /-- MISMATCH_DECISION (R451). -/
  | mismatchDecision (tg : Nat)
  /-- SELF_TEST_SELECT (R445). -/
  | selfTestSelect
  /-- CHECKER_SELF_TEST (R446). -/
  | checkerSelfTest (ini : Nat) (k : Nat) (v : Word)
  /-- SELF_TEST_PATTERN (R446). -/
  | selfTestPattern (k : Nat) (ok : Bool)
  /-- SELF_TEST_STALL (R448). -/
  | selfTestStall
  /-- GOLDEN_PLACE (R442). -/
  | goldenPlace (k : Nat)
  /-- GOLDEN_WINDOW_END (R444). -/
  | goldenWindowEnd
  /-- BUDGET_RECOMPUTE (R465). -/
  | budgetRecompute (p : Nat)
  /-- AGENT_REPORT (R467). -/
  | agentReport (d : Nat) (pw : Nat)
  /-- BUDGET_MSG (R467). -/
  | budgetMsg (d : Nat)
  /-- BUDGET_STALE (R467). -/
  | budgetStale (d : Nat)
  /-- REPORT_MISS (R467). -/
  | reportMiss (d : Nat)
  /-- CLAMP_MSG (R482). -/
  | clampMsg (d : Nat)
  /-- AGENT_POWER_SAMPLE (R472). -/
  | agentPowerSample (d : Nat) (ests : List Nat) (room : Headroom)
  /-- CLOCK_CHANGE_DONE (R471). -/
  | clockChangeDone (c : Nat)
  /-- BUDGET_GRACE_EXPIRY (R473). -/
  | budgetGraceExpiry
  /-- DOZE_ENTRY (R474). -/
  | dozeEntry (c : Nat)
  /-- THERMAL_SAMPLE (R477). -/
  | thermalSample (d : Nat) (ts : List Int) (fl : List Nat)
  /-- THERMAL_EMERGENCY_END (R478). -/
  | thermalEmergencyEnd
  /-- DRAM_HOT_DERATE (R479). -/
  | dramHotDerate (d : Nat)
  /-- COOLANT_SAMPLE (R480). -/
  | coolantSample (rs : List Nat)
  /-- COOLANT_NO_FLOW (R482). -/
  | coolantNoFlow
  /-- COOLANT_EMERGENCY_END (R483). -/
  | coolantEmergencyEnd
  /-- PMBUS_TELEMETRY (R475). -/
  | pmbusTelemetry (x : Nat) (ok : Bool) (iout : Nat) (con : Nat) (dw : Nat)
  /-- POR (R489). -/
  | por (fails : List Nat) (late : List Nat) (gold : List Nat)
  /-- PACKAGE_WARM_RESET (R511). -/
  | packageWarmReset (ini : Nat) (v : Word) (late : List Nat) (gold : List Nat)
  /-- DIE_RESET (R499). -/
  | dieReset (ini : Nat) (v : Word)
  /-- CLUSTER_RESET (R489). -/
  | clusterReset (ini : Nat) (c : Nat)
  /-- CORE_RESET (R489). -/
  | coreReset (ini : Nat) (k : Nat)
  /-- ACINA_RESET (R416). -/
  | acinaReset (isl : Nat)
  /-- TEARDOWN_COMPLETE (R501). -/
  | teardownComplete
  /-- TEARDOWN_ESCALATE (R502). -/
  | teardownEscalate
  /-- REQUEST_TIMEOUT (R493). -/
  | requestTimeout (ini : Nat) (txid : Nat)
  /-- DC_LOST (R494). -/
  | dcLost (d : Nat)
  /-- PORCH_LOST (R494). -/
  | porchLost
  /-- MP_WATCHDOG_KICK (R495). -/
  | mpWatchdogKick (ini : Nat) (v : Word)
  /-- MP_WATCHDOG_EXPIRY (R495). -/
  | mpWatchdogExpiry
  /-- FAULT_CLEAR (R496). -/
  | faultClear (d : Nat)
  /-- PEER_NOTICE (R498). -/
  | peerNotice (cls : Nat) (w : Nat)
  /-- DUMP_GO (R505). -/
  | dumpGo (ini : Nat) (v : Word)
  /-- DUMP_UNIT_TIMEOUT (R505). -/
  | dumpUnitTimeout (n : Nat)
  /-- DUMP_COMPLETE (R505). -/
  | dumpComplete (late : List Nat) (gold : List Nat)
  /-- FLASH_ERASE (R526). -/
  | flashErase (ini : Nat)
  /-- FLASH_PROGRAM (R526). -/
  | flashProgram (ini : Nat)
  /-- FLASH_READ_STATUS (R526). -/
  | flashReadStatus (ini : Nat)
  /-- FLASH_OP_DONE (R526). -/
  | flashOpDone (fail : Bool)
  /-- OTP_LOCK (R517). -/
  | otpLock (ini : Nat)
  /-- TAP_IDCODE (R553). -/
  | tapIdcode
  /-- TAP_SAMPLE_PRELOAD (R553). -/
  | tapSamplePreload (v : Nat)
  /-- TAP_EXTEST (R554). -/
  | tapExtest
  /-- TAP_CLAMP (R554). -/
  | tapClamp
  /-- TAP_HIGHZ (R554). -/
  | tapHighz
  /-- TAP_LC_TOKEN (R544). -/
  | tapLcToken (bs : List Byte)
  /-- TAP_IJTAG (R555). -/
  | tapIjtag (write : Bool) (addr : Nat) (v : Word)
  /-- TAP_BYPASS (R553). -/
  | tapBypass
  /-- TST_LOCK_CLEAR (R547). -/
  | tstLockClear
  /-- TST_PERT_WRITE (R549). -/
  | tstPertWrite (ini : Nat) (d : Nat) (x : Nat) (w : Nat) (v : Word)
  /-- TST_INJ_WRITE (R551). -/
  | tstInjWrite (ini : Nat) (d : Nat) (x : Nat) (w : Nat) (v : Word)
  /-- POWER_UP (R566). -/
  | powerUp (fails : List Nat) (late : List Nat) (gold : List Nat)
  /-- POWER_DOWN (R567). -/
  | powerDown
  /-- SUPPLY_LOSS (R567). -/
  | supplyLoss
  /-- RAIL_OUT_OF_RANGE (R422). -/
  | railOutOfRange (rail : Nat)
  /-- CLOCK_FAULT_CLEARED (R24). -/
  | clockFaultCleared (which : Nat)
  /-- HEARTBEAT_TOGGLE (R421). -/
  | heartbeatToggle (src : Nat)
  /-- RAIL_BACK_IN_RANGE (R424). -/
  | railBackInRange (rail : Nat)
  /-- FLOW_PULSE (R480). -/
  | flowPulse (x : Nat)
  /-- DRAM_HOT_CAP_RAISE (R479). -/
  | dramHotCapRaise (d : Nat)
  /-- CAMERA_LINK_DOWN (R574). -/
  | cameraLinkDown (n : Nat)
  /-- ETH_LINK_CHANGE (R386). -/
  | ethLinkChange (m : Nat) (up : Bool) (inv : Bool)
  /-- ACINA_SUPPLY_LOSS (R569). -/
  | acinaSupplyLoss (isl : Nat) (up : Bool)
  /-- TAP_RESET (R554). -/
  | tapReset (asserted : Bool)
  deriving DecidableEq, Repr

end Sys2Proof
end

