-- ==== Sys2Proof/Decode.lean ====
section
/-!
DEFINITION. Decode.lean: the command that a word of the command table spells. The table gives no row any bits: its rows
are register accesses, link and host messages, command records and events, each with operands of its own. So no word
spells a command.
-/
namespace Sys2Proof

/-- The command that the word `w` of `nbits` bits spells by the bits of the command table: none, since the table gives
its rows no bits. -/
def decodeTableWord (_nbits _w : Nat) : Option Instr := none

/-- No word spells a command. -/
theorem decodeTableWord_eq_none (nbits w : Nat) : decodeTableWord nbits w = none := rfl

end Sys2Proof
end

