-- ==== Sys2Proof/Config.lean ====
section
/-!
DEFINITION. Config.lean: the free values, constants with no body. The spec gives no number for them, so nothing in
Lean can evaluate them and every statement holds for every value of them. Each is named in the assumption log.
-/
namespace Sys2Proof

/-- FREE VALUE (assumption 4): the word number `n` of a stream of words the spec leaves undefined (a poisoned beat, a
bank after poison or ABORT, core memory above CM_USE at a load, ...). The step reads the counter `State.fresh`. -/
opaque Config.freeWord : Nat → Word

/-- FREE VALUE (assumption 4): a byte of memory the spec leaves undefined, by the number of the event that left it so
and the byte's address. -/
opaque Config.freeByte : Nat → Nat → Byte

/-- FREE VALUE (assumption 5): which of the binary32 values that lie within a vector function's stated error bound the
function gives, by operation code and operand pattern. -/
opaque Config.pick : Nat → Nat → Nat

/-- FREE VALUE (assumption 8): the sign of max or min of two zeros of unlike sign, by operation and operand patterns. -/
opaque Config.zeroSign : Nat → Nat → Nat → Bool

/-- FREE VALUE (assumption 9): does the pairwise tree of RSUM pair neighbouring lanes, or lanes half the width apart? -/
opaque Config.treeNeighbours : Bool

/-- FREE VALUE (assumption 6): the checker tolerance where R436's formula has no value (n_t at or above 2^24). -/
opaque Config.tolBeyond : Nat → Nat

/-- FREE VALUE (assumption 7): is a signature, a tag or a digest the stated cryptographic one? The argument is the
checked bytes with their number of purpose; the spec names the algorithm and no result. -/
opaque Config.authentic : Nat → List Nat → Bool

/-- FREE VALUE (assumption 7): a cryptographic result as bytes (SHAKE256, decryption, signing), by purpose. -/
opaque Config.crypt : Nat → List Nat → Nat → List Nat

/-- FREE VALUE (assumption 26): which way an allocation of the system cache takes and which line it evicts: the spec
gives neither the set index nor the pseudo-LRU tree. The argument numbers the choice. -/
opaque Config.scVictim : Nat → Nat

/-- FREE VALUE (assumption 78): which of several column commands that the scheduler of a memory channel may issue it
issues: the spec gives them one rank. The argument numbers the choice. -/
opaque Config.schedPick : Nat → Nat

/-- FREE VALUE (assumption 27): the temperature in 0.1 °C that Hearth reads from a coolant thermistor of a resistance,
under RNOM and BETA: the spec gives the constants of the curve and no rounding. -/
opaque Config.ntcTemp : Nat → Nat → Nat → Int

/-- FREE VALUE (assumption 27): the governing flow in 0.01 L/min while both flow inputs are disabled. -/
opaque Config.noFlow : Nat

/-- FREE VALUE (assumption 28): the refresh rate, in multiples of the base rate, that an MR4 field calls for. -/
opaque Config.mr4Rate : Nat → Nat

/-- FREE VALUE (assumption 29): the bytes of the boot ROM, which the spec does not give. -/
opaque Config.romByte : Nat → Byte

/-- FREE VALUE (assumption 29): what the flash window reads beyond the end of the flash fitted. -/
opaque Config.noFlash : Nat → Byte

end Sys2Proof
end

