-- ==== Sys2Proof/Machine/Bits.lean ====
section
/-!
DEFINITION. Machine/Bits.lean: bit fields of numbers, little-endian byte order (R10), and the canonical sparse maps
that hold registers, memory and per-unit records.
-/
namespace Sys2Proof.Machine

/-- Bits [hi:lo] of a number. -/
def bits (w hi lo : Nat) : Nat := w / 2 ^ lo % 2 ^ (hi + 1 - lo)

/-- Bit `i` of a number. -/
def bit (w i : Nat) : Bool := w / 2 ^ i % 2 == 1

/-- `w` with bits [hi:lo] replaced by `v` (cut to the field's width). -/
def setBits (w hi lo v : Nat) : Nat :=
  w - bits w hi lo * 2 ^ lo + (v % 2 ^ (hi + 1 - lo)) * 2 ^ lo

/-- A Bool as a bit. -/
def b2n (b : Bool) : Nat := if b then 1 else 0

/-- The `n` low bits of `v` read as a two's complement number. -/
def toSigned (n v : Nat) : Int :=
  if v % 2 ^ n < 2 ^ (n - 1) then (v % 2 ^ n : Nat) else ((v % 2 ^ n : Nat) : Int) - (2 ^ n : Nat)

/-- A number modulo `2^n`, as the two's complement pattern of `n` bits. -/
def ofSigned (n : Nat) (v : Int) : Nat := (v % ((2 ^ n : Nat) : Int)).toNat

/-- The number that bytes give, byte 0 lowest (R10). -/
def leNat : List Byte → Nat
  | [] => 0
  | b :: bs => b.toNat + 256 * leNat bs

/-- `len` bytes of a number, byte 0 lowest (R10). -/
def leBytes : (len : Nat) → Nat → List Byte
  | 0, _ => []
  | n + 1, v => BitVec.ofNat 8 v :: leBytes n (v / 256)

/-- `len` bytes of `bs` from `off`, as a little-endian number; bytes beyond the end count as zero. -/
def leAt (bs : List Byte) (off len : Nat) : Nat := leNat ((bs.drop off).take len)

/-- Byte `off` of `bs` as a number; zero beyond the end. -/
def byteAt (bs : List Byte) (off : Nat) : Nat := ((bs.drop off).headD 0).toNat

/-- A sparse map in canonical form: keys strictly rising, no entry equal to what an unlisted key reads as. -/
def kget {V : Type} (d : Nat → V) : List (Nat × V) → Nat → V
  | [], k => d k
  | (k', v) :: m, k => if k = k' then v else if k < k' then d k else kget d m k

/-- Writing a sparse map; writing what an unlisted key reads as removes the entry. -/
def kset {V : Type} [DecidableEq V] (d : Nat → V) : List (Nat × V) → Nat → V → List (Nat × V)
  | [], k, v => if v = d k then [] else [(k, v)]
  | (k', v') :: m, k, v =>
    if k < k' then (if v = d k then (k', v') :: m else (k, v) :: (k', v') :: m)
    else if k = k' then (if v = d k then m else (k, v) :: m)
    else (k', v') :: kset d m k v

/-- The canonical form: keys rise strictly from above `lo`. -/
def ksorted {V : Type} : (lo : Option Nat) → List (Nat × V) → Bool
  | _, [] => true
  | lo, (k, _) :: m => (match lo with | none => true | some l => decide (l < k)) && ksorted (some k) m

/-- The canonical form of a sparse map. -/
def kwf {V : Type} [DecidableEq V] (d : Nat → V) (m : List (Nat × V)) : Bool :=
  ksorted none m && m.all fun e => !decide (e.2 = d e.1)

/-- Forget every key that `p` picks: those keys read as unlisted again. -/
def kdrop {V : Type} (p : Nat → Bool) (m : List (Nat × V)) : List (Nat × V) :=
  m.filter fun e => !p e.1

/-- The entry at a key, or `d`. Maps whose default is one value for every key use this form. -/
abbrev getD {V : Type} (d : V) (m : List (Nat × V)) (k : Nat) : V := kget (fun _ => d) m k

/-- Set the entry at a key of a map whose default is `d`. -/
abbrev setD {V : Type} [DecidableEq V] (d : V) (m : List (Nat × V)) (k : Nat) (v : V) : List (Nat × V) :=
  kset (fun _ => d) m k v

/-- Look up a record by key in a list sorted by key. -/
def aget {V : Type} : List (Nat × V) → Nat → Option V
  | [], _ => none
  | (k', v) :: m, k => if k = k' then some v else aget m k

/-- Set a record by key, keeping the list sorted. -/
def aput {V : Type} : List (Nat × V) → Nat → V → List (Nat × V)
  | [], k, v => [(k, v)]
  | (k', v') :: m, k, v =>
    if k < k' then (k, v) :: (k', v') :: m
    else if k = k' then (k, v) :: m
    else (k', v') :: aput m k v

/-- Remove a record by key. -/
def adel {V : Type} (m : List (Nat × V)) (k : Nat) : List (Nat × V) := m.filter fun e => !(e.1 == k)

/-- Replace element `i` of a list (no change beyond its end). -/
def setNth {V : Type} : List V → Nat → V → List V
  | [], _, _ => []
  | _ :: xs, 0, v => v :: xs
  | x :: xs, n + 1, v => x :: setNth xs n v

/-- Sum of a list of numbers. -/
def sumN (xs : List Nat) : Nat := xs.foldl (· + ·) 0

/-- The numbers from `lo` to `lo + n - 1`. -/
def rangeFrom (lo n : Nat) : List Nat := (List.range n).map (lo + ·)

/-- `a` rounded up to a multiple of `m`. -/
def roundUp (a m : Nat) : Nat := if m = 0 then a else (a + m - 1) / m * m

/-- Ceiling division; division by zero gives zero. -/
def cdiv (a b : Nat) : Nat := if b = 0 then 0 else (a + b - 1) / b

/-- Counters that stick at their largest value. -/
def satAdd (max a n : Nat) : Nat := if a + n ≤ max then a + n else max

end Sys2Proof.Machine
end

