-- ==== Sys2Proof/Machine/RegNames.lean ====
section
/-!
DEFINITION. Machine/RegNames.lean: the register offsets and register fields of the spec's register tables, by the
spec's own names (chapters 02 to 20). `Reg.X` is the offset of register `X` in its block; `Fld.X_F` is field `F`
of it. Where the spec repeats a register at a stride, the offset is that of number 0.
-/
namespace Sys2Proof.Machine

/-- A register field: the register's offset in its block and the field's bits [hi:lo]. -/
structure Fld where
  off : Nat
  hi : Nat
  lo : Nat
  deriving DecidableEq, Repr



abbrev Reg.ENG_ID : Nat := 0
abbrev Fld.ENG_ID_ENGINE : Fld := ⟨0, 1, 0⟩
abbrev Fld.ENG_ID_CORE : Fld := ⟨0, 4, 2⟩
abbrev Fld.ENG_ID_CLUSTER : Fld := ⟨0, 7, 5⟩
abbrev Fld.ENG_ID_DIE : Fld := ⟨0, 9, 8⟩
abbrev Fld.ENG_ID_STEPPING : Fld := ⟨0, 23, 16⟩
abbrev Reg.ENG_CTL : Nat := 4
abbrev Fld.ENG_CTL_EN : Fld := ⟨4, 0, 0⟩
abbrev Fld.ENG_CTL_CLKGATE_AUTO : Fld := ⟨4, 1, 1⟩
abbrev Reg.ENG_STS : Nat := 8
abbrev Fld.ENG_STS_MMA_BUSY : Fld := ⟨8, 0, 0⟩
abbrev Fld.ENG_STS_WB_BUSY : Fld := ⟨8, 1, 1⟩
abbrev Fld.ENG_STS_QDEPTH : Fld := ⟨8, 4, 2⟩
abbrev Fld.ENG_STS_HALT : Fld := ⟨8, 5, 5⟩
abbrev Fld.ENG_STS_BANK_INT : Fld := ⟨8, 15, 8⟩
abbrev Reg.ENG_ERR : Nat := 0xc
abbrev Fld.ENG_ERR_FMT : Fld := ⟨0xc, 0, 0⟩
abbrev Fld.ENG_ERR_ADDR : Fld := ⟨0xc, 1, 1⟩
abbrev Fld.ENG_ERR_SPMETA : Fld := ⟨0xc, 2, 2⟩
abbrev Fld.ENG_ERR_DIS : Fld := ⟨0xc, 3, 3⟩
abbrev Fld.ENG_ERR_NAN : Fld := ⟨0xc, 4, 4⟩
abbrev Fld.ENG_ERR_FOVF : Fld := ⟨0xc, 5, 5⟩
abbrev Fld.ENG_ERR_ISAT : Fld := ⟨0xc, 6, 6⟩
abbrev Fld.ENG_ERR_OSAT : Fld := ⟨0xc, 7, 7⟩
abbrev Reg.ENG_ERR_MASK : Nat := 0x10
abbrev Fld.ENG_ERR_MASK_NAN_F : Fld := ⟨0x10, 4, 4⟩
abbrev Fld.ENG_ERR_MASK_FOVF_F : Fld := ⟨0x10, 5, 5⟩
abbrev Fld.ENG_ERR_MASK_ISAT_F : Fld := ⟨0x10, 6, 6⟩
abbrev Fld.ENG_ERR_MASK_OSAT_F : Fld := ⟨0x10, 7, 7⟩
abbrev Reg.ENG_MODE : Nat := 0x14
abbrev Fld.ENG_MODE_AFMT : Fld := ⟨0x14, 3, 0⟩
abbrev Fld.ENG_MODE_WFMT : Fld := ⟨0x14, 7, 4⟩
abbrev Fld.ENG_MODE_SPARSE : Fld := ⟨0x14, 8, 8⟩
abbrev Fld.ENG_MODE_BANK : Fld := ⟨0x14, 11, 9⟩
abbrev Fld.ENG_MODE_ACCUM : Fld := ⟨0x14, 12, 12⟩
abbrev Reg.ENG_K : Nat := 0x18
abbrev Fld.ENG_K_K : Fld := ⟨0x18, 15, 0⟩
abbrev Reg.ENG_A_ADDR : Nat := 0x1c
abbrev Fld.ENG_A_ADDR_ADDR : Fld := ⟨0x1c, 16, 0⟩
abbrev Reg.ENG_W_ADDR : Nat := 0x20
abbrev Fld.ENG_W_ADDR_ADDR : Fld := ⟨0x20, 16, 0⟩
abbrev Reg.ENG_META_ADDR : Nat := 0x24
abbrev Fld.ENG_META_ADDR_ADDR : Fld := ⟨0x24, 16, 0⟩
abbrev Reg.ENG_AS_ADDR : Nat := 0x28
abbrev Fld.ENG_AS_ADDR_ADDR : Fld := ⟨0x28, 16, 0⟩
abbrev Reg.ENG_WS_ADDR : Nat := 0x2c
abbrev Fld.ENG_WS_ADDR_ADDR : Fld := ⟨0x2c, 16, 0⟩
abbrev Reg.ENG_WB_SB_ADDR : Nat := 0x3c
abbrev Fld.ENG_WB_SB_ADDR_ADDR : Fld := ⟨0x3c, 16, 0⟩
abbrev Reg.ENG_WB_CTL : Nat := 0x30
abbrev Fld.ENG_WB_CTL_OFMT : Fld := ⟨0x30, 3, 0⟩
abbrev Fld.ENG_WB_CTL_RND : Fld := ⟨0x30, 5, 4⟩
abbrev Fld.ENG_WB_CTL_SAT : Fld := ⟨0x30, 6, 6⟩
abbrev Fld.ENG_WB_CTL_FTZ : Fld := ⟨0x30, 7, 7⟩
abbrev Fld.ENG_WB_CTL_SCALE_EN : Fld := ⟨0x30, 8, 8⟩
abbrev Fld.ENG_WB_CTL_BIAS_EN : Fld := ⟨0x30, 9, 9⟩
abbrev Fld.ENG_WB_CTL_BANK : Fld := ⟨0x30, 12, 10⟩
abbrev Fld.ENG_WB_CTL_DEST : Fld := ⟨0x30, 13, 13⟩
abbrev Reg.ENG_WB_ADDR : Nat := 0x34
abbrev Fld.ENG_WB_ADDR_ADDR : Fld := ⟨0x34, 19, 0⟩
abbrev Reg.ENG_WB_STRIDE : Nat := 0x38
abbrev Fld.ENG_WB_STRIDE_STRIDE : Fld := ⟨0x38, 19, 0⟩
abbrev Reg.ENG_WB_XS_ADDR : Nat := 0x40
abbrev Fld.ENG_WB_XS_ADDR_ADDR : Fld := ⟨0x40, 19, 0⟩
abbrev Reg.ENG_SR_SEED : Nat := 0x44
abbrev Fld.ENG_SR_SEED_SEED : Fld := ⟨0x44, 31, 0⟩
abbrev Reg.ENG_GO : Nat := 0x48
abbrev Fld.ENG_GO_MMA : Fld := ⟨0x48, 0, 0⟩
abbrev Fld.ENG_GO_WB : Fld := ⟨0x48, 1, 1⟩
abbrev Fld.ENG_GO_LOAD : Fld := ⟨0x48, 2, 2⟩
abbrev Reg.ENG_MMA_CNT : Nat := 0x4c
abbrev Fld.ENG_MMA_CNT_COUNT : Fld := ⟨0x4c, 31, 0⟩


abbrev Reg.CORE_ID : Nat := 0
abbrev Fld.CORE_ID_CORE : Fld := ⟨0, 2, 0⟩
abbrev Fld.CORE_ID_CLUSTER : Fld := ⟨0, 5, 3⟩
abbrev Fld.CORE_ID_DIE : Fld := ⟨0, 7, 6⟩
abbrev Fld.CORE_ID_STEPPING : Fld := ⟨0, 23, 16⟩
abbrev Reg.CORE_CTL : Nat := 4
abbrev Fld.CORE_CTL_FENCE : Fld := ⟨4, 0, 0⟩
abbrev Reg.CORE_STS : Nat := 8
abbrev Fld.CORE_STS_SEQ_RUN : Fld := ⟨8, 0, 0⟩
abbrev Fld.CORE_STS_VEC_BUSY : Fld := ⟨8, 1, 1⟩
abbrev Fld.CORE_STS_PREEMPT_PEND : Fld := ⟨8, 2, 2⟩
abbrev Fld.CORE_STS_FAULT : Fld := ⟨8, 3, 3⟩
abbrev Reg.CORE_STEP : Nat := 0xc
abbrev Fld.CORE_STEP_TAG : Fld := ⟨0xc, 14, 0⟩
abbrev Fld.CORE_STEP_GEN : Fld := ⟨0xc, 22, 15⟩
abbrev Fld.CORE_STEP_CLASS : Fld := ⟨0xc, 25, 23⟩
abbrev Reg.CORE_CTXT : Nat := 0x10
abbrev Fld.CORE_CTXT_CTX : Fld := ⟨0x10, 15, 0⟩
abbrev Fld.CORE_CTXT_CTX_GEN : Fld := ⟨0x10, 23, 16⟩
abbrev Reg.CORE_SEQ_PC : Nat := 0x14
abbrev Fld.CORE_SEQ_PC_PC : Fld := ⟨0x14, 19, 0⟩
abbrev Reg.CORE_SEQ_ENTRY : Nat := 0x18
abbrev Fld.CORE_SEQ_ENTRY_ENTRY : Fld := ⟨0x18, 19, 0⟩
abbrev Reg.CORE_FAULT : Nat := 0x1c
abbrev Fld.CORE_FAULT_ILLOP : Fld := ⟨0x1c, 0, 0⟩
abbrev Fld.CORE_FAULT_SEQ_ADDR : Fld := ⟨0x1c, 1, 1⟩
abbrev Fld.CORE_FAULT_ENG : Fld := ⟨0x1c, 2, 2⟩
abbrev Fld.CORE_FAULT_VEC_FMT : Fld := ⟨0x1c, 3, 3⟩
abbrev Fld.CORE_FAULT_VEC_ADDR : Fld := ⟨0x1c, 4, 4⟩
abbrev Fld.CORE_FAULT_SM_ACCESS : Fld := ⟨0x1c, 5, 5⟩
abbrev Fld.CORE_FAULT_SM_POISON : Fld := ⟨0x1c, 6, 6⟩
abbrev Fld.CORE_FAULT_SM_DESC : Fld := ⟨0x1c, 7, 7⟩
abbrev Fld.CORE_FAULT_STREAM : Fld := ⟨0x1c, 8, 8⟩
abbrev Fld.CORE_FAULT_WDOG : Fld := ⟨0x1c, 9, 9⟩
abbrev Reg.CORE_FAULT_INFO : Nat := 0x20
abbrev Fld.CORE_FAULT_INFO_PC : Fld := ⟨0x20, 19, 0⟩
abbrev Fld.CORE_FAULT_INFO_ENGINE : Fld := ⟨0x20, 21, 20⟩
abbrev Reg.CORE_WDOG : Nat := 0x24
abbrev Fld.CORE_WDOG_LIMIT : Fld := ⟨0x24, 23, 0⟩
abbrev Reg.CORE_CMD : Nat := 0x28
abbrev Fld.CORE_CMD_START : Fld := ⟨0x28, 0, 0⟩
abbrev Fld.CORE_CMD_PREEMPT : Fld := ⟨0x28, 1, 1⟩
abbrev Fld.CORE_CMD_RESUME : Fld := ⟨0x28, 2, 2⟩
abbrev Fld.CORE_CMD_ABORT : Fld := ⟨0x28, 3, 3⟩
abbrev Reg.CORE_SM_STS : Nat := 0x30
abbrev Fld.CORE_SM_STS_QDEPTH : Fld := ⟨0x30, 4, 0⟩
abbrev Fld.CORE_SM_STS_HALT : Fld := ⟨0x30, 5, 5⟩
abbrev Fld.CORE_SM_STS_STREAMS : Fld := ⟨0x30, 10, 8⟩
abbrev Fld.CORE_SM_STS_DONE : Fld := ⟨0x30, 31, 16⟩
abbrev Reg.CORE_CYC_LO : Nat := 0x40
abbrev Fld.CORE_CYC_LO_COUNT : Fld := ⟨0x40, 31, 0⟩
abbrev Reg.CORE_CYC_HI : Nat := 0x44
abbrev Fld.CORE_CYC_HI_COUNT : Fld := ⟨0x44, 31, 0⟩
abbrev Reg.CORE_SEQ_S : Nat := 0x100
abbrev Fld.CORE_SEQ_S_VALUE : Fld := ⟨0x100, 31, 0⟩


abbrev Reg.CLU_ID : Nat := 0
abbrev Fld.CLU_ID_CLUSTER : Fld := ⟨0, 2, 0⟩
abbrev Fld.CLU_ID_DIE : Fld := ⟨0, 4, 3⟩
abbrev Fld.CLU_ID_STEPPING : Fld := ⟨0, 23, 16⟩
abbrev Reg.CLU_CTL : Nat := 4
abbrev Fld.CLU_CTL_CORE_EN : Fld := ⟨4, 7, 0⟩
abbrev Fld.CLU_CTL_ATTN_EN : Fld := ⟨4, 8, 8⟩
abbrev Reg.CLU_STS : Nat := 8
abbrev Fld.CLU_STS_CORE_BUSY : Fld := ⟨8, 7, 0⟩
abbrev Fld.CLU_STS_ATTN_BUSY : Fld := ⟨8, 8, 8⟩
abbrev Fld.CLU_STS_PWR : Fld := ⟨8, 10, 9⟩
abbrev Fld.CLU_STS_LND_INIT_BUSY : Fld := ⟨8, 11, 11⟩
abbrev Reg.CLU_CLK : Nat := 0xc
abbrev Fld.CLU_CLK_CUR_MHZ : Fld := ⟨0xc, 11, 0⟩
abbrev Fld.CLU_CLK_TGT_MHZ : Fld := ⟨0xc, 27, 16⟩
abbrev Reg.CLU_LND : Nat := 0x10
abbrev Fld.CLU_LND_INIT : Fld := ⟨0x10, 0, 0⟩
abbrev Reg.CLU_ERR : Nat := 0x14
abbrev Fld.CLU_ERR_LND_ADDR : Fld := ⟨0x14, 0, 0⟩
abbrev Fld.CLU_ERR_NET_STALL : Fld := ⟨0x14, 1, 1⟩


abbrev Reg.CLU_DIE_ID : Nat := 0
abbrev Fld.CLU_DIE_ID_DIE : Fld := ⟨0, 1, 0⟩
abbrev Fld.CLU_DIE_ID_STEPPING : Fld := ⟨0, 23, 16⟩
abbrev Reg.CLU_DIE_CTL : Nat := 4
abbrev Fld.CLU_DIE_CTL_CLUSTER_EN : Fld := ⟨4, 7, 0⟩
abbrev Reg.CLU_DC_STS : Nat := 8
abbrev Fld.CLU_DC_STS_DC_LOADED : Fld := ⟨8, 0, 0⟩
abbrev Fld.CLU_DC_STS_DC_RUN : Fld := ⟨8, 1, 1⟩
abbrev Fld.CLU_DC_STS_DC_FAULT : Fld := ⟨8, 2, 2⟩
abbrev Fld.CLU_DC_STS_BEAT : Fld := ⟨8, 31, 16⟩
abbrev Reg.CLU_DC_MBOX_IN : Nat := 0x10
abbrev Fld.CLU_DC_MBOX_IN_DATA : Fld := ⟨0x10, 31, 0⟩
abbrev Reg.CLU_DC_MBOX_OUT : Nat := 0x14
abbrev Fld.CLU_DC_MBOX_OUT_DATA : Fld := ⟨0x14, 31, 0⟩
abbrev Reg.CLU_NET_ERR : Nat := 0x18
abbrev Fld.CLU_NET_ERR_DECODE : Fld := ⟨0x18, 0, 0⟩
abbrev Fld.CLU_NET_ERR_ROUTE : Fld := ⟨0x18, 1, 1⟩
abbrev Reg.CLU_STRM_W0 : Nat := 0x8000
abbrev Fld.CLU_STRM_W0_VALID : Fld := ⟨0x8000, 0, 0⟩
abbrev Fld.CLU_STRM_W0_OPEN : Fld := ⟨0x8000, 1, 1⟩
abbrev Fld.CLU_STRM_W0_CKPT : Fld := ⟨0x8000, 2, 2⟩
abbrev Fld.CLU_STRM_W0_RING_CM : Fld := ⟨0x8000, 3, 3⟩
abbrev Fld.CLU_STRM_W0_ENG_MASK : Fld := ⟨0x8000, 7, 4⟩
abbrev Fld.CLU_STRM_W0_SLOTS : Fld := ⟨0x8000, 14, 8⟩
abbrev Fld.CLU_STRM_W0_SLOTSZ : Fld := ⟨0x8000, 22, 16⟩
abbrev Reg.CLU_STRM_W1 : Nat := 0x8004
abbrev Fld.CLU_STRM_W1_PROD : Fld := ⟨0x8004, 9, 0⟩
abbrev Fld.CLU_STRM_W1_CONS : Fld := ⟨0x8004, 25, 16⟩
abbrev Reg.CLU_STRM_W2 : Nat := 0x8008
abbrev Fld.CLU_STRM_W2_CTX : Fld := ⟨0x8008, 15, 0⟩
abbrev Fld.CLU_STRM_W2_CTX_GEN : Fld := ⟨0x8008, 23, 16⟩
abbrev Fld.CLU_STRM_W2_CLASS : Fld := ⟨0x8008, 26, 24⟩
abbrev Reg.CLU_STRM_W3 : Nat := 0x800c
abbrev Fld.CLU_STRM_W3_RING_BASE : Fld := ⟨0x800c, 19, 0⟩
abbrev Reg.CLU_STRM_W4 : Nat := 0x8010
abbrev Fld.CLU_STRM_W4_HEAD : Fld := ⟨0x8010, 5, 0⟩
abbrev Fld.CLU_STRM_W4_TAIL : Fld := ⟨0x8010, 13, 8⟩
abbrev Fld.CLU_STRM_W4_FILLED : Fld := ⟨0x8010, 22, 16⟩
abbrev Fld.CLU_STRM_W4_CKPT_CRED : Fld := ⟨0x8010, 30, 24⟩
abbrev Reg.CLU_STRM_W5 : Nat := 0x8014
abbrev Fld.CLU_STRM_W5_SENT : Fld := ⟨0x8014, 31, 0⟩
abbrev Reg.CLU_STRM_W6 : Nat := 0x8018
abbrev Fld.CLU_STRM_W6_RELEASED : Fld := ⟨0x8018, 31, 0⟩
abbrev Reg.CLU_STRM_W7 : Nat := 0x801c


abbrev Reg.PAN_ID : Nat := 0
abbrev Fld.PAN_ID_DIE : Fld := ⟨0, 1, 0⟩
abbrev Fld.PAN_ID_STEPPING : Fld := ⟨0, 23, 16⟩
abbrev Reg.PAN_CTL : Nat := 4
abbrev Fld.PAN_CTL_EN : Fld := ⟨4, 0, 0⟩
abbrev Reg.PAN_STS : Nat := 8
abbrev Fld.PAN_STS_READY : Fld := ⟨8, 0, 0⟩
abbrev Fld.PAN_STS_SCRUB_BUSY : Fld := ⟨8, 1, 1⟩
abbrev Fld.PAN_STS_TCMD_BUSY : Fld := ⟨8, 2, 2⟩
abbrev Fld.PAN_STS_LEASES : Fld := ⟨8, 11, 8⟩
abbrev Reg.PAN_ERR : Nat := 0xc
abbrev Fld.PAN_ERR_CFG : Fld := ⟨0xc, 0, 0⟩
abbrev Fld.PAN_ERR_LEDGER : Fld := ⟨0xc, 1, 1⟩
abbrev Fld.PAN_ERR_FW_REJECT : Fld := ⟨0xc, 2, 2⟩
abbrev Fld.PAN_ERR_POISON : Fld := ⟨0xc, 3, 3⟩
abbrev Reg.PAN_META_BASE : Nat := 0x10
abbrev Fld.PAN_META_BASE_BASE : Fld := ⟨0x10, 26, 0⟩
abbrev Reg.PAN_SCRUB : Nat := 0x14
abbrev Fld.PAN_SCRUB_RATE : Fld := ⟨0x14, 7, 0⟩
abbrev Reg.PAN_TRACKS : Nat := 0x18
abbrev Fld.PAN_TRACKS_OPEN : Fld := ⟨0x18, 16, 0⟩
abbrev Reg.PAN_POOL_BASE : Nat := 0x40
abbrev Fld.PAN_POOL_BASE_BASE : Fld := ⟨0x40, 26, 0⟩
abbrev Reg.PAN_POOL_CFG : Nat := 0x44
abbrev Fld.PAN_POOL_CFG_EN : Fld := ⟨0x44, 0, 0⟩
abbrev Fld.PAN_POOL_CFG_FMT : Fld := ⟨0x44, 2, 1⟩
abbrev Fld.PAN_POOL_CFG_DM1 : Fld := ⟨0x44, 7, 4⟩
abbrev Fld.PAN_POOL_CFG_PAGES : Fld := ⟨0x44, 31, 8⟩
abbrev Reg.PAN_POOL_FREE : Nat := 0x48
abbrev Fld.PAN_POOL_FREE_COUNT : Fld := ⟨0x48, 23, 0⟩
abbrev Reg.PAN_POOL_SCRB : Nat := 0x4c
abbrev Fld.PAN_POOL_SCRB_COUNT : Fld := ⟨0x4c, 23, 0⟩
abbrev Reg.PAN_POOL_RSVD : Nat := 0x50
abbrev Fld.PAN_POOL_RSVD_COUNT : Fld := ⟨0x50, 23, 0⟩
abbrev Reg.PAN_POOL_USED : Nat := 0x54
abbrev Fld.PAN_POOL_USED_COUNT : Fld := ⟨0x54, 23, 0⟩
abbrev Reg.PAN_TCMD_ARG0 : Nat := 0x100
abbrev Fld.PAN_TCMD_ARG0_TRACK : Fld := ⟨0x100, 15, 0⟩
abbrev Fld.PAN_TCMD_ARG0_CTX : Fld := ⟨0x100, 31, 16⟩
abbrev Reg.PAN_TCMD_ARG1 : Nat := 0x104
abbrev Fld.PAN_TCMD_ARG1_POOL : Fld := ⟨0x104, 1, 0⟩
abbrev Fld.PAN_TCMD_ARG1_LAYERS_M1 : Fld := ⟨0x104, 7, 2⟩
abbrev Fld.PAN_TCMD_ARG1_RING_M1 : Fld := ⟨0x104, 15, 8⟩
abbrev Fld.PAN_TCMD_ARG1_WINDOW : Fld := ⟨0x104, 28, 16⟩
abbrev Reg.PAN_TCMD_ARG2 : Nat := 0x108
abbrev Fld.PAN_TCMD_ARG2_CTX_GEN : Fld := ⟨0x108, 7, 0⟩
abbrev Reg.PAN_TCMD_GO : Nat := 0x10c
abbrev Fld.PAN_TCMD_GO_OP : Fld := ⟨0x10c, 2, 0⟩
abbrev Reg.PAN_TCMD_STS : Nat := 0x110
abbrev Fld.PAN_TCMD_STS_BUSY : Fld := ⟨0x110, 0, 0⟩
abbrev Fld.PAN_TCMD_STS_RESULT : Fld := ⟨0x110, 7, 4⟩
abbrev Reg.PAN_TCMD_RES0 : Nat := 0x114
abbrev Fld.PAN_TCMD_RES0_VALUE : Fld := ⟨0x114, 31, 0⟩
abbrev Reg.PAN_TCMD_RES1 : Nat := 0x118
abbrev Fld.PAN_TCMD_RES1_VALUE : Fld := ⟨0x118, 31, 0⟩


abbrev Reg.PAN_ATT_CTL : Nat := 0
abbrev Fld.PAN_ATT_CTL_SEQ_RST : Fld := ⟨0, 0, 0⟩
abbrev Reg.PAN_ATT_STS : Nat := 4
abbrev Fld.PAN_ATT_STS_APP_BUSY : Fld := ⟨4, 0, 0⟩
abbrev Fld.PAN_ATT_STS_ATT_BUSY : Fld := ⟨4, 1, 1⟩
abbrev Fld.PAN_ATT_STS_POSTED : Fld := ⟨4, 15, 8⟩
abbrev Reg.PAN_ATT_ERR : Nat := 8
abbrev Fld.PAN_ATT_ERR_BAD_CMD : Fld := ⟨8, 0, 0⟩
abbrev Fld.PAN_ATT_ERR_ACCESS : Fld := ⟨8, 1, 1⟩
abbrev Fld.PAN_ATT_ERR_POISON : Fld := ⟨8, 2, 2⟩
abbrev Fld.PAN_ATT_ERR_CHECK : Fld := ⟨8, 3, 3⟩
abbrev Fld.PAN_ATT_ERR_SEQ_SKIP : Fld := ⟨8, 4, 4⟩
abbrev Fld.PAN_ATT_ERR_NOT_HELD : Fld := ⟨8, 5, 5⟩
abbrev Reg.PAN_ATT_SEQ0 : Nat := 0xc
abbrev Fld.PAN_ATT_SEQ0_EXPECT : Fld := ⟨0xc, 31, 0⟩
abbrev Reg.PAN_ATT_SEQ1 : Nat := 0x10
abbrev Fld.PAN_ATT_SEQ1_EXPECT : Fld := ⟨0x10, 31, 0⟩
abbrev Reg.PAN_ATT_CNT : Nat := 0x14
abbrev Fld.PAN_ATT_CNT_COUNT : Fld := ⟨0x14, 31, 0⟩
abbrev Reg.PAN_ATT_BLK : Nat := 0x18
abbrev Fld.PAN_ATT_BLK_COUNT : Fld := ⟨0x18, 31, 0⟩


abbrev Reg.MEM_ID : Nat := 0
abbrev Fld.MEM_ID_DIE : Fld := ⟨0, 1, 0⟩
abbrev Fld.MEM_ID_STEPPING : Fld := ⟨0, 23, 16⟩
abbrev Reg.MEM_DIE_CTL : Nat := 4
abbrev Fld.MEM_DIE_CTL_ECC_EN : Fld := ⟨4, 0, 0⟩
abbrev Fld.MEM_DIE_CTL_INIT : Fld := ⟨4, 1, 1⟩
abbrev Fld.MEM_DIE_CTL_LOG_CE : Fld := ⟨4, 2, 2⟩
abbrev Fld.MEM_DIE_CTL_PATROL_EN : Fld := ⟨4, 3, 3⟩
abbrev Reg.MEM_DIE_STS : Nat := 8
abbrev Fld.MEM_DIE_STS_TRAINED : Fld := ⟨8, 0, 0⟩
abbrev Fld.MEM_DIE_STS_INIT_DONE : Fld := ⟨8, 1, 1⟩
abbrev Fld.MEM_DIE_STS_SR_ALL : Fld := ⟨8, 2, 2⟩
abbrev Fld.MEM_DIE_STS_ECC_ACTIVE : Fld := ⟨8, 3, 3⟩
abbrev Fld.MEM_DIE_STS_CH_FAIL : Fld := ⟨8, 31, 16⟩
abbrev Reg.MEM_DIE_ERR : Nat := 0xc
abbrev Fld.MEM_DIE_ERR_CE : Fld := ⟨0xc, 0, 0⟩
abbrev Fld.MEM_DIE_ERR_UE_DATA : Fld := ⟨0xc, 1, 1⟩
abbrev Fld.MEM_DIE_ERR_UE_ADDR : Fld := ⟨0xc, 2, 2⟩
abbrev Fld.MEM_DIE_ERR_POISON_RD : Fld := ⟨0xc, 3, 3⟩
abbrev Fld.MEM_DIE_ERR_TRAIN_FAIL : Fld := ⟨0xc, 4, 4⟩
abbrev Fld.MEM_DIE_ERR_HOT4X : Fld := ⟨0xc, 5, 5⟩
abbrev Fld.MEM_DIE_ERR_LOG_OVF : Fld := ⟨0xc, 6, 6⟩
abbrev Fld.MEM_DIE_ERR_SRAM_CE : Fld := ⟨0xc, 7, 7⟩
abbrev Fld.MEM_DIE_ERR_SRAM_UE : Fld := ⟨0xc, 8, 8⟩
abbrev Reg.MEM_CE_THRESH : Nat := 0x10
abbrev Fld.MEM_CE_THRESH_VALUE : Fld := ⟨0x10, 31, 0⟩
abbrev Reg.MEM_CE_CNT : Nat := 0x14
abbrev Fld.MEM_CE_CNT_VALUE : Fld := ⟨0x14, 31, 0⟩
abbrev Reg.MEM_UE_CNT : Nat := 0x18
abbrev Fld.MEM_UE_CNT_VALUE : Fld := ⟨0x18, 31, 0⟩
abbrev Reg.MEM_PATROL : Nat := 0x1c
abbrev Fld.MEM_PATROL_INTERVAL : Fld := ⟨0x1c, 15, 0⟩
abbrev Reg.MEM_ELOG_STS : Nat := 0x20
abbrev Fld.MEM_ELOG_STS_COUNT : Fld := ⟨0x20, 4, 0⟩
abbrev Fld.MEM_ELOG_STS_OVF : Fld := ⟨0x20, 15, 8⟩
abbrev Reg.MEM_ELOG_CLR : Nat := 0x24
abbrev Fld.MEM_ELOG_CLR_CLR : Fld := ⟨0x24, 0, 0⟩
abbrev Reg.MEM_SRAM_ERR : Nat := 0x28
abbrev Fld.MEM_SRAM_ERR_CLUSTER : Fld := ⟨0x28, 2, 0⟩
abbrev Fld.MEM_SRAM_ERR_CORE : Fld := ⟨0x28, 5, 3⟩
abbrev Fld.MEM_SRAM_ERR_KIND : Fld := ⟨0x28, 7, 6⟩
abbrev Fld.MEM_SRAM_ERR_ENGINE : Fld := ⟨0x28, 9, 8⟩
abbrev Reg.MEM_ELOG_W0 : Nat := 0x100
abbrev Fld.MEM_ELOG_W0_TYPE : Fld := ⟨0x100, 3, 0⟩
abbrev Fld.MEM_ELOG_W0_CH : Fld := ⟨0x100, 7, 4⟩
abbrev Fld.MEM_ELOG_W0_BANK : Fld := ⟨0x100, 11, 8⟩
abbrev Fld.MEM_ELOG_W0_ROW : Fld := ⟨0x100, 27, 12⟩
abbrev Reg.MEM_ELOG_W1 : Nat := 0x104
abbrev Fld.MEM_ELOG_W1_COLUMN : Fld := ⟨0x104, 10, 0⟩
abbrev Fld.MEM_ELOG_W1_SYN : Fld := ⟨0x104, 31, 16⟩
abbrev Reg.MEM_ELOG_W2 : Nat := 0x108
abbrev Fld.MEM_ELOG_W2_INITIATOR : Fld := ⟨0x108, 11, 0⟩
abbrev Fld.MEM_ELOG_W2_NO_INIT : Fld := ⟨0x108, 12, 12⟩
abbrev Fld.MEM_ELOG_W2_CTX : Fld := ⟨0x108, 31, 16⟩
abbrev Reg.MEM_ELOG_W3 : Nat := 0x10c
abbrev Fld.MEM_ELOG_W3_SEQ : Fld := ⟨0x10c, 31, 0⟩
abbrev Reg.MEM_CH_CTL : Nat := 0x1000
abbrev Fld.MEM_CH_CTL_IDLE_CLOSE : Fld := ⟨0x1000, 5, 0⟩
abbrev Fld.MEM_CH_CTL_REF_FORCE2X : Fld := ⟨0x1000, 6, 6⟩
abbrev Reg.MEM_CH_STS : Nat := 0x1004
abbrev Fld.MEM_CH_STS_TRAINED : Fld := ⟨0x1004, 0, 0⟩
abbrev Fld.MEM_CH_STS_FAIL : Fld := ⟨0x1004, 1, 1⟩
abbrev Fld.MEM_CH_STS_SR : Fld := ⟨0x1004, 2, 2⟩
abbrev Fld.MEM_CH_STS_REF2X : Fld := ⟨0x1004, 3, 3⟩
abbrev Fld.MEM_CH_STS_REF4X : Fld := ⟨0x1004, 4, 4⟩
abbrev Fld.MEM_CH_STS_STAGED : Fld := ⟨0x1004, 14, 8⟩
abbrev Fld.MEM_CH_STS_MR4_RATE : Fld := ⟨0x1004, 18, 16⟩
abbrev Reg.MEM_CH_TRN : Nat := 0x1010
abbrev Fld.MEM_CH_TRN_RD_EYE : Fld := ⟨0x1010, 7, 0⟩
abbrev Fld.MEM_CH_TRN_WR_EYE : Fld := ⟨0x1010, 15, 8⟩
abbrev Fld.MEM_CH_TRN_RD_VREF : Fld := ⟨0x1010, 23, 16⟩
abbrev Fld.MEM_CH_TRN_WR_VREF : Fld := ⟨0x1010, 31, 24⟩
abbrev Reg.MEM_CH_RDCNT : Nat := 0x1020
abbrev Fld.MEM_CH_RDCNT_COUNT : Fld := ⟨0x1020, 31, 0⟩
abbrev Reg.MEM_CH_WRCNT : Nat := 0x1024
abbrev Fld.MEM_CH_WRCNT_COUNT : Fld := ⟨0x1024, 31, 0⟩
abbrev Reg.MEM_CH_REFCNT : Nat := 0x1028
abbrev Fld.MEM_CH_REFCNT_COUNT : Fld := ⟨0x1028, 31, 0⟩


abbrev Reg.MEM_IL_CTL : Nat := 0
abbrev Fld.MEM_IL_CTL_EN : Fld := ⟨0, 0, 0⟩
abbrev Fld.MEM_IL_CTL_S_GIB : Fld := ⟨0, 6, 1⟩
abbrev Fld.MEM_IL_CTL_B_GIB : Fld := ⟨0, 12, 8⟩
abbrev Reg.MEM_IL_STS : Nat := 4
abbrev Fld.MEM_IL_STS_SYNC : Fld := ⟨4, 0, 0⟩
abbrev Fld.MEM_IL_STS_CFG_ERR : Fld := ⟨4, 1, 1⟩
abbrev Reg.MEM_SC_CTL : Nat := 0x10
abbrev Fld.MEM_SC_CTL_EN : Fld := ⟨0x10, 0, 0⟩
abbrev Fld.MEM_SC_CTL_INV : Fld := ⟨0x10, 1, 1⟩
abbrev Fld.MEM_SC_CTL_INV_BUSY : Fld := ⟨0x10, 2, 2⟩
abbrev Reg.MEM_SC_WAYS01 : Nat := 0x14
abbrev Fld.MEM_SC_WAYS01_MASK_LO : Fld := ⟨0x14, 15, 0⟩
abbrev Fld.MEM_SC_WAYS01_MASK_HI : Fld := ⟨0x14, 31, 16⟩
abbrev Reg.MEM_SC_WAYS23 : Nat := 0x18
abbrev Fld.MEM_SC_WAYS23_MASK_LO : Fld := ⟨0x18, 15, 0⟩
abbrev Fld.MEM_SC_WAYS23_MASK_HI : Fld := ⟨0x18, 31, 16⟩
abbrev Reg.MEM_SC_ERR : Nat := 0x1c
abbrev Fld.MEM_SC_ERR_CE : Fld := ⟨0x1c, 0, 0⟩
abbrev Fld.MEM_SC_ERR_UE : Fld := ⟨0x1c, 1, 1⟩
abbrev Reg.MEM_SC_HIT : Nat := 0x20
abbrev Fld.MEM_SC_HIT_COUNT : Fld := ⟨0x20, 31, 0⟩
abbrev Reg.MEM_SC_MISS : Nat := 0x24
abbrev Fld.MEM_SC_MISS_COUNT : Fld := ⟨0x24, 31, 0⟩


abbrev Reg.DDL_ROUTE : Nat := 0
abbrev Fld.DDL_ROUTE_MODE : Fld := ⟨0, 1, 0⟩
abbrev Fld.DDL_ROUTE_CHG_BUSY : Fld := ⟨0, 8, 8⟩
abbrev Fld.DDL_ROUTE_AVAIL1 : Fld := ⟨0, 9, 9⟩
abbrev Fld.DDL_ROUTE_AVAIL3 : Fld := ⟨0, 10, 10⟩


abbrev Reg.DDL_PORT_ID : Nat := 0x1000
abbrev Fld.DDL_PORT_ID_PEER : Fld := ⟨0x1000, 2, 0⟩
abbrev Fld.DDL_PORT_ID_MODULE : Fld := ⟨0x1000, 3, 3⟩
abbrev Fld.DDL_PORT_ID_STEPPING : Fld := ⟨0x1000, 23, 16⟩
abbrev Reg.DDL_CTL : Nat := 0x1004
abbrev Fld.DDL_CTL_EN : Fld := ⟨0x1004, 0, 0⟩
abbrev Fld.DDL_CTL_RETRAIN : Fld := ⟨0x1004, 1, 1⟩
abbrev Fld.DDL_CTL_HARD_THR : Fld := ⟨0x1004, 15, 8⟩
abbrev Fld.DDL_CTL_RETRY_LIM : Fld := ⟨0x1004, 23, 16⟩
abbrev Reg.DDL_STS : Nat := 0x1008
abbrev Fld.DDL_STS_STATE : Fld := ⟨0x1008, 1, 0⟩
abbrev Fld.DDL_STS_HALF_HI : Fld := ⟨0x1008, 2, 2⟩
abbrev Fld.DDL_STS_SPARES_RX : Fld := ⟨0x1008, 5, 3⟩
abbrev Fld.DDL_STS_SPARES_TX : Fld := ⟨0x1008, 8, 6⟩
abbrev Reg.DDL_ERR : Nat := 0x100c
abbrev Fld.DDL_ERR_CRC : Fld := ⟨0x100c, 0, 0⟩
abbrev Fld.DDL_ERR_REPLAY_TO : Fld := ⟨0x100c, 1, 1⟩
abbrev Fld.DDL_ERR_LANE_HARD : Fld := ⟨0x100c, 2, 2⟩
abbrev Fld.DDL_ERR_DOWN : Fld := ⟨0x100c, 3, 3⟩
abbrev Fld.DDL_ERR_PROTO : Fld := ⟨0x100c, 4, 4⟩
abbrev Fld.DDL_ERR_RETRAIN : Fld := ⟨0x100c, 5, 5⟩
abbrev Reg.DDL_REPAIR_RX : Nat := 0x1010
abbrev Fld.DDL_REPAIR_RX_LANE0 : Fld := ⟨0x1010, 6, 0⟩
abbrev Fld.DDL_REPAIR_RX_LANE1 : Fld := ⟨0x1010, 14, 8⟩
abbrev Fld.DDL_REPAIR_RX_LANE2 : Fld := ⟨0x1010, 22, 16⟩
abbrev Fld.DDL_REPAIR_RX_LANE3 : Fld := ⟨0x1010, 30, 24⟩
abbrev Fld.DDL_REPAIR_RX_USED0 : Fld := ⟨0x1010, 7, 7⟩
abbrev Fld.DDL_REPAIR_RX_USED1 : Fld := ⟨0x1010, 15, 15⟩
abbrev Fld.DDL_REPAIR_RX_USED2 : Fld := ⟨0x1010, 23, 23⟩
abbrev Fld.DDL_REPAIR_RX_USED3 : Fld := ⟨0x1010, 31, 31⟩
abbrev Reg.DDL_REPAIR_TX : Nat := 0x1014
abbrev Fld.DDL_REPAIR_TX_LANE0 : Fld := ⟨0x1014, 6, 0⟩
abbrev Fld.DDL_REPAIR_TX_LANE1 : Fld := ⟨0x1014, 14, 8⟩
abbrev Fld.DDL_REPAIR_TX_LANE2 : Fld := ⟨0x1014, 22, 16⟩
abbrev Fld.DDL_REPAIR_TX_LANE3 : Fld := ⟨0x1014, 30, 24⟩
abbrev Fld.DDL_REPAIR_TX_USED0 : Fld := ⟨0x1014, 7, 7⟩
abbrev Fld.DDL_REPAIR_TX_USED1 : Fld := ⟨0x1014, 15, 15⟩
abbrev Fld.DDL_REPAIR_TX_USED2 : Fld := ⟨0x1014, 23, 23⟩
abbrev Fld.DDL_REPAIR_TX_USED3 : Fld := ⟨0x1014, 31, 31⟩
abbrev Reg.DDL_LANE_FAIL : Nat := 0x1018
abbrev Fld.DDL_LANE_FAIL_FAIL : Fld := ⟨0x1018, 31, 0⟩
abbrev Reg.DDL_CRC_CNT : Nat := 0x1024
abbrev Fld.DDL_CRC_CNT_COUNT : Fld := ⟨0x1024, 31, 0⟩
abbrev Reg.DDL_RETRY_CNT : Nat := 0x1028
abbrev Fld.DDL_RETRY_CNT_COUNT : Fld := ⟨0x1028, 31, 0⟩
abbrev Reg.DDL_CRED_VC : Nat := 0x1030
abbrev Fld.DDL_CRED_VC_TX_CRED : Fld := ⟨0x1030, 10, 0⟩
abbrev Fld.DDL_CRED_VC_RX_USED : Fld := ⟨0x1030, 26, 16⟩


abbrev Reg.SPN_PKG_ID : Nat := 0
abbrev Fld.SPN_PKG_ID_ID : Fld := ⟨0, 11, 0⟩
abbrev Reg.SPN_LAT_BUDGET : Nat := 4
abbrev Fld.SPN_LAT_BUDGET_NS : Fld := ⟨4, 19, 0⟩
abbrev Reg.SPN_CTL : Nat := 8
abbrev Fld.SPN_CTL_EN : Fld := ⟨8, 0, 0⟩
abbrev Fld.SPN_CTL_DISC : Fld := ⟨8, 1, 1⟩
abbrev Fld.SPN_CTL_P0_MODE : Fld := ⟨8, 3, 2⟩
abbrev Fld.SPN_CTL_P1_MODE : Fld := ⟨8, 5, 4⟩
abbrev Reg.SPN_STS : Nat := 0xc
abbrev Fld.SPN_STS_DISC_DONE : Fld := ⟨0xc, 0, 0⟩
abbrev Fld.SPN_STS_REACH : Fld := ⟨0xc, 27, 16⟩
abbrev Reg.SPN_ERR : Nat := 0x10
abbrev Fld.SPN_ERR_DUP_ID : Fld := ⟨0x10, 0, 0⟩
abbrev Fld.SPN_ERR_MISMATCH : Fld := ⟨0x10, 1, 1⟩
abbrev Fld.SPN_ERR_TTL_DROP : Fld := ⟨0x10, 2, 2⟩
abbrev Fld.SPN_ERR_WIN_REJECT : Fld := ⟨0x10, 3, 3⟩
abbrev Fld.SPN_ERR_CFG : Fld := ⟨0x10, 4, 4⟩
abbrev Reg.SPN_WIN_W0 : Nat := 0x100
abbrev Fld.SPN_WIN_W0_BASE : Fld := ⟨0x100, 27, 0⟩
abbrev Reg.SPN_WIN_W1 : Nat := 0x104
abbrev Fld.SPN_WIN_W1_SIZE_MB : Fld := ⟨0x104, 17, 0⟩
abbrev Reg.SPN_WIN_W2 : Nat := 0x108
abbrev Fld.SPN_WIN_W2_SRC_PKG : Fld := ⟨0x108, 11, 0⟩
abbrev Fld.SPN_WIN_W2_ANY : Fld := ⟨0x108, 12, 12⟩
abbrev Fld.SPN_WIN_W2_RD : Fld := ⟨0x108, 13, 13⟩
abbrev Fld.SPN_WIN_W2_WR : Fld := ⟨0x108, 14, 14⟩
abbrev Fld.SPN_WIN_W2_SEM : Fld := ⟨0x108, 15, 15⟩
abbrev Fld.SPN_WIN_W2_EN : Fld := ⟨0x108, 16, 16⟩
abbrev Reg.SPN_ROUTE : Nat := 0x4000
abbrev Fld.SPN_ROUTE_EGRESS : Fld := ⟨0x4000, 2, 0⟩
abbrev Fld.SPN_ROUTE_HOPS : Fld := ⟨0x4000, 9, 4⟩
abbrev Fld.SPN_ROUTE_LAT_NS : Fld := ⟨0x4000, 31, 12⟩
abbrev Reg.SPN_S_STS : Nat := 0x1000
abbrev Fld.SPN_S_STS_STATE : Fld := ⟨0x1000, 2, 0⟩
abbrev Fld.SPN_S_STS_WIDTH : Fld := ⟨0x1000, 5, 3⟩
abbrev Fld.SPN_S_STS_PEER_PKG : Fld := ⟨0x1000, 17, 6⟩
abbrev Fld.SPN_S_STS_PEER_PART : Fld := ⟨0x1000, 18, 18⟩
abbrev Reg.SPN_S_LANE : Nat := 0x1004
abbrev Fld.SPN_S_LANE_LANE0 : Fld := ⟨0x1004, 3, 0⟩
abbrev Fld.SPN_S_LANE_LANE1 : Fld := ⟨0x1004, 7, 4⟩
abbrev Fld.SPN_S_LANE_LANE2 : Fld := ⟨0x1004, 11, 8⟩
abbrev Fld.SPN_S_LANE_LANE3 : Fld := ⟨0x1004, 15, 12⟩
abbrev Fld.SPN_S_LANE_REVERSED : Fld := ⟨0x1004, 16, 16⟩
abbrev Reg.SPN_S_ERR : Nat := 0x1008
abbrev Fld.SPN_S_ERR_CRC : Fld := ⟨0x1008, 0, 0⟩
abbrev Fld.SPN_S_ERR_FEC_UNCORR : Fld := ⟨0x1008, 1, 1⟩
abbrev Fld.SPN_S_ERR_LANE : Fld := ⟨0x1008, 2, 2⟩
abbrev Fld.SPN_S_ERR_DOWN : Fld := ⟨0x1008, 3, 3⟩
abbrev Reg.SPN_S_FEC_CE : Nat := 0x100c
abbrev Fld.SPN_S_FEC_CE_VALUE : Fld := ⟨0x100c, 31, 0⟩
abbrev Reg.SPN_S_RETRY_CNT : Nat := 0x1010
abbrev Fld.SPN_S_RETRY_CNT_VALUE : Fld := ⟨0x1010, 31, 0⟩
abbrev Reg.SPN_S_LAT : Nat := 0x1014
abbrev Fld.SPN_S_LAT_VALUE : Fld := ⟨0x1014, 31, 0⟩


abbrev Reg.HP_ID : Nat := 0
abbrev Fld.HP_ID_PROTO : Fld := ⟨0, 7, 0⟩
abbrev Fld.HP_ID_STEPPING : Fld := ⟨0, 23, 16⟩
abbrev Reg.HP_CTL : Nat := 4
abbrev Fld.HP_CTL_MOD_EN : Fld := ⟨4, 3, 0⟩
abbrev Reg.HP_STS : Nat := 8
abbrev Fld.HP_STS_MOD_UP : Fld := ⟨8, 3, 0⟩
abbrev Fld.HP_STS_PROTO_MISMATCH : Fld := ⟨8, 4, 4⟩
abbrev Fld.HP_STS_REQ_BITS : Fld := ⟨8, 8, 5⟩
abbrev Fld.HP_STS_VECTORS : Fld := ⟨8, 31, 16⟩
abbrev Reg.HP_ERR : Nat := 0xc
abbrev Fld.HP_ERR_FW_REJECT : Fld := ⟨0xc, 0, 0⟩
abbrev Fld.HP_ERR_DB_BAD : Fld := ⟨0xc, 1, 1⟩
abbrev Fld.HP_ERR_PROTO : Fld := ⟨0xc, 2, 2⟩
abbrev Fld.HP_ERR_MOD_DOWN : Fld := ⟨0xc, 3, 3⟩
abbrev Fld.HP_ERR_POISON_OUT : Fld := ⟨0xc, 4, 4⟩
abbrev Reg.HP_FW_LOG0 : Nat := 0x10
abbrev Fld.HP_FW_LOG0_ADDR_LO : Fld := ⟨0x10, 31, 0⟩
abbrev Reg.HP_FW_LOG1 : Nat := 0x14
abbrev Fld.HP_FW_LOG1_ADDR_HI : Fld := ⟨0x14, 15, 0⟩
abbrev Fld.HP_FW_LOG1_REQ : Fld := ⟨0x14, 24, 16⟩
abbrev Fld.HP_FW_LOG1_WR : Fld := ⟨0x14, 25, 25⟩
abbrev Fld.HP_FW_LOG1_VALID : Fld := ⟨0x14, 26, 26⟩
abbrev Reg.HP_FW_CLR : Nat := 0x18
abbrev Fld.HP_FW_CLR_CLR : Fld := ⟨0x18, 0, 0⟩
abbrev Reg.HP_MOD_STS : Nat := 0x100
abbrev Fld.HP_MOD_STS_STATE : Fld := ⟨0x100, 1, 0⟩
abbrev Fld.HP_MOD_STS_HALF_HI : Fld := ⟨0x100, 2, 2⟩
abbrev Fld.HP_MOD_STS_SPARES_RX : Fld := ⟨0x100, 5, 3⟩
abbrev Fld.HP_MOD_STS_SPARES_TX : Fld := ⟨0x100, 8, 6⟩
abbrev Reg.HP_MOD_CRC : Nat := 0x104
abbrev Fld.HP_MOD_CRC_COUNT : Fld := ⟨0x104, 31, 0⟩
abbrev Reg.HP_MOD_RETRY : Nat := 0x108
abbrev Fld.HP_MOD_RETRY_COUNT : Fld := ⟨0x108, 31, 0⟩
abbrev Reg.HP_WIN_W0 : Nat := 0x200
abbrev Fld.HP_WIN_W0_BASE : Fld := ⟨0x200, 27, 0⟩
abbrev Reg.HP_WIN_W1 : Nat := 0x204
abbrev Fld.HP_WIN_W1_SIZE_MB : Fld := ⟨0x204, 17, 0⟩
abbrev Reg.HP_WIN_W2 : Nat := 0x208
abbrev Fld.HP_WIN_W2_REQ_LO : Fld := ⟨0x208, 8, 0⟩
abbrev Fld.HP_WIN_W2_REQ_HI : Fld := ⟨0x208, 24, 16⟩
abbrev Reg.HP_WIN_W3 : Nat := 0x20c
abbrev Fld.HP_WIN_W3_RD : Fld := ⟨0x20c, 0, 0⟩
abbrev Fld.HP_WIN_W3_WR : Fld := ⟨0x20c, 1, 1⟩
abbrev Fld.HP_WIN_W3_EN : Fld := ⟨0x20c, 2, 2⟩


abbrev Reg.CMD_CTL : Nat := 4
abbrev Fld.CMD_CTL_EN : Fld := ⟨4, 0, 0⟩
abbrev Fld.CMD_CTL_PAUSE : Fld := ⟨4, 1, 1⟩
abbrev Reg.CMD_STS : Nat := 8
abbrev Fld.CMD_STS_FW_READY : Fld := ⟨8, 0, 0⟩
abbrev Fld.CMD_STS_PAUSED : Fld := ⟨8, 1, 1⟩
abbrev Fld.CMD_STS_TAGS_USED : Fld := ⟨8, 31, 16⟩
abbrev Reg.CMD_ERR : Nat := 0xc
abbrev Fld.CMD_ERR_REFUSED : Fld := ⟨0xc, 0, 0⟩
abbrev Fld.CMD_ERR_EVT_LOST : Fld := ⟨0xc, 1, 1⟩
abbrev Fld.CMD_ERR_CQ_HELD : Fld := ⟨0xc, 2, 2⟩
abbrev Fld.CMD_ERR_FW_FAULT : Fld := ⟨0xc, 3, 3⟩
abbrev Reg.CMD_EVT_CQ : Nat := 0x10
abbrev Fld.CMD_EVT_CQ_CQ : Fld := ⟨0x10, 15, 0⟩
abbrev Fld.CMD_EVT_CQ_VALID : Fld := ⟨0x10, 16, 16⟩
abbrev Reg.CMD_LAST_REFUSE : Nat := 0x14
abbrev Fld.CMD_LAST_REFUSE_QUEUE : Fld := ⟨0x14, 19, 0⟩
abbrev Fld.CMD_LAST_REFUSE_STATUS : Fld := ⟨0x14, 27, 20⟩
abbrev Reg.CMD_PARSED : Nat := 0x18
abbrev Fld.CMD_PARSED_COUNT : Fld := ⟨0x18, 31, 0⟩
abbrev Reg.CMD_REFUSED_CNT : Nat := 0x1c
abbrev Fld.CMD_REFUSED_CNT_COUNT : Fld := ⟨0x1c, 31, 0⟩
abbrev Reg.CMD_HELD : Nat := 0x20
abbrev Fld.CMD_HELD_COUNT : Fld := ⟨0x20, 31, 0⟩


abbrev Reg.QM_CTL : Nat := 4
abbrev Fld.QM_CTL_EN : Fld := ⟨4, 0, 0⟩
abbrev Reg.QM_STS : Nat := 8
abbrev Fld.QM_STS_CACHED : Fld := ⟨8, 12, 0⟩
abbrev Fld.QM_STS_PINNED : Fld := ⟨8, 25, 16⟩
abbrev Reg.QM_DESC_BASE : Nat := 0x10
abbrev Fld.QM_DESC_BASE_BASE : Fld := ⟨0x10, 21, 0⟩
abbrev Reg.QM_CQ_BASE : Nat := 0x14
abbrev Fld.QM_CQ_BASE_BASE : Fld := ⟨0x14, 26, 0⟩
abbrev Reg.QM_ERR : Nat := 0x18
abbrev Fld.QM_ERR_DESC_POISON : Fld := ⟨0x18, 0, 0⟩
abbrev Fld.QM_ERR_DESC_BAD : Fld := ⟨0x18, 1, 1⟩
abbrev Fld.QM_ERR_DB_STALL : Fld := ⟨0x18, 2, 2⟩
abbrev Fld.QM_ERR_RING_ERR : Fld := ⟨0x18, 3, 3⟩
abbrev Reg.QM_MISS_CNT : Nat := 0x1c
abbrev Fld.QM_MISS_CNT_COUNT : Fld := ⟨0x1c, 31, 0⟩
abbrev Reg.QM_EVICT_CNT : Nat := 0x20
abbrev Fld.QM_EVICT_CNT_COUNT : Fld := ⟨0x20, 31, 0⟩


abbrev Reg.DSP_CTL : Nat := 4
abbrev Fld.DSP_CTL_EN : Fld := ⟨4, 0, 0⟩
abbrev Fld.DSP_CTL_ROT_EN : Fld := ⟨4, 1, 1⟩
abbrev Reg.DSP_ROT : Nat := 8
abbrev Fld.DSP_ROT_START : Fld := ⟨8, 4, 0⟩
abbrev Fld.DSP_ROT_PERIOD_MS : Fld := ⟨8, 25, 16⟩
abbrev Reg.DSP_SAVE_BASE : Nat := 0x10
abbrev Fld.DSP_SAVE_BASE_BASE : Fld := ⟨0x10, 26, 0⟩
abbrev Reg.DSP_STS : Nat := 0x20
abbrev Fld.DSP_STS_QUEUED : Fld := ⟨0x20, 15, 0⟩
abbrev Fld.DSP_STS_SAVED : Fld := ⟨0x20, 31, 16⟩
abbrev Reg.DSP_ERR : Nat := 0x24
abbrev Fld.DSP_ERR_OVERRUN : Fld := ⟨0x24, 0, 0⟩
abbrev Fld.DSP_ERR_SAVE_FAULT : Fld := ⟨0x24, 1, 1⟩
abbrev Fld.DSP_ERR_CFG : Fld := ⟨0x24, 2, 2⟩
abbrev Reg.DSP_PREEMPT_CNT : Nat := 0x28
abbrev Fld.DSP_PREEMPT_CNT_COUNT : Fld := ⟨0x28, 31, 0⟩
abbrev Reg.DSP_PLACE_CNT : Nat := 0x2c
abbrev Fld.DSP_PLACE_CNT_COUNT : Fld := ⟨0x2c, 31, 0⟩


abbrev Reg.ADM_CTL : Nat := 4
abbrev Fld.ADM_CTL_EN : Fld := ⟨4, 0, 0⟩
abbrev Fld.ADM_CTL_SUSPEND : Fld := ⟨4, 1, 1⟩
abbrev Reg.ADM_STS : Nat := 8
abbrev Fld.ADM_STS_SUSPENDED : Fld := ⟨8, 0, 0⟩
abbrev Fld.ADM_STS_RESV : Fld := ⟨8, 25, 16⟩
abbrev Reg.ADM_NOW_LO : Nat := 0x10
abbrev Fld.ADM_NOW_LO_COUNT : Fld := ⟨0x10, 31, 0⟩
abbrev Reg.ADM_NOW_HI : Nat := 0x14
abbrev Fld.ADM_NOW_HI_COUNT : Fld := ⟨0x14, 31, 0⟩
abbrev Reg.ADM_QMAX : Nat := 0x18
abbrev Fld.ADM_QMAX_NS : Fld := ⟨0x18, 19, 0⟩
abbrev Reg.ADM_HOLD : Nat := 0x1c
abbrev Fld.ADM_HOLD_NS : Fld := ⟨0x1c, 19, 0⟩
abbrev Reg.ADM_CLK_GUAR : Nat := 0x20
abbrev Fld.ADM_CLK_GUAR_MHZ : Fld := ⟨0x20, 11, 0⟩
abbrev Reg.ADM_GOLD : Nat := 0x24
abbrev Fld.ADM_GOLD_US : Fld := ⟨0x24, 15, 0⟩
abbrev Reg.ADM_GOLD_WIN : Nat := 0x28
abbrev Fld.ADM_GOLD_WIN_US : Fld := ⟨0x28, 19, 0⟩
abbrev Reg.ADM_PAIR : Nat := 0x2c
abbrev Fld.ADM_PAIR_US : Fld := ⟨0x2c, 15, 0⟩
abbrev Reg.ADM_FAULT : Nat := 0x30
abbrev Fld.ADM_FAULT_DIE : Fld := ⟨0x30, 5, 0⟩
abbrev Reg.ADM_ERR : Nat := 0x34
abbrev Fld.ADM_ERR_CAL_FULL : Fld := ⟨0x34, 0, 0⟩
abbrev Fld.ADM_ERR_OVERRUN : Fld := ⟨0x34, 1, 1⟩
abbrev Reg.ADM_ACCEPT_CNT : Nat := 0x40
abbrev Fld.ADM_ACCEPT_CNT_COUNT : Fld := ⟨0x40, 31, 0⟩
abbrev Reg.ADM_REFUSE_CNT : Nat := 0x44
abbrev Fld.ADM_REFUSE_CNT_COUNT : Fld := ⟨0x44, 31, 0⟩
abbrev Reg.ADM_LATE_CNT : Nat := 0x48
abbrev Fld.ADM_LATE_CNT_COUNT : Fld := ⟨0x48, 31, 0⟩


abbrev Reg.SYN_ID : Nat := 0
abbrev Fld.SYN_ID_DIE : Fld := ⟨0, 1, 0⟩
abbrev Fld.SYN_ID_STEPPING : Fld := ⟨0, 23, 16⟩
abbrev Reg.SYN_CTL : Nat := 4
abbrev Fld.SYN_CTL_EN : Fld := ⟨4, 0, 0⟩
abbrev Reg.SYN_STS : Nat := 8
abbrev Fld.SYN_STS_OWNED : Fld := ⟨8, 12, 0⟩
abbrev Fld.SYN_STS_WAITERS : Fld := ⟨8, 24, 16⟩
abbrev Reg.SYN_HOLDS : Nat := 0xc
abbrev Fld.SYN_HOLDS_USED : Fld := ⟨0xc, 15, 0⟩
abbrev Reg.SYN_ERR : Nat := 0x10
abbrev Fld.SYN_ERR_LEDGER : Fld := ⟨0x10, 0, 0⟩
abbrev Fld.SYN_ERR_LEDGER_UE : Fld := ⟨0x10, 1, 1⟩
abbrev Fld.SYN_ERR_LEDGER_CE : Fld := ⟨0x10, 2, 2⟩
abbrev Fld.SYN_ERR_HOLD_RET : Fld := ⟨0x10, 3, 3⟩
abbrev Fld.SYN_ERR_INH_TIMEOUT : Fld := ⟨0x10, 4, 4⟩
abbrev Fld.SYN_ERR_NOT_OWNER : Fld := ⟨0x10, 5, 5⟩
abbrev Fld.SYN_ERR_UNDECL : Fld := ⟨0x10, 6, 6⟩
abbrev Fld.SYN_ERR_OVERFLOW : Fld := ⟨0x10, 7, 7⟩
abbrev Fld.SYN_ERR_SPAN_REJ : Fld := ⟨0x10, 8, 8⟩
abbrev Reg.SYN_LEDGER_LOG0 : Nat := 0x14
abbrev Fld.SYN_LEDGER_LOG0_LEDGER : Fld := ⟨0x14, 3, 0⟩
abbrev Fld.SYN_LEDGER_LOG0_INSTANCE : Fld := ⟨0x14, 27, 4⟩
abbrev Fld.SYN_LEDGER_LOG0_VALID : Fld := ⟨0x14, 31, 31⟩
abbrev Reg.SYN_LEDGER_LOG1 : Nat := 0x18
abbrev Fld.SYN_LEDGER_LOG1_DIFF : Fld := ⟨0x18, 31, 0⟩
abbrev Reg.SYN_LEDGER_CNT : Nat := 0x1c
abbrev Fld.SYN_LEDGER_CNT_COUNT : Fld := ⟨0x1c, 31, 0⟩
abbrev Reg.SYN_INH : Nat := 0x20
abbrev Fld.SYN_INH_COUNT : Fld := ⟨0x20, 31, 0⟩
abbrev Reg.SYN_INH_TO : Nat := 0x24
abbrev Fld.SYN_INH_TO_COUNT : Fld := ⟨0x24, 31, 0⟩
abbrev Reg.SYN_RETIRED : Nat := 0x28
abbrev Fld.SYN_RETIRED_COUNT : Fld := ⟨0x28, 31, 0⟩
abbrev Reg.SYN_SEM_W0 : Nat := 0x10000
abbrev Fld.SYN_SEM_W0_VALUE : Fld := ⟨0x10000, 30, 0⟩
abbrev Reg.SYN_SEM_W1 : Nat := 0x10004
abbrev Fld.SYN_SEM_W1_CTX : Fld := ⟨0x10004, 15, 0⟩
abbrev Fld.SYN_SEM_W1_CTX_GEN : Fld := ⟨0x10004, 23, 16⟩
abbrev Fld.SYN_SEM_W1_OWNED : Fld := ⟨0x10004, 24, 24⟩
abbrev Fld.SYN_SEM_W1_SPAN : Fld := ⟨0x10004, 25, 25⟩
abbrev Reg.SYN_SEM_W2 : Nat := 0x10008
abbrev Fld.SYN_SEM_W2_BASE : Fld := ⟨0x10008, 30, 0⟩
abbrev Reg.SYN_SEM_W3 : Nat := 0x1000c
abbrev Fld.SYN_SEM_W3_SIGNALS : Fld := ⟨0x1000c, 31, 0⟩
abbrev Reg.SYN_SEM_W4 : Nat := 0x10010
abbrev Fld.SYN_SEM_W4_RETURNS : Fld := ⟨0x10010, 31, 0⟩
abbrev Reg.SYN_SEM_W5 : Nat := 0x10014
abbrev Fld.SYN_SEM_W5_GRANTS : Fld := ⟨0x10014, 31, 0⟩
abbrev Reg.SYN_SEM_W6 : Nat := 0x10018
abbrev Fld.SYN_SEM_W6_WAITERS : Fld := ⟨0x10018, 8, 0⟩
abbrev Fld.SYN_SEM_W6_HOLDERS : Fld := ⟨0x10018, 31, 16⟩
abbrev Reg.SYN_SEM_W7 : Nat := 0x1001c
abbrev Reg.SYN_HOLD_W0 : Nat := 0x40000
abbrev Fld.SYN_HOLD_W0_SEM : Fld := ⟨0x40000, 11, 0⟩
abbrev Fld.SYN_HOLD_W0_VALID : Fld := ⟨0x40000, 12, 12⟩
abbrev Fld.SYN_HOLD_W0_SAVED : Fld := ⟨0x40000, 13, 13⟩
abbrev Fld.SYN_HOLD_W0_INHERIT : Fld := ⟨0x40000, 14, 14⟩
abbrev Fld.SYN_HOLD_W0_COUNT : Fld := ⟨0x40000, 31, 16⟩
abbrev Reg.SYN_HOLD_W1 : Nat := 0x40004
abbrev Fld.SYN_HOLD_W1_TAG : Fld := ⟨0x40004, 14, 0⟩
abbrev Fld.SYN_HOLD_W1_GEN : Fld := ⟨0x40004, 22, 15⟩
abbrev Fld.SYN_HOLD_W1_CLASS : Fld := ⟨0x40004, 25, 23⟩


abbrev Reg.BWR_ID : Nat := 0
abbrev Fld.BWR_ID_DIE : Fld := ⟨0, 2, 0⟩
abbrev Fld.BWR_ID_STEPPING : Fld := ⟨0, 23, 16⟩
abbrev Reg.BWR_CTL : Nat := 4
abbrev Fld.BWR_CTL_EN : Fld := ⟨4, 0, 0⟩
abbrev Reg.BWR_ERR : Nat := 8
abbrev Fld.BWR_ERR_CFG : Fld := ⟨8, 0, 0⟩
abbrev Fld.BWR_ERR_SHORTFALL : Fld := ⟨8, 1, 1⟩
abbrev Fld.BWR_ERR_CAP : Fld := ⟨8, 2, 2⟩
abbrev Reg.BWR_SHORT_CNT : Nat := 0xc
abbrev Fld.BWR_SHORT_CNT_COUNT : Fld := ⟨0xc, 31, 0⟩
abbrev Reg.BWR_WEIGHT0 : Nat := 0x10
abbrev Fld.BWR_WEIGHT0_W0 : Fld := ⟨0x10, 7, 0⟩
abbrev Fld.BWR_WEIGHT0_W1 : Fld := ⟨0x10, 15, 8⟩
abbrev Fld.BWR_WEIGHT0_W2 : Fld := ⟨0x10, 23, 16⟩
abbrev Fld.BWR_WEIGHT0_W3 : Fld := ⟨0x10, 31, 24⟩
abbrev Reg.BWR_WEIGHT1 : Nat := 0x14
abbrev Fld.BWR_WEIGHT1_W0 : Fld := ⟨0x14, 7, 0⟩
abbrev Fld.BWR_WEIGHT1_W1 : Fld := ⟨0x14, 15, 8⟩
abbrev Fld.BWR_WEIGHT1_W2 : Fld := ⟨0x14, 23, 16⟩
abbrev Fld.BWR_WEIGHT1_W3 : Fld := ⟨0x14, 31, 24⟩
abbrev Reg.BWR_URG : Nat := 0x18
abbrev Fld.BWR_URG_MULT : Fld := ⟨0x18, 3, 0⟩


abbrev Reg.BWR_HOST : Nat := 0x1c
abbrev Fld.BWR_HOST_CLASS : Fld := ⟨0x1c, 2, 0⟩


abbrev Reg.BWR_URGN : Nat := 0x40
abbrev Fld.BWR_URGN_HI : Fld := ⟨0x40, 5, 0⟩
abbrev Fld.BWR_URGN_LO : Fld := ⟨0x40, 13, 8⟩
abbrev Fld.BWR_URGN_ACTIVE : Fld := ⟨0x40, 14, 14⟩


abbrev Reg.BWR_P_CAP : Nat := 0x100
abbrev Fld.BWR_P_CAP_MBPS : Fld := ⟨0x100, 19, 0⟩
abbrev Reg.BWR_P_FIX : Nat := 0x108
abbrev Fld.BWR_P_FIX_MBPS : Fld := ⟨0x108, 19, 0⟩
abbrev Reg.BWR_P_CLS : Nat := 0x128
abbrev Fld.BWR_P_CLS_MBPS : Fld := ⟨0x128, 19, 0⟩
abbrev Reg.BWR_P_REG : Nat := 0x148
abbrev Fld.BWR_P_REG_MBPS : Fld := ⟨0x148, 23, 0⟩


abbrev Reg.BWR_GRP_W0 : Nat := 0x1000
abbrev Fld.BWR_GRP_W0_VALID : Fld := ⟨0x1000, 0, 0⟩
abbrev Fld.BWR_GRP_W0_CLASS : Fld := ⟨0x1000, 3, 1⟩
abbrev Fld.BWR_GRP_W0_FIRST : Fld := ⟨0x1000, 9, 4⟩
abbrev Fld.BWR_GRP_W0_SIZE : Fld := ⟨0x1000, 16, 10⟩
abbrev Reg.BWR_GRP_W1 : Nat := 0x1004
abbrev Fld.BWR_GRP_W1_MEM : Fld := ⟨0x1004, 19, 0⟩
abbrev Reg.BWR_GRP_W2 : Nat := 0x1008
abbrev Fld.BWR_GRP_W2_CLU : Fld := ⟨0x1008, 19, 0⟩
abbrev Reg.BWR_GRP_W3 : Nat := 0x100c
abbrev Fld.BWR_GRP_W3_RING : Fld := ⟨0x100c, 19, 0⟩


abbrev Reg.PCH_ID : Nat := 0
abbrev Fld.PCH_ID_STEPPING : Fld := ⟨0, 23, 16⟩
abbrev Reg.PCH_CTL : Nat := 4
abbrev Fld.PCH_CTL_EN : Fld := ⟨4, 0, 0⟩
abbrev Fld.PCH_CTL_OC_CUT : Fld := ⟨4, 1, 1⟩
abbrev Reg.PCH_ERR : Nat := 8
abbrev Fld.PCH_ERR_CFG : Fld := ⟨8, 0, 0⟩
abbrev Fld.PCH_ERR_OVERFLOW : Fld := ⟨8, 1, 1⟩
abbrev Fld.PCH_ERR_WR_FAIL : Fld := ⟨8, 2, 2⟩
abbrev Fld.PCH_ERR_SIG_FAIL : Fld := ⟨8, 3, 3⟩
abbrev Reg.PCH_TIME_STS : Nat := 0x10
abbrev Fld.PCH_TIME_STS_STATE : Fld := ⟨0x10, 1, 0⟩
abbrev Fld.PCH_TIME_STS_STEPS : Fld := ⟨0x10, 15, 8⟩
abbrev Reg.PCH_TIME_OFS : Nat := 0x14
abbrev Fld.PCH_TIME_OFS_NS : Fld := ⟨0x14, 31, 0⟩
abbrev Reg.PCH_TIME_LO : Nat := 0x18
abbrev Fld.PCH_TIME_LO_NS : Fld := ⟨0x18, 31, 0⟩
abbrev Reg.PCH_TIME_HI : Nat := 0x1c
abbrev Fld.PCH_TIME_HI_NS : Fld := ⟨0x1c, 31, 0⟩
abbrev Reg.PCH_TRIG_STS : Nat := 0x20
abbrev Fld.PCH_TRIG_STS_RUN : Fld := ⟨0x20, 0, 0⟩
abbrev Fld.PCH_TRIG_STS_CLK_FAULT : Fld := ⟨0x20, 1, 1⟩
abbrev Reg.PCH_TRIG_IDX : Nat := 0x24
abbrev Fld.PCH_TRIG_IDX_INDEX : Fld := ⟨0x24, 31, 0⟩
abbrev Reg.PCH_BUF : Nat := 0x40
abbrev Fld.PCH_BUF_UNITS : Fld := ⟨0x40, 8, 0⟩
abbrev Reg.PCH_RAIL : Nat := 0xa0
abbrev Fld.PCH_RAIL_MV : Fld := ⟨0xa0, 15, 0⟩
abbrev Reg.PCH_CAM_STS : Nat := 0x1000
abbrev Fld.PCH_CAM_STS_EN : Fld := ⟨0x1000, 0, 0⟩
abbrev Fld.PCH_CAM_STS_LINK : Fld := ⟨0x1000, 1, 1⟩
abbrev Fld.PCH_CAM_STS_UNALIGNED : Fld := ⟨0x1000, 2, 2⟩
abbrev Fld.PCH_CAM_STS_RESTARTING : Fld := ⟨0x1000, 3, 3⟩
abbrev Fld.PCH_CAM_STS_OC : Fld := ⟨0x1000, 4, 4⟩
abbrev Fld.PCH_CAM_STS_UC : Fld := ⟨0x1000, 5, 5⟩
abbrev Fld.PCH_CAM_STS_URG : Fld := ⟨0x1000, 6, 6⟩
abbrev Reg.PCH_CAM_LINK : Nat := 0x1004
abbrev Fld.PCH_CAM_LINK_GEAR : Fld := ⟨0x1004, 2, 0⟩
abbrev Fld.PCH_CAM_LINK_PEER_MAX : Fld := ⟨0x1004, 5, 3⟩
abbrev Fld.PCH_CAM_LINK_PAL_VER : Fld := ⟨0x1004, 15, 8⟩
abbrev Reg.PCH_CAM_CABLE : Nat := 0x1008
abbrev Fld.PCH_CAM_CABLE_LOSS : Fld := ⟨0x1008, 11, 0⟩
abbrev Fld.PCH_CAM_CABLE_LEN_DM : Fld := ⟨0x1008, 25, 16⟩
abbrev Reg.PCH_CAM_POC : Nat := 0x100c
abbrev Fld.PCH_CAM_POC_MA : Fld := ⟨0x100c, 15, 0⟩
abbrev Reg.PCH_CAM_SKEW : Nat := 0x1010
abbrev Fld.PCH_CAM_SKEW_VALUE : Fld := ⟨0x1010, 31, 0⟩
abbrev Reg.PCH_CAM_FRAMES : Nat := 0x1014
abbrev Fld.PCH_CAM_FRAMES_VALUE : Fld := ⟨0x1014, 31, 0⟩
abbrev Reg.PCH_CAM_TRUNC : Nat := 0x1018
abbrev Fld.PCH_CAM_TRUNC_VALUE : Fld := ⟨0x1018, 31, 0⟩
abbrev Reg.PCH_CAM_MISS : Nat := 0x101c
abbrev Fld.PCH_CAM_MISS_VALUE : Fld := ⟨0x101c, 31, 0⟩
abbrev Reg.PCH_ETH_STS : Nat := 0x2000
abbrev Fld.PCH_ETH_STS_EN : Fld := ⟨0x2000, 0, 0⟩
abbrev Fld.PCH_ETH_STS_LINK : Fld := ⟨0x2000, 1, 1⟩
abbrev Fld.PCH_ETH_STS_MASTER : Fld := ⟨0x2000, 2, 2⟩
abbrev Fld.PCH_ETH_STS_POL_INV : Fld := ⟨0x2000, 3, 3⟩
abbrev Fld.PCH_ETH_STS_SQI : Fld := ⟨0x2000, 6, 4⟩
abbrev Fld.PCH_ETH_STS_URG : Fld := ⟨0x2000, 7, 7⟩
abbrev Reg.PCH_ETH_DIAG : Nat := 0x2004
abbrev Fld.PCH_ETH_DIAG_RESULT : Fld := ⟨0x2004, 1, 0⟩
abbrev Fld.PCH_ETH_DIAG_DIST_DM : Fld := ⟨0x2004, 25, 16⟩
abbrev Reg.PCH_ETH_CTL : Nat := 0x2008
abbrev Fld.PCH_ETH_CTL_DIAG : Fld := ⟨0x2008, 0, 0⟩
abbrev Reg.PCH_ETH_RX : Nat := 0x200c
abbrev Fld.PCH_ETH_RX_COUNT : Fld := ⟨0x200c, 31, 0⟩
abbrev Reg.PCH_ETH_DROP : Nat := 0x2010
abbrev Fld.PCH_ETH_DROP_COUNT : Fld := ⟨0x2010, 31, 0⟩
abbrev Reg.PCH_CAN_STS : Nat := 0x3000
abbrev Fld.PCH_CAN_STS_REC : Fld := ⟨0x3000, 7, 0⟩
abbrev Fld.PCH_CAN_STS_PASSIVE : Fld := ⟨0x3000, 8, 8⟩
abbrev Fld.PCH_CAN_STS_BUS_OFF : Fld := ⟨0x3000, 9, 9⟩
abbrev Reg.PCH_CAN_RX : Nat := 0x3004
abbrev Fld.PCH_CAN_RX_COUNT : Fld := ⟨0x3004, 31, 0⟩
abbrev Reg.PCH_IMU_RX : Nat := 0x3804
abbrev Fld.PCH_IMU_RX_COUNT : Fld := ⟨0x3804, 31, 0⟩
abbrev Reg.PCH_PIN_TSHORT : Nat := 0x28
abbrev Fld.PCH_PIN_TSHORT_SHORT : Fld := ⟨0x28, 31, 0⟩
abbrev Reg.PCH_PIN_TOPEN : Nat := 0x2c
abbrev Fld.PCH_PIN_TOPEN_OPEN : Fld := ⟨0x2c, 31, 0⟩
abbrev Reg.PCH_PIN_CAN : Nat := 0x30
abbrev Fld.PCH_PIN_CAN_TX_FLT0 : Fld := ⟨0x30, 0, 0⟩
abbrev Fld.PCH_PIN_CAN_TX_FLT1 : Fld := ⟨0x30, 4, 4⟩
abbrev Fld.PCH_PIN_CAN_TX_FLT2 : Fld := ⟨0x30, 8, 8⟩
abbrev Fld.PCH_PIN_CAN_TX_FLT3 : Fld := ⟨0x30, 12, 12⟩
abbrev Fld.PCH_PIN_CAN_RX_DOM0 : Fld := ⟨0x30, 1, 1⟩
abbrev Fld.PCH_PIN_CAN_RX_DOM1 : Fld := ⟨0x30, 5, 5⟩
abbrev Fld.PCH_PIN_CAN_RX_DOM2 : Fld := ⟨0x30, 9, 9⟩
abbrev Fld.PCH_PIN_CAN_RX_DOM3 : Fld := ⟨0x30, 13, 13⟩
abbrev Fld.PCH_PIN_CAN_SILENT0 : Fld := ⟨0x30, 2, 2⟩
abbrev Fld.PCH_PIN_CAN_SILENT1 : Fld := ⟨0x30, 6, 6⟩
abbrev Fld.PCH_PIN_CAN_SILENT2 : Fld := ⟨0x30, 10, 10⟩
abbrev Fld.PCH_PIN_CAN_SILENT3 : Fld := ⟨0x30, 14, 14⟩
abbrev Reg.PCH_TRIG_REC : Nat := 0x4000
abbrev Fld.PCH_TRIG_REC_WORD : Fld := ⟨0x4000, 31, 0⟩
abbrev Reg.PCH_REC : Nat := 0x8000
abbrev Fld.PCH_REC_WORD : Fld := ⟨0x8000, 31, 0⟩


abbrev Reg.FUS_ID : Nat := 0
abbrev Fld.FUS_ID_STEPPING : Fld := ⟨0, 23, 16⟩
abbrev Reg.FUS_CTL : Nat := 4
abbrev Fld.FUS_CTL_INT_EN : Fld := ⟨4, 0, 0⟩
abbrev Fld.FUS_CTL_PROJ_EN : Fld := ⟨4, 1, 1⟩
abbrev Reg.FUS_STS : Nat := 8
abbrev Fld.FUS_STS_INT_RUN : Fld := ⟨8, 0, 0⟩
abbrev Fld.FUS_STS_PROJ_RUN : Fld := ⟨8, 1, 1⟩
abbrev Fld.FUS_STS_IMU_ONLY : Fld := ⟨8, 2, 2⟩
abbrev Fld.FUS_STS_WHEEL_STALE : Fld := ⟨8, 3, 3⟩
abbrev Fld.FUS_STS_INVALID : Fld := ⟨8, 4, 4⟩
abbrev Fld.FUS_STS_CAM_TRIAL : Fld := ⟨8, 31, 16⟩
abbrev Reg.FUS_ERR : Nat := 0xc
abbrev Fld.FUS_ERR_CFG : Fld := ⟨0xc, 0, 0⟩
abbrev Fld.FUS_ERR_WR_FAIL : Fld := ⟨0xc, 1, 1⟩
abbrev Fld.FUS_ERR_HOLD_FULL : Fld := ⟨0xc, 2, 2⟩
abbrev Fld.FUS_ERR_NO_POSE : Fld := ⟨0xc, 3, 3⟩
abbrev Fld.FUS_ERR_MODE_CHG : Fld := ⟨0xc, 4, 4⟩
abbrev Fld.FUS_ERR_SIG_FAIL : Fld := ⟨0xc, 5, 5⟩
abbrev Fld.FUS_ERR_DECODE : Fld := ⟨0xc, 6, 6⟩
abbrev Reg.FUS_POSE_SEQ_LO : Nat := 0x10
abbrev Fld.FUS_POSE_SEQ_LO_SEQ : Fld := ⟨0x10, 31, 0⟩
abbrev Reg.FUS_POSE_SEQ_HI : Nat := 0x14
abbrev Fld.FUS_POSE_SEQ_HI_SEQ : Fld := ⟨0x14, 31, 0⟩
abbrev Reg.FUS_D_M : Nat := 0x18
abbrev Fld.FUS_D_M_VALUE : Fld := ⟨0x18, 31, 0⟩
abbrev Reg.FUS_YAW_D : Nat := 0x1c
abbrev Fld.FUS_YAW_D_VALUE : Fld := ⟨0x1c, 31, 0⟩
abbrev Reg.FUS_G2_D : Nat := 0x20
abbrev Fld.FUS_G2_D_VALUE : Fld := ⟨0x20, 31, 0⟩
abbrev Reg.FUS_HOLD : Nat := 0x24
abbrev Fld.FUS_HOLD_POINTS : Fld := ⟨0x24, 17, 0⟩
abbrev Reg.FUS_PTS_IN : Nat := 0x28
abbrev Fld.FUS_PTS_IN_COUNT : Fld := ⟨0x28, 31, 0⟩
abbrev Reg.FUS_ENTRIES : Nat := 0x2c
abbrev Fld.FUS_ENTRIES_COUNT : Fld := ⟨0x2c, 31, 0⟩
abbrev Reg.FUS_NOPOSE : Nat := 0x30
abbrev Fld.FUS_NOPOSE_COUNT : Fld := ⟨0x30, 31, 0⟩
abbrev Reg.FUS_EXTRAP : Nat := 0x34
abbrev Fld.FUS_EXTRAP_COUNT : Fld := ⟨0x34, 31, 0⟩
abbrev Reg.FUS_MODE_CNT : Nat := 0x38
abbrev Fld.FUS_MODE_CNT_COUNT : Fld := ⟨0x38, 31, 0⟩
abbrev Reg.FUS_CAL : Nat := 0x1000
abbrev Fld.FUS_CAL_WORD : Fld := ⟨0x1000, 31, 0⟩


abbrev Reg.ACN_ID : Nat := 0
abbrev Fld.ACN_ID_ISLAND : Fld := ⟨0, 0, 0⟩
abbrev Fld.ACN_ID_STEPPING : Fld := ⟨0, 23, 16⟩
abbrev Reg.ACN_STS : Nat := 4
abbrev Fld.ACN_STS_STATE : Fld := ⟨4, 2, 0⟩
abbrev Fld.ACN_STS_SAFE_OUT : Fld := ⟨4, 3, 3⟩
abbrev Fld.ACN_STS_CLAMP : Fld := ⟨4, 4, 4⟩
abbrev Fld.ACN_STS_PEER_OK : Fld := ⟨4, 5, 5⟩
abbrev Fld.ACN_STS_POLICY_DEFAULT : Fld := ⟨4, 6, 6⟩
abbrev Fld.ACN_STS_LATCHED : Fld := ⟨4, 23, 16⟩
abbrev Reg.ACN_HB : Nat := 8
abbrev Fld.ACN_HB_DC : Fld := ⟨8, 3, 0⟩
abbrev Fld.ACN_HB_MP : Fld := ⟨8, 4, 4⟩
abbrev Fld.ACN_HB_IOD : Fld := ⟨8, 5, 5⟩
abbrev Fld.ACN_HB_PCH : Fld := ⟨8, 6, 6⟩
abbrev Fld.ACN_HB_PEER : Fld := ⟨8, 7, 7⟩
abbrev Reg.ACN_CLK : Nat := 0xc
abbrev Fld.ACN_CLK_MAIN_OK : Fld := ⟨0xc, 0, 0⟩
abbrev Fld.ACN_CLK_TRIG_OK : Fld := ⟨0xc, 1, 1⟩
abbrev Fld.ACN_CLK_PLL_OK : Fld := ⟨0xc, 2, 2⟩
abbrev Reg.ACN_US : Nat := 0x10
abbrev Fld.ACN_US_COUNT : Fld := ⟨0x10, 31, 0⟩
abbrev Reg.ACN_EVT_SEQ : Nat := 0x14
abbrev Fld.ACN_EVT_SEQ_VALUE : Fld := ⟨0x14, 31, 0⟩
abbrev Reg.ACN_POLICY_SEQ : Nat := 0x18
abbrev Fld.ACN_POLICY_SEQ_VALUE : Fld := ⟨0x18, 31, 0⟩
abbrev Reg.ACN_FW_LOG0 : Nat := 0x20
abbrev Fld.ACN_FW_LOG0_ADDR_LO : Fld := ⟨0x20, 31, 0⟩
abbrev Reg.ACN_FW_LOG1 : Nat := 0x24
abbrev Fld.ACN_FW_LOG1_ADDR_HI : Fld := ⟨0x24, 15, 0⟩
abbrev Fld.ACN_FW_LOG1_INIT : Fld := ⟨0x24, 27, 16⟩
abbrev Fld.ACN_FW_LOG1_VALID : Fld := ⟨0x24, 28, 28⟩
abbrev Reg.ACN_EVTLOG_W0 : Nat := 0x1000
abbrev Fld.ACN_EVTLOG_W0_SEQ : Fld := ⟨0x1000, 31, 0⟩
abbrev Reg.ACN_EVTLOG_W1 : Nat := 0x1004
abbrev Fld.ACN_EVTLOG_W1_EVENT : Fld := ⟨0x1004, 7, 0⟩
abbrev Fld.ACN_EVTLOG_W1_LEVEL : Fld := ⟨0x1004, 10, 8⟩
abbrev Fld.ACN_EVTLOG_W1_ACKED : Fld := ⟨0x1004, 11, 11⟩
abbrev Fld.ACN_EVTLOG_W1_UNIT : Fld := ⟨0x1004, 31, 16⟩
abbrev Reg.ACN_EVTLOG_W2 : Nat := 0x1008
abbrev Fld.ACN_EVTLOG_W2_US : Fld := ⟨0x1008, 31, 0⟩
abbrev Reg.ACN_EVTLOG_W3 : Nat := 0x100c


abbrev Reg.CHK_ID : Nat := 0
abbrev Fld.CHK_ID_CORE : Fld := ⟨0, 2, 0⟩
abbrev Fld.CHK_ID_CLUSTER : Fld := ⟨0, 5, 3⟩
abbrev Fld.CHK_ID_DIE : Fld := ⟨0, 7, 6⟩
abbrev Fld.CHK_ID_STEPPING : Fld := ⟨0, 23, 16⟩
abbrev Reg.CHK_CTL : Nat := 4
abbrev Fld.CHK_CTL_EN : Fld := ⟨4, 0, 0⟩
abbrev Fld.CHK_CTL_TOL_MULT : Fld := ⟨4, 15, 8⟩
abbrev Reg.CHK_QSTS : Nat := 8
abbrev Fld.CHK_QSTS_STATE : Fld := ⟨8, 1, 0⟩
abbrev Fld.CHK_QSTS_SERIES : Fld := ⟨8, 13, 8⟩
abbrev Fld.CHK_QSTS_DEFER : Fld := ⟨8, 18, 16⟩
abbrev Reg.CHK_MM_INFO : Nat := 0xc
abbrev Fld.CHK_MM_INFO_ENGINE : Fld := ⟨0xc, 1, 0⟩
abbrev Fld.CHK_MM_INFO_BANK : Fld := ⟨0xc, 4, 2⟩
abbrev Fld.CHK_MM_INFO_AXIS : Fld := ⟨0xc, 5, 5⟩
abbrev Fld.CHK_MM_INFO_INDEX : Fld := ⟨0xc, 10, 6⟩
abbrev Fld.CHK_MM_INFO_INT : Fld := ⟨0xc, 11, 11⟩
abbrev Fld.CHK_MM_INFO_TAG : Fld := ⟨0xc, 26, 12⟩
abbrev Fld.CHK_MM_INFO_VALID : Fld := ⟨0xc, 31, 31⟩
abbrev Reg.CHK_MM_DIFF : Nat := 0x10
abbrev Fld.CHK_MM_DIFF_VALUE : Fld := ⟨0x10, 31, 0⟩
abbrev Reg.CHK_MM_TOL : Nat := 0x14
abbrev Fld.CHK_MM_TOL_VALUE : Fld := ⟨0x14, 31, 0⟩
abbrev Reg.CHK_LAST_MM : Nat := 0x18
abbrev Fld.CHK_LAST_MM_US : Fld := ⟨0x18, 31, 0⟩
abbrev Reg.CHK_LAST_VALID : Nat := 0x1c
abbrev Fld.CHK_LAST_VALID_VALID : Fld := ⟨0x1c, 0, 0⟩
abbrev Reg.CHK_STEP_MM : Nat := 0x20
abbrev Fld.CHK_STEP_MM_COUNT : Fld := ⟨0x20, 15, 0⟩
abbrev Reg.CHK_CNT_CHECK : Nat := 0x24
abbrev Fld.CHK_CNT_CHECK_COUNT : Fld := ⟨0x24, 31, 0⟩
abbrev Reg.CHK_CNT_MM : Nat := 0x28
abbrev Fld.CHK_CNT_MM_COUNT : Fld := ⟨0x28, 31, 0⟩
abbrev Reg.CHK_CNT_SKIP : Nat := 0x2c
abbrev Fld.CHK_CNT_SKIP_COUNT : Fld := ⟨0x2c, 31, 0⟩
abbrev Reg.CHK_CNT_DROP : Nat := 0x30
abbrev Fld.CHK_CNT_DROP_COUNT : Fld := ⟨0x30, 31, 0⟩
abbrev Reg.CHK_ST : Nat := 0x34
abbrev Fld.CHK_ST_GO : Fld := ⟨0x34, 0, 0⟩
abbrev Fld.CHK_ST_AXIS : Fld := ⟨0x34, 1, 1⟩
abbrev Fld.CHK_ST_INDEX : Fld := ⟨0x34, 6, 2⟩
abbrev Fld.CHK_ST_DONE : Fld := ⟨0x34, 8, 8⟩
abbrev Fld.CHK_ST_PASS : Fld := ⟨0x34, 9, 9⟩
abbrev Fld.CHK_ST_PATTERN : Fld := ⟨0x34, 10, 10⟩
abbrev Reg.CHK_GOLD : Nat := 0x38
abbrev Fld.CHK_GOLD_ENTRY : Fld := ⟨0x38, 2, 0⟩
abbrev Fld.CHK_GOLD_PASS : Fld := ⟨0x38, 3, 3⟩
abbrev Fld.CHK_GOLD_RUNS : Fld := ⟨0x38, 31, 16⟩


abbrev Reg.HTH_CTL : Nat := 4
abbrev Fld.HTH_CTL_EN : Fld := ⟨4, 0, 0⟩
abbrev Fld.HTH_CTL_WARM_EN : Fld := ⟨4, 1, 1⟩
abbrev Fld.HTH_CTL_SPN_WARM : Fld := ⟨4, 2, 2⟩
abbrev Fld.HTH_CTL_GUAR_AUTO : Fld := ⟨4, 3, 3⟩
abbrev Reg.HTH_STS : Nat := 8
abbrev Fld.HTH_STS_COOL : Fld := ⟨8, 1, 0⟩
abbrev Fld.HTH_STS_ADVISORY : Fld := ⟨8, 2, 2⟩
abbrev Fld.HTH_STS_THERMAL : Fld := ⟨8, 3, 3⟩
abbrev Fld.HTH_STS_BUDGET_SHORT : Fld := ⟨8, 4, 4⟩
abbrev Fld.HTH_STS_BUDGET_W : Fld := ⟨8, 25, 16⟩
abbrev Reg.HTH_ERR : Nat := 0xc
abbrev Fld.HTH_ERR_NO_FLOW : Fld := ⟨0xc, 0, 0⟩
abbrev Fld.HTH_ERR_RISE_RATE : Fld := ⟨0xc, 1, 1⟩
abbrev Fld.HTH_ERR_FLOW_SENSOR : Fld := ⟨0xc, 2, 2⟩
abbrev Fld.HTH_ERR_THERM_EXCL : Fld := ⟨0xc, 3, 3⟩
abbrev Fld.HTH_ERR_JUNC_SUSPECT : Fld := ⟨0xc, 4, 4⟩
abbrev Fld.HTH_ERR_JUNC_EXCL : Fld := ⟨0xc, 5, 5⟩
abbrev Fld.HTH_ERR_GRACE : Fld := ⟨0xc, 6, 6⟩
abbrev Fld.HTH_ERR_TRIP : Fld := ⟨0xc, 7, 7⟩
abbrev Fld.HTH_ERR_REPORT_MISS : Fld := ⟨0xc, 8, 8⟩
abbrev Fld.HTH_ERR_BUS_FAULT : Fld := ⟨0xc, 9, 9⟩
abbrev Fld.HTH_ERR_DRAM_HOT : Fld := ⟨0xc, 10, 10⟩
abbrev Reg.HTH_LIMIT : Nat := 0x10
abbrev Fld.HTH_LIMIT_LIMIT_W : Fld := ⟨0x10, 9, 0⟩
abbrev Fld.HTH_LIMIT_POWER_W : Fld := ⟨0x10, 25, 16⟩
abbrev Reg.HTH_FLOW_THRESH : Nat := 0x14
abbrev Fld.HTH_FLOW_THRESH_FULL : Fld := ⟨0x14, 9, 0⟩
abbrev Fld.HTH_FLOW_THRESH_FLOOR : Fld := ⟨0x14, 19, 10⟩
abbrev Fld.HTH_FLOW_THRESH_ADVISE : Fld := ⟨0x14, 29, 20⟩
abbrev Reg.HTH_FLOW_K : Nat := 0x18
abbrev Fld.HTH_FLOW_K_K0 : Fld := ⟨0x18, 15, 0⟩
abbrev Fld.HTH_FLOW_K_K1 : Fld := ⟨0x18, 31, 16⟩
abbrev Reg.HTH_DERATE : Nat := 0x1c
abbrev Fld.HTH_DERATE_FLOOR_W : Fld := ⟨0x1c, 9, 0⟩
abbrev Fld.HTH_DERATE_RISE_THR : Fld := ⟨0x1c, 15, 10⟩
abbrev Fld.HTH_DERATE_RISE_SLOPE : Fld := ⟨0x1c, 23, 16⟩
abbrev Fld.HTH_DERATE_INLET_SLOPE : Fld := ⟨0x1c, 31, 24⟩
abbrev Reg.HTH_LOSS : Nat := 0x20
abbrev Fld.HTH_LOSS_NOPULSE_MS : Fld := ⟨0x20, 9, 0⟩
abbrev Fld.HTH_LOSS_RATE : Fld := ⟨0x20, 19, 10⟩
abbrev Reg.HTH_TEMP : Nat := 0x24
abbrev Fld.HTH_TEMP_TJ_TGT : Fld := ⟨0x24, 7, 0⟩
abbrev Fld.HTH_TEMP_TJ_EMERG : Fld := ⟨0x24, 15, 8⟩
abbrev Fld.HTH_TEMP_INLET_MAX : Fld := ⟨0x24, 23, 16⟩
abbrev Fld.HTH_TEMP_WARM_DELTA : Fld := ⟨0x24, 31, 24⟩
abbrev Reg.HTH_THERM : Nat := 0x28
abbrev Fld.HTH_THERM_BETA : Fld := ⟨0x28, 15, 0⟩
abbrev Fld.HTH_THERM_RNOM : Fld := ⟨0x28, 31, 16⟩
abbrev Reg.HTH_PUMP : Nat := 0x2c
abbrev Fld.HTH_PUMP_DUTY_MIN : Fld := ⟨0x2c, 7, 0⟩
abbrev Fld.HTH_PUMP_DUTY_MAX : Fld := ⟨0x2c, 15, 8⟩
abbrev Fld.HTH_PUMP_FREQ_HZ : Fld := ⟨0x2c, 27, 16⟩
abbrev Reg.HTH_COOL_FLOW : Nat := 0x30
abbrev Fld.HTH_COOL_FLOW_FLOW0 : Fld := ⟨0x30, 9, 0⟩
abbrev Fld.HTH_COOL_FLOW_FLOW1 : Fld := ⟨0x30, 19, 10⟩
abbrev Fld.HTH_COOL_FLOW_DUTY : Fld := ⟨0x30, 26, 20⟩
abbrev Reg.HTH_COOL_IN : Nat := 0x34
abbrev Fld.HTH_COOL_IN_T0 : Fld := ⟨0x34, 15, 0⟩
abbrev Fld.HTH_COOL_IN_T1 : Fld := ⟨0x34, 31, 16⟩
abbrev Reg.HTH_COOL_OUT : Nat := 0x38
abbrev Fld.HTH_COOL_OUT_T0 : Fld := ⟨0x38, 15, 0⟩
abbrev Fld.HTH_COOL_OUT_T1 : Fld := ⟨0x38, 31, 16⟩
abbrev Reg.HTH_MISC : Nat := 0x3c
abbrev Fld.HTH_MISC_HOST_W : Fld := ⟨0x3c, 7, 0⟩
abbrev Fld.HTH_MISC_GRACE_MS : Fld := ⟨0x3c, 15, 8⟩
abbrev Fld.HTH_MISC_RAMP : Fld := ⟨0x3c, 23, 16⟩
abbrev Reg.HTH_ADV_CNT : Nat := 0x40
abbrev Fld.HTH_ADV_CNT_COUNT : Fld := ⟨0x40, 31, 0⟩
abbrev Reg.HTH_EMERG_CNT : Nat := 0x44
abbrev Fld.HTH_EMERG_CNT_COUNT : Fld := ⟨0x44, 31, 0⟩
abbrev Reg.HTH_DIE_W0 : Nat := 0x100
abbrev Fld.HTH_DIE_W0_BUDGET_DW : Fld := ⟨0x100, 11, 0⟩
abbrev Fld.HTH_DIE_W0_POWER_DW : Fld := ⟨0x100, 27, 16⟩
abbrev Reg.HTH_DIE_W1 : Nat := 0x104
abbrev Fld.HTH_DIE_W1_TMAX : Fld := ⟨0x104, 15, 0⟩
abbrev Fld.HTH_DIE_W1_REPORT_OK : Fld := ⟨0x104, 16, 16⟩
abbrev Reg.HTH_REG : Nat := 0x300
abbrev Fld.HTH_REG_ADDR : Fld := ⟨0x300, 6, 0⟩
abbrev Fld.HTH_REG_EN : Fld := ⟨0x300, 7, 7⟩
abbrev Fld.HTH_REG_AVS : Fld := ⟨0x300, 8, 8⟩
abbrev Fld.HTH_REG_PORT : Fld := ⟨0x300, 11, 9⟩
abbrev Fld.HTH_REG_IOUT_DA : Fld := ⟨0x300, 31, 16⟩
abbrev Reg.HTH_SNS_IOD : Nat := 0x200
abbrev Fld.HTH_SNS_IOD_T : Fld := ⟨0x200, 15, 0⟩
abbrev Fld.HTH_SNS_IOD_VALID : Fld := ⟨0x200, 16, 16⟩
abbrev Fld.HTH_SNS_IOD_OPEN : Fld := ⟨0x200, 17, 17⟩
abbrev Fld.HTH_SNS_IOD_SHORT : Fld := ⟨0x200, 18, 18⟩
abbrev Fld.HTH_SNS_IOD_SUSPECT : Fld := ⟨0x200, 19, 19⟩


abbrev Reg.HTH_AG_STS : Nat := 0
abbrev Fld.HTH_AG_STS_BUDGET_DW : Fld := ⟨0, 11, 0⟩
abbrev Fld.HTH_AG_STS_POWER_DW : Fld := ⟨0, 27, 16⟩
abbrev Fld.HTH_AG_STS_SURVIVAL : Fld := ⟨0, 28, 28⟩
abbrev Fld.HTH_AG_STS_THERMAL : Fld := ⟨0, 29, 29⟩
abbrev Fld.HTH_AG_STS_TRIPPED : Fld := ⟨0, 30, 30⟩
abbrev Reg.HTH_AG_FLOOR : Nat := 8
abbrev Fld.HTH_AG_FLOOR_FLOOR_DW : Fld := ⟨8, 11, 0⟩
abbrev Fld.HTH_AG_FLOOR_DEMAND_DW : Fld := ⟨8, 27, 16⟩
abbrev Reg.HTH_SNS : Nat := 0x100
abbrev Fld.HTH_SNS_T : Fld := ⟨0x100, 15, 0⟩
abbrev Fld.HTH_SNS_VALID : Fld := ⟨0x100, 16, 16⟩
abbrev Fld.HTH_SNS_OPEN : Fld := ⟨0x100, 17, 17⟩
abbrev Fld.HTH_SNS_SHORT : Fld := ⟨0x100, 18, 18⟩
abbrev Fld.HTH_SNS_SUSPECT : Fld := ⟨0x100, 19, 19⟩


abbrev Reg.HTH_AG_DUTY : Nat := 4
abbrev Fld.HTH_AG_DUTY_DUTY0 : Fld := ⟨4, 3, 0⟩
abbrev Fld.HTH_AG_DUTY_DUTY1 : Fld := ⟨4, 7, 4⟩
abbrev Fld.HTH_AG_DUTY_DUTY2 : Fld := ⟨4, 11, 8⟩
abbrev Fld.HTH_AG_DUTY_DUTY3 : Fld := ⟨4, 15, 12⟩
abbrev Fld.HTH_AG_DUTY_DUTY4 : Fld := ⟨4, 19, 16⟩
abbrev Fld.HTH_AG_DUTY_DUTY5 : Fld := ⟨4, 23, 20⟩
abbrev Fld.HTH_AG_DUTY_DUTY6 : Fld := ⟨4, 27, 24⟩
abbrev Fld.HTH_AG_DUTY_DUTY7 : Fld := ⟨4, 31, 28⟩


abbrev Reg.RST_ID : Nat := 0
abbrev Fld.RST_ID_DIE : Fld := ⟨0, 2, 0⟩
abbrev Fld.RST_ID_STEPPING : Fld := ⟨0, 23, 16⟩
abbrev Reg.RST_REQ_TO : Nat := 0x64
abbrev Fld.RST_REQ_TO_US : Fld := ⟨0x64, 19, 0⟩
abbrev Reg.RST_ERR : Nat := 0x70
abbrev Fld.RST_ERR_REQ_TO : Fld := ⟨0x70, 0, 0⟩
abbrev Fld.RST_ERR_ABORT_FAIL : Fld := ⟨0x70, 1, 1⟩
abbrev Fld.RST_ERR_RESET_FAIL : Fld := ⟨0x70, 2, 2⟩
abbrev Reg.RST_TO_LOG : Nat := 0x74
abbrev Fld.RST_TO_LOG_INIT : Fld := ⟨0x74, 11, 0⟩
abbrev Fld.RST_TO_LOG_VALID : Fld := ⟨0x74, 31, 31⟩


abbrev Reg.RST_CMD : Nat := 4
abbrev Fld.RST_CMD_CORE : Fld := ⟨4, 2, 0⟩
abbrev Fld.RST_CMD_CLUSTER : Fld := ⟨4, 5, 3⟩
abbrev Fld.RST_CMD_LEVEL : Fld := ⟨4, 6, 6⟩
abbrev Fld.RST_CMD_GO : Fld := ⟨4, 8, 8⟩
abbrev Reg.RST_STS : Nat := 8
abbrev Fld.RST_STS_BUSY : Fld := ⟨8, 0, 0⟩
abbrev Reg.RST_GEN_CL : Nat := 0x10
abbrev Fld.RST_GEN_CL_GEN0 : Fld := ⟨0x10, 7, 0⟩
abbrev Fld.RST_GEN_CL_GEN1 : Fld := ⟨0x10, 15, 8⟩
abbrev Fld.RST_GEN_CL_GEN2 : Fld := ⟨0x10, 23, 16⟩
abbrev Fld.RST_GEN_CL_GEN3 : Fld := ⟨0x10, 31, 24⟩
abbrev Reg.RST_GEN_CO : Nat := 0x20
abbrev Fld.RST_GEN_CO_GEN0 : Fld := ⟨0x20, 7, 0⟩
abbrev Fld.RST_GEN_CO_GEN1 : Fld := ⟨0x20, 15, 8⟩
abbrev Fld.RST_GEN_CO_GEN2 : Fld := ⟨0x20, 23, 16⟩
abbrev Fld.RST_GEN_CO_GEN3 : Fld := ⟨0x20, 31, 24⟩
abbrev Reg.RST_HANG : Nat := 0x60
abbrev Fld.RST_HANG_WDOG_US : Fld := ⟨0x60, 15, 0⟩
abbrev Fld.RST_HANG_ABORT_US : Fld := ⟨0x60, 23, 16⟩
abbrev Reg.RST_TD : Nat := 0x68
abbrev Fld.RST_TD_CTX : Fld := ⟨0x68, 15, 0⟩
abbrev Fld.RST_TD_GEN : Fld := ⟨0x68, 23, 16⟩
abbrev Fld.RST_TD_ACTIVE : Fld := ⟨0x68, 24, 24⟩
abbrev Reg.RST_TD_OUT : Nat := 0x6c
abbrev Fld.RST_TD_OUT_CL : Fld := ⟨0x6c, 7, 0⟩
abbrev Fld.RST_TD_OUT_DIE : Fld := ⟨0x6c, 8, 8⟩
abbrev Fld.RST_TD_OUT_COUNT : Fld := ⟨0x6c, 31, 16⟩


abbrev Reg.RST_PKG_CTL : Nat := 4
abbrev Fld.RST_PKG_CTL_WARM : Fld := ⟨4, 0, 0⟩
abbrev Reg.RST_PKG_STS : Nat := 8
abbrev Fld.RST_PKG_STS_CAUSE : Fld := ⟨8, 2, 0⟩
abbrev Fld.RST_PKG_STS_PKG_GEN : Fld := ⟨8, 15, 8⟩
abbrev Reg.RST_DIE_CMD : Nat := 0xc
abbrev Fld.RST_DIE_CMD_DIE : Fld := ⟨0xc, 2, 0⟩
abbrev Fld.RST_DIE_CMD_GO : Fld := ⟨0xc, 8, 8⟩
abbrev Reg.RST_DIE_STS : Nat := 0x10
abbrev Fld.RST_DIE_STS_IN_RESET : Fld := ⟨0x10, 5, 0⟩
abbrev Fld.RST_DIE_STS_ISOLATED : Fld := ⟨0x10, 13, 8⟩
abbrev Reg.RST_DIE_GEN : Nat := 0x14
abbrev Fld.RST_DIE_GEN_GEN0 : Fld := ⟨0x14, 7, 0⟩
abbrev Fld.RST_DIE_GEN_GEN1 : Fld := ⟨0x14, 15, 8⟩
abbrev Fld.RST_DIE_GEN_GEN2 : Fld := ⟨0x14, 23, 16⟩
abbrev Fld.RST_DIE_GEN_GEN3 : Fld := ⟨0x14, 31, 24⟩
abbrev Reg.RST_PCH_GEN : Nat := 0x18
abbrev Fld.RST_PCH_GEN_GEN : Fld := ⟨0x18, 7, 0⟩
abbrev Reg.RST_MP_WDOG : Nat := 0x20
abbrev Fld.RST_MP_WDOG_MS : Fld := ⟨0x20, 15, 0⟩
abbrev Fld.RST_MP_WDOG_KICK : Fld := ⟨0x20, 16, 16⟩
abbrev Fld.RST_MP_WDOG_EN : Fld := ⟨0x20, 17, 17⟩
abbrev Reg.RST_FM_CLEAR : Nat := 0x24
abbrev Fld.RST_FM_CLEAR_VALUE : Fld := ⟨0x24, 15, 0⟩
abbrev Reg.RST_TD_LIMIT : Nat := 0x2c
abbrev Fld.RST_TD_LIMIT_VALUE : Fld := ⟨0x2c, 15, 0⟩
abbrev Reg.RST_TD_CTL : Nat := 0x28
abbrev Fld.RST_TD_CTL_CTX : Fld := ⟨0x28, 15, 0⟩
abbrev Fld.RST_TD_CTL_ACTIVE : Fld := ⟨0x28, 16, 16⟩
abbrev Fld.RST_TD_CTL_ESCALATED : Fld := ⟨0x28, 17, 17⟩
abbrev Reg.RST_DUMP_BASE : Nat := 0x30
abbrev Fld.RST_DUMP_BASE_BASE : Fld := ⟨0x30, 27, 0⟩
abbrev Reg.RST_DUMP_CTL : Nat := 0x34
abbrev Fld.RST_DUMP_CTL_GO : Fld := ⟨0x34, 0, 0⟩
abbrev Fld.RST_DUMP_CTL_AUTO : Fld := ⟨0x34, 1, 1⟩
abbrev Fld.RST_DUMP_CTL_OVERWRITE : Fld := ⟨0x34, 2, 2⟩
abbrev Reg.RST_DUMP_STS : Nat := 0x38
abbrev Fld.RST_DUMP_STS_BUSY : Fld := ⟨0x38, 0, 0⟩
abbrev Fld.RST_DUMP_STS_FRESH : Fld := ⟨0x38, 1, 1⟩
abbrev Fld.RST_DUMP_STS_CAUSE : Fld := ⟨0x38, 3, 2⟩
abbrev Fld.RST_DUMP_STS_UNREADABLE : Fld := ⟨0x38, 31, 16⟩
abbrev Reg.RST_DUMP_LEN : Nat := 0x3c
abbrev Fld.RST_DUMP_LEN_VALUE : Fld := ⟨0x3c, 31, 0⟩
abbrev Reg.RST_NOTICE_CNT : Nat := 0x40
abbrev Fld.RST_NOTICE_CNT_VALUE : Fld := ⟨0x40, 31, 0⟩
abbrev Reg.RST_NOTICE_RX : Nat := 0x44
abbrev Fld.RST_NOTICE_RX_VALUE : Fld := ⟨0x44, 31, 0⟩
abbrev Reg.RST_FM_MBOX_IN : Nat := 0x48
abbrev Fld.RST_FM_MBOX_IN_DATA : Fld := ⟨0x48, 31, 0⟩
abbrev Reg.RST_FM_MBOX_OUT : Nat := 0x4c
abbrev Fld.RST_FM_MBOX_OUT_DATA : Fld := ⟨0x4c, 31, 0⟩
abbrev Reg.RST_REQ_TO_IOD : Nat := 0x64
abbrev Fld.RST_REQ_TO_IOD_US : Fld := ⟨0x64, 19, 0⟩
abbrev Reg.RST_ERR_IOD : Nat := 0x70
abbrev Fld.RST_ERR_IOD_REQ_TO : Fld := ⟨0x70, 0, 0⟩
abbrev Reg.RST_TO_LOG_IOD : Nat := 0x74
abbrev Fld.RST_TO_LOG_IOD_INIT : Fld := ⟨0x74, 11, 0⟩
abbrev Fld.RST_TO_LOG_IOD_VALID : Fld := ⟨0x74, 31, 31⟩


abbrev Reg.SEC_ID : Nat := 0
abbrev Fld.SEC_ID_STEPPING : Fld := ⟨0, 23, 16⟩
abbrev Reg.SEC_STS : Nat := 4
abbrev Fld.SEC_STS_STAGE : Fld := ⟨4, 1, 0⟩
abbrev Fld.SEC_STS_OTP_LOCKED : Fld := ⟨4, 2, 2⟩
abbrev Fld.SEC_STS_TEST_UNLOCKED : Fld := ⟨4, 3, 3⟩
abbrev Fld.SEC_STS_SESSION : Fld := ⟨4, 6, 4⟩
abbrev Reg.SEC_ERR : Nat := 8
abbrev Fld.SEC_ERR_OTP_ECC : Fld := ⟨8, 0, 0⟩
abbrev Fld.SEC_ERR_AUTH : Fld := ⟨8, 1, 1⟩
abbrev Fld.SEC_ERR_FLASH_IO : Fld := ⟨8, 2, 2⟩
abbrev Fld.SEC_ERR_FLASH_DENY : Fld := ⟨8, 3, 3⟩
abbrev Fld.SEC_ERR_SR_REJECT : Fld := ⟨8, 4, 4⟩
abbrev Fld.SEC_ERR_START_FAIL : Fld := ⟨8, 5, 5⟩
abbrev Reg.SEC_UNITS : Nat := 0xc
abbrev Fld.SEC_UNITS_RUNNING : Fld := ⟨0xc, 7, 0⟩
abbrev Fld.SEC_UNITS_DEAD : Fld := ⟨0xc, 15, 8⟩
abbrev Fld.SEC_UNITS_PENDING : Fld := ⟨0xc, 23, 16⟩
abbrev Reg.SEC_BOOT_CNT : Nat := 0x10
abbrev Fld.SEC_BOOT_CNT_COUNT : Fld := ⟨0x10, 31, 0⟩
abbrev Reg.SEC_SECURE_BASE : Nat := 0x14
abbrev Fld.SEC_SECURE_BASE_BASE : Fld := ⟨0x14, 27, 0⟩
abbrev Reg.SEC_XSPI : Nat := 0x18
abbrev Fld.SEC_XSPI_OCTAL : Fld := ⟨0x18, 0, 0⟩
abbrev Fld.SEC_XSPI_SIZE_MB : Fld := ⟨0x18, 24, 16⟩
abbrev Reg.SEC_FLASH_CMD : Nat := 0x1c
abbrev Fld.SEC_FLASH_CMD_OP : Fld := ⟨0x1c, 1, 0⟩
abbrev Fld.SEC_FLASH_CMD_GO : Fld := ⟨0x1c, 2, 2⟩
abbrev Reg.SEC_FLASH_ADDR : Nat := 0x20
abbrev Fld.SEC_FLASH_ADDR_ADDR : Fld := ⟨0x20, 27, 0⟩
abbrev Reg.SEC_FLASH_SRC : Nat := 0x24
abbrev Fld.SEC_FLASH_SRC_OFF : Fld := ⟨0x24, 27, 0⟩
abbrev Reg.SEC_FLASH_STS : Nat := 0x28
abbrev Fld.SEC_FLASH_STS_BUSY : Fld := ⟨0x28, 0, 0⟩
abbrev Fld.SEC_FLASH_STS_FAIL : Fld := ⟨0x28, 1, 1⟩
abbrev Reg.SEC_OTP_LOCK : Nat := 0x2c
abbrev Fld.SEC_OTP_LOCK_LOCK : Fld := ⟨0x2c, 0, 0⟩
abbrev Reg.SEC_MEAS : Nat := 0x100
abbrev Fld.SEC_MEAS_WORD : Fld := ⟨0x100, 31, 0⟩


abbrev Reg.TST_ID : Nat := 0
abbrev Fld.TST_ID_DIE : Fld := ⟨0, 2, 0⟩
abbrev Fld.TST_ID_STEPPING : Fld := ⟨0, 23, 16⟩
abbrev Reg.TST_LOCK : Nat := 4
abbrev Fld.TST_LOCK_LOCKED : Fld := ⟨4, 0, 0⟩
abbrev Reg.TST_STS : Nat := 8
abbrev Fld.TST_STS_LC : Fld := ⟨8, 1, 0⟩
abbrev Fld.TST_STS_UNLOCKED : Fld := ⟨8, 2, 2⟩
abbrev Fld.TST_STS_PERT_ACT : Fld := ⟨8, 7, 4⟩
abbrev Fld.TST_STS_INJ_ARMED : Fld := ⟨8, 11, 8⟩
abbrev Reg.TST_ERR : Nat := 0xc
abbrev Fld.TST_ERR_CFG : Fld := ⟨0xc, 0, 0⟩
abbrev Reg.TST_PERT_W0 : Nat := 0x100
abbrev Fld.TST_PERT_W0_KIND : Fld := ⟨0x100, 1, 0⟩
abbrev Fld.TST_PERT_W0_DIR : Fld := ⟨0x100, 2, 2⟩
abbrev Fld.TST_PERT_W0_TARGET : Fld := ⟨0x100, 7, 3⟩
abbrev Fld.TST_PERT_W0_AMOUNT : Fld := ⟨0x100, 15, 8⟩
abbrev Reg.TST_PERT_W1 : Nat := 0x104
abbrev Fld.TST_PERT_W1_PERIOD : Fld := ⟨0x104, 15, 0⟩
abbrev Reg.TST_INJ_W0 : Nat := 0x200
abbrev Fld.TST_INJ_W0_ARM : Fld := ⟨0x200, 0, 0⟩
abbrev Fld.TST_INJ_W0_MODE : Fld := ⟨0x200, 1, 1⟩
abbrev Fld.TST_INJ_W0_SEV : Fld := ⟨0x200, 3, 2⟩
abbrev Fld.TST_INJ_W0_TARGET : Fld := ⟨0x200, 8, 4⟩
abbrev Fld.TST_INJ_W0_EVERY : Fld := ⟨0x200, 31, 16⟩
abbrev Reg.TST_INJ_W1 : Nat := 0x204
abbrev Fld.TST_INJ_W1_CLUSTER : Fld := ⟨0x204, 2, 0⟩
abbrev Fld.TST_INJ_W1_CORE : Fld := ⟨0x204, 5, 3⟩
abbrev Fld.TST_INJ_W1_ENGINE : Fld := ⟨0x204, 7, 6⟩
abbrev Fld.TST_INJ_W1_PORT : Fld := ⟨0x204, 10, 8⟩
abbrev Fld.TST_INJ_W1_LEDGER : Fld := ⟨0x204, 14, 11⟩
abbrev Fld.TST_INJ_W1_ADDR_EN : Fld := ⟨0x204, 15, 15⟩
abbrev Reg.TST_INJ_W2 : Nat := 0x208
abbrev Fld.TST_INJ_W2_ADDR_LO : Fld := ⟨0x208, 31, 0⟩
abbrev Reg.TST_INJ_W3 : Nat := 0x20c
abbrev Fld.TST_INJ_W3_ADDR_HI : Fld := ⟨0x20c, 9, 0⟩
abbrev Fld.TST_INJ_W3_APPLIED : Fld := ⟨0x20c, 31, 16⟩


abbrev Reg.TST_TEL_W0 : Nat := 0x400
abbrev Fld.TST_TEL_W0_ADDR_LO : Fld := ⟨0x400, 31, 2⟩
abbrev Reg.TST_TEL_W1 : Nat := 0x404
abbrev Fld.TST_TEL_W1_ADDR_HI : Fld := ⟨0x404, 15, 0⟩
abbrev Fld.TST_TEL_W1_EN : Fld := ⟨0x404, 16, 16⟩

end Sys2Proof.Machine
end

