-- ==== Sys2Proof/Machine/RegTable.lean ====
section
/-!
DEFINITION. Machine/RegTable.lean: every register table of the spec as data: offset in its block, strides and
counts, and each field's bits, access code (R12) and reset value. Reserved fields are the bits no field names;
they read as zero (R12). The resets that depend on position, part or number are in Machine/RegMap.lean.
-/
namespace Sys2Proof.Machine

/-- The access codes of R12; RSV bits are those no field names. -/
inductive Access where
  | rw | ro | w1c | wo | rwl
  deriving DecidableEq, Repr

/-- One field of a register table: bits [hi:lo], access code, reset value. -/
structure RegField where
  name : String
  hi : Nat
  lo : Nat
  acc : Access
  reset : Nat
  deriving DecidableEq, Repr

/-- One register, or a family repeated `n1` times at stride `s1` and, within each, `n2` times at stride `s2`. -/
structure RegSpec where
  name : String
  off : Nat
  s1 : Nat
  n1 : Nat
  s2 : Nat
  n2 : Nat
  fields : List RegField
  deriving DecidableEq, Repr

def tbl_eng_0 : List RegSpec := [
  ⟨"ENG_ID", 0, 0, 1, 0, 1,
    [⟨"ENGINE", 1, 0, .ro, 0⟩, ⟨"CORE", 4, 2, .ro, 0⟩, ⟨"CLUSTER", 7, 5, .ro, 0⟩, ⟨"DIE", 9, 8, .ro, 0⟩, ⟨"STEPPING", 23, 16, .ro, 0xb0⟩]⟩,
  ⟨"ENG_CTL", 4, 0, 1, 0, 1,
    [⟨"EN", 0, 0, .rw, 1⟩, ⟨"CLKGATE_AUTO", 1, 1, .rw, 1⟩]⟩,
  ⟨"ENG_STS", 8, 0, 1, 0, 1,
    [⟨"MMA_BUSY", 0, 0, .ro, 0⟩, ⟨"WB_BUSY", 1, 1, .ro, 0⟩, ⟨"QDEPTH", 4, 2, .ro, 0⟩, ⟨"HALT", 5, 5, .ro, 0⟩, ⟨"BANK_INT", 15, 8, .ro, 0⟩]⟩,
  ⟨"ENG_ERR", 0xc, 0, 1, 0, 1,
    [⟨"FMT", 0, 0, .w1c, 0⟩, ⟨"ADDR", 1, 1, .w1c, 0⟩, ⟨"SPMETA", 2, 2, .w1c, 0⟩, ⟨"DIS", 3, 3, .w1c, 0⟩, ⟨"NAN", 4, 4, .w1c, 0⟩, ⟨"FOVF", 5, 5, .w1c, 0⟩, ⟨"ISAT", 6, 6, .w1c, 0⟩, ⟨"OSAT", 7, 7, .w1c, 0⟩]⟩,
  ⟨"ENG_ERR_MASK", 0x10, 0, 1, 0, 1,
    [⟨"NAN_F", 4, 4, .rw, 0⟩, ⟨"FOVF_F", 5, 5, .rw, 0⟩, ⟨"ISAT_F", 6, 6, .rw, 0⟩, ⟨"OSAT_F", 7, 7, .rw, 0⟩]⟩,
  ⟨"ENG_MODE", 0x14, 0, 1, 0, 1,
    [⟨"AFMT", 3, 0, .rw, 0⟩, ⟨"WFMT", 7, 4, .rw, 0⟩, ⟨"SPARSE", 8, 8, .rw, 0⟩, ⟨"BANK", 11, 9, .rw, 0⟩, ⟨"ACCUM", 12, 12, .rw, 0⟩]⟩,
  ⟨"ENG_K", 0x18, 0, 1, 0, 1,
    [⟨"K", 15, 0, .rw, 0⟩]⟩,
  ⟨"ENG_A_ADDR", 0x1c, 0, 1, 0, 1,
    [⟨"ADDR", 16, 0, .rw, 0⟩]⟩]

def tbl_eng_1 : List RegSpec := [
  ⟨"ENG_W_ADDR", 0x20, 0, 1, 0, 1,
    [⟨"ADDR", 16, 0, .rw, 0⟩]⟩,
  ⟨"ENG_META_ADDR", 0x24, 0, 1, 0, 1,
    [⟨"ADDR", 16, 0, .rw, 0⟩]⟩,
  ⟨"ENG_AS_ADDR", 0x28, 0, 1, 0, 1,
    [⟨"ADDR", 16, 0, .rw, 0⟩]⟩,
  ⟨"ENG_WS_ADDR", 0x2c, 0, 1, 0, 1,
    [⟨"ADDR", 16, 0, .rw, 0⟩]⟩,
  ⟨"ENG_WB_SB_ADDR", 0x3c, 0, 1, 0, 1,
    [⟨"ADDR", 16, 0, .rw, 0⟩]⟩,
  ⟨"ENG_WB_CTL", 0x30, 0, 1, 0, 1,
    [⟨"OFMT", 3, 0, .rw, 0xa⟩, ⟨"RND", 5, 4, .rw, 0⟩, ⟨"SAT", 6, 6, .rw, 1⟩, ⟨"FTZ", 7, 7, .rw, 0⟩, ⟨"SCALE_EN", 8, 8, .rw, 0⟩, ⟨"BIAS_EN", 9, 9, .rw, 0⟩, ⟨"BANK", 12, 10, .rw, 0⟩, ⟨"DEST", 13, 13, .rw, 0⟩]⟩,
  ⟨"ENG_WB_ADDR", 0x34, 0, 1, 0, 1,
    [⟨"ADDR", 19, 0, .rw, 0⟩]⟩,
  ⟨"ENG_WB_STRIDE", 0x38, 0, 1, 0, 1,
    [⟨"STRIDE", 19, 0, .rw, 0⟩]⟩]

def tbl_eng_2 : List RegSpec := [
  ⟨"ENG_WB_XS_ADDR", 0x40, 0, 1, 0, 1,
    [⟨"ADDR", 19, 0, .rw, 0⟩]⟩,
  ⟨"ENG_SR_SEED", 0x44, 0, 1, 0, 1,
    [⟨"SEED", 31, 0, .rw, 1⟩]⟩,
  ⟨"ENG_GO", 0x48, 0, 1, 0, 1,
    [⟨"MMA", 0, 0, .wo, 0⟩, ⟨"WB", 1, 1, .wo, 0⟩, ⟨"LOAD", 2, 2, .wo, 0⟩]⟩,
  ⟨"ENG_MMA_CNT", 0x4c, 0, 1, 0, 1,
    [⟨"COUNT", 31, 0, .ro, 0⟩]⟩]

def tbl_eng : List RegSpec := tbl_eng_0 ++ tbl_eng_1 ++ tbl_eng_2

def tbl_core_0 : List RegSpec := [
  ⟨"CORE_ID", 0, 0, 1, 0, 1,
    [⟨"CORE", 2, 0, .ro, 0⟩, ⟨"CLUSTER", 5, 3, .ro, 0⟩, ⟨"DIE", 7, 6, .ro, 0⟩, ⟨"STEPPING", 23, 16, .ro, 0xb0⟩]⟩,
  ⟨"CORE_CTL", 4, 0, 1, 0, 1,
    [⟨"FENCE", 0, 0, .rw, 1⟩]⟩,
  ⟨"CORE_STS", 8, 0, 1, 0, 1,
    [⟨"SEQ_RUN", 0, 0, .ro, 0⟩, ⟨"VEC_BUSY", 1, 1, .ro, 0⟩, ⟨"PREEMPT_PEND", 2, 2, .ro, 0⟩, ⟨"FAULT", 3, 3, .ro, 0⟩]⟩,
  ⟨"CORE_STEP", 0xc, 0, 1, 0, 1,
    [⟨"TAG", 14, 0, .ro, 0⟩, ⟨"GEN", 22, 15, .ro, 0⟩, ⟨"CLASS", 25, 23, .ro, 0⟩]⟩,
  ⟨"CORE_CTXT", 0x10, 0, 1, 0, 1,
    [⟨"CTX", 15, 0, .ro, 0⟩, ⟨"CTX_GEN", 23, 16, .ro, 0⟩]⟩,
  ⟨"CORE_SEQ_PC", 0x14, 0, 1, 0, 1,
    [⟨"PC", 19, 0, .ro, 0⟩]⟩,
  ⟨"CORE_SEQ_ENTRY", 0x18, 0, 1, 0, 1,
    [⟨"ENTRY", 19, 0, .rw, 0⟩]⟩,
  ⟨"CORE_FAULT", 0x1c, 0, 1, 0, 1,
    [⟨"ILLOP", 0, 0, .w1c, 0⟩, ⟨"SEQ_ADDR", 1, 1, .w1c, 0⟩, ⟨"ENG", 2, 2, .w1c, 0⟩, ⟨"VEC_FMT", 3, 3, .w1c, 0⟩, ⟨"VEC_ADDR", 4, 4, .w1c, 0⟩, ⟨"SM_ACCESS", 5, 5, .w1c, 0⟩, ⟨"SM_POISON", 6, 6, .w1c, 0⟩, ⟨"SM_DESC", 7, 7, .w1c, 0⟩, ⟨"STREAM", 8, 8, .w1c, 0⟩, ⟨"WDOG", 9, 9, .w1c, 0⟩]⟩]

def tbl_core_1 : List RegSpec := [
  ⟨"CORE_FAULT_INFO", 0x20, 0, 1, 0, 1,
    [⟨"PC", 19, 0, .ro, 0⟩, ⟨"ENGINE", 21, 20, .ro, 0⟩]⟩,
  ⟨"CORE_WDOG", 0x24, 0, 1, 0, 1,
    [⟨"LIMIT", 23, 0, .rw, 0⟩]⟩,
  ⟨"CORE_CMD", 0x28, 0, 1, 0, 1,
    [⟨"START", 0, 0, .wo, 0⟩, ⟨"PREEMPT", 1, 1, .wo, 0⟩, ⟨"RESUME", 2, 2, .wo, 0⟩, ⟨"ABORT", 3, 3, .wo, 0⟩]⟩,
  ⟨"CORE_SM_STS", 0x30, 4, 2, 0, 1,
    [⟨"QDEPTH", 4, 0, .ro, 0⟩, ⟨"HALT", 5, 5, .ro, 0⟩, ⟨"STREAMS", 10, 8, .ro, 0⟩, ⟨"DONE", 31, 16, .ro, 0⟩]⟩,
  ⟨"CORE_CYC_LO", 0x40, 0, 1, 0, 1,
    [⟨"COUNT", 31, 0, .ro, 0⟩]⟩,
  ⟨"CORE_CYC_HI", 0x44, 0, 1, 0, 1,
    [⟨"COUNT", 31, 0, .ro, 0⟩]⟩,
  ⟨"CORE_SEQ_S", 0x100, 4, 0x20, 0, 1,
    [⟨"VALUE", 31, 0, .ro, 0⟩]⟩]

def tbl_core : List RegSpec := tbl_core_0 ++ tbl_core_1

def tbl_cl : List RegSpec := [
  ⟨"CLU_ID", 0, 0, 1, 0, 1,
    [⟨"CLUSTER", 2, 0, .ro, 0⟩, ⟨"DIE", 4, 3, .ro, 0⟩, ⟨"STEPPING", 23, 16, .ro, 0xb0⟩]⟩,
  ⟨"CLU_CTL", 4, 0, 1, 0, 1,
    [⟨"CORE_EN", 7, 0, .rw, 0xff⟩, ⟨"ATTN_EN", 8, 8, .rw, 1⟩]⟩,
  ⟨"CLU_STS", 8, 0, 1, 0, 1,
    [⟨"CORE_BUSY", 7, 0, .ro, 0⟩, ⟨"ATTN_BUSY", 8, 8, .ro, 0⟩, ⟨"PWR", 10, 9, .ro, 0⟩, ⟨"LND_INIT_BUSY", 11, 11, .ro, 0⟩]⟩,
  ⟨"CLU_CLK", 0xc, 0, 1, 0, 1,
    [⟨"CUR_MHZ", 11, 0, .ro, 0x898⟩, ⟨"TGT_MHZ", 27, 16, .ro, 0x898⟩]⟩,
  ⟨"CLU_LND", 0x10, 0, 1, 0, 1,
    [⟨"INIT", 0, 0, .wo, 0⟩]⟩,
  ⟨"CLU_ERR", 0x14, 0, 1, 0, 1,
    [⟨"LND_ADDR", 0, 0, .w1c, 0⟩, ⟨"NET_STALL", 1, 1, .w1c, 0⟩]⟩]

def tbl_dcb_0 : List RegSpec := [
  ⟨"CLU_DIE_ID", 0, 0, 1, 0, 1,
    [⟨"DIE", 1, 0, .ro, 0⟩, ⟨"STEPPING", 23, 16, .ro, 0xb0⟩]⟩,
  ⟨"CLU_DIE_CTL", 4, 0, 1, 0, 1,
    [⟨"CLUSTER_EN", 7, 0, .rw, 0xff⟩]⟩,
  ⟨"CLU_DC_STS", 8, 0, 1, 0, 1,
    [⟨"DC_LOADED", 0, 0, .ro, 0⟩, ⟨"DC_RUN", 1, 1, .ro, 0⟩, ⟨"DC_FAULT", 2, 2, .ro, 0⟩, ⟨"BEAT", 31, 16, .ro, 0⟩]⟩,
  ⟨"CLU_DC_MBOX_IN", 0x10, 0, 1, 0, 1,
    [⟨"DATA", 31, 0, .rw, 0⟩]⟩,
  ⟨"CLU_DC_MBOX_OUT", 0x14, 0, 1, 0, 1,
    [⟨"DATA", 31, 0, .rw, 0⟩]⟩,
  ⟨"CLU_NET_ERR", 0x18, 0, 1, 0, 1,
    [⟨"DECODE", 0, 0, .w1c, 0⟩, ⟨"ROUTE", 1, 1, .w1c, 0⟩]⟩,
  ⟨"CLU_STRM_W0", 0x8000, 0x20, 0x400, 0, 1,
    [⟨"VALID", 0, 0, .rw, 0⟩, ⟨"OPEN", 1, 1, .rw, 0⟩, ⟨"CKPT", 2, 2, .rw, 0⟩, ⟨"RING_CM", 3, 3, .rw, 0⟩, ⟨"ENG_MASK", 7, 4, .rw, 0⟩, ⟨"SLOTS", 14, 8, .rw, 0⟩, ⟨"SLOTSZ", 22, 16, .rw, 0⟩]⟩,
  ⟨"CLU_STRM_W1", 0x8004, 0x20, 0x400, 0, 1,
    [⟨"PROD", 9, 0, .rw, 0⟩, ⟨"CONS", 25, 16, .rw, 0⟩]⟩]

def tbl_dcb_1 : List RegSpec := [
  ⟨"CLU_STRM_W2", 0x8008, 0x20, 0x400, 0, 1,
    [⟨"CTX", 15, 0, .rw, 0⟩, ⟨"CTX_GEN", 23, 16, .rw, 0⟩, ⟨"CLASS", 26, 24, .rw, 0⟩]⟩,
  ⟨"CLU_STRM_W3", 0x800c, 0x20, 0x400, 0, 1,
    [⟨"RING_BASE", 19, 0, .rw, 0⟩]⟩,
  ⟨"CLU_STRM_W4", 0x8010, 0x20, 0x400, 0, 1,
    [⟨"HEAD", 5, 0, .ro, 0⟩, ⟨"TAIL", 13, 8, .ro, 0⟩, ⟨"FILLED", 22, 16, .ro, 0⟩, ⟨"CKPT_CRED", 30, 24, .rw, 0⟩]⟩,
  ⟨"CLU_STRM_W5", 0x8014, 0x20, 0x400, 0, 1,
    [⟨"SENT", 31, 0, .ro, 0⟩]⟩,
  ⟨"CLU_STRM_W6", 0x8018, 0x20, 0x400, 0, 1,
    [⟨"RELEASED", 31, 0, .ro, 0⟩]⟩,
  ⟨"CLU_STRM_W7", 0x801c, 0x20, 0x400, 0, 1,
    []⟩]

def tbl_dcb : List RegSpec := tbl_dcb_0 ++ tbl_dcb_1

def tbl_pan_0 : List RegSpec := [
  ⟨"PAN_ID", 0, 0, 1, 0, 1,
    [⟨"DIE", 1, 0, .ro, 0⟩, ⟨"STEPPING", 23, 16, .ro, 0xb0⟩]⟩,
  ⟨"PAN_CTL", 4, 0, 1, 0, 1,
    [⟨"EN", 0, 0, .rw, 0⟩]⟩,
  ⟨"PAN_STS", 8, 0, 1, 0, 1,
    [⟨"READY", 0, 0, .ro, 0⟩, ⟨"SCRUB_BUSY", 1, 1, .ro, 0⟩, ⟨"TCMD_BUSY", 2, 2, .ro, 0⟩, ⟨"LEASES", 11, 8, .ro, 0⟩]⟩,
  ⟨"PAN_ERR", 0xc, 0, 1, 0, 1,
    [⟨"CFG", 0, 0, .w1c, 0⟩, ⟨"LEDGER", 1, 1, .w1c, 0⟩, ⟨"FW_REJECT", 2, 2, .w1c, 0⟩, ⟨"POISON", 3, 3, .w1c, 0⟩]⟩,
  ⟨"PAN_META_BASE", 0x10, 0, 1, 0, 1,
    [⟨"BASE", 26, 0, .rw, 0⟩]⟩,
  ⟨"PAN_SCRUB", 0x14, 0, 1, 0, 1,
    [⟨"RATE", 7, 0, .rw, 0x10⟩]⟩,
  ⟨"PAN_TRACKS", 0x18, 0, 1, 0, 1,
    [⟨"OPEN", 16, 0, .ro, 0⟩]⟩,
  ⟨"PAN_POOL_BASE", 0x40, 0x20, 4, 0, 1,
    [⟨"BASE", 26, 0, .rw, 0⟩]⟩]

def tbl_pan_1 : List RegSpec := [
  ⟨"PAN_POOL_CFG", 0x44, 0x20, 4, 0, 1,
    [⟨"EN", 0, 0, .rw, 0⟩, ⟨"FMT", 2, 1, .rw, 0⟩, ⟨"DM1", 7, 4, .rw, 0⟩, ⟨"PAGES", 31, 8, .rw, 0⟩]⟩,
  ⟨"PAN_POOL_FREE", 0x48, 0x20, 4, 0, 1,
    [⟨"COUNT", 23, 0, .ro, 0⟩]⟩,
  ⟨"PAN_POOL_SCRB", 0x4c, 0x20, 4, 0, 1,
    [⟨"COUNT", 23, 0, .ro, 0⟩]⟩,
  ⟨"PAN_POOL_RSVD", 0x50, 0x20, 4, 0, 1,
    [⟨"COUNT", 23, 0, .ro, 0⟩]⟩,
  ⟨"PAN_POOL_USED", 0x54, 0x20, 4, 0, 1,
    [⟨"COUNT", 23, 0, .ro, 0⟩]⟩,
  ⟨"PAN_TCMD_ARG0", 0x100, 0, 1, 0, 1,
    [⟨"TRACK", 15, 0, .rw, 0⟩, ⟨"CTX", 31, 16, .rw, 0⟩]⟩,
  ⟨"PAN_TCMD_ARG1", 0x104, 0, 1, 0, 1,
    [⟨"POOL", 1, 0, .rw, 0⟩, ⟨"LAYERS_M1", 7, 2, .rw, 0⟩, ⟨"RING_M1", 15, 8, .rw, 0⟩, ⟨"WINDOW", 28, 16, .rw, 0⟩]⟩,
  ⟨"PAN_TCMD_ARG2", 0x108, 0, 1, 0, 1,
    [⟨"CTX_GEN", 7, 0, .rw, 0⟩]⟩]

def tbl_pan_2 : List RegSpec := [
  ⟨"PAN_TCMD_GO", 0x10c, 0, 1, 0, 1,
    [⟨"OP", 2, 0, .wo, 0⟩]⟩,
  ⟨"PAN_TCMD_STS", 0x110, 0, 1, 0, 1,
    [⟨"BUSY", 0, 0, .ro, 0⟩, ⟨"RESULT", 7, 4, .ro, 0⟩]⟩,
  ⟨"PAN_TCMD_RES0", 0x114, 0, 1, 0, 1,
    [⟨"VALUE", 31, 0, .ro, 0⟩]⟩,
  ⟨"PAN_TCMD_RES1", 0x118, 0, 1, 0, 1,
    [⟨"VALUE", 31, 0, .ro, 0⟩]⟩]

def tbl_pan : List RegSpec := tbl_pan_0 ++ tbl_pan_1 ++ tbl_pan_2

def tbl_att : List RegSpec := [
  ⟨"PAN_ATT_CTL", 0, 0, 1, 0, 1,
    [⟨"SEQ_RST", 0, 0, .wo, 0⟩]⟩,
  ⟨"PAN_ATT_STS", 4, 0, 1, 0, 1,
    [⟨"APP_BUSY", 0, 0, .ro, 0⟩, ⟨"ATT_BUSY", 1, 1, .ro, 0⟩, ⟨"POSTED", 15, 8, .ro, 0⟩]⟩,
  ⟨"PAN_ATT_ERR", 8, 0, 1, 0, 1,
    [⟨"BAD_CMD", 0, 0, .w1c, 0⟩, ⟨"ACCESS", 1, 1, .w1c, 0⟩, ⟨"POISON", 2, 2, .w1c, 0⟩, ⟨"CHECK", 3, 3, .w1c, 0⟩, ⟨"SEQ_SKIP", 4, 4, .w1c, 0⟩, ⟨"NOT_HELD", 5, 5, .w1c, 0⟩]⟩,
  ⟨"PAN_ATT_SEQ0", 0xc, 0, 1, 0, 1,
    [⟨"EXPECT", 31, 0, .ro, 0x1010101⟩]⟩,
  ⟨"PAN_ATT_SEQ1", 0x10, 0, 1, 0, 1,
    [⟨"EXPECT", 31, 0, .ro, 0x1010101⟩]⟩,
  ⟨"PAN_ATT_CNT", 0x14, 0, 1, 0, 1,
    [⟨"COUNT", 31, 0, .ro, 0⟩]⟩,
  ⟨"PAN_ATT_BLK", 0x18, 0, 1, 0, 1,
    [⟨"COUNT", 31, 0, .ro, 0⟩]⟩]

def tbl_memd_0 : List RegSpec := [
  ⟨"MEM_ID", 0, 0, 1, 0, 1,
    [⟨"DIE", 1, 0, .ro, 0⟩, ⟨"STEPPING", 23, 16, .ro, 0xb0⟩]⟩,
  ⟨"MEM_DIE_CTL", 4, 0, 1, 0, 1,
    [⟨"ECC_EN", 0, 0, .rw, 0⟩, ⟨"INIT", 1, 1, .wo, 0⟩, ⟨"LOG_CE", 2, 2, .rw, 0⟩, ⟨"PATROL_EN", 3, 3, .rw, 0⟩]⟩,
  ⟨"MEM_DIE_STS", 8, 0, 1, 0, 1,
    [⟨"TRAINED", 0, 0, .ro, 0⟩, ⟨"INIT_DONE", 1, 1, .ro, 0⟩, ⟨"SR_ALL", 2, 2, .ro, 0⟩, ⟨"ECC_ACTIVE", 3, 3, .ro, 0⟩, ⟨"CH_FAIL", 31, 16, .ro, 0⟩]⟩,
  ⟨"MEM_DIE_ERR", 0xc, 0, 1, 0, 1,
    [⟨"CE", 0, 0, .w1c, 0⟩, ⟨"UE_DATA", 1, 1, .w1c, 0⟩, ⟨"UE_ADDR", 2, 2, .w1c, 0⟩, ⟨"POISON_RD", 3, 3, .w1c, 0⟩, ⟨"TRAIN_FAIL", 4, 4, .w1c, 0⟩, ⟨"HOT4X", 5, 5, .w1c, 0⟩, ⟨"LOG_OVF", 6, 6, .w1c, 0⟩, ⟨"SRAM_CE", 7, 7, .w1c, 0⟩, ⟨"SRAM_UE", 8, 8, .w1c, 0⟩]⟩,
  ⟨"MEM_CE_THRESH", 0x10, 0, 1, 0, 1,
    [⟨"VALUE", 31, 0, .rw, 0xffffffff⟩]⟩,
  ⟨"MEM_CE_CNT", 0x14, 0, 1, 0, 1,
    [⟨"VALUE", 31, 0, .rw, 0⟩]⟩,
  ⟨"MEM_UE_CNT", 0x18, 0, 1, 0, 1,
    [⟨"VALUE", 31, 0, .rw, 0⟩]⟩,
  ⟨"MEM_PATROL", 0x1c, 0, 1, 0, 1,
    [⟨"INTERVAL", 15, 0, .rw, 0x40⟩]⟩]

def tbl_memd_1 : List RegSpec := [
  ⟨"MEM_ELOG_STS", 0x20, 0, 1, 0, 1,
    [⟨"COUNT", 4, 0, .ro, 0⟩, ⟨"OVF", 15, 8, .ro, 0⟩]⟩,
  ⟨"MEM_ELOG_CLR", 0x24, 0, 1, 0, 1,
    [⟨"CLR", 0, 0, .wo, 0⟩]⟩,
  ⟨"MEM_SRAM_ERR", 0x28, 0, 1, 0, 1,
    [⟨"CLUSTER", 2, 0, .ro, 0⟩, ⟨"CORE", 5, 3, .ro, 0⟩, ⟨"KIND", 7, 6, .ro, 0⟩, ⟨"ENGINE", 9, 8, .ro, 0⟩]⟩,
  ⟨"MEM_ELOG_W0", 0x100, 0x10, 0x10, 0, 1,
    [⟨"TYPE", 3, 0, .ro, 0⟩, ⟨"CH", 7, 4, .ro, 0⟩, ⟨"BANK", 11, 8, .ro, 0⟩, ⟨"ROW", 27, 12, .ro, 0⟩]⟩,
  ⟨"MEM_ELOG_W1", 0x104, 0x10, 0x10, 0, 1,
    [⟨"COLUMN", 10, 0, .ro, 0⟩, ⟨"SYN", 31, 16, .ro, 0⟩]⟩,
  ⟨"MEM_ELOG_W2", 0x108, 0x10, 0x10, 0, 1,
    [⟨"INITIATOR", 11, 0, .ro, 0⟩, ⟨"NO_INIT", 12, 12, .ro, 0⟩, ⟨"CTX", 31, 16, .ro, 0⟩]⟩,
  ⟨"MEM_ELOG_W3", 0x10c, 0x10, 0x10, 0, 1,
    [⟨"SEQ", 31, 0, .ro, 0⟩]⟩,
  ⟨"MEM_CH_CTL", 0x1000, 0x100, 0x10, 0, 1,
    [⟨"IDLE_CLOSE", 5, 0, .rw, 0x10⟩, ⟨"REF_FORCE2X", 6, 6, .rw, 0⟩]⟩]

def tbl_memd_2 : List RegSpec := [
  ⟨"MEM_CH_STS", 0x1004, 0x100, 0x10, 0, 1,
    [⟨"TRAINED", 0, 0, .ro, 0⟩, ⟨"FAIL", 1, 1, .ro, 0⟩, ⟨"SR", 2, 2, .ro, 0⟩, ⟨"REF2X", 3, 3, .ro, 0⟩, ⟨"REF4X", 4, 4, .ro, 0⟩, ⟨"STAGED", 14, 8, .ro, 0⟩, ⟨"MR4_RATE", 18, 16, .ro, 0⟩]⟩,
  ⟨"MEM_CH_TRN", 0x1010, 0x100, 0x10, 0, 1,
    [⟨"RD_EYE", 7, 0, .ro, 0⟩, ⟨"WR_EYE", 15, 8, .ro, 0⟩, ⟨"RD_VREF", 23, 16, .ro, 0⟩, ⟨"WR_VREF", 31, 24, .ro, 0⟩]⟩,
  ⟨"MEM_CH_RDCNT", 0x1020, 0x100, 0x10, 0, 1,
    [⟨"COUNT", 31, 0, .ro, 0⟩]⟩,
  ⟨"MEM_CH_WRCNT", 0x1024, 0x100, 0x10, 0, 1,
    [⟨"COUNT", 31, 0, .ro, 0⟩]⟩,
  ⟨"MEM_CH_REFCNT", 0x1028, 0x100, 0x10, 0, 1,
    [⟨"COUNT", 31, 0, .ro, 0⟩]⟩]

def tbl_memd : List RegSpec := tbl_memd_0 ++ tbl_memd_1 ++ tbl_memd_2

def tbl_memi : List RegSpec := [
  ⟨"MEM_IL_CTL", 0, 0, 1, 0, 1,
    [⟨"EN", 0, 0, .rw, 0⟩, ⟨"S_GIB", 6, 1, .rw, 0⟩, ⟨"B_GIB", 12, 8, .rw, 0⟩]⟩,
  ⟨"MEM_IL_STS", 4, 0, 1, 0, 1,
    [⟨"SYNC", 0, 0, .ro, 1⟩, ⟨"CFG_ERR", 1, 1, .w1c, 0⟩]⟩,
  ⟨"MEM_SC_CTL", 0x10, 0, 1, 0, 1,
    [⟨"EN", 0, 0, .rw, 1⟩, ⟨"INV", 1, 1, .wo, 0⟩, ⟨"INV_BUSY", 2, 2, .ro, 0⟩]⟩,
  ⟨"MEM_SC_WAYS01", 0x14, 0, 1, 0, 1,
    [⟨"MASK_LO", 15, 0, .rw, 0xff⟩, ⟨"MASK_HI", 31, 16, .rw, 0xff00⟩]⟩,
  ⟨"MEM_SC_WAYS23", 0x18, 0, 1, 0, 1,
    [⟨"MASK_LO", 15, 0, .rw, 0⟩, ⟨"MASK_HI", 31, 16, .rw, 0⟩]⟩,
  ⟨"MEM_SC_ERR", 0x1c, 0, 1, 0, 1,
    [⟨"CE", 0, 0, .w1c, 0⟩, ⟨"UE", 1, 1, .w1c, 0⟩]⟩,
  ⟨"MEM_SC_HIT", 0x20, 0, 1, 0, 1,
    [⟨"COUNT", 31, 0, .ro, 0⟩]⟩,
  ⟨"MEM_SC_MISS", 0x24, 0, 1, 0, 1,
    [⟨"COUNT", 31, 0, .ro, 0⟩]⟩]

def tbl_ddlr : List RegSpec := [
  ⟨"DDL_ROUTE", 0, 0, 1, 0, 1,
    [⟨"MODE", 1, 0, .rw, 0⟩, ⟨"CHG_BUSY", 8, 8, .ro, 0⟩, ⟨"AVAIL1", 9, 9, .ro, 0⟩, ⟨"AVAIL3", 10, 10, .ro, 0⟩]⟩]

def tbl_ddl_0 (n : Nat) : List RegSpec := [
  ⟨"DDL_PORT_ID", 0x1000, 0x1000, n, 0, 1,
    [⟨"PEER", 2, 0, .ro, 0⟩, ⟨"MODULE", 3, 3, .ro, 0⟩, ⟨"STEPPING", 23, 16, .ro, 0xb0⟩]⟩,
  ⟨"DDL_CTL", 0x1004, 0x1000, n, 0, 1,
    [⟨"EN", 0, 0, .rw, 1⟩, ⟨"RETRAIN", 1, 1, .wo, 0⟩, ⟨"HARD_THR", 15, 8, .rw, 8⟩, ⟨"RETRY_LIM", 23, 16, .rw, 0x20⟩]⟩,
  ⟨"DDL_STS", 0x1008, 0x1000, n, 0, 1,
    [⟨"STATE", 1, 0, .ro, 0⟩, ⟨"HALF_HI", 2, 2, .ro, 0⟩, ⟨"SPARES_RX", 5, 3, .ro, 0⟩, ⟨"SPARES_TX", 8, 6, .ro, 0⟩]⟩,
  ⟨"DDL_ERR", 0x100c, 0x1000, n, 0, 1,
    [⟨"CRC", 0, 0, .w1c, 0⟩, ⟨"REPLAY_TO", 1, 1, .w1c, 0⟩, ⟨"LANE_HARD", 2, 2, .w1c, 0⟩, ⟨"DOWN", 3, 3, .w1c, 0⟩, ⟨"PROTO", 4, 4, .w1c, 0⟩, ⟨"RETRAIN", 5, 5, .w1c, 0⟩]⟩,
  ⟨"DDL_REPAIR_RX", 0x1010, 0x1000, n, 0, 1,
    [⟨"LANE0", 6, 0, .ro, 0⟩, ⟨"LANE1", 14, 8, .ro, 0⟩, ⟨"LANE2", 22, 16, .ro, 0⟩, ⟨"LANE3", 30, 24, .ro, 0⟩, ⟨"USED0", 7, 7, .ro, 0⟩, ⟨"USED1", 15, 15, .ro, 0⟩, ⟨"USED2", 23, 23, .ro, 0⟩, ⟨"USED3", 31, 31, .ro, 0⟩]⟩,
  ⟨"DDL_REPAIR_TX", 0x1014, 0x1000, n, 0, 1,
    [⟨"LANE0", 6, 0, .ro, 0⟩, ⟨"LANE1", 14, 8, .ro, 0⟩, ⟨"LANE2", 22, 16, .ro, 0⟩, ⟨"LANE3", 30, 24, .ro, 0⟩, ⟨"USED0", 7, 7, .ro, 0⟩, ⟨"USED1", 15, 15, .ro, 0⟩, ⟨"USED2", 23, 23, .ro, 0⟩, ⟨"USED3", 31, 31, .ro, 0⟩]⟩,
  ⟨"DDL_LANE_FAIL", 0x1018, 0x1000, n, 4, 3,
    [⟨"FAIL", 31, 0, .ro, 0⟩]⟩,
  ⟨"DDL_CRC_CNT", 0x1024, 0x1000, n, 0, 1,
    [⟨"COUNT", 31, 0, .ro, 0⟩]⟩]

def tbl_ddl_1 (n : Nat) : List RegSpec := [
  ⟨"DDL_RETRY_CNT", 0x1028, 0x1000, n, 0, 1,
    [⟨"COUNT", 31, 0, .ro, 0⟩]⟩,
  ⟨"DDL_CRED_VC", 0x1030, 0x1000, n, 4, 4,
    [⟨"TX_CRED", 10, 0, .ro, 0⟩, ⟨"RX_USED", 26, 16, .ro, 0⟩]⟩]

def tbl_ddl (n : Nat) : List RegSpec := tbl_ddl_0 n ++ tbl_ddl_1 n

def tbl_spn_0 : List RegSpec := [
  ⟨"SPN_PKG_ID", 0, 0, 1, 0, 1,
    [⟨"ID", 11, 0, .rw, 0xfff⟩]⟩,
  ⟨"SPN_LAT_BUDGET", 4, 0, 1, 0, 1,
    [⟨"NS", 19, 0, .rw, 0⟩]⟩,
  ⟨"SPN_CTL", 8, 0, 1, 0, 1,
    [⟨"EN", 0, 0, .rw, 0⟩, ⟨"DISC", 1, 1, .wo, 0⟩, ⟨"P0_MODE", 3, 2, .rw, 0⟩, ⟨"P1_MODE", 5, 4, .rw, 0⟩]⟩,
  ⟨"SPN_STS", 0xc, 0, 1, 0, 1,
    [⟨"DISC_DONE", 0, 0, .ro, 0⟩, ⟨"REACH", 27, 16, .ro, 0⟩]⟩,
  ⟨"SPN_ERR", 0x10, 0, 1, 0, 1,
    [⟨"DUP_ID", 0, 0, .w1c, 0⟩, ⟨"MISMATCH", 1, 1, .w1c, 0⟩, ⟨"TTL_DROP", 2, 2, .w1c, 0⟩, ⟨"WIN_REJECT", 3, 3, .w1c, 0⟩, ⟨"CFG", 4, 4, .w1c, 0⟩]⟩,
  ⟨"SPN_WIN_W0", 0x100, 0x10, 8, 0, 1,
    [⟨"BASE", 27, 0, .rw, 0⟩]⟩,
  ⟨"SPN_WIN_W1", 0x104, 0x10, 8, 0, 1,
    [⟨"SIZE_MB", 17, 0, .rw, 0⟩]⟩,
  ⟨"SPN_WIN_W2", 0x108, 0x10, 8, 0, 1,
    [⟨"SRC_PKG", 11, 0, .rw, 0⟩, ⟨"ANY", 12, 12, .rw, 0⟩, ⟨"RD", 13, 13, .rw, 0⟩, ⟨"WR", 14, 14, .rw, 0⟩, ⟨"SEM", 15, 15, .rw, 0⟩, ⟨"EN", 16, 16, .rw, 0⟩]⟩]

def tbl_spn_1 : List RegSpec := [
  ⟨"SPN_ROUTE", 0x4000, 4, 0x1000, 0, 1,
    [⟨"EGRESS", 2, 0, .rw, 7⟩, ⟨"HOPS", 9, 4, .rw, 0⟩, ⟨"LAT_NS", 31, 12, .rw, 0⟩]⟩,
  ⟨"SPN_S_STS", 0x1000, 0x400, 4, 0, 1,
    [⟨"STATE", 2, 0, .ro, 0⟩, ⟨"WIDTH", 5, 3, .ro, 0⟩, ⟨"PEER_PKG", 17, 6, .ro, 0⟩, ⟨"PEER_PART", 18, 18, .ro, 0⟩]⟩,
  ⟨"SPN_S_LANE", 0x1004, 0x400, 4, 0, 1,
    [⟨"LANE0", 3, 0, .ro, 0⟩, ⟨"LANE1", 7, 4, .ro, 0⟩, ⟨"LANE2", 11, 8, .ro, 0⟩, ⟨"LANE3", 15, 12, .ro, 0⟩, ⟨"REVERSED", 16, 16, .ro, 0⟩]⟩,
  ⟨"SPN_S_ERR", 0x1008, 0x400, 4, 0, 1,
    [⟨"CRC", 0, 0, .w1c, 0⟩, ⟨"FEC_UNCORR", 1, 1, .w1c, 0⟩, ⟨"LANE", 2, 2, .w1c, 0⟩, ⟨"DOWN", 3, 3, .w1c, 0⟩]⟩,
  ⟨"SPN_S_FEC_CE", 0x100c, 0x400, 4, 0, 1,
    [⟨"VALUE", 31, 0, .ro, 0⟩]⟩,
  ⟨"SPN_S_RETRY_CNT", 0x1010, 0x400, 4, 0, 1,
    [⟨"VALUE", 31, 0, .ro, 0⟩]⟩,
  ⟨"SPN_S_LAT", 0x1014, 0x400, 4, 0, 1,
    [⟨"VALUE", 31, 0, .ro, 0⟩]⟩]

def tbl_spn : List RegSpec := tbl_spn_0 ++ tbl_spn_1

def tbl_hp_0 : List RegSpec := [
  ⟨"HP_ID", 0, 0, 1, 0, 1,
    [⟨"PROTO", 7, 0, .ro, 1⟩, ⟨"STEPPING", 23, 16, .ro, 0xb0⟩]⟩,
  ⟨"HP_CTL", 4, 0, 1, 0, 1,
    [⟨"MOD_EN", 3, 0, .rw, 0xf⟩]⟩,
  ⟨"HP_STS", 8, 0, 1, 0, 1,
    [⟨"MOD_UP", 3, 0, .ro, 0⟩, ⟨"PROTO_MISMATCH", 4, 4, .ro, 0⟩, ⟨"REQ_BITS", 8, 5, .ro, 0⟩, ⟨"VECTORS", 31, 16, .ro, 0⟩]⟩,
  ⟨"HP_ERR", 0xc, 0, 1, 0, 1,
    [⟨"FW_REJECT", 0, 0, .w1c, 0⟩, ⟨"DB_BAD", 1, 1, .w1c, 0⟩, ⟨"PROTO", 2, 2, .w1c, 0⟩, ⟨"MOD_DOWN", 3, 3, .w1c, 0⟩, ⟨"POISON_OUT", 4, 4, .w1c, 0⟩]⟩,
  ⟨"HP_FW_LOG0", 0x10, 0, 1, 0, 1,
    [⟨"ADDR_LO", 31, 0, .ro, 0⟩]⟩,
  ⟨"HP_FW_LOG1", 0x14, 0, 1, 0, 1,
    [⟨"ADDR_HI", 15, 0, .ro, 0⟩, ⟨"REQ", 24, 16, .ro, 0⟩, ⟨"WR", 25, 25, .ro, 0⟩, ⟨"VALID", 26, 26, .ro, 0⟩]⟩,
  ⟨"HP_FW_CLR", 0x18, 0, 1, 0, 1,
    [⟨"CLR", 0, 0, .wo, 0⟩]⟩,
  ⟨"HP_MOD_STS", 0x100, 0x20, 4, 0, 1,
    [⟨"STATE", 1, 0, .ro, 0⟩, ⟨"HALF_HI", 2, 2, .ro, 0⟩, ⟨"SPARES_RX", 5, 3, .ro, 0⟩, ⟨"SPARES_TX", 8, 6, .ro, 0⟩]⟩]

def tbl_hp_1 : List RegSpec := [
  ⟨"HP_MOD_CRC", 0x104, 0x20, 4, 0, 1,
    [⟨"COUNT", 31, 0, .ro, 0⟩]⟩,
  ⟨"HP_MOD_RETRY", 0x108, 0x20, 4, 0, 1,
    [⟨"COUNT", 31, 0, .ro, 0⟩]⟩,
  ⟨"HP_WIN_W0", 0x200, 0x10, 0x10, 0, 1,
    [⟨"BASE", 27, 0, .rw, 0⟩]⟩,
  ⟨"HP_WIN_W1", 0x204, 0x10, 0x10, 0, 1,
    [⟨"SIZE_MB", 17, 0, .rw, 0⟩]⟩,
  ⟨"HP_WIN_W2", 0x208, 0x10, 0x10, 0, 1,
    [⟨"REQ_LO", 8, 0, .rw, 0⟩, ⟨"REQ_HI", 24, 16, .rw, 0⟩]⟩,
  ⟨"HP_WIN_W3", 0x20c, 0x10, 0x10, 0, 1,
    [⟨"RD", 0, 0, .rw, 0⟩, ⟨"WR", 1, 1, .rw, 0⟩, ⟨"EN", 2, 2, .rw, 0⟩]⟩]

def tbl_hp : List RegSpec := tbl_hp_0 ++ tbl_hp_1

def tbl_cmd : List RegSpec := [
  ⟨"CMD_CTL", 4, 0, 1, 0, 1,
    [⟨"EN", 0, 0, .rw, 0⟩, ⟨"PAUSE", 1, 1, .rw, 0⟩]⟩,
  ⟨"CMD_STS", 8, 0, 1, 0, 1,
    [⟨"FW_READY", 0, 0, .ro, 0⟩, ⟨"PAUSED", 1, 1, .ro, 0⟩, ⟨"TAGS_USED", 31, 16, .ro, 0⟩]⟩,
  ⟨"CMD_ERR", 0xc, 0, 1, 0, 1,
    [⟨"REFUSED", 0, 0, .w1c, 0⟩, ⟨"EVT_LOST", 1, 1, .w1c, 0⟩, ⟨"CQ_HELD", 2, 2, .w1c, 0⟩, ⟨"FW_FAULT", 3, 3, .w1c, 0⟩]⟩,
  ⟨"CMD_EVT_CQ", 0x10, 0, 1, 0, 1,
    [⟨"CQ", 15, 0, .ro, 0⟩, ⟨"VALID", 16, 16, .ro, 0⟩]⟩,
  ⟨"CMD_LAST_REFUSE", 0x14, 0, 1, 0, 1,
    [⟨"QUEUE", 19, 0, .ro, 0⟩, ⟨"STATUS", 27, 20, .ro, 0⟩]⟩,
  ⟨"CMD_PARSED", 0x18, 0, 1, 0, 1,
    [⟨"COUNT", 31, 0, .ro, 0⟩]⟩,
  ⟨"CMD_REFUSED_CNT", 0x1c, 0, 1, 0, 1,
    [⟨"COUNT", 31, 0, .ro, 0⟩]⟩,
  ⟨"CMD_HELD", 0x20, 0, 1, 0, 1,
    [⟨"COUNT", 31, 0, .ro, 0⟩]⟩]

def tbl_qm : List RegSpec := [
  ⟨"QM_CTL", 4, 0, 1, 0, 1,
    [⟨"EN", 0, 0, .rw, 0⟩]⟩,
  ⟨"QM_STS", 8, 0, 1, 0, 1,
    [⟨"CACHED", 12, 0, .ro, 0⟩, ⟨"PINNED", 25, 16, .ro, 0⟩]⟩,
  ⟨"QM_DESC_BASE", 0x10, 0, 1, 0, 1,
    [⟨"BASE", 21, 0, .rw, 0⟩]⟩,
  ⟨"QM_CQ_BASE", 0x14, 0, 1, 0, 1,
    [⟨"BASE", 26, 0, .rw, 0⟩]⟩,
  ⟨"QM_ERR", 0x18, 0, 1, 0, 1,
    [⟨"DESC_POISON", 0, 0, .w1c, 0⟩, ⟨"DESC_BAD", 1, 1, .w1c, 0⟩, ⟨"DB_STALL", 2, 2, .w1c, 0⟩, ⟨"RING_ERR", 3, 3, .w1c, 0⟩]⟩,
  ⟨"QM_MISS_CNT", 0x1c, 0, 1, 0, 1,
    [⟨"COUNT", 31, 0, .ro, 0⟩]⟩,
  ⟨"QM_EVICT_CNT", 0x20, 0, 1, 0, 1,
    [⟨"COUNT", 31, 0, .ro, 0⟩]⟩]

def tbl_dsp : List RegSpec := [
  ⟨"DSP_CTL", 4, 0, 1, 0, 1,
    [⟨"EN", 0, 0, .rw, 0⟩, ⟨"ROT_EN", 1, 1, .rw, 1⟩]⟩,
  ⟨"DSP_ROT", 8, 0, 1, 0, 1,
    [⟨"START", 4, 0, .rw, 0⟩, ⟨"PERIOD_MS", 25, 16, .rw, 0xfa⟩]⟩,
  ⟨"DSP_SAVE_BASE", 0x10, 4, 4, 0, 1,
    [⟨"BASE", 26, 0, .rw, 0⟩]⟩,
  ⟨"DSP_STS", 0x20, 0, 1, 0, 1,
    [⟨"QUEUED", 15, 0, .ro, 0⟩, ⟨"SAVED", 31, 16, .ro, 0⟩]⟩,
  ⟨"DSP_ERR", 0x24, 0, 1, 0, 1,
    [⟨"OVERRUN", 0, 0, .w1c, 0⟩, ⟨"SAVE_FAULT", 1, 1, .w1c, 0⟩, ⟨"CFG", 2, 2, .w1c, 0⟩]⟩,
  ⟨"DSP_PREEMPT_CNT", 0x28, 0, 1, 0, 1,
    [⟨"COUNT", 31, 0, .ro, 0⟩]⟩,
  ⟨"DSP_PLACE_CNT", 0x2c, 0, 1, 0, 1,
    [⟨"COUNT", 31, 0, .ro, 0⟩]⟩]

def tbl_adm_0 : List RegSpec := [
  ⟨"ADM_CTL", 4, 0, 1, 0, 1,
    [⟨"EN", 0, 0, .rw, 0⟩, ⟨"SUSPEND", 1, 1, .rw, 0⟩]⟩,
  ⟨"ADM_STS", 8, 0, 1, 0, 1,
    [⟨"SUSPENDED", 0, 0, .ro, 0⟩, ⟨"RESV", 25, 16, .ro, 0⟩]⟩,
  ⟨"ADM_NOW_LO", 0x10, 0, 1, 0, 1,
    [⟨"COUNT", 31, 0, .ro, 0⟩]⟩,
  ⟨"ADM_NOW_HI", 0x14, 0, 1, 0, 1,
    [⟨"COUNT", 31, 0, .ro, 0⟩]⟩,
  ⟨"ADM_QMAX", 0x18, 0, 1, 0, 1,
    [⟨"NS", 19, 0, .rw, 0x4e20⟩]⟩,
  ⟨"ADM_HOLD", 0x1c, 0, 1, 0, 1,
    [⟨"NS", 19, 0, .rw, 0x2710⟩]⟩,
  ⟨"ADM_CLK_GUAR", 0x20, 0, 1, 0, 1,
    [⟨"MHZ", 11, 0, .rw, 0x7d0⟩]⟩,
  ⟨"ADM_GOLD", 0x24, 0, 1, 0, 1,
    [⟨"US", 15, 0, .rw, 0x190⟩]⟩]

def tbl_adm_1 : List RegSpec := [
  ⟨"ADM_GOLD_WIN", 0x28, 0, 1, 0, 1,
    [⟨"US", 19, 0, .rw, 0x8235⟩]⟩,
  ⟨"ADM_PAIR", 0x2c, 0, 1, 0, 1,
    [⟨"US", 15, 0, .rw, 0x64⟩]⟩,
  ⟨"ADM_FAULT", 0x30, 0, 1, 0, 1,
    [⟨"DIE", 5, 0, .rw, 0⟩]⟩,
  ⟨"ADM_ERR", 0x34, 0, 1, 0, 1,
    [⟨"CAL_FULL", 0, 0, .w1c, 0⟩, ⟨"OVERRUN", 1, 1, .w1c, 0⟩]⟩,
  ⟨"ADM_ACCEPT_CNT", 0x40, 0, 1, 0, 1,
    [⟨"COUNT", 31, 0, .ro, 0⟩]⟩,
  ⟨"ADM_REFUSE_CNT", 0x44, 0, 1, 0, 1,
    [⟨"COUNT", 31, 0, .ro, 0⟩]⟩,
  ⟨"ADM_LATE_CNT", 0x48, 0, 1, 0, 1,
    [⟨"COUNT", 31, 0, .ro, 0⟩]⟩]

def tbl_adm : List RegSpec := tbl_adm_0 ++ tbl_adm_1

def tbl_syn_0 : List RegSpec := [
  ⟨"SYN_ID", 0, 0, 1, 0, 1,
    [⟨"DIE", 1, 0, .ro, 0⟩, ⟨"STEPPING", 23, 16, .ro, 0xb0⟩]⟩,
  ⟨"SYN_CTL", 4, 0, 1, 0, 1,
    [⟨"EN", 0, 0, .rw, 0⟩]⟩,
  ⟨"SYN_STS", 8, 0, 1, 0, 1,
    [⟨"OWNED", 12, 0, .ro, 0⟩, ⟨"WAITERS", 24, 16, .ro, 0⟩]⟩,
  ⟨"SYN_HOLDS", 0xc, 0, 1, 0, 1,
    [⟨"USED", 15, 0, .ro, 0⟩]⟩,
  ⟨"SYN_ERR", 0x10, 0, 1, 0, 1,
    [⟨"LEDGER", 0, 0, .w1c, 0⟩, ⟨"LEDGER_UE", 1, 1, .w1c, 0⟩, ⟨"LEDGER_CE", 2, 2, .w1c, 0⟩, ⟨"HOLD_RET", 3, 3, .w1c, 0⟩, ⟨"INH_TIMEOUT", 4, 4, .w1c, 0⟩, ⟨"NOT_OWNER", 5, 5, .w1c, 0⟩, ⟨"UNDECL", 6, 6, .w1c, 0⟩, ⟨"OVERFLOW", 7, 7, .w1c, 0⟩, ⟨"SPAN_REJ", 8, 8, .w1c, 0⟩]⟩,
  ⟨"SYN_LEDGER_LOG0", 0x14, 0, 1, 0, 1,
    [⟨"LEDGER", 3, 0, .ro, 0⟩, ⟨"INSTANCE", 27, 4, .ro, 0⟩, ⟨"VALID", 31, 31, .ro, 0⟩]⟩,
  ⟨"SYN_LEDGER_LOG1", 0x18, 0, 1, 0, 1,
    [⟨"DIFF", 31, 0, .ro, 0⟩]⟩,
  ⟨"SYN_LEDGER_CNT", 0x1c, 0, 1, 0, 1,
    [⟨"COUNT", 31, 0, .ro, 0⟩]⟩]

def tbl_syn_1 : List RegSpec := [
  ⟨"SYN_INH", 0x20, 0, 1, 0, 1,
    [⟨"COUNT", 31, 0, .ro, 0⟩]⟩,
  ⟨"SYN_INH_TO", 0x24, 0, 1, 0, 1,
    [⟨"COUNT", 31, 0, .ro, 0⟩]⟩,
  ⟨"SYN_RETIRED", 0x28, 0, 1, 0, 1,
    [⟨"COUNT", 31, 0, .ro, 0⟩]⟩,
  ⟨"SYN_SEM_W0", 0x10000, 0x20, 0x1000, 0, 1,
    [⟨"VALUE", 30, 0, .rw, 0⟩]⟩,
  ⟨"SYN_SEM_W1", 0x10004, 0x20, 0x1000, 0, 1,
    [⟨"CTX", 15, 0, .rw, 0⟩, ⟨"CTX_GEN", 23, 16, .rw, 0⟩, ⟨"OWNED", 24, 24, .rw, 0⟩, ⟨"SPAN", 25, 25, .rw, 0⟩]⟩,
  ⟨"SYN_SEM_W2", 0x10008, 0x20, 0x1000, 0, 1,
    [⟨"BASE", 30, 0, .ro, 0⟩]⟩,
  ⟨"SYN_SEM_W3", 0x1000c, 0x20, 0x1000, 0, 1,
    [⟨"SIGNALS", 31, 0, .ro, 0⟩]⟩,
  ⟨"SYN_SEM_W4", 0x10010, 0x20, 0x1000, 0, 1,
    [⟨"RETURNS", 31, 0, .ro, 0⟩]⟩]

def tbl_syn_2 : List RegSpec := [
  ⟨"SYN_SEM_W5", 0x10014, 0x20, 0x1000, 0, 1,
    [⟨"GRANTS", 31, 0, .ro, 0⟩]⟩,
  ⟨"SYN_SEM_W6", 0x10018, 0x20, 0x1000, 0, 1,
    [⟨"WAITERS", 8, 0, .ro, 0⟩, ⟨"HOLDERS", 31, 16, .ro, 0⟩]⟩,
  ⟨"SYN_SEM_W7", 0x1001c, 0x20, 0x1000, 0, 1,
    []⟩,
  ⟨"SYN_HOLD_W0", 0x40000, 8, 0x8000, 0, 1,
    [⟨"SEM", 11, 0, .ro, 0⟩, ⟨"VALID", 12, 12, .ro, 0⟩, ⟨"SAVED", 13, 13, .ro, 0⟩, ⟨"INHERIT", 14, 14, .ro, 0⟩, ⟨"COUNT", 31, 16, .ro, 0⟩]⟩,
  ⟨"SYN_HOLD_W1", 0x40004, 8, 0x8000, 0, 1,
    [⟨"TAG", 14, 0, .ro, 0⟩, ⟨"GEN", 22, 15, .ro, 0⟩, ⟨"CLASS", 25, 23, .ro, 0⟩]⟩]

def tbl_syn : List RegSpec := tbl_syn_0 ++ tbl_syn_1 ++ tbl_syn_2

def tbl_bwr : List RegSpec := [
  ⟨"BWR_ID", 0, 0, 1, 0, 1,
    [⟨"DIE", 2, 0, .ro, 0⟩, ⟨"STEPPING", 23, 16, .ro, 0xb0⟩]⟩,
  ⟨"BWR_CTL", 4, 0, 1, 0, 1,
    [⟨"EN", 0, 0, .rw, 1⟩]⟩,
  ⟨"BWR_ERR", 8, 0, 1, 0, 1,
    [⟨"CFG", 0, 0, .w1c, 0⟩, ⟨"SHORTFALL", 1, 1, .w1c, 0⟩, ⟨"CAP", 2, 2, .w1c, 0⟩]⟩,
  ⟨"BWR_SHORT_CNT", 0xc, 0, 1, 0, 1,
    [⟨"COUNT", 31, 0, .ro, 0⟩]⟩,
  ⟨"BWR_WEIGHT0", 0x10, 0, 1, 0, 1,
    [⟨"W0", 7, 0, .rw, 1⟩, ⟨"W1", 15, 8, .rw, 1⟩, ⟨"W2", 23, 16, .rw, 2⟩, ⟨"W3", 31, 24, .rw, 4⟩]⟩,
  ⟨"BWR_WEIGHT1", 0x14, 0, 1, 0, 1,
    [⟨"W0", 7, 0, .rw, 8⟩, ⟨"W1", 15, 8, .rw, 0x10⟩, ⟨"W2", 23, 16, .rw, 0x20⟩, ⟨"W3", 31, 24, .rw, 0x40⟩]⟩,
  ⟨"BWR_URG", 0x18, 0, 1, 0, 1,
    [⟨"MULT", 3, 0, .rw, 8⟩]⟩]

def tbl_bwrhost : List RegSpec := [
  ⟨"BWR_HOST", 0x1c, 0, 1, 0, 1,
    [⟨"CLASS", 2, 0, .rw, 3⟩]⟩]

def tbl_bwrurg (n : Nat) : List RegSpec := [
  ⟨"BWR_URGN", 0x40, 4, n, 0, 1,
    [⟨"HI", 5, 0, .rw, 0x30⟩, ⟨"LO", 13, 8, .rw, 0x20⟩, ⟨"ACTIVE", 14, 14, .ro, 0⟩]⟩]

def tbl_bwrpath (n : Nat) : List RegSpec := [
  ⟨"BWR_P_CAP", 0x100, 0x80, n, 0, 1,
    [⟨"MBPS", 19, 0, .ro, 0⟩]⟩,
  ⟨"BWR_P_FIX", 0x108, 0x80, n, 4, 5,
    [⟨"MBPS", 19, 0, .rw, 0⟩]⟩,
  ⟨"BWR_P_CLS", 0x128, 0x80, n, 4, 8,
    [⟨"MBPS", 19, 0, .rw, 0⟩]⟩,
  ⟨"BWR_P_REG", 0x148, 0x80, n, 4, 8,
    [⟨"MBPS", 23, 0, .ro, 0⟩]⟩]

def tbl_bwrgrp : List RegSpec := [
  ⟨"BWR_GRP_W0", 0x1000, 0x10, 0x40, 0, 1,
    [⟨"VALID", 0, 0, .rw, 0⟩, ⟨"CLASS", 3, 1, .rw, 0⟩, ⟨"FIRST", 9, 4, .rw, 0⟩, ⟨"SIZE", 16, 10, .rw, 0⟩]⟩,
  ⟨"BWR_GRP_W1", 0x1004, 0x10, 0x40, 0, 1,
    [⟨"MEM", 19, 0, .rw, 0⟩]⟩,
  ⟨"BWR_GRP_W2", 0x1008, 0x10, 0x40, 0, 1,
    [⟨"CLU", 19, 0, .rw, 0⟩]⟩,
  ⟨"BWR_GRP_W3", 0x100c, 0x10, 0x40, 0, 1,
    [⟨"RING", 19, 0, .rw, 0⟩]⟩]

def tbl_pch_0 : List RegSpec := [
  ⟨"PCH_ID", 0, 0, 1, 0, 1,
    [⟨"STEPPING", 23, 16, .ro, 0xb0⟩]⟩,
  ⟨"PCH_CTL", 4, 0, 1, 0, 1,
    [⟨"EN", 0, 0, .rw, 0⟩, ⟨"OC_CUT", 1, 1, .rw, 0⟩]⟩,
  ⟨"PCH_ERR", 8, 0, 1, 0, 1,
    [⟨"CFG", 0, 0, .w1c, 0⟩, ⟨"OVERFLOW", 1, 1, .w1c, 0⟩, ⟨"WR_FAIL", 2, 2, .w1c, 0⟩, ⟨"SIG_FAIL", 3, 3, .w1c, 0⟩]⟩,
  ⟨"PCH_TIME_STS", 0x10, 0, 1, 0, 1,
    [⟨"STATE", 1, 0, .ro, 0⟩, ⟨"STEPS", 15, 8, .ro, 0⟩]⟩,
  ⟨"PCH_TIME_OFS", 0x14, 0, 1, 0, 1,
    [⟨"NS", 31, 0, .ro, 0⟩]⟩,
  ⟨"PCH_TIME_LO", 0x18, 0, 1, 0, 1,
    [⟨"NS", 31, 0, .ro, 0⟩]⟩,
  ⟨"PCH_TIME_HI", 0x1c, 0, 1, 0, 1,
    [⟨"NS", 31, 0, .ro, 0⟩]⟩,
  ⟨"PCH_TRIG_STS", 0x20, 0, 1, 0, 1,
    [⟨"RUN", 0, 0, .ro, 0⟩, ⟨"CLK_FAULT", 1, 1, .w1c, 0⟩]⟩]

def tbl_pch_1 : List RegSpec := [
  ⟨"PCH_TRIG_IDX", 0x24, 0, 1, 0, 1,
    [⟨"INDEX", 31, 0, .ro, 0⟩]⟩,
  ⟨"PCH_BUF", 0x40, 4, 0x16, 0, 1,
    [⟨"UNITS", 8, 0, .rw, 0x10⟩]⟩,
  ⟨"PCH_RAIL", 0xa0, 4, 4, 0, 1,
    [⟨"MV", 15, 0, .ro, 0⟩]⟩,
  ⟨"PCH_CAM_STS", 0x1000, 0x100, 0x10, 0, 1,
    [⟨"EN", 0, 0, .ro, 0⟩, ⟨"LINK", 1, 1, .ro, 0⟩, ⟨"UNALIGNED", 2, 2, .ro, 0⟩, ⟨"RESTARTING", 3, 3, .ro, 0⟩, ⟨"OC", 4, 4, .ro, 0⟩, ⟨"UC", 5, 5, .ro, 0⟩, ⟨"URG", 6, 6, .ro, 0⟩]⟩,
  ⟨"PCH_CAM_LINK", 0x1004, 0x100, 0x10, 0, 1,
    [⟨"GEAR", 2, 0, .ro, 0⟩, ⟨"PEER_MAX", 5, 3, .ro, 0⟩, ⟨"PAL_VER", 15, 8, .ro, 0⟩]⟩,
  ⟨"PCH_CAM_CABLE", 0x1008, 0x100, 0x10, 0, 1,
    [⟨"LOSS", 11, 0, .ro, 0⟩, ⟨"LEN_DM", 25, 16, .ro, 0⟩]⟩,
  ⟨"PCH_CAM_POC", 0x100c, 0x100, 0x10, 0, 1,
    [⟨"MA", 15, 0, .ro, 0⟩]⟩,
  ⟨"PCH_CAM_SKEW", 0x1010, 0x100, 0x10, 0, 1,
    [⟨"VALUE", 31, 0, .ro, 0⟩]⟩]

def tbl_pch_2 : List RegSpec := [
  ⟨"PCH_CAM_FRAMES", 0x1014, 0x100, 0x10, 0, 1,
    [⟨"VALUE", 31, 0, .ro, 0⟩]⟩,
  ⟨"PCH_CAM_TRUNC", 0x1018, 0x100, 0x10, 0, 1,
    [⟨"VALUE", 31, 0, .ro, 0⟩]⟩,
  ⟨"PCH_CAM_MISS", 0x101c, 0x100, 0x10, 0, 1,
    [⟨"VALUE", 31, 0, .ro, 0⟩]⟩,
  ⟨"PCH_ETH_STS", 0x2000, 0x100, 6, 0, 1,
    [⟨"EN", 0, 0, .ro, 0⟩, ⟨"LINK", 1, 1, .ro, 0⟩, ⟨"MASTER", 2, 2, .ro, 0⟩, ⟨"POL_INV", 3, 3, .ro, 0⟩, ⟨"SQI", 6, 4, .ro, 0⟩, ⟨"URG", 7, 7, .ro, 0⟩]⟩,
  ⟨"PCH_ETH_DIAG", 0x2004, 0x100, 6, 0, 1,
    [⟨"RESULT", 1, 0, .ro, 0⟩, ⟨"DIST_DM", 25, 16, .ro, 0⟩]⟩,
  ⟨"PCH_ETH_CTL", 0x2008, 0x100, 6, 0, 1,
    [⟨"DIAG", 0, 0, .wo, 0⟩]⟩,
  ⟨"PCH_ETH_RX", 0x200c, 0x100, 6, 0, 1,
    [⟨"COUNT", 31, 0, .ro, 0⟩]⟩,
  ⟨"PCH_ETH_DROP", 0x2010, 0x100, 6, 0, 1,
    [⟨"COUNT", 31, 0, .ro, 0⟩]⟩]

def tbl_pch_3 : List RegSpec := [
  ⟨"PCH_CAN_STS", 0x3000, 0x100, 4, 0, 1,
    [⟨"REC", 7, 0, .ro, 0⟩, ⟨"PASSIVE", 8, 8, .ro, 0⟩, ⟨"BUS_OFF", 9, 9, .ro, 0⟩]⟩,
  ⟨"PCH_CAN_RX", 0x3004, 0x100, 4, 0, 1,
    [⟨"COUNT", 31, 0, .ro, 0⟩]⟩,
  ⟨"PCH_IMU_RX", 0x3804, 0x100, 2, 0, 1,
    [⟨"COUNT", 31, 0, .ro, 0⟩]⟩,
  ⟨"PCH_PIN_TSHORT", 0x28, 0, 1, 0, 1,
    [⟨"SHORT", 31, 0, .ro, 0⟩]⟩,
  ⟨"PCH_PIN_TOPEN", 0x2c, 0, 1, 0, 1,
    [⟨"OPEN", 31, 0, .ro, 0⟩]⟩,
  ⟨"PCH_PIN_CAN", 0x30, 0, 1, 0, 1,
    [⟨"TX_FLT0", 0, 0, .ro, 0⟩, ⟨"TX_FLT1", 4, 4, .ro, 0⟩, ⟨"TX_FLT2", 8, 8, .ro, 0⟩, ⟨"TX_FLT3", 12, 12, .ro, 0⟩, ⟨"RX_DOM0", 1, 1, .ro, 0⟩, ⟨"RX_DOM1", 5, 5, .ro, 0⟩, ⟨"RX_DOM2", 9, 9, .ro, 0⟩, ⟨"RX_DOM3", 13, 13, .ro, 0⟩, ⟨"SILENT0", 2, 2, .ro, 0⟩, ⟨"SILENT1", 6, 6, .ro, 0⟩, ⟨"SILENT2", 10, 10, .ro, 0⟩, ⟨"SILENT3", 14, 14, .ro, 0⟩]⟩,
  ⟨"PCH_TRIG_REC", 0x4000, 4, 0x100, 0, 1,
    [⟨"WORD", 31, 0, .ro, 0⟩]⟩,
  ⟨"PCH_REC", 0x8000, 4, 0x2100, 0, 1,
    [⟨"WORD", 31, 0, .ro, 0⟩]⟩]

def tbl_pch : List RegSpec := tbl_pch_0 ++ tbl_pch_1 ++ tbl_pch_2 ++ tbl_pch_3

def tbl_fus_0 : List RegSpec := [
  ⟨"FUS_ID", 0, 0, 1, 0, 1,
    [⟨"STEPPING", 23, 16, .ro, 0xb0⟩]⟩,
  ⟨"FUS_CTL", 4, 0, 1, 0, 1,
    [⟨"INT_EN", 0, 0, .rw, 0⟩, ⟨"PROJ_EN", 1, 1, .rw, 0⟩]⟩,
  ⟨"FUS_STS", 8, 0, 1, 0, 1,
    [⟨"INT_RUN", 0, 0, .ro, 0⟩, ⟨"PROJ_RUN", 1, 1, .ro, 0⟩, ⟨"IMU_ONLY", 2, 2, .ro, 0⟩, ⟨"WHEEL_STALE", 3, 3, .ro, 0⟩, ⟨"INVALID", 4, 4, .ro, 0⟩, ⟨"CAM_TRIAL", 31, 16, .ro, 0⟩]⟩,
  ⟨"FUS_ERR", 0xc, 0, 1, 0, 1,
    [⟨"CFG", 0, 0, .w1c, 0⟩, ⟨"WR_FAIL", 1, 1, .w1c, 0⟩, ⟨"HOLD_FULL", 2, 2, .w1c, 0⟩, ⟨"NO_POSE", 3, 3, .w1c, 0⟩, ⟨"MODE_CHG", 4, 4, .w1c, 0⟩, ⟨"SIG_FAIL", 5, 5, .w1c, 0⟩, ⟨"DECODE", 6, 6, .w1c, 0⟩]⟩,
  ⟨"FUS_POSE_SEQ_LO", 0x10, 0, 1, 0, 1,
    [⟨"SEQ", 31, 0, .ro, 0⟩]⟩,
  ⟨"FUS_POSE_SEQ_HI", 0x14, 0, 1, 0, 1,
    [⟨"SEQ", 31, 0, .ro, 0⟩]⟩,
  ⟨"FUS_D_M", 0x18, 0, 1, 0, 1,
    [⟨"VALUE", 31, 0, .ro, 0⟩]⟩,
  ⟨"FUS_YAW_D", 0x1c, 0, 1, 0, 1,
    [⟨"VALUE", 31, 0, .ro, 0⟩]⟩]

def tbl_fus_1 : List RegSpec := [
  ⟨"FUS_G2_D", 0x20, 0, 1, 0, 1,
    [⟨"VALUE", 31, 0, .ro, 0⟩]⟩,
  ⟨"FUS_HOLD", 0x24, 0, 1, 0, 1,
    [⟨"POINTS", 17, 0, .ro, 0⟩]⟩,
  ⟨"FUS_PTS_IN", 0x28, 0, 1, 0, 1,
    [⟨"COUNT", 31, 0, .ro, 0⟩]⟩,
  ⟨"FUS_ENTRIES", 0x2c, 0, 1, 0, 1,
    [⟨"COUNT", 31, 0, .ro, 0⟩]⟩,
  ⟨"FUS_NOPOSE", 0x30, 0, 1, 0, 1,
    [⟨"COUNT", 31, 0, .ro, 0⟩]⟩,
  ⟨"FUS_EXTRAP", 0x34, 0, 1, 0, 1,
    [⟨"COUNT", 31, 0, .ro, 0⟩]⟩,
  ⟨"FUS_MODE_CNT", 0x38, 0, 1, 0, 1,
    [⟨"COUNT", 31, 0, .ro, 0⟩]⟩,
  ⟨"FUS_CAL", 0x1000, 4, 0x640, 0, 1,
    [⟨"WORD", 31, 0, .ro, 0⟩]⟩]

def tbl_fus : List RegSpec := tbl_fus_0 ++ tbl_fus_1

def tbl_acn_0 : List RegSpec := [
  ⟨"ACN_ID", 0, 0, 1, 0, 1,
    [⟨"ISLAND", 0, 0, .ro, 0⟩, ⟨"STEPPING", 23, 16, .ro, 0xb0⟩]⟩,
  ⟨"ACN_STS", 4, 0, 1, 0, 1,
    [⟨"STATE", 2, 0, .rwl, 1⟩, ⟨"SAFE_OUT", 3, 3, .ro, 1⟩, ⟨"CLAMP", 4, 4, .ro, 0⟩, ⟨"PEER_OK", 5, 5, .ro, 0⟩, ⟨"POLICY_DEFAULT", 6, 6, .rwl, 1⟩, ⟨"LATCHED", 23, 16, .rwl, 0⟩]⟩,
  ⟨"ACN_HB", 8, 0, 1, 0, 1,
    [⟨"DC", 3, 0, .ro, 0⟩, ⟨"MP", 4, 4, .ro, 0⟩, ⟨"IOD", 5, 5, .ro, 0⟩, ⟨"PCH", 6, 6, .ro, 0⟩, ⟨"PEER", 7, 7, .ro, 0⟩]⟩,
  ⟨"ACN_CLK", 0xc, 0, 1, 0, 1,
    [⟨"MAIN_OK", 0, 0, .ro, 0⟩, ⟨"TRIG_OK", 1, 1, .ro, 0⟩, ⟨"PLL_OK", 2, 2, .ro, 0⟩]⟩,
  ⟨"ACN_US", 0x10, 0, 1, 0, 1,
    [⟨"COUNT", 31, 0, .ro, 0⟩]⟩,
  ⟨"ACN_EVT_SEQ", 0x14, 0, 1, 0, 1,
    [⟨"VALUE", 31, 0, .rwl, 0⟩]⟩,
  ⟨"ACN_POLICY_SEQ", 0x18, 0, 1, 0, 1,
    [⟨"VALUE", 31, 0, .rwl, 0⟩]⟩,
  ⟨"ACN_FW_LOG0", 0x20, 0, 1, 0, 1,
    [⟨"ADDR_LO", 31, 0, .ro, 0⟩]⟩]

def tbl_acn_1 : List RegSpec := [
  ⟨"ACN_FW_LOG1", 0x24, 0, 1, 0, 1,
    [⟨"ADDR_HI", 15, 0, .ro, 0⟩, ⟨"INIT", 27, 16, .ro, 0⟩, ⟨"VALID", 28, 28, .ro, 0⟩]⟩,
  ⟨"ACN_EVTLOG_W0", 0x1000, 0x10, 0x100, 0, 1,
    [⟨"SEQ", 31, 0, .rwl, 0⟩]⟩,
  ⟨"ACN_EVTLOG_W1", 0x1004, 0x10, 0x100, 0, 1,
    [⟨"EVENT", 7, 0, .rwl, 0⟩, ⟨"LEVEL", 10, 8, .rwl, 0⟩, ⟨"ACKED", 11, 11, .rwl, 0⟩, ⟨"UNIT", 31, 16, .rwl, 0⟩]⟩,
  ⟨"ACN_EVTLOG_W2", 0x1008, 0x10, 0x100, 0, 1,
    [⟨"US", 31, 0, .rwl, 0⟩]⟩,
  ⟨"ACN_EVTLOG_W3", 0x100c, 0x10, 0x100, 0, 1,
    []⟩]

def tbl_acn : List RegSpec := tbl_acn_0 ++ tbl_acn_1

def tbl_chk_0 : List RegSpec := [
  ⟨"CHK_ID", 0, 0, 1, 0, 1,
    [⟨"CORE", 2, 0, .ro, 0⟩, ⟨"CLUSTER", 5, 3, .ro, 0⟩, ⟨"DIE", 7, 6, .ro, 0⟩, ⟨"STEPPING", 23, 16, .ro, 0xb0⟩]⟩,
  ⟨"CHK_CTL", 4, 0, 1, 0, 1,
    [⟨"EN", 0, 0, .rwl, 1⟩, ⟨"TOL_MULT", 15, 8, .rwl, 8⟩]⟩,
  ⟨"CHK_QSTS", 8, 0, 1, 0, 1,
    [⟨"STATE", 1, 0, .ro, 0⟩, ⟨"SERIES", 13, 8, .ro, 0⟩, ⟨"DEFER", 18, 16, .ro, 0⟩]⟩,
  ⟨"CHK_MM_INFO", 0xc, 0, 1, 0, 1,
    [⟨"ENGINE", 1, 0, .ro, 0⟩, ⟨"BANK", 4, 2, .ro, 0⟩, ⟨"AXIS", 5, 5, .ro, 0⟩, ⟨"INDEX", 10, 6, .ro, 0⟩, ⟨"INT", 11, 11, .ro, 0⟩, ⟨"TAG", 26, 12, .ro, 0⟩, ⟨"VALID", 31, 31, .ro, 0⟩]⟩,
  ⟨"CHK_MM_DIFF", 0x10, 0, 1, 0, 1,
    [⟨"VALUE", 31, 0, .ro, 0⟩]⟩,
  ⟨"CHK_MM_TOL", 0x14, 0, 1, 0, 1,
    [⟨"VALUE", 31, 0, .ro, 0⟩]⟩,
  ⟨"CHK_LAST_MM", 0x18, 0, 1, 0, 1,
    [⟨"US", 31, 0, .ro, 0⟩]⟩,
  ⟨"CHK_LAST_VALID", 0x1c, 0, 1, 0, 1,
    [⟨"VALID", 0, 0, .ro, 0⟩]⟩]

def tbl_chk_1 : List RegSpec := [
  ⟨"CHK_STEP_MM", 0x20, 0, 1, 0, 1,
    [⟨"COUNT", 15, 0, .ro, 0⟩]⟩,
  ⟨"CHK_CNT_CHECK", 0x24, 0, 1, 0, 1,
    [⟨"COUNT", 31, 0, .ro, 0⟩]⟩,
  ⟨"CHK_CNT_MM", 0x28, 0, 1, 0, 1,
    [⟨"COUNT", 31, 0, .ro, 0⟩]⟩,
  ⟨"CHK_CNT_SKIP", 0x2c, 0, 1, 0, 1,
    [⟨"COUNT", 31, 0, .ro, 0⟩]⟩,
  ⟨"CHK_CNT_DROP", 0x30, 0, 1, 0, 1,
    [⟨"COUNT", 31, 0, .ro, 0⟩]⟩,
  ⟨"CHK_ST", 0x34, 0, 1, 0, 1,
    [⟨"GO", 0, 0, .rwl, 0⟩, ⟨"AXIS", 1, 1, .rwl, 0⟩, ⟨"INDEX", 6, 2, .rwl, 0⟩, ⟨"DONE", 8, 8, .ro, 0⟩, ⟨"PASS", 9, 9, .ro, 0⟩, ⟨"PATTERN", 10, 10, .ro, 0⟩]⟩,
  ⟨"CHK_GOLD", 0x38, 0, 1, 0, 1,
    [⟨"ENTRY", 2, 0, .ro, 0⟩, ⟨"PASS", 3, 3, .ro, 0⟩, ⟨"RUNS", 31, 16, .ro, 0⟩]⟩]

def tbl_chk : List RegSpec := tbl_chk_0 ++ tbl_chk_1

def tbl_hthi_0 : List RegSpec := [
  ⟨"HTH_CTL", 4, 0, 1, 0, 1,
    [⟨"EN", 0, 0, .rw, 0⟩, ⟨"WARM_EN", 1, 1, .rw, 1⟩, ⟨"SPN_WARM", 2, 2, .rw, 1⟩, ⟨"GUAR_AUTO", 3, 3, .rw, 0⟩]⟩,
  ⟨"HTH_STS", 8, 0, 1, 0, 1,
    [⟨"COOL", 1, 0, .ro, 0⟩, ⟨"ADVISORY", 2, 2, .ro, 0⟩, ⟨"THERMAL", 3, 3, .ro, 0⟩, ⟨"BUDGET_SHORT", 4, 4, .ro, 0⟩, ⟨"BUDGET_W", 25, 16, .ro, 0⟩]⟩,
  ⟨"HTH_ERR", 0xc, 0, 1, 0, 1,
    [⟨"NO_FLOW", 0, 0, .w1c, 0⟩, ⟨"RISE_RATE", 1, 1, .w1c, 0⟩, ⟨"FLOW_SENSOR", 2, 2, .w1c, 0⟩, ⟨"THERM_EXCL", 3, 3, .w1c, 0⟩, ⟨"JUNC_SUSPECT", 4, 4, .w1c, 0⟩, ⟨"JUNC_EXCL", 5, 5, .w1c, 0⟩, ⟨"GRACE", 6, 6, .w1c, 0⟩, ⟨"TRIP", 7, 7, .w1c, 0⟩, ⟨"REPORT_MISS", 8, 8, .w1c, 0⟩, ⟨"BUS_FAULT", 9, 9, .w1c, 0⟩, ⟨"DRAM_HOT", 10, 10, .w1c, 0⟩]⟩,
  ⟨"HTH_LIMIT", 0x10, 0, 1, 0, 1,
    [⟨"LIMIT_W", 9, 0, .rw, 0x1e0⟩, ⟨"POWER_W", 25, 16, .ro, 0⟩]⟩,
  ⟨"HTH_FLOW_THRESH", 0x14, 0, 1, 0, 1,
    [⟨"FULL", 9, 0, .rw, 0x190⟩, ⟨"FLOOR", 19, 10, .rw, 0xc8⟩, ⟨"ADVISE", 29, 20, .rw, 0x12c⟩]⟩,
  ⟨"HTH_FLOW_K", 0x18, 0, 1, 0, 1,
    [⟨"K0", 15, 0, .rw, 0x3e8⟩, ⟨"K1", 31, 16, .rw, 0x3e8⟩]⟩,
  ⟨"HTH_DERATE", 0x1c, 0, 1, 0, 1,
    [⟨"FLOOR_W", 9, 0, .rw, 0xf0⟩, ⟨"RISE_THR", 15, 10, .rw, 6⟩, ⟨"RISE_SLOPE", 23, 16, .rw, 0x28⟩, ⟨"INLET_SLOPE", 31, 24, .rw, 0x18⟩]⟩,
  ⟨"HTH_LOSS", 0x20, 0, 1, 0, 1,
    [⟨"NOPULSE_MS", 9, 0, .rw, 0xfa⟩, ⟨"RATE", 19, 10, .rw, 0xc8⟩]⟩]

def tbl_hthi_1 : List RegSpec := [
  ⟨"HTH_TEMP", 0x24, 0, 1, 0, 1,
    [⟨"TJ_TGT", 7, 0, .rw, 0x69⟩, ⟨"TJ_EMERG", 15, 8, .rw, 0x76⟩, ⟨"INLET_MAX", 23, 16, .rw, 0x41⟩, ⟨"WARM_DELTA", 31, 24, .rw, 0x1e⟩]⟩,
  ⟨"HTH_THERM", 0x28, 0, 1, 0, 1,
    [⟨"BETA", 15, 0, .rw, 0xd6b⟩, ⟨"RNOM", 31, 16, .rw, 0x2710⟩]⟩,
  ⟨"HTH_PUMP", 0x2c, 0, 1, 0, 1,
    [⟨"DUTY_MIN", 7, 0, .rw, 0x1e⟩, ⟨"DUTY_MAX", 15, 8, .rw, 0x64⟩, ⟨"FREQ_HZ", 27, 16, .rw, 0x3e8⟩]⟩,
  ⟨"HTH_COOL_FLOW", 0x30, 0, 1, 0, 1,
    [⟨"FLOW0", 9, 0, .ro, 0⟩, ⟨"FLOW1", 19, 10, .ro, 0⟩, ⟨"DUTY", 26, 20, .ro, 0⟩]⟩,
  ⟨"HTH_COOL_IN", 0x34, 0, 1, 0, 1,
    [⟨"T0", 15, 0, .ro, 0x8000⟩, ⟨"T1", 31, 16, .ro, 0x8000⟩]⟩,
  ⟨"HTH_COOL_OUT", 0x38, 0, 1, 0, 1,
    [⟨"T0", 15, 0, .ro, 0x8000⟩, ⟨"T1", 31, 16, .ro, 0x8000⟩]⟩,
  ⟨"HTH_MISC", 0x3c, 0, 1, 0, 1,
    [⟨"HOST_W", 7, 0, .rw, 0x23⟩, ⟨"GRACE_MS", 15, 8, .rw, 0x32⟩, ⟨"RAMP", 23, 16, .rw, 0x1e⟩]⟩,
  ⟨"HTH_ADV_CNT", 0x40, 0, 1, 0, 1,
    [⟨"COUNT", 31, 0, .ro, 0⟩]⟩]

def tbl_hthi_2 : List RegSpec := [
  ⟨"HTH_EMERG_CNT", 0x44, 0, 1, 0, 1,
    [⟨"COUNT", 31, 0, .ro, 0⟩]⟩,
  ⟨"HTH_DIE_W0", 0x100, 8, 6, 0, 1,
    [⟨"BUDGET_DW", 11, 0, .ro, 0⟩, ⟨"POWER_DW", 27, 16, .ro, 0⟩]⟩,
  ⟨"HTH_DIE_W1", 0x104, 8, 6, 0, 1,
    [⟨"TMAX", 15, 0, .ro, 0⟩, ⟨"REPORT_OK", 16, 16, .ro, 0⟩]⟩,
  ⟨"HTH_REG", 0x300, 4, 0x10, 0, 1,
    [⟨"ADDR", 6, 0, .rw, 0⟩, ⟨"EN", 7, 7, .rw, 0⟩, ⟨"AVS", 8, 8, .rw, 0⟩, ⟨"PORT", 11, 9, .rw, 0⟩, ⟨"IOUT_DA", 31, 16, .ro, 0⟩]⟩,
  ⟨"HTH_SNS_IOD", 0x200, 4, 8, 0, 1,
    [⟨"T", 15, 0, .ro, 0⟩, ⟨"VALID", 16, 16, .ro, 0⟩, ⟨"OPEN", 17, 17, .ro, 0⟩, ⟨"SHORT", 18, 18, .ro, 0⟩, ⟨"SUSPECT", 19, 19, .ro, 0⟩]⟩]

def tbl_hthi : List RegSpec := tbl_hthi_0 ++ tbl_hthi_1 ++ tbl_hthi_2

def tbl_htha (n : Nat) : List RegSpec := [
  ⟨"HTH_AG_STS", 0, 0, 1, 0, 1,
    [⟨"BUDGET_DW", 11, 0, .ro, 0⟩, ⟨"POWER_DW", 27, 16, .ro, 0⟩, ⟨"SURVIVAL", 28, 28, .ro, 0⟩, ⟨"THERMAL", 29, 29, .ro, 0⟩, ⟨"TRIPPED", 30, 30, .ro, 0⟩]⟩,
  ⟨"HTH_AG_FLOOR", 8, 0, 1, 0, 1,
    [⟨"FLOOR_DW", 11, 0, .ro, 0⟩, ⟨"DEMAND_DW", 27, 16, .ro, 0⟩]⟩,
  ⟨"HTH_SNS", 0x100, 4, n, 0, 1,
    [⟨"T", 15, 0, .ro, 0⟩, ⟨"VALID", 16, 16, .ro, 0⟩, ⟨"OPEN", 17, 17, .ro, 0⟩, ⟨"SHORT", 18, 18, .ro, 0⟩, ⟨"SUSPECT", 19, 19, .ro, 0⟩]⟩]

def tbl_hthd : List RegSpec := [
  ⟨"HTH_AG_DUTY", 4, 0, 1, 0, 1,
    [⟨"DUTY0", 3, 0, .ro, 0xf⟩, ⟨"DUTY1", 7, 4, .ro, 0xf⟩, ⟨"DUTY2", 11, 8, .ro, 0xf⟩, ⟨"DUTY3", 15, 12, .ro, 0xf⟩, ⟨"DUTY4", 19, 16, .ro, 0xf⟩, ⟨"DUTY5", 23, 20, .ro, 0xf⟩, ⟨"DUTY6", 27, 24, .ro, 0xf⟩, ⟨"DUTY7", 31, 28, .ro, 0xf⟩]⟩]

def tbl_rstq : List RegSpec := [
  ⟨"RST_ID", 0, 0, 1, 0, 1,
    [⟨"DIE", 2, 0, .ro, 0⟩, ⟨"STEPPING", 23, 16, .ro, 0xb0⟩]⟩,
  ⟨"RST_REQ_TO", 0x64, 0, 1, 0, 1,
    [⟨"US", 19, 0, .rw, 0x64⟩]⟩,
  ⟨"RST_ERR", 0x70, 0, 1, 0, 1,
    [⟨"REQ_TO", 0, 0, .w1c, 0⟩, ⟨"ABORT_FAIL", 1, 1, .w1c, 0⟩, ⟨"RESET_FAIL", 2, 2, .w1c, 0⟩]⟩,
  ⟨"RST_TO_LOG", 0x74, 0, 1, 0, 1,
    [⟨"INIT", 11, 0, .ro, 0⟩, ⟨"VALID", 31, 31, .ro, 0⟩]⟩]

def tbl_rstd : List RegSpec := [
  ⟨"RST_CMD", 4, 0, 1, 0, 1,
    [⟨"CORE", 2, 0, .rw, 0⟩, ⟨"CLUSTER", 5, 3, .rw, 0⟩, ⟨"LEVEL", 6, 6, .rw, 0⟩, ⟨"GO", 8, 8, .wo, 0⟩]⟩,
  ⟨"RST_STS", 8, 0, 1, 0, 1,
    [⟨"BUSY", 0, 0, .ro, 0⟩]⟩,
  ⟨"RST_GEN_CL", 0x10, 4, 2, 0, 1,
    [⟨"GEN0", 7, 0, .ro, 0⟩, ⟨"GEN1", 15, 8, .ro, 0⟩, ⟨"GEN2", 23, 16, .ro, 0⟩, ⟨"GEN3", 31, 24, .ro, 0⟩]⟩,
  ⟨"RST_GEN_CO", 0x20, 4, 0x10, 0, 1,
    [⟨"GEN0", 7, 0, .ro, 0⟩, ⟨"GEN1", 15, 8, .ro, 0⟩, ⟨"GEN2", 23, 16, .ro, 0⟩, ⟨"GEN3", 31, 24, .ro, 0⟩]⟩,
  ⟨"RST_HANG", 0x60, 0, 1, 0, 1,
    [⟨"WDOG_US", 15, 0, .rw, 0x7d0⟩, ⟨"ABORT_US", 23, 16, .rw, 0xa⟩]⟩,
  ⟨"RST_TD", 0x68, 0, 1, 0, 1,
    [⟨"CTX", 15, 0, .rw, 0⟩, ⟨"GEN", 23, 16, .rw, 0⟩, ⟨"ACTIVE", 24, 24, .rw, 0⟩]⟩,
  ⟨"RST_TD_OUT", 0x6c, 0, 1, 0, 1,
    [⟨"CL", 7, 0, .ro, 0⟩, ⟨"DIE", 8, 8, .ro, 0⟩, ⟨"COUNT", 31, 16, .ro, 0⟩]⟩]

def tbl_rsti_0 : List RegSpec := [
  ⟨"RST_PKG_CTL", 4, 0, 1, 0, 1,
    [⟨"WARM", 0, 0, .wo, 0⟩]⟩,
  ⟨"RST_PKG_STS", 8, 0, 1, 0, 1,
    [⟨"CAUSE", 2, 0, .ro, 0⟩, ⟨"PKG_GEN", 15, 8, .ro, 0⟩]⟩,
  ⟨"RST_DIE_CMD", 0xc, 0, 1, 0, 1,
    [⟨"DIE", 2, 0, .rw, 0⟩, ⟨"GO", 8, 8, .wo, 0⟩]⟩,
  ⟨"RST_DIE_STS", 0x10, 0, 1, 0, 1,
    [⟨"IN_RESET", 5, 0, .ro, 0⟩, ⟨"ISOLATED", 13, 8, .ro, 0⟩]⟩,
  ⟨"RST_DIE_GEN", 0x14, 0, 1, 0, 1,
    [⟨"GEN0", 7, 0, .ro, 0⟩, ⟨"GEN1", 15, 8, .ro, 0⟩, ⟨"GEN2", 23, 16, .ro, 0⟩, ⟨"GEN3", 31, 24, .ro, 0⟩]⟩,
  ⟨"RST_PCH_GEN", 0x18, 0, 1, 0, 1,
    [⟨"GEN", 7, 0, .ro, 0⟩]⟩,
  ⟨"RST_MP_WDOG", 0x20, 0, 1, 0, 1,
    [⟨"MS", 15, 0, .rw, 0x14⟩, ⟨"KICK", 16, 16, .wo, 0⟩, ⟨"EN", 17, 17, .rw, 1⟩]⟩,
  ⟨"RST_FM_CLEAR", 0x24, 0, 1, 0, 1,
    [⟨"VALUE", 15, 0, .rw, 0xa⟩]⟩]

def tbl_rsti_1 : List RegSpec := [
  ⟨"RST_TD_LIMIT", 0x2c, 0, 1, 0, 1,
    [⟨"VALUE", 15, 0, .rw, 0x7d0⟩]⟩,
  ⟨"RST_TD_CTL", 0x28, 0, 1, 0, 1,
    [⟨"CTX", 15, 0, .ro, 0⟩, ⟨"ACTIVE", 16, 16, .ro, 0⟩, ⟨"ESCALATED", 17, 17, .ro, 0⟩]⟩,
  ⟨"RST_DUMP_BASE", 0x30, 0, 1, 0, 1,
    [⟨"BASE", 27, 0, .rw, 0⟩]⟩,
  ⟨"RST_DUMP_CTL", 0x34, 0, 1, 0, 1,
    [⟨"GO", 0, 0, .wo, 0⟩, ⟨"AUTO", 1, 1, .rw, 1⟩, ⟨"OVERWRITE", 2, 2, .rw, 0⟩]⟩,
  ⟨"RST_DUMP_STS", 0x38, 0, 1, 0, 1,
    [⟨"BUSY", 0, 0, .ro, 0⟩, ⟨"FRESH", 1, 1, .ro, 0⟩, ⟨"CAUSE", 3, 2, .ro, 0⟩, ⟨"UNREADABLE", 31, 16, .ro, 0⟩]⟩,
  ⟨"RST_DUMP_LEN", 0x3c, 0, 1, 0, 1,
    [⟨"VALUE", 31, 0, .ro, 0⟩]⟩,
  ⟨"RST_NOTICE_CNT", 0x40, 0, 1, 0, 1,
    [⟨"VALUE", 31, 0, .ro, 0⟩]⟩,
  ⟨"RST_NOTICE_RX", 0x44, 0, 1, 0, 1,
    [⟨"VALUE", 31, 0, .ro, 0⟩]⟩]

def tbl_rsti_2 : List RegSpec := [
  ⟨"RST_FM_MBOX_IN", 0x48, 0, 1, 0, 1,
    [⟨"DATA", 31, 0, .rw, 0⟩]⟩,
  ⟨"RST_FM_MBOX_OUT", 0x4c, 0, 1, 0, 1,
    [⟨"DATA", 31, 0, .rw, 0⟩]⟩,
  ⟨"RST_REQ_TO_IOD", 0x64, 0, 1, 0, 1,
    [⟨"US", 19, 0, .rw, 0x1388⟩]⟩,
  ⟨"RST_ERR_IOD", 0x70, 0, 1, 0, 1,
    [⟨"REQ_TO", 0, 0, .w1c, 0⟩]⟩,
  ⟨"RST_TO_LOG_IOD", 0x74, 0, 1, 0, 1,
    [⟨"INIT", 11, 0, .ro, 0⟩, ⟨"VALID", 31, 31, .ro, 0⟩]⟩]

def tbl_rsti : List RegSpec := tbl_rsti_0 ++ tbl_rsti_1 ++ tbl_rsti_2

def tbl_sec_0 : List RegSpec := [
  ⟨"SEC_ID", 0, 0, 1, 0, 1,
    [⟨"STEPPING", 23, 16, .ro, 0xb0⟩]⟩,
  ⟨"SEC_STS", 4, 0, 1, 0, 1,
    [⟨"STAGE", 1, 0, .ro, 0⟩, ⟨"OTP_LOCKED", 2, 2, .ro, 0⟩, ⟨"TEST_UNLOCKED", 3, 3, .ro, 0⟩, ⟨"SESSION", 6, 4, .ro, 0⟩]⟩,
  ⟨"SEC_ERR", 8, 0, 1, 0, 1,
    [⟨"OTP_ECC", 0, 0, .w1c, 0⟩, ⟨"AUTH", 1, 1, .w1c, 0⟩, ⟨"FLASH_IO", 2, 2, .w1c, 0⟩, ⟨"FLASH_DENY", 3, 3, .w1c, 0⟩, ⟨"SR_REJECT", 4, 4, .w1c, 0⟩, ⟨"START_FAIL", 5, 5, .w1c, 0⟩]⟩,
  ⟨"SEC_UNITS", 0xc, 0, 1, 0, 1,
    [⟨"RUNNING", 7, 0, .ro, 0⟩, ⟨"DEAD", 15, 8, .ro, 0⟩, ⟨"PENDING", 23, 16, .ro, 0⟩]⟩,
  ⟨"SEC_BOOT_CNT", 0x10, 0, 1, 0, 1,
    [⟨"COUNT", 31, 0, .ro, 0⟩]⟩,
  ⟨"SEC_SECURE_BASE", 0x14, 0, 1, 0, 1,
    [⟨"BASE", 27, 0, .ro, 0⟩]⟩,
  ⟨"SEC_XSPI", 0x18, 0, 1, 0, 1,
    [⟨"OCTAL", 0, 0, .rw, 0⟩, ⟨"SIZE_MB", 24, 16, .ro, 0⟩]⟩,
  ⟨"SEC_FLASH_CMD", 0x1c, 0, 1, 0, 1,
    [⟨"OP", 1, 0, .rw, 0⟩, ⟨"GO", 2, 2, .wo, 0⟩]⟩]

def tbl_sec_1 : List RegSpec := [
  ⟨"SEC_FLASH_ADDR", 0x20, 0, 1, 0, 1,
    [⟨"ADDR", 27, 0, .rw, 0⟩]⟩,
  ⟨"SEC_FLASH_SRC", 0x24, 0, 1, 0, 1,
    [⟨"OFF", 27, 0, .rw, 0⟩]⟩,
  ⟨"SEC_FLASH_STS", 0x28, 0, 1, 0, 1,
    [⟨"BUSY", 0, 0, .ro, 0⟩, ⟨"FAIL", 1, 1, .ro, 0⟩]⟩,
  ⟨"SEC_OTP_LOCK", 0x2c, 0, 1, 0, 1,
    [⟨"LOCK", 0, 0, .rw, 0⟩]⟩,
  ⟨"SEC_MEAS", 0x100, 4, 0x80, 0, 1,
    [⟨"WORD", 31, 0, .ro, 0⟩]⟩]

def tbl_sec : List RegSpec := tbl_sec_0 ++ tbl_sec_1

def tbl_tst_0 : List RegSpec := [
  ⟨"TST_ID", 0, 0, 1, 0, 1,
    [⟨"DIE", 2, 0, .ro, 0⟩, ⟨"STEPPING", 23, 16, .ro, 0xb0⟩]⟩,
  ⟨"TST_LOCK", 4, 0, 1, 0, 1,
    [⟨"LOCKED", 0, 0, .rwl, 1⟩]⟩,
  ⟨"TST_STS", 8, 0, 1, 0, 1,
    [⟨"LC", 1, 0, .ro, 1⟩, ⟨"UNLOCKED", 2, 2, .ro, 0⟩, ⟨"PERT_ACT", 7, 4, .ro, 0⟩, ⟨"INJ_ARMED", 11, 8, .ro, 0⟩]⟩,
  ⟨"TST_ERR", 0xc, 0, 1, 0, 1,
    [⟨"CFG", 0, 0, .w1c, 0⟩]⟩,
  ⟨"TST_PERT_W0", 0x100, 8, 4, 0, 1,
    [⟨"KIND", 1, 0, .rw, 0⟩, ⟨"DIR", 2, 2, .rw, 0⟩, ⟨"TARGET", 7, 3, .rw, 0⟩, ⟨"AMOUNT", 15, 8, .rw, 0⟩]⟩,
  ⟨"TST_PERT_W1", 0x104, 8, 4, 0, 1,
    [⟨"PERIOD", 15, 0, .rw, 0⟩]⟩,
  ⟨"TST_INJ_W0", 0x200, 0x10, 4, 0, 1,
    [⟨"ARM", 0, 0, .rw, 0⟩, ⟨"MODE", 1, 1, .rw, 0⟩, ⟨"SEV", 3, 2, .rw, 0⟩, ⟨"TARGET", 8, 4, .rw, 0⟩, ⟨"EVERY", 31, 16, .rw, 0⟩]⟩,
  ⟨"TST_INJ_W1", 0x204, 0x10, 4, 0, 1,
    [⟨"CLUSTER", 2, 0, .rw, 0⟩, ⟨"CORE", 5, 3, .rw, 0⟩, ⟨"ENGINE", 7, 6, .rw, 0⟩, ⟨"PORT", 10, 8, .rw, 0⟩, ⟨"LEDGER", 14, 11, .rw, 0⟩, ⟨"ADDR_EN", 15, 15, .rw, 0⟩]⟩]

def tbl_tst_1 : List RegSpec := [
  ⟨"TST_INJ_W2", 0x208, 0x10, 4, 0, 1,
    [⟨"ADDR_LO", 31, 0, .rw, 0⟩]⟩,
  ⟨"TST_INJ_W3", 0x20c, 0x10, 4, 0, 1,
    [⟨"ADDR_HI", 9, 0, .rw, 0⟩, ⟨"APPLIED", 31, 16, .ro, 0⟩]⟩]

def tbl_tst : List RegSpec := tbl_tst_0 ++ tbl_tst_1

def tbl_tsttel : List RegSpec := [
  ⟨"TST_TEL_W0", 0x400, 8, 0x40, 0, 1,
    [⟨"ADDR_LO", 31, 2, .rw, 0⟩]⟩,
  ⟨"TST_TEL_W1", 0x404, 8, 0x40, 0, 1,
    [⟨"ADDR_HI", 15, 0, .rw, 0⟩, ⟨"EN", 16, 16, .rw, 0⟩]⟩]

end Sys2Proof.Machine
end

