-- ==== Sys2Proof/Machine/RegMap.lean ====
section
/-!
DEFINITION. Machine/RegMap.lean: where every register block lies (R34 to R38), which register an offset names, and
the value a register has at reset (R11).
-/
namespace Sys2Proof.Machine

/-- The die population of R2: which part this package is. -/
inductive Part where
  | dvx2300 | dvx1150
  deriving DecidableEq, Repr

/-- Fitted compute dies of a part (R2, R3). -/
def Part.dies : Part → Nat
  | .dvx2300 => 4
  | .dvx1150 => 2

/-- Package continuous limit in watts (R2). -/
def Part.pCont : Part → Nat
  | .dvx2300 => 480
  | .dvx1150 => 280

/-- Is compute die `d` fitted? -/
def Part.fitted (p : Part) (d : Nat) : Bool := decide (d < p.dies)

/-- The kinds of register block (R35, R36, R38). -/
inductive Blk where
  | dieClu | memD | ddlD | pan | bwrD | hthD | rstD | tstD | syn | clu | att | core | chk | eng
  | hp | cmd | qm | dsp | adm | bwrI | memI | ddlI | spn | hthI | rstI | sec | tstI
  | pch | fus | bwrP | hthP | rstP | tstP | ddlP | acn
  deriving DecidableEq, Repr

/-- A register place: the block's kind, which one (die, global cluster, core or engine index, island), the offset. -/
structure Loc where
  blk : Blk
  unit : Nat
  off : Nat
  deriving DecidableEq, Repr

/-! ### Bases -/

/-- Register base of die `d`: CD0 to CD3, 4 the IOD, 5 the Porch (R34). -/
def dieBase (d : Nat) : Nat := 0x00F000000000 + d * 0x1000000
/-- Cluster block of global cluster `c` = 8·die + cluster (R35). -/
def cluBase (c : Nat) : Nat := dieBase (c / 8) + 0x100000 + (c % 8) * 0x100000
/-- Attention-unit block of global cluster `c` (R35). -/
def attBase (c : Nat) : Nat := cluBase c + 0x10000
/-- Core block of global core `k` = 64·die + 8·cluster + core (R35). -/
def coreBase (k : Nat) : Nat := cluBase (k / 8) + 0x80000 + (k % 8) * 0x10000
/-- Checker block of a core (R35). -/
def chkBase (k : Nat) : Nat := coreBase k + 0x4000
/-- Engine block of global engine `e` = 4·core + engine (R35). -/
def engBase (e : Nat) : Nat := coreBase (e / 4) + 0x8000 + (e % 4) * 0x1000
def memBase (d : Nat) : Nat := dieBase d + 0x10000
def ddlBase (d : Nat) : Nat := dieBase d + if d < 4 then 0x20000 else if d = 4 then 0x70000 else 0x240000
def panBase (d : Nat) : Nat := dieBase d + 0x30000
def bwrBase (d : Nat) : Nat := dieBase d + if d < 4 then 0x40000 else if d = 4 then 0x50000 else 0x200000
def hthABase (d : Nat) : Nat := dieBase d + if d < 4 then 0x50000 else 0x210000
def rstBase (d : Nat) : Nat := dieBase d + if d < 4 then 0x60000 else 0x220000
def tstBase (d : Nat) : Nat := dieBase d + if d < 4 then 0x70000 else if d = 4 then 0xC0000 else 0x230000
def synBase (d : Nat) : Nat := dieBase d + 0x80000
def hpBase : Nat := 0x00F004000000
def cmdBase : Nat := 0x00F004010000
def qmBase : Nat := 0x00F004020000
def dspBase : Nat := 0x00F004030000
def admBase : Nat := 0x00F004040000
def memIBase : Nat := 0x00F004060000
def spnBase : Nat := 0x00F004080000
def hthBase : Nat := 0x00F004090000
def rstIBase : Nat := 0x00F0040A0000
def secBase : Nat := 0x00F0040B0000
def pchBase : Nat := 0x00F005000000
def fusBase : Nat := 0x00F005100000
/-- ACN_ block of island 0 (A) or 1 (B) (R38). -/
def acnBase (i : Nat) : Nat := 0x00FF00000000 + i * 0x1000000

/-! ### From an address to a block -/

/-- The block within a cluster at offset `o` of global cluster `c` (R35). -/
def locCluster (c o : Nat) : Option Loc :=
  if o < 0x10000 then some ⟨.clu, c, o⟩
  else if o < 0x20000 then some ⟨.att, c, o - 0x10000⟩
  else if o < 0x80000 then none
  else
    let k := 8 * c + (o - 0x80000) / 0x10000
    let r := (o - 0x80000) % 0x10000
    if r < 0x4000 then some ⟨.core, k, r⟩
    else if r < 0x5000 then some ⟨.chk, k, r - 0x4000⟩
    else if r < 0x8000 then none
    else if r < 0xC000 then some ⟨.eng, 4 * k + (r - 0x8000) / 0x1000, (r - 0x8000) % 0x1000⟩
    else none

/-- The block at offset `o` of compute die `d` (R35). -/
def locCompute (d o : Nat) : Option Loc :=
  if o < 0x80000 then
    let r := o % 0x10000
    match o / 0x10000 with
    | 0 => some ⟨.dieClu, d, r⟩
    | 1 => some ⟨.memD, d, r⟩
    | 2 => some ⟨.ddlD, d, r⟩
    | 3 => some ⟨.pan, d, r⟩
    | 4 => some ⟨.bwrD, d, r⟩
    | 5 => some ⟨.hthD, d, r⟩
    | 6 => some ⟨.rstD, d, r⟩
    | _ => some ⟨.tstD, d, r⟩
  else if o < 0x100000 then some ⟨.syn, d, o - 0x80000⟩
  else if o < 0x900000 then locCluster (8 * d + (o - 0x100000) / 0x100000) (o % 0x100000)
  else none

/-- The block at offset `o` of the IOD (R36). -/
def locIod (o : Nat) : Option Loc :=
  let r := o % 0x10000
  match o / 0x10000 with
  | 0 => some ⟨.hp, 4, r⟩
  | 1 => some ⟨.cmd, 4, r⟩
  | 2 => some ⟨.qm, 4, r⟩
  | 3 => some ⟨.dsp, 4, r⟩
  | 4 => some ⟨.adm, 4, r⟩
  | 5 => some ⟨.bwrI, 4, r⟩
  | 6 => some ⟨.memI, 4, r⟩
  | 7 => some ⟨.ddlI, 4, r⟩
  | 8 => some ⟨.spn, 4, r⟩
  | 9 => some ⟨.hthI, 4, r⟩
  | 10 => some ⟨.rstI, 4, r⟩
  | 11 => some ⟨.sec, 4, r⟩
  | 12 => some ⟨.tstI, 4, r⟩
  | _ => none

/-- The block at offset `o` of the Porch (R36). -/
def locPorch (o : Nat) : Option Loc :=
  if o < 0x100000 then some ⟨.pch, 5, o⟩
  else if o < 0x200000 then some ⟨.fus, 5, o - 0x100000⟩
  else
    let r := o % 0x10000
    match o / 0x10000 with
    | 0x20 => some ⟨.bwrP, 5, r⟩
    | 0x21 => some ⟨.hthP, 5, r⟩
    | 0x22 => some ⟨.rstP, 5, r⟩
    | 0x23 => some ⟨.tstP, 5, r⟩
    | 0x24 => some ⟨.ddlP, 5, r⟩
    | _ => none

/-- The register block that holds a package physical address, if any (R25, R33 to R38). -/
def locate (p : Part) (a : Nat) : Option Loc :=
  if 0x00F000000000 ≤ a ∧ a < 0x00F006000000 then
    let d := (a - 0x00F000000000) / 0x1000000
    let o := (a - 0x00F000000000) % 0x1000000
    if d < 4 then (if p.fitted d then locCompute d o else none)
    else if d = 4 then locIod o
    else locPorch o
  else if 0x00FF00000000 ≤ a ∧ a < 0x00FF02000000 then
    some ⟨.acn, (a - 0x00FF00000000) / 0x1000000, (a - 0x00FF00000000) % 0x1000000⟩
  else none

/-! ### The registers of a block -/

/-- How many ports, paths, urgency sources and sensors a block has is fixed by its die (R254, R354, R364, R488). -/
def regsOf : Blk → List RegSpec
  | .dieClu => tbl_dcb
  | .memD => tbl_memd
  | .ddlD => tbl_ddlr ++ tbl_ddl 5
  | .pan => tbl_pan
  | .bwrD => tbl_bwr ++ tbl_bwrpath 11 ++ tbl_bwrgrp
  | .hthD => tbl_hthd ++ tbl_htha 24
  | .rstD => tbl_rstq ++ tbl_rstd
  | .tstD => tbl_tst
  | .syn => tbl_syn
  | .clu => tbl_cl
  | .att => tbl_att
  | .core => tbl_core
  | .chk => tbl_chk
  | .eng => tbl_eng
  | .hp => tbl_hp
  | .cmd => tbl_cmd
  | .qm => tbl_qm
  | .dsp => tbl_dsp
  | .adm => tbl_adm
  | .bwrI => tbl_bwr ++ tbl_bwrhost ++ tbl_bwrurg 23 ++ tbl_bwrpath 6
  | .memI => tbl_memi
  | .ddlI => tbl_ddl 5
  | .spn => tbl_spn
  | .hthI => tbl_hthi
  | .rstI => tbl_rsti
  | .sec => tbl_sec
  | .tstI => tbl_tst ++ tbl_tsttel
  | .pch => tbl_pch
  | .fus => tbl_fus
  | .bwrP => tbl_bwr ++ tbl_bwrurg 21 ++ tbl_bwrpath 1
  | .hthP => tbl_htha 6
  | .rstP => tbl_rstq
  | .tstP => tbl_tst
  | .ddlP => tbl_ddl 1
  | .acn => tbl_acn

/-- The numbers of a repeated register, if `off` is one of them. -/
def RegSpec.index (r : RegSpec) (off : Nat) : Option (Nat × Nat) :=
  if off < r.off then none
  else
    let x := off - r.off
    let i := if r.s1 = 0 then 0 else x / r.s1
    let y := if r.s1 = 0 then x else x % r.s1
    let j := if r.s2 = 0 then 0 else y / r.s2
    let z := if r.s2 = 0 then y else y % r.s2
    if i < r.n1 ∧ j < r.n2 ∧ z = 0 then some (i, j) else none

/-- The register at an offset, with its numbers. -/
def findReg : List RegSpec → Nat → Option (RegSpec × Nat × Nat)
  | [], _ => none
  | r :: rs, off =>
    match r.index off with
    | some (i, j) => some (r, i, j)
    | none => findReg rs off

/-- Registers whose number does not exist on this block (R254, R354, R364): they read as zero and ignore writes. -/
def numberExists (p : Part) (l : Loc) (name : String) (i j : Nat) : Bool :=
  if name == "BWR_P_FIX" then
    (match l.blk with
     | .bwrD => (i == 0 && decide (j < 3)) || ((i == 9 || i == 10) && j == 0)
     | .bwrI => (decide (i < 4) && decide (j < 5)) || (decide (4 ≤ i) && decide (j < 2))
     | _ => decide (j < 3))
  else if name == "BWR_URGN" then
    (match l.blk with | .bwrI => decide (21 ≤ i) | _ => decide (i < 21))
  else if l.blk == .ddlI then decide (i = 4) || p.fitted i
  else if l.blk == .ddlD then
    if name == "DDL_ROUTE" then true
    else (match i with
      | 0 | 1 => p.fitted ((l.unit + 1) % 4)
      | 2 | 3 => p.fitted ((l.unit + 3) % 4)
      | _ => true)
  else true

/-- The register at a place, if the block has one there. -/
def regAt (p : Part) (l : Loc) : Option (RegSpec × Nat × Nat) :=
  match findReg (regsOf l.blk) l.off with
  | some (r, i, j) => if numberExists p l r.name i j then some (r, i, j) else none
  | none => none

/-! ### Reset values -/

/-- Capacity of a regulated path at full width (R354); memory ports start without inline ECC (MEM_DIE_CTL.ECC_EN
resets to 0). -/
def pathCapReset (b : Blk) (i : Nat) : Nat :=
  match b with
  | .bwrD => if i = 0 then 218400 else if i ≤ 8 then 204800 else if i = 9 then 4 * 192000 else 192000
  | .bwrI => if i < 4 then 192000 else 34200
  | _ => 192000

/-- The position a read-only identity register returns. -/
def positionValue (l : Loc) (name : String) (i : Nat) : Nat :=
  if name == "ENG_ID" then l.unit
  else if name == "CORE_ID" then l.unit
  else if name == "CHK_ID" then l.unit
  else if name == "CLU_ID" then l.unit
  else if name == "CLU_DIE_ID" || name == "PAN_ID" || name == "MEM_ID" || name == "SYN_ID"
    || name == "BWR_ID" || name == "RST_ID" || name == "TST_ID" then l.unit
  else if name == "ACN_ID" then l.unit
  else if name == "DDL_PORT_ID" then
    (match l.blk with
     | .ddlD => if i = 4 then 4 else
         (if i < 2 then (l.unit + 1) % 4 else (l.unit + 3) % 4) + 8 * (i % 2)
     | .ddlI => if i = 4 then 5 else i
     | _ => 4)
  else 0

/-- Reset values that depend on the part or on the register's number. -/
def numberedReset (p : Part) (l : Loc) (name : String) (i j : Nat) (base : Nat) : Nat :=
  if name == "HTH_LIMIT" then setBits base 9 0 p.pCont
  else if name == "HTH_DERATE" then setBits base 9 0 (match p with | .dvx2300 => 240 | .dvx1150 => 140)
  else if name == "BWR_P_CAP" then pathCapReset l.blk i
  else if name == "BWR_P_FIX" then
    (if l.blk == .bwrD && i == 0 then (if j < 2 then 8000 else 2000) else 0)
  else if name == "BWR_URGN" then (if l.blk == .bwrI then 56 + 40 * 256 else base)
  else if name == "PCH_BUF" then (if i = 20 then 32 else base)
  else if name == "HP_WIN_W1" then (if i = 0 then 8192 else 0)
  else if name == "HP_WIN_W2" then (if i = 0 then 0x1FF0000 else 0)
  else if name == "HP_WIN_W3" then (if i = 0 then 7 else 0)
  else base + positionValue l name i

/-- The value a register has when its reset domain is released. -/
def resetOf (p : Part) (l : Loc) : Nat :=
  match regAt p l with
  | none => 0
  | some (r, i, j) =>
    numberedReset p l r.name i j (r.fields.foldl (fun acc f => acc + f.reset * 2 ^ f.lo) 0)

/-- What the register word at a package address holds while nothing has changed it. -/
def regDefault (p : Part) (a : Nat) : Word :=
  match locate p a with
  | none => 0
  | some l => BitVec.ofNat 32 (resetOf p l)

end Sys2Proof.Machine
end

