-- ==== Sys2Proof/Machine/State.lean ====
section
/-!
DEFINITION. Machine/State.lean: everything the spec gives the package, as plain data: its registers (one sparse store
over their reset values), its memories (one sparse store of bytes), and the records of each unit that no register
shows. `State.reset` is the package right after power-on, before the start of R528.
-/
namespace Sys2Proof.Machine

open Sys2Proof

/-! ### Engines (chapter 02) and their checker sums (chapter 14) -/

/-- What an engine operation is: MMA in the MMA pipeline, WB and LOAD in the write-back pipeline (R81). -/
inductive EngKind where
  | mma | wb | load
  deriving DecidableEq, Repr

/-- An accepted engine operation with the configuration latched when ENG_GO was written (R80), and the sequencer's PC
then (R100). -/
structure EngOp where
  kind : EngKind
  mode : Nat
  kdim : Nat
  aAddr : Nat
  wAddr : Nat
  metaAddr : Nat
  asAddr : Nat
  wsAddr : Nat
  sbAddr : Nat
  wbCtl : Nat
  wbAddr : Nat
  wbStride : Nat
  xsAddr : Nat
  started : Bool
  pc : Nat
  deriving DecidableEq, Repr

/-- Checker sums of one bank (R434): predicted column and row sums, their magnitudes, event and position counts.
Entries are integers for an INT32 bank and binary32 patterns for an FP32 bank. -/
structure ChkBank where
  colP : List Int
  colM : List Int
  rowP : List Int
  rowM : List Int
  events : Nat
  positions : Nat
  tainted : Bool
  unwritten : Bool
  deriving DecidableEq, Repr

/-- The checker sums of a cleared bank. -/
def ChkBank.zero : ChkBank :=
  ⟨List.replicate 32 0, List.replicate 32 0, List.replicate 16 0, List.replicate 16 0, 0, 0, false, false⟩

/-- One tensor engine: bank words (by 512·bank + 32·row + column), held operations, the 32 generators of R76, checker
sums by bank, the error bits that made the halting fault, and an ENG_GO write that waits for room (R81). -/
structure Eng where
  banks : List (Nat × Word)
  held : List EngOp
  lfsr : List Word
  chk : List (Nat × ChkBank)
  haltBits : Nat
  stalledGo : List (Nat × Nat)
  deriving DecidableEq, Repr

/-- Seed of generator `j` (R76). -/
def lfsrSeed (seed j : Nat) : Word :=
  let v := Nat.xor seed (j * 0x9E3779B9 % 2 ^ 32) % 2 ^ 32
  BitVec.ofNat 32 (if v = 0 then 1 else v)

/-- An engine after core reset: banks +0, no operation held, generators seeded with 1 (R45, R76). -/
def Eng.reset : Eng :=
  ⟨[], [], (List.range 32).map (lfsrSeed 1), [], 0, []⟩

/-! ### Cores (chapter 03) -/

/-- What a sequencer waits for; the PC stays at the waiting instruction until it retires (R99, R128). -/
inductive SeqWait where
  | none
  | wait (f : Nat)
  | sem (op num dst : Nat)
  | sacq (stream : Nat)
  | stall
  deriving DecidableEq, Repr

/-- A held vector descriptor: its 32 bytes, the PC of its VEC (R100), the results done before a pre-emption (R128), and
whether it has started and finished. -/
structure VecDesc where
  raw : List Byte
  pc : Nat
  done : Nat
  started : Bool
  finished : Bool
  deriving DecidableEq, Repr

/-- A held stream-mover descriptor: its 32 bytes, the PC of its SMV (R100), the bytes of a stream-out or the 4 KiB parts of
a copy or fill moved so far (R128), and whether all its writes are accepted. -/
structure MovDesc where
  raw : List Byte
  pc : Nat
  moved : Nat
  finished : Bool
  deriving DecidableEq, Repr

/-- A producer stream context: the stream and the credits held (R124). -/
structure StreamCtx where
  stream : Nat
  credits : Nat
  deriving DecidableEq, Repr

/-- A stream mover: its queue and its stream contexts. -/
structure Mover where
  queue : List MovDesc
  ctxs : List StreamCtx
  deriving DecidableEq, Repr

/-- An entry of a step's semaphore map (R331): slot number as the step names it, USE bits, and the hold flag. -/
structure SemUse where
  sem : Nat
  use : Nat
  hold : Bool
  deriving DecidableEq, Repr

/-- The state record of a pre-empted core (R128, R150): S0 to S31, PC, returned engine operations, bank words with the
live banks and types, engine configuration registers, vector queue, mover queues, acquired stream slots, semaphore map, core memory
and scratch, and where the record lies. -/
structure SavedCore where
  tag : Nat
  gen : Nat
  sregs : List Word
  pc : Nat
  engines : List (List EngOp)
  banks : List (List (Nat × Word))
  live : List (List Nat)
  bankInt : List Nat
  engRegs : List (List Word)
  vq : List VecDesc
  mov0 : Mover
  mov1 : Mover
  acquired : List (Nat × Nat)
  sems : List SemUse
  cm : List Byte
  scr : List (List Byte)
  place : Nat
  deriving DecidableEq, Repr

/-- A golden step on a core (R442): its table 4 entry, the start and end of its booking in µs, the step that is
pre-empted for it, and whether it has been loaded. -/
structure GoldenRun where
  entry : Nat
  start : Nat
  stop : Nat
  waits : Option Nat
  loaded : Bool
  deriving DecidableEq, Repr

/-- The series of golden steps that returns a core to service (R452, R509). -/
inductive SeriesSt where
  | idle | running | failed
  deriving DecidableEq, Repr

/-- One core's sequencer, vector unit and movers, beside its registers; the golden step on it, the window whose golden
step is due (R439), its series, whether a UNIT_RESET has reset it since its checker failed (R447), and its self-test: under way, and started
by island A. -/
structure CoreSt where
  wait : SeqWait
  vq : List VecDesc
  mov0 : Mover
  mov1 : Mover
  acquired : List (Nat × Nat)
  sems : List SemUse
  saved : Option SavedCore
  golden : Option GoldenRun
  goldDue : Option Nat
  series : SeriesSt
  afterReset : Bool
  selfTest : Bool
  testByA : Bool
  deriving DecidableEq, Repr

def CoreSt.reset : CoreSt :=
  ⟨.none, [], ⟨[], []⟩, ⟨[], []⟩, [], [], none, none, none, .idle, false, false, false⟩


/-! ### Pantry and attention units (chapter 05) -/

/-- A track command that runs (R170): operation, the tracks still closing, and the Pahal command that asked for it. -/
structure TCmd where
  op : Nat
  tracks : List Nat
  tag : Option Nat
  deriving DecidableEq, Repr

/-- A posted attention command (R173): the posting core, its 64 bytes, its step's identity and its posting order. -/
structure Post where
  core : Nat
  raw : List Byte
  tag : Nat
  cls : Nat
  ctx : Nat
  ctxGen : Nat
  order : Nat
  deriving DecidableEq, Repr

/-- A command in a pipeline of an attention unit: the post, its track and pool, `start` its place in the Pantry's
order, `waits` the clusters whose leases an append that recycles must outlast, the rows appended so far, the snapshot
of a SELF lease (COUNT, W, PTEs), its status once it is decided, and the tokens or blocks for the completion word. -/
structure AttRun where
  post : Post
  track : Nat
  pool : Nat
  start : Nat
  waits : List Nat
  row : Nat
  lease : Bool
  count : Nat
  window : Nat
  ptes : List Nat
  status : Option Nat
  total : Nat
  deriving DecidableEq, Repr

/-- One attention unit: posts not yet taken, the core its round robin looks at next, the append and attend pipelines,
and the number of the next post or start. -/
structure AttSt where
  posts : List Post
  turn : Nat
  app : Option AttRun
  att : Option AttRun
  next : Nat
  deriving DecidableEq, Repr

def AttSt.reset : AttSt := ⟨[], 0, none, none, 0⟩

/-- An open raw stream, the declaration that opened it, and the steps that declare it, by tag and generation (R122,
R146). -/
structure StrKey where
  stream : Nat
  ctx : Nat
  ctxGen : Nat
  link : Nat
  key : Nat
  tags : List (Nat × Nat)
  deriving DecidableEq, Repr

/-! ### Commands, steps and queues (chapters 08 and 09) -/

/-- The states of a command (R298 for a STEP; other commands are `parsed`, `waiting` while they run, or `reply`). -/
inductive Phase where
  | parsed | admitting | booked | queued | loading | running | preempted | waiting | reply
  deriving DecidableEq, Repr

/-- What the dispatcher has decided about a mismatching step (R451). -/
inductive ReexecSt where
  | none | undecided | refused | booked | running | again
  deriving DecidableEq, Repr

/-- The step a STEP command names, with its placement, its promise and its bookkeeping (R280, R303, R310, R322, R349,
R451). Times are whole microseconds of ADM_NOW: `decided` t, `start` s, `charge` E, `promised` s + E (0 without a
promise), `reStart` the start of a booked re-execution on the cores `rerun`. `victims` are the tags still to be cleared
for its booking, `conflict` its conflict set, `inheritSince` when its inheritance run began, `inheritFor` the
semaphores it inherits a class for, `lndSaved` the clusters whose Landing lies in the save region. -/
structure StepRec where
  image : Nat
  budget : Nat
  bases : List Nat
  sems : List Nat
  args : List Byte
  link : Nat
  rsv : Nat
  decided : Nat
  start : Nat
  charge : Nat
  promised : Nat
  booking : Bool
  begun : Bool
  cores : List Nat
  ended : List Nat
  saved : List Nat
  effClass : Nat
  victims : List Nat
  conflict : List Nat
  inheritSince : Option Nat
  inheritFor : List Nat
  mmCores : List Nat
  rerun : List Nat
  reStart : Nat
  reexec : ReexecSt
  lndSaved : List Nat
  deriving DecidableEq, Repr

/-- A command in flight, under its tag (R275, R276, R283): the completion ring of its queue, its place among the replies
that wait for a full ring, and when its result was ready. -/
structure Cmd where
  gen : Nat
  queue : Nat
  ctx : Nat
  ctxGen : Nat
  cls : Nat
  opcode : Nat
  notify : Bool
  fence : Bool
  cookie : Nat
  packet : List Byte
  order : Nat
  parsedUs : Nat
  phase : Phase
  status : Nat
  detail : Nat
  result : Nat
  suspect : Bool
  reexecd : Bool
  breach : Bool
  late : Bool
  cq : Nat
  held : Option Nat
  doneUs : Nat
  step : Option StepRec
  deriving DecidableEq, Repr

/-- A context (R278): generation, privileges [0] ADMIN [1] POLICY [2] UPDATE [3] SENSOR, class limit, teardown. -/
structure Ctx where
  live : Bool
  gen : Nat
  priv : Nat
  maxClass : Nat
  teardown : Bool
  deriving DecidableEq, Repr

def Ctx.absent : Ctx := ⟨false, 0, 0, 0, false⟩

/-- A queue descriptor (R290). -/
structure QDesc where
  valid : Bool
  state : Nat
  pinned : Bool
  cls : Nat
  fenceWait : Bool
  log2 : Nat
  ctx : Nat
  ctxGen : Nat
  base : Nat
  producer : Nat
  consumer : Nat
  cq : Nat
  inflight : Nat
  self : Nat
  parsed : Nat
  deriving DecidableEq, Repr

/-- A completion-ring record (R292), with the notification bookkeeping of R284. -/
structure CqRec where
  valid : Bool
  events : Bool
  log2 : Nat
  ctx : Nat
  vector : Nat
  coalCnt : Nat
  base : Nat
  coalUs : Nat
  tail : Nat
  head : Nat
  unnotified : Nat
  oldest : Nat
  deriving DecidableEq, Repr

def CqRec.absent : CqRec := ⟨false, false, 0, 0, 0, 0, 0, 0, 0, 0, 0, 0⟩

/-- A registered image (R135): where it lies and the pre-emption cost of R302; its fields are read from its bytes. -/
structure Image where
  addr : Nat
  size : Nat
  q : Nat
  deriving DecidableEq, Repr

/-- A reservation (R307). -/
structure Resv where
  ctx : Nat
  ctxGen : Nat
  image : Nat
  budget : Nat
  die : Nat
  groups : List (List Nat)
  closing : Bool
  deriving DecidableEq, Repr

/-- A doorbell waiting for its descriptor (R295): queue and index, in arrival order. -/
structure PendDb where
  queue : Nat
  index : Nat
  deriving DecidableEq, Repr

/-- A host RD or WR that a module carried (R261): module, requester field, TXID, address and data. -/
structure HostReq where
  mod : Nat
  req : Nat
  txid : Nat
  write : Bool
  addr : Nat
  len : Nat
  data : List Byte
  deriving DecidableEq, Repr

/-- A message that waits in a module's VC0 receive buffer of the host port (R260, R264, R295): a doorbell of a queue or of
a completion ring's head, with its module and requester field, or an RD or WR. -/
inductive Vc0Msg where
  | dbell (mod req queue index : Nat)
  | head (mod req cq index : Nat)
  | host (r : HostReq)
  deriving DecidableEq, Repr

/-- An event entry waiting for the event ring (R286). -/
structure HostEv where
  status : Nat
  detail : Nat
  result : Nat
  deriving DecidableEq, Repr

/-- An event reported to an island and not yet evaluated (R422). -/
structure Report where
  island : Nat
  event : Nat
  unit : Nat
  deriving DecidableEq, Repr

/-- A message that leaves a unit and has not been taken: kind, where it goes, and its words. -/
structure Emit where
  kind : String
  dest : Nat
  words : List Nat
  deriving DecidableEq, Repr

/-- A line of the system cache: raw address / 64, way, and its error: 1 correctable, 2 double-bit (R194, R197). -/
structure ScLine where
  line : Nat
  way : Nat
  mark : Nat
  deriving DecidableEq, Repr

/-- Where a request waits: at a port without credits or while its route changes, for the system cache, for the memory
port, for an invalidate, or for its acknowledgement. -/
inductive ReqStage where
  | port | iod | mem | inv | ack
  deriving DecidableEq, Repr

/-- A request that a unit has issued and no response has ended (R115, R194, R244, R493): initiator, TXID, direction,
package address, length, data, context and generations, stage, the time it was issued, where its response leaves (the
module for a host, sub-port + 4 × source package for a span port), and whether it has timed out (R493); then its class
label and urgency (R356, R364), its remote initiator (R42), the link ends it passed (R240, R241), the 64-byte lines its
memory port has still to serve, whether one was poisoned, and its place in the port's grants, 0 before it (R362). -/
structure Req where
  ini : Nat
  txid : Nat
  write : Bool
  addr : Nat
  len : Nat
  data : List Byte
  ctx : Nat
  cgen : Nat
  dgen : Nat
  stage : ReqStage
  since : Nat
  mod : Nat
  dead : Bool
  cls : Nat
  urg : Bool
  rini : Nat
  path : List Nat
  todo : List Nat
  bad : Bool
  grant : Nat
  deriving DecidableEq, Repr

/-- How a response ends a request; `sem` is a SEMRSP to a span port, its result word in the code. -/
inductive RespKind where
  | data | poison | ack | err | sem
  deriving DecidableEq, Repr

/-- A response on its way to the requester (R234, R235): the request's initiator, TXID, context and generations, exit,
label and length, and the link ends it has still to pass (R241). -/
structure Resp where
  ini : Nat
  txid : Nat
  kind : RespKind
  code : Nat
  data : List Byte
  ctx : Nat
  cgen : Nat
  dgen : Nat
  mod : Nat
  cls : Nat
  urg : Bool
  len : Nat
  path : List Nat
  deriving DecidableEq, Repr

/-- A payload flit sent and not yet acknowledged (R238, R551): SEQ, virtual channel and credit units of the messages
that start in it, its 240 payload bytes, and whether an injection corrupts its first transmission. -/
structure FlitRec where
  seq : Nat
  vc : Nat
  units : Nat
  payload : List Byte
  bad : Bool
  deriving DecidableEq, Repr

/-- One end of a link (R230, R232 to R239, R343): transmitter and receiver sequence, flits to be acknowledged, accepted
flits not yet acknowledged, a NAK outstanding, the bytes of a message that goes on in the next flit with its channel and
units, credits, occupied units and units owed by channel, totals of units returned and received, the ledger terms
latched, whether a flit has been accepted, the time of the last acknowledgement's advance, the times of the last retries,
the lanes named in CRC failures with their times, the receive direction's repair word, whether a lane has hard-failed
since the start, and whether DDL_CTL.RETRAIN has been written. -/
structure LinkEnd where
  txSeq : Nat
  unacked : List FlitRec
  rxSeq : Nat
  ackDue : Nat
  nakSent : Bool
  recv : List Byte
  leftVc : Nat
  leftUnits : Nat
  creds : List Nat
  used : List Nat
  owed : List Nat
  gave : List Nat
  got : List Nat
  txLatch : List Nat
  rxLatch : List Nat
  heard : Bool
  since : Nat
  retries : List Nat
  laneErrs : List (Nat × Nat)
  repair : Nat
  hard : Bool
  retrain : Bool
  deriving DecidableEq, Repr

/-- A link that is down: nothing sent, no credits. -/
def LinkEnd.down : LinkEnd :=
  ⟨0, [], 0, 0, false, [], 0, 0, [0, 0, 0, 0], [0, 0, 0, 0], [0, 0, 0, 0], [0, 0, 0, 0], [0, 0, 0, 0], [], [], false, 0, [],
    [], 0, false, false⟩

/-- A memory channel's scheduler (R208): the rotating pointer, the direction of the last burst (is it a write?) and how
many bursts went that way without a break. -/
structure ChanSched where
  ptr : Nat
  dir : Bool
  run : Nat
  deriving DecidableEq, Repr

/-- Where a path's arbitration stands (R362): the requester served last under rule 1, and under rule 2 the flow (class
label, 8 more when urgent) whose turn it is and the requests left of its turn. -/
structure PathTurn where
  last : Nat
  flow : Nat
  left : Nat
  deriving DecidableEq, Repr

/-! ### The Porch (chapter 12) -/

/-- A record in an ingest buffer (R368, R383): its place in the order of arrivals, header fields, the payload kept, how
much of it the write engine has drained, whether its frame has ended, whether a write lost it, and whether it waits for
its trigger edge. Cameras: `exp` is the exposure in ns. -/
structure InRec where
  ord : Nat
  tArr : Nat
  tTrig : Nat
  tExp : Nat
  flags : Nat
  idx : Nat
  skew : Nat
  tstate : Nat
  dtype : Nat
  emb : Nat
  id : Nat
  lines : Nat
  lineBytes : Nat
  payload : List Byte
  drained : Nat
  ended : Bool
  lost : Bool
  want : Bool
  exp : Nat
  deriving DecidableEq, Repr

/-- A sensor port (R366 to R374), by its port code; its SENSOR_CONFIG record is in its record area. Number of the last
committed record, records since the last signal, records lost, flags for the next record, tags of the SENSOR_CONFIGs
that wait for its disabling. Cameras: trigger edges not yet paired (index, stamp), frames that arrived before their edge,
the CAMERA_RESTART that runs, its trigger output held, samples in a row above OC_MA and below UC_MA, the newest
exposure, skew and SKEWED flag, and whether its supply is switched on. Ethernet: a cable test asked for. -/
structure SensorPort where
  on : Bool
  draining : Bool
  ctx : Nat
  ctxGen : Nat
  seq : Nat
  sigCount : Nat
  sigStop : Bool
  drops : Nat
  recs : List InRec
  ovfNext : Bool
  stepNext : Bool
  disTags : List Nat
  edges : List (Nat × Nat)
  debt : Nat
  restart : Option Nat
  trigHeld : Bool
  ocRun : Nat
  ucRun : Nat
  expNew : Nat
  skewNew : Option Nat
  skewedNew : Bool
  poc : Bool
  diag : Bool
  deriving DecidableEq, Repr

/-- A port never enabled. -/
def SensorPort.off : SensorPort :=
  ⟨false, false, 0, 0, 0, 0, false, 0, [], false, false, [], [], 0, none, false, 0, 0, 0, none, false, false, false⟩

/-- A TRIGGER_SET that waits for the next base period (R380): its record and the commands it answers. -/
structure TrigSet where
  body : List Byte
  tags : List Nat
  deriving DecidableEq, Repr

/-! ### Fusion (chapter 13) -/

/-- A calibration record loaded and not yet in effect (R395): its command, kind, index, EN and body. -/
structure CalPend where
  tag : Nat
  key : Nat
  en : Bool
  ctx : Nat
  ctxGen : Nat
  body : List Byte
  deriving DecidableEq, Repr

/-- An IMU burst the integrator has not used yet: port, data-ready stamp, record number, bytes. -/
structure ImuSample where
  port : Nat
  stamp : Nat
  seq : Nat
  data : List Byte
  deriving DecidableEq, Repr

/-- The newest value of a wheel signal (0 FL, 1 FR, 2 RL, 3 RR, 4 DIR): count, stamp, record number of its frame. -/
structure WheelVal where
  value : Int
  stamp : Nat
  seq : Nat
  deriving DecidableEq, Repr

/-- The strapdown integrator while enabled (R399 to R403). Vectors are binary32 patterns, positions binary64. -/
structure Integ where
  ctx : Nat
  ctxGen : Nat
  sigCount : Nat
  sigStop : Bool
  tick : Nat
  lastT : Nat
  q : List Nat
  omega : List Nat
  omega2 : List Nat
  u : List Nat
  w : List Nat
  v : List Nat
  vA : List Nat
  p : List Nat
  pAlt : List Nat
  gyro : List Nat
  accel : List Nat
  imuSeq : Nat
  wheelSeq : Nat
  noImu : Nat
  level : List Nat
  winTick : Nat
  acc : List Nat
  dM : Nat
  imuOnly : Bool
  goodWins : Nat
  winFresh : Bool
  stepNext : Bool
  deriving DecidableEq, Repr

/-- A pose record as the projection unit keeps it (R403, R404). -/
structure Pose where
  t : Nat
  q : List Nat
  p : List Nat
  pAlt : List Nat
  v : List Nat
  w : List Nat
  flags : Nat
  deriving DecidableEq, Repr

/-- A lidar record that waits for the projection unit. -/
structure LidRec where
  lidar : Nat
  tArr : Nat
  seq : Nat
  data : List Byte
  deriving DecidableEq, Repr

/-- A decoded point in partition 20 (R396, R410): index, coordinates as binary32 patterns, time, intensity, and when it
was decoded. -/
structure LidPoint where
  index : Nat
  xyz : List Nat
  t : Nat
  intensity : Nat
  since : Nat
  deriving DecidableEq, Repr

/-- A lidar record being projected (R409): its calibrations and cameras under trial, the points that wait and the
entries made. -/
structure ProjJob where
  lidar : Nat
  tArr : Nat
  seq : Nat
  mask : Nat
  lidBody : List Byte
  cams : List (Nat × List Byte)
  points : List LidPoint
  out : List Byte
  deriving DecidableEq, Repr

/-- The projection unit while enabled (R409, R413): owner, records committed, signals, commands that wait for its end. -/
structure Proj where
  ctx : Nat
  ctxGen : Nat
  seq : Nat
  sigCount : Nat
  sigStop : Bool
  stopTags : List Nat
  stopping : Bool
  deriving DecidableEq, Repr

/-! ### Semaphore and stream messages (chapters 03 and 10) -/

/-- Who sent a SEM message: a core's sequencer, a SEM_SIGNAL command (its tag), a sensor port's record, a fusion ring,
a span sub-port (with 4 × the source package). -/
inductive SemSrc where
  | core (k : Nat)
  | cmd (tag : Nat)
  | port (p : Nat)
  | ring (r : Nat)
  | span (sub txid : Nat)
  deriving DecidableEq, Repr

/-- A SEM message on its way to a semaphore unit (R332): operation 0 wait, 1 signal, 2 try-wait, 3 signal-n, 4 the
cancel of R334. -/
structure SemMsg where
  src : SemSrc
  sem : Nat
  op : Nat
  hold : Bool
  tag : Nat
  gen : Nat
  cls : Nat
  dgen : Nat
  count : Nat
  ctx : Nat
  cgen : Nat
  deriving DecidableEq, Repr

/-- A waiter in a semaphore unit's list (R333), in arrival order; `barred` when it was sent in an inheritance run for a
semaphore on which its step held nothing (R349). -/
structure Waiter where
  sem : Nat
  core : Nat
  hold : Bool
  tag : Nat
  gen : Nat
  cls : Nat
  dgen : Nat
  barred : Bool
  deriving DecidableEq, Repr

/-- A SEMRSP on its way to a core: the unit's die, the result word, and the step and core generation it answers. -/
structure SemRsp where
  die : Nat
  core : Nat
  tag : Nat
  gen : Nat
  dgen : Nat
  result : Word
  deriving DecidableEq, Repr

/-- A slot of a raw stream in flight (R124, R234): its bytes, and how many of its segments have arrived. -/
structure StrSeg where
  stream : Nat
  data : List Byte
  seg : Nat
  deriving DecidableEq, Repr

/-- Slot credits on their way back to a producer (R124). -/
structure StrCred where
  stream : Nat
  count : Nat
  deriving DecidableEq, Repr

/-! ### The Acina islands (chapter 14) -/

/-- An event latched at level SAFE (R424): its sequence number, event and unit, whether its SAFE_ACK was accepted, and
whether it was made by the readback of R461. -/
structure Latched where
  seq : Nat
  event : Nat
  unit : Nat
  acked : Bool
  read : Bool
  deriving DecidableEq, Repr

/-- A clamp in force (R424): its event and unit, the ACN_US at which it began, its event's HOLD_MS, and whether the
readback of R461 made it. -/
structure Clamp where
  event : Nat
  unit : Nat
  since : Nat
  hold : Nat
  read : Bool
  deriving DecidableEq, Repr

/-- A policy record an island has accepted as a prepare and not applied (R431): table and entry, its 128-byte image,
SEQNO, the ACN_US at which it was accepted, and the command's tag. -/
structure Prepared where
  table : Nat
  entry : Nat
  image : List Byte
  seqno : Nat
  since : Nat
  tag : Nat
  deriving DecidableEq, Repr

/-- An Acina island: supplied; events latched; clamps, the ACN_US at which its clamp line was asserted, and whether that
assertion has been read back; heartbeat sources seen since its reset and the ACN_US of each one's last toggle (0 to 3 the
die controllers, 4 the MP, 5 the IOD, 6 the Porch, 7 the other island); a prepared record; the number of checker tests
started, the next core to test and when the last test was started; island B's watch: the completed tests it has
counted, when it counted the last one, and whether the rotation has stalled; and whether its rails are up (R569). -/
structure Island where
  powered : Bool
  latch : List Latched
  clamps : List Clamp
  clampAt : Nat
  readDone : Bool
  seen : List Nat
  beats : List (Nat × Nat)
  prep : Option Prepared
  tests : Nat
  testCore : Nat
  testAt : Option Nat
  counted : Nat
  countAt : Nat
  stalled : Bool
  rails : Bool
  deriving DecidableEq, Repr

/-- An island after its reset (R416, R433). -/
def Island.reset : Island := ⟨true, [], [], 0, false, [], [], none, 0, 0, none, 0, 0, false, true⟩

/-! ### Firmware units (chapter 18) -/

/-- An accepted image (R522, R523): security version, build, the signed message, its signature and the measurement. -/
structure UnitImg where
  svn : Nat
  build : Nat
  message : List Nat
  signature : List Nat
  meas : List Nat
  deriving DecidableEq, Repr

/-! ### Hearth (chapter 16) -/

/-- A die agent's report at Hearth (R467): when it came, and POWER, DEMAND and FLOOR in 0.1 W. -/
structure DieRep where
  since : Nat
  power : Nat
  demand : Nat
  floor : Nat
  deriving DecidableEq, Repr

/-- A budget MSG (R467): BUDGET in 0.1 W; flags [0] SURVIVAL, [1] THERMAL, [2] ROT. -/
structure BudgetMsg where
  die : Nat
  budget : Nat
  flags : Nat
  deriving DecidableEq, Repr

/-- A flow input's pulse period: when it ended and how long it was, in µs. -/
structure FlowPeriod where
  input : Nat
  ended : Nat
  span : Nat
  deriving DecidableEq, Repr


/-! ### Updates, starts, resets, dumps (chapters 17 and 18) -/

/-- The update session (R532 to R537): its number, UNITS, TOTAL, the granules received as intervals of 16-byte numbers,
its stage as SEC_STS.SESSION shows it, and its containers: unit, staging offset, length. -/
structure UpdSession where
  num : Nat
  units : Nat
  total : Nat
  got : List (Nat × Nat)
  stage : Nat
  slots : List (Nat × Nat × Nat)
  deriving DecidableEq, Repr

/-- What the MP records of an UPDATE_ACTIVATE in the always-on island (R536): tag, generation, COOKIE, queue, completion
ring (number, base, log2 of its size, tail, vector, context), UNITS, when stage 11 was reached, and when the command was
parsed, as ELAPSED_US counts it. -/
structure ActRec where
  tag : Nat
  gen : Nat
  cookie : Nat
  queue : Nat
  cq : Nat
  base : Nat
  log2 : Nat
  tail : Nat
  vector : Nat
  ctx : Nat
  units : Nat
  since : Nat
  ran : Nat
  deriving DecidableEq, Repr

/-- A context teardown (R501, R502): the command, context, old generation, when step 1 ran, the stage of the escalation
and when it was taken. -/
structure TdRun where
  tag : Nat
  ctx : Nat
  gen : Nat
  since : Nat
  esc : Nat
  escAt : Nat
  deriving DecidableEq, Repr

/-- A dump that runs (R505, R506): cause, the command that asked for it, units still to be read as kind and number,
records so far, bytes so far, records with status 1, ADM_NOW and the package generation at its start. -/
structure DumpRun where
  cause : Nat
  tag : Option Nat
  left : List (Nat × Nat)
  records : Nat
  bytes : Nat
  unreadable : Nat
  now : Nat
  gen : Nat
  deriving DecidableEq, Repr

/-- A timed-out TXID, which is not reissued for 10 ms or until the port's domain takes a new generation (R493). -/
structure TxHold where
  ini : Nat
  txid : Nat
  dgen : Nat
  since : Nat
  deriving DecidableEq, Repr

/-! ### How a step can stop -/

/-- The block has no fault of its own: every error the spec describes is an effect on State (an access-error response,
an error bit, an event), so no command ends in one. The one constructor names a command outside its ranges. -/
inductive Fault where
  /-- Raised by nothing in this model; kept so that the type has a name for an impossible operand. Safe. -/
  | operand
  deriving DecidableEq, Repr

/-- Commands the model refuses. -/
inductive Refusal where
  /-- Raised by a command of the table that has no meaning yet, by its mnemonic. Safe: nothing can be proved of it. -/
  | notModelled (mnemonic : String)
  deriving DecidableEq, Repr

set_option maxRecDepth 2048 in
/-- The whole package. Registers and memory are sparse maps in canonical form (`kwf`): keys rise strictly and no entry
equals what an unlisted key reads as. A memory key is a package physical address, or 2^48 + 0x2_0000·engine + offset
for engine scratch, which has no address (R32). -/
structure State where
  -- whole package
  /-- The part (R2): which dies are fitted. No command changes it. -/
  part : Part
  /-- The commands that wait, first in, first out. -/
  pending : List Instr
  /-- Registers by package physical address, over their reset values (R33). -/
  regs : List (Nat × Word)
  /-- Bytes of every memory, over zero. -/
  mem : List Host.Cell
  /-- Intervals of memory whose bytes the spec leaves undefined: first byte, end, and the number of their free values; no listed byte lies in one. -/
  undef : List (Nat × Nat × Nat)
  /-- The model's own counter of free values taken (no part of the package). -/
  fresh : Nat
  /-- High words latched by a read of their low word (CORE_CYC, ADM_NOW, PCH_TIME, FUS_LAST), by address; zero before the first read. -/
  latched : List (Nat × Word)
  -- memory condition
  /-- SRAM words (by key / 8) that hold an error: 1 correctable, 2 uncorrectable or marked (R197). -/
  sram : List (Nat × Nat)
  /-- DRAM lines (by raw address / 64) whose check word disagrees: 1 correctable, 2 data, 3 address, 4 poison mark (R203, R205). -/
  dram : List (Nat × Nat)
  /-- Error-log sequence number of each die, cleared by POR only (R216). -/
  elogSeq : List (Nat × Nat)
  /-- Matching events that each every-nth injection slot has seen (4·die + slot, R551). -/
  injCount : List (Nat × Nat)
  /-- Open row plus 1 of each bank (256·die + 16·channel + bank, R209). -/
  openRows : List (Nat × Nat)
  /-- Next line of each channel's patrol sweep (16·die + channel, R218). -/
  patrolPos : List (Nat × Nat)
  /-- MEM_CHc_REFCNT at each channel's last patrol read (R218). -/
  patrolRef : List (Nat × Nat)
  /-- Column plus 1 of the last check burst that each bank read while its row stays open (numbered as openRows, R204). -/
  checkBurst : List (Nat × Nat)
  /-- Schedulers of the memory channels (16·die + channel, R208). -/
  scheds : List (Nat × ChanSched)
  /-- Dies whose memory trains and initialises, with ECC_EN as it was at INIT (R206, R219). -/
  training : List (Nat × Bool)
  /-- Lines of the system cache (R194). -/
  sc : List ScLine
  /-- Sectors with lines in the system cache (raw address / 4096), the one allocated into last at the end (R196). -/
  scSects : List Nat
  -- compute dies
  /-- Engines by global index. -/
  engs : List (Nat × Eng)
  /-- Cores by global index. -/
  cores : List (Nat × CoreSt)
  /-- Head of each pool's free-list ring, by 4·die + pool (R165). -/
  panHead : List (Nat × Nat)
  /-- Allocated runs of page-table units: die, first unit, units (R164). -/
  ptRuns : List (Nat × Nat × Nat)
  /-- Track command that runs on each die's Pantry (R170). -/
  tcmds : List (Nat × TCmd)
  /-- Attention units by global cluster (R175). -/
  atts : List (Nat × AttSt)
  -- command path
  /-- Commands in flight by tag. -/
  cmds : List (Nat × Cmd)
  /-- Tag generations (R275). -/
  tagGens : List (Nat × Nat)
  /-- Arrival order of the next parsed command. -/
  orderNext : Nat
  /-- Contexts; context 0 exists with every privilege (R278). -/
  ctxs : List (Nat × Ctx)
  /-- The context cache: queue descriptors, most recently used first (R293). -/
  qcache : List (Nat × QDesc)
  /-- Queues in the order their doorbells arrived (R297). -/
  qready : List Nat
  /-- The completion-ring records that are cached (R292). -/
  cqs : List (Nat × CqRec)
  /-- Rings whose records are cached, the most recently used first (R292). -/
  cqUsed : List Nat
  /-- What is still to be notified for rings whose records left the cache: entries, and since when (R284). -/
  cqNotes : List (Nat × Nat × Nat)
  /-- Doorbells that wait for a descriptor (R295). -/
  pendDb : List PendDb
  /-- Host messages that wait in the VC0 receive buffers while the doorbell buffer is full (R295). -/
  vc0 : List Vc0Msg
  /-- Registered images by handle (R135). -/
  images : List (Nat × Image)
  /-- Reservations by slot (R307). -/
  resvs : List (Nat × Resv)
  /-- Event entries not yet written, oldest first, at most the 64 newest (R286). -/
  events : List HostEv
  /-- Events discarded since the last EVT_LOST (R286). -/
  eventsLost : Nat
  /-- Event entries written, the 64-bit sequence number (R286). -/
  eventSeq : Nat
  /-- SEM messages on their way to the semaphore units, in the order they reach them. -/
  semMsgs : List SemMsg
  /-- The waiter lists of the semaphore units, in arrival order (R333). -/
  waiters : List Waiter
  /-- SEMRSP messages on their way to cores. -/
  semRsps : List SemRsp
  /-- Open raw streams by the declaration that opened them (R122, R146). -/
  strKeys : List StrKey
  /-- Stage of hang escalation of each core: 1 aborted, 2 core reset, 3 cluster reset (R492). -/
  hangLevel : List (Nat × Nat)
  /-- Level of each die controller's heartbeat wire (R421). -/
  dcWire : List (Nat × Bool)
  /-- Slots of raw streams in flight (R124). -/
  strSegs : List StrSeg
  /-- Slot credits on their way back (R124). -/
  strCreds : List StrCred
  /-- Ledgers that have failed and wait for their next rebase (R344): 2^40·die + 2^32·ledger + instance. -/
  ledgerMute : List Nat
  /-- Tag releases sent to the semaphore units and not yet taken (R338). -/
  tagReleases : List (Nat × Nat)
  /-- Clusters that POWER_STATE keeps in Doze (R474). -/
  dozeHold : List Nat
  /-- When DSP_ROT.START last advanced, in µs of ADM_NOW (R316). -/
  rotAt : Nat
  /-- The golden window whose start is accounted for next (R439). -/
  goldNext : Nat
  /-- Booked time of bookings that have ended, by core, start and end (R305). -/
  pastBooked : List (Nat × Nat × Nat)
  /-- Policy table entries as accepted, 128-byte images by 2^16·island + 2^8·table + entry, over the defaults of R432. -/
  policy : List (Nat × List Byte)
  -- links
  /-- Floor buckets that are not full: level in bytes and its time in µs of ADM_NOW, by 2048·die + 128·path + requester, 64 more than its entry for a group (R362). -/
  buckets : List (Nat × Nat × Nat)
  /-- Arbitration of each regulated path, by 16·die + path (R362). -/
  turns : List (Nat × PathTurn)
  /-- The die through which each compute die now sends diagonal requests, by 2·die + address bit 12, where the route has changed since MODE was written (R242). -/
  routes : List (Nat × Nat)
  /-- NOTIFYs that wait for credits: vector and completion ring (R264). -/
  notifyQ : List (Nat × Nat)
  /-- Link ends: 5·die + port of a compute die, 20 + port of the IOD, 25 the Porch, 26 + module of the host port, 30 + span sub-port. -/
  links : List (Nat × LinkEnd)
  /-- Failed lanes that assembly test recorded, by 2·end + direction (0 receive), a mask of 68 lanes (R227). -/
  laneOtp : List (Nat × Nat)
  /-- H_PROTO, once the sideband carried it (R259). -/
  hostProto : Option Nat
  /-- Has SPN_CTL.EN been set since the last package warm reset (R248)? -/
  spnFixed : Bool
  /-- Span discovery runs (R252). -/
  discovering : Bool
  -- the Porch
  /-- Sensor ports by port code (R366). -/
  sports : List (Nat × SensorPort)
  /-- Order of the next arrival in the ingest buffers. -/
  pchOrd : Nat
  /-- Where the write engine's round robin among urgent buffers stands (R390). -/
  drainUrg : Nat
  /-- Where its round robin among the other buffers stands (R390). -/
  drainNorm : Nat
  /-- TRIGGER_SET that waits for the next base period (R380). -/
  trigNext : Option TrigSet
  /-- Trigger index plus 1 of each output's last edge (R379). -/
  trigFired : List (Nat × Nat)
  /-- The last 1,024 trigger edges, newest first: output, index, stamp (R405). -/
  trigPast : List (Nat × Nat × Nat)
  /-- Trigger outputs made high impedance by a short (R575). -/
  trigHiz : List Nat
  /-- Stamp of the current base period's start (R381). -/
  trigAt : Nat
  /-- Length of the current base period in ns, corrected under DISC (R381). -/
  trigLen : Nat
  /-- Nanoseconds the time client still has to slew (R377). -/
  slew : Int
  /-- Microseconds since the client's last slew by 1 ns (R377). -/
  slewTicks : Nat
  /-- When the last Sync message came, in µs of ADM_NOW (R376). -/
  lastSync : Nat
  /-- When HOLDOVER began (R376). -/
  holdSince : Nat
  -- fusion
  /-- Calibration records with EN = 1, 256·KIND + INDEX, and their owner, context + 2^16·generation (R395, R414). -/
  calOn : List (Nat × Nat)
  /-- Records that wait for the next integrator tick (R395). -/
  calPend : List CalPend
  /-- IMU bursts not yet used by a tick (R399). -/
  imuIn : List ImuSample
  /-- Newest value of each wheel signal (R398). -/
  wheels : List (Nat × WheelVal)
  /-- The strapdown integrator (R399). -/
  integ : Option Integ
  /-- The newest 512 pose records, newest first (R404). -/
  poses : List Pose
  /-- Lidar records not yet processed (R409). -/
  lidIn : List LidRec
  /-- Lidar records being projected, in the order they started (R409). -/
  jobs : List ProjJob
  /-- The projection unit (R413). -/
  proj : Option Proj
  -- the safety partition
  /-- The Acina islands, 0 A and 1 B (R416). -/
  islands : List (Nat × Island)
  /-- REFCLK_MAIN is more than 2 % away from 100 MHz (R24). -/
  mainBad : Bool
  /-- A PLL other than the trigger PLL has lost lock (R24). -/
  pllBad : Bool
  /-- REFCLK_TRIG is out of range or the trigger PLL has lost lock (R24). -/
  trigBad : Bool
  /-- Supply rails out of range (R422). -/
  railsBad : List Nat
  /-- When each core's running self-test was started, in µs of ADM_NOW (R446). -/
  stGo : List (Nat × Nat)
  /-- Checker self-tests completed, as island B counts them (R448). -/
  stDone : Nat
  -- firmware
  /-- Accepted images by unit: the MP's copies (R528). -/
  unitImgs : List (Nat × UnitImg)
  /-- OTP bytes that are not zero, by offset (R516); a part ships in PRODUCTION (R543). -/
  otp : List (Nat × Byte)
  /-- OTP words (by offset / 8) that read with an error: 1 corrected, 2 uncorrectable (R516). -/
  otpBad : List (Nat × Nat)
  /-- Bytes of the external flash, over 0xFF (R524). -/
  flash : List (Nat × Byte)
  /-- Size of the flash fitted, in MiB, as its SFDP tables say (R524). -/
  flashMb : Nat
  /-- The flash operation that runs: OP and address (R526). -/
  flashOp : Option (Nat × Nat)
  /-- Units whose flash slot an interrupted or failed update damaged (R534, R535). -/
  damaged : List Nat
  /-- The lifecycle token mailbox (R544). -/
  mailbox : List Byte
  /-- The update session (R532). -/
  upd : Option UpdSession
  /-- The number of the last session (R532). -/
  updNum : Nat
  /-- The activation whose reply is due (R536). -/
  act : Option ActRec
  -- power and resets
  /-- Dies in R499's sequence: 1 waits for the dump, 2 held in reset, 3 released, 4 stays isolated (R500). -/
  dieRst : List (Nat × Nat)
  /-- Settings of a die in reset, which the MP rewrites at step 9 of R499. -/
  rewrite : List (Nat × Word)
  /-- When each die controller's BEAT last changed (R494). -/
  beatAt : List (Nat × Nat)
  /-- When a link event last declared a fault on each die (R496). -/
  linkEvAt : List (Nat × Nat)
  /-- Dies with a declared fault that is no link event (R496). -/
  hardFault : List Nat
  /-- The context teardown that runs (R501). -/
  td : Option TdRun
  /-- The dump that runs (R505). -/
  dump : Option DumpRun
  /-- Does a package warm reset with cause 2 follow the dump (R495)? -/
  wdogDump : Bool
  /-- When the MP watchdog was last kicked (R495). -/
  mpKick : Nat
  /-- Timed-out TXIDs (R493). -/
  txHold : List TxHold
  /-- Are the package's rails down (R566 to R568)? -/
  powerOff : Bool
  /-- Is PORST_N held low (R566, R567)? -/
  porstLow : Bool
  -- test access
  /-- The TAP's instruction (R553); IDCODE after TAP reset. -/
  tapIr : Nat
  /-- Is TRST_N asserted (R554)? -/
  tapHeld : Bool
  /-- The boundary-scan register, as preloaded (R553). -/
  tapBsr : Nat
  /-- Microseconds, up to 10, that each cluster has run no step and no filler (R474). -/
  cluIdle : List (Nat × Nat)
  /-- Microseconds in which each core's sequencer has retired nothing, as its watchdog counts them (R492). -/
  stallUs : List (Nat × Nat)
  /-- Clusters that run filler (R485). -/
  filler : List Nat
  /-- Clusters whose filler holds their die's power (R486); each is in `filler` too. -/
  rampFill : List Nat
  /-- Voltage target of each core rail in mV, where it is not the 800 of boot (R471, R475, R566). -/
  railMv : List (Nat × Nat)
  /-- Clusters whose clock is gated at 125 °C (R478). -/
  tripped : List Nat
  /-- Excluded junction sensors, 32·die + sensor (R477). -/
  snsExcl : List Nat
  /-- Since when a sensor pair (16·die + pair) differs by more than 6 K, or agrees within 4 K while SUSPECT (R477). -/
  pairT : List (Nat × Nat)
  /-- When a governing reading of each die was last above TJ_TGT − 5 K (R478). -/
  hotAt : List (Nat × Nat)
  /-- Dies held by a thermal emergency (R478). -/
  thermDies : List Nat
  /-- Clusters withdrawn from booked work (R477). -/
  noBook : List Nat
  /-- Sequence number of each agent's last report (R467). -/
  agSeq : List (Nat × Nat)
  /-- When each agent took its last budget MSG (R467). -/
  agBudgetAt : List (Nat × Nat)
  /-- Granted tokens of each semaphore that their holders have signalled since its last rebase (R342). -/
  holdSig : List (Nat × Nat)
  /-- Samples of each die agent over the last 100 ms: die, time, power in 0.1 W (R469). -/
  draws : List (Nat × Nat × Nat)
  /-- Since when each die draws above its budget (R469). -/
  overAt : List (Nat × Nat)
  /-- Dies that draw below their budget until their average is back within it (R469). -/
  owing : List Nat
  /-- ROT flag of each agent's last budget MSG, set before the first (R467). -/
  agRot : List (Nat × Bool)
  /-- The last report of each die, as Hearth holds it (R467). -/
  dieReps : List (Nat × DieRep)
  /-- Budget MSGs on their way (R467). -/
  budgetMsgs : List BudgetMsg
  /-- Agents to which the coolant monitor's clamp MSG is on its way (R467, R482). -/
  clampMsgs : List Nat
  /-- B in 0.1 W (R465). -/
  hthBudget : Nat
  /-- Average power of the last 100 ms in 0.1 W of 0 the memory, 1 the IOD, 2 the Porch, 3 the islands (R466). -/
  charges : List (Nat × Nat)
  /-- Consumers charged at full load for a failed bus transaction (R475). -/
  busBad : List Nat
  /-- By how much each die's budget cap is lowered, in 0.1 W (R479). -/
  dieCap : List (Nat × Nat)
  /-- When each die's cap last moved (R479). -/
  capAt : List (Nat × Nat)
  /-- What makes BUDGET_SHORT: dies that cannot meet their budget, 4 the sum of the FLOORs (R473). -/
  shortBy : List Nat
  /-- Since when BUDGET_SHORT has lasted (R473). -/
  shortSince : Nat
  /-- Pulse periods of the last 500 ms (R480). -/
  flowPeriods : List FlowPeriod
  /-- When each flow input's last pulse came (R480). -/
  flowLast : List (Nat × Nat)
  /-- Excluded flow inputs (R480). -/
  flowExcl : List Nat
  /-- Highest valid outlet readings of the last 500 ms, with their times (R482). -/
  outSamples : List (Nat × Int)
  /-- Advisories not rearmed, with the time their condition was last present (R481). -/
  advs : List (Nat × Nat)
  /-- When a flow was last below FLOOR or the outlet slope above 0.5 K/s (R483). -/
  coolBadAt : Nat
  /-- Clusters that go to Nap once they hold nothing (R474). -/
  napWait : List Nat
  /-- 0 in operation, 1 Cellar accepted, 2 in Cellar, 3 woken (R222, R474). -/
  cellar : Nat
  /-- Dies without power, numbered as ADM_FAULT (R474, R568). -/
  dark : List Nat
  -- messages between units
  /-- Events reported to the islands and not yet evaluated. -/
  reports : List Report
  /-- Events sent to the management processor: kind and unit. -/
  mpEvents : List (Nat × Nat)
  /-- Messages sent and not yet taken. -/
  emits : List Emit
  /-- Requests routed and not yet served or answered. -/
  reqs : List Req
  /-- Responses on their way. -/
  resps : List Resp
  deriving DecidableEq, Repr

/-- The package right after power-on reset: every register at its reset value, every memory unlisted, nothing held. -/
def State.reset : State where
    part := .dvx2300
    pending := []
    regs := []
    mem := []
    undef := []
    fresh := 0
    latched := []
    sram := []
    dram := []
    elogSeq := []
    injCount := []
    openRows := []
    patrolPos := []
    patrolRef := []
    checkBurst := []
    scheds := []
    training := []
    sc := []
    scSects := []
    engs := []
    cores := []
    panHead := []
    ptRuns := []
    tcmds := []
    atts := []
    cmds := []
    tagGens := []
    orderNext := 0
    ctxs := [(0, ⟨true, 0, 15, 6, false⟩)]
    qcache := []
    qready := []
    cqs := []
    cqUsed := []
    cqNotes := []
    pendDb := []
    vc0 := []
    images := []
    resvs := []
    events := []
    eventsLost := 0
    eventSeq := 0
    semMsgs := []
    waiters := []
    semRsps := []
    strKeys := []
    hangLevel := []
    dcWire := []
    strSegs := []
    strCreds := []
    ledgerMute := []
    tagReleases := []
    dozeHold := []
    rotAt := 0
    goldNext := 0
    pastBooked := []
    policy := []
    buckets := []
    turns := []
    routes := []
    notifyQ := []
    links := []
    laneOtp := []
    hostProto := none
    spnFixed := false
    discovering := false
    sports := []
    pchOrd := 0
    drainUrg := 0
    drainNorm := 0
    trigNext := none
    trigFired := []
    trigPast := []
    trigHiz := []
    trigAt := 0
    trigLen := 0
    slew := 0
    slewTicks := 0
    lastSync := 0
    holdSince := 0
    calOn := []
    calPend := []
    imuIn := []
    wheels := []
    integ := none
    poses := []
    lidIn := []
    jobs := []
    proj := none
    islands := []
    mainBad := false
    pllBad := false
    trigBad := false
    railsBad := []
    stGo := []
    stDone := 0
    unitImgs := []
    otp := [(0x800, 1)]
    otpBad := []
    flash := []
    flashMb := 64
    flashOp := none
    damaged := []
    mailbox := []
    upd := none
    updNum := 0
    act := none
    dieRst := []
    rewrite := []
    beatAt := []
    linkEvAt := []
    hardFault := []
    td := none
    dump := none
    wdogDump := false
    mpKick := 0
    txHold := []
    powerOff := false
    porstLow := false
    tapIr := 1
    tapHeld := true
    tapBsr := 0
    cluIdle := []
    stallUs := []
    filler := []
    rampFill := []
    railMv := []
    tripped := []
    snsExcl := []
    pairT := []
    hotAt := []
    thermDies := []
    noBook := []
    agSeq := []
    agBudgetAt := []
    holdSig := []
    draws := []
    overAt := []
    owing := []
    agRot := []
    dieReps := []
    budgetMsgs := []
    clampMsgs := []
    hthBudget := 0
    charges := []
    busBad := []
    dieCap := []
    capAt := []
    shortBy := []
    shortSince := 0
    flowPeriods := []
    flowLast := []
    flowExcl := []
    outSamples := []
    advs := []
    coolBadAt := 0
    napWait := []
    cellar := 0
    dark := []
    reports := []
    mpEvents := []
    emits := []
    reqs := []
    resps := []

end Sys2Proof.Machine
end

