-- ==== Sys2Proof/Machine/Ops.lean ====
section
/-!
DEFINITION. Machine/Ops.lean: the named operations over registers, memories and messages that every meaning shares:
register and field access, free values, island reports and host events, SRAM and DRAM with their check words, the
routes and firewalls an access passes, and the access itself.
-/
namespace Sys2Proof.Machine

open Sys2Proof

/-! ### Registers and fields -/

/-- The word of the register at a package address. -/
def State.rd (s : State) (a : Nat) : Nat := (kget (regDefault s.part) s.regs a).toNat

/-- Set the word of the register at a package address. -/
def State.wr (s : State) (a v : Nat) : State :=
  { s with regs := kset (regDefault s.part) s.regs a (BitVec.ofNat 32 v) }

/-- A field of a register of the block at `base`. -/
def State.fg (s : State) (base : Nat) (f : Fld) : Nat := bits (s.rd (base + f.off)) f.hi f.lo

/-- Set a field of a register, the register's other bits kept. -/
def State.fs (s : State) (base : Nat) (f : Fld) (v : Nat) : State :=
  s.wr (base + f.off) (setBits (s.rd (base + f.off)) f.hi f.lo v)

/-- Is a one-bit field set? -/
def State.fb (s : State) (base : Nat) (f : Fld) : Bool := s.fg base f == 1

/-- Largest value of a field. -/
def Fld.max (f : Fld) : Nat := 2 ^ (f.hi + 1 - f.lo) - 1

/-- Add to a counter field that sticks at its largest value. -/
def State.faddSat (s : State) (base : Nat) (f : Fld) (n : Nat) : State := s.fs base f (satAdd f.max (s.fg base f) n)

/-- Add to a counter field that wraps. -/
def State.faddWrap (s : State) (base : Nat) (f : Fld) (n : Nat) : State := s.fs base f (s.fg base f + n)

/-- Forget the register words that `p` picks: they read their reset values again. -/
def State.dropRegs (s : State) (p : Nat → Bool) : State := { s with regs := kdrop p s.regs }

/-! ### Free values -/

/-- A word the spec leaves undefined (assumption 4). -/
def State.free (s : State) : Word × State := (Config.freeWord s.fresh, { s with fresh := s.fresh + 1 })

/-- `n` words the spec leaves undefined. -/
def freeWords : (n : Nat) → State → List Word × State
  | 0, s => ([], s)
  | n + 1, s =>
    let r := s.free
    let t := freeWords n r.2
    (r.1 :: t.1, t.2)

/-- The bytes of a list of words. -/
def wordsBytes (ws : List Word) : List Byte := ws.flatMap fun w => leBytes 4 w.toNat

/-! ### Records -/

def State.eng (s : State) (e : Nat) : Eng := getD Eng.reset s.engs e
def State.setEng (s : State) (e : Nat) (v : Eng) : State := { s with engs := setD Eng.reset s.engs e v }
def State.core (s : State) (k : Nat) : CoreSt := getD CoreSt.reset s.cores k
def State.setCore (s : State) (k : Nat) (v : CoreSt) : State := { s with cores := setD CoreSt.reset s.cores k v }
def State.cmd? (s : State) (tag : Nat) : Option Cmd := aget s.cmds tag
def State.setCmd (s : State) (tag : Nat) (c : Cmd) : State := { s with cmds := aput s.cmds tag c }
def State.ctx (s : State) (c : Nat) : Ctx := getD Ctx.absent s.ctxs c
def State.setCtx (s : State) (c : Nat) (v : Ctx) : State := { s with ctxs := setD Ctx.absent s.ctxs c v }

/-- Microseconds of ADM_NOW. -/
def State.nowUs (s : State) : Nat := s.rd (admBase + Reg.ADM_NOW_LO) + 2 ^ 32 * s.rd (admBase + Reg.ADM_NOW_HI)

/-- Does the die controller of die `d` run? Until it does, the die's cores are held in reset (R117). -/
def dcRuns (s : State) (d : Nat) : Bool := s.fb (dieBase d) Fld.CLU_DC_STS_DC_RUN

/-- Does a core's clock run: its cluster neither gated at 125 °C (R478) nor powered down in Nap (R474)? -/
def clocked (s : State) (k : Nat) : Bool :=
  !s.tripped.contains (k / 8) && decide (s.fg (cluBase (k / 8)) Fld.CLU_STS_PWR < 2) && dcRuns s (k / 64)

/-- Issue duty of a cluster in sixteenths, less one (R472). -/
def duty (s : State) (c : Nat) : Nat := bits (s.rd (hthABase (c / 8) + Reg.HTH_AG_DUTY)) (4 * (c % 8) + 3) (4 * (c % 8))

/-- Filler ends on the clusters that a predicate picks (R485, R486). -/
def State.noFill (s : State) (p : Nat → Bool) : State :=
  { s with filler := s.filler.filter fun x => !p x, rampFill := s.rampFill.filter fun x => !p x }

/-- A step placed on a cluster ends its Doze and its filler (R474, R485). -/
def wakeCluster (s : State) (c : Nat) : State :=
  let s := if s.fg (cluBase c) Fld.CLU_STS_PWR = 1 then s.fs (cluBase c) Fld.CLU_STS_PWR 0 else s
  State.noFill { s with cluIdle := adel s.cluIdle c } fun x => x == c

/-- An instruction of the core retires, or its step starts: the watchdog's count begins again (R492). -/
def State.retired (s : State) (k : Nat) : State := { s with stallUs := adel s.stallUs k }

/-- Does the watchdog of a core count: its sequencer runs, no pre-emption is pending, and its cluster runs at full duty and
is clocked (R492)? -/
def wdogCounts (s : State) (k : Nat) : Bool :=
  s.fb (coreBase k) Fld.CORE_STS_SEQ_RUN && !s.fb (coreBase k) Fld.CORE_STS_PREEMPT_PEND && duty s (k / 8) == 15 && clocked s k

/-! ### Names of units -/

/-- The unit code of R279: level 0 core, 1 cluster, 2 compute die. -/
def unitCode (level die clu core : Nat) : Nat := level * 2 ^ 14 + die * 2 ^ 12 + clu * 2 ^ 9 + core * 2 ^ 6

def unitOfCore (k : Nat) : Nat := unitCode 0 (k / 64) (k / 8 % 8) (k % 8)
def unitOfClu (c : Nat) : Nat := unitCode 1 (c / 8) (c % 8) 0
/-- A compute die by its unit code; the IOD and the Porch by R497. -/
def unitOfDie (d : Nat) : Nat := if d < 4 then unitCode 2 d 0 0 else 0xC000 + d

/-- The die of an initiator (R41): 0 to 3, 4 IOD, 5 Porch, 6 Acina, 7 host. -/
def iniDie (ini : Nat) : Nat := ini / 512

/-- Initiator ID of a core's sequencer (`r` 0), mover (`r` 1, 2) or checker (`r` 3). -/
def coreIni (k r : Nat) : Nat := (k / 64) * 512 + (k % 64) * 4 + r
/-- Initiator ID of a die's controller. -/
def dcIni (d : Nat) : Nat := d * 512 + 0x100
/-- Initiator ID of the attention unit of global cluster `c`. -/
def attIni (c : Nat) : Nat := (c / 8) * 512 + 0x108 + c % 8

/-- Is the initiator an Acina partition initiator (R41)? -/
def isAcina (ini : Nat) : Bool := decide (0xC00 ≤ ini) && decide (ini ≤ 0xDFF)

/-! ### Reports, events and notices -/

def State.report (s : State) (isl ev unit : Nat) : State := { s with reports := s.reports ++ [⟨isl, ev, unit⟩] }
/-- Report an event to island A (R422, "Evaluated by"). -/
def State.reportA (s : State) (ev unit : Nat) : State := s.report 0 ev unit
/-- Report an event to both islands. -/
def State.reportBoth (s : State) (ev unit : Nat) : State := (s.report 0 ev unit).report 1 ev unit

/-- An event for the management processor. -/
def State.toMp (s : State) (kind unit : Nat) : State := { s with mpEvents := s.mpEvents ++ [(kind, unit)] }

/-- A message that leaves the unit. -/
def State.emit (s : State) (kind : String) (dest : Nat) (ws : List Nat) : State :=
  { s with emits := s.emits ++ [⟨kind, dest, ws⟩] }

/-- Does the test access port control the package's outputs: EXTEST, CLAMP or HIGHZ (R554, R559)? -/
def tapOwns (s : State) : Bool := s.tapIr == 3 || s.tapIr == 4 || s.tapIr == 5

/-- A level that a unit drives on its ball, unless the test access port has the outputs. -/
def State.drive (s : State) (kind : String) (ball : Nat) (ws : List Nat) : State := if tapOwns s then s else s.emit kind ball ws

/-- An event entry for the event ring: the newest 64 are kept (R286). -/
def State.event (s : State) (status detail result : Nat) : State :=
  let evs := s.events ++ [⟨status, detail, result⟩]
  if 64 < evs.length then { s with events := evs.drop 1, eventsLost := s.eventsLost + 1 }.fs cmdBase Fld.CMD_ERR_EVT_LOST 1
  else { s with events := evs }

/-- The package ID, 0xFFF before SPN_PKG_ID is written (R497). -/
def State.pkgId (s : State) : Nat :=
  if s.regs.any (fun e => e.1 == spnBase + Reg.SPN_PKG_ID) then s.fg spnBase Fld.SPN_PKG_ID_ID else 0xFFF

/-- Packages marked reachable in SPN_ROUTE over a sub-port (every entry resets to unreachable, so only changed words
count). -/
def State.reachable (s : State) : List Nat :=
  let b := spnBase + Reg.SPN_ROUTE
  (s.regs.filter fun e => decide (b ≤ e.1) && decide (e.1 < b + 0x4000)
    && decide (bits e.2.toNat 2 0 < 4)).map fun e => (e.1 - b) / 4

/-- The RESULT word of a fault notice (R497). -/
def noticeWord (s : State) (unit gen ctx : Nat) : Nat := unit + gen * 2 ^ 16 + s.pkgId * 2 ^ 24 + ctx * 2 ^ 36

/-- A fault notice of the fabric manager (R497); classes 0x04 to 0x08, 0x10 and 0x12 also go to every reachable
package (R498). -/
def State.notice (s : State) (cls unit gen ctx : Nat) : State :=
  let w := noticeWord s unit gen ctx
  let t := s.event 0x76 cls w
  if (4 ≤ cls ∧ cls ≤ 8) ∨ cls = 0x10 ∨ cls = 0x12 then
    s.reachable.foldl (fun u p => (u.emit "MSG_NOTICE" p [cls, w]).wr (rstIBase + Reg.RST_NOTICE_CNT)
      (u.rd (rstIBase + Reg.RST_NOTICE_CNT) + 1)) t
  else t

/-! ### Generations (R490, R491) -/

def State.coreGen (s : State) (k : Nat) : Nat :=
  bits (s.rd (rstBase (k / 64) + Reg.RST_GEN_CO + 4 * (k % 64 / 4))) (8 * (k % 4) + 7) (8 * (k % 4))
def State.cluGen (s : State) (c : Nat) : Nat :=
  bits (s.rd (rstBase (c / 8) + Reg.RST_GEN_CL + 4 * (c % 8 / 4))) (8 * (c % 4) + 7) (8 * (c % 4))
def State.dieGen (s : State) (d : Nat) : Nat := bits (s.rd (rstIBase + Reg.RST_DIE_GEN)) (8 * (d % 4) + 7) (8 * (d % 4))

/-! ### Memory bytes -/

/-- What an unlisted byte of memory reads as (assumption 1). -/
def Memory.blank : Byte := 0

/-- The canonical form of memory: addresses strictly rising, no entry equal to what an unlisted address reads as. -/
def Memory.wf (m : List Host.Cell) : Bool := kwf (fun _ => Memory.blank) m

/-- The interval of undefined bytes that covers an address, with the number of its free values. -/
def undefAt (s : State) (a : Nat) : Option Nat :=
  (s.undef.find? fun i => decide (i.1 ≤ a) && decide (a < i.2.1)).map (·.2.2)

/-- The byte at a key; a byte the spec leaves undefined is a free value (assumption 4). -/
def State.mb (s : State) (a : Nat) : Byte :=
  match undefAt s a with
  | some seed => Config.freeByte seed a
  | none => getD Memory.blank s.mem a
/-- `n` bytes from address `a`. -/
def State.mrd (s : State) (a n : Nat) : List Byte := (List.range n).map fun i => s.mb (a + i)
/-- A little-endian number of `n` bytes. -/
def State.mnat (s : State) (a n : Nat) : Nat := leNat (s.mrd a n)

/-- Store bytes from address `a`. -/
def mput : List Host.Cell → Nat → List Byte → List Host.Cell
  | m, _, [] => m
  | m, a, b :: bs => mput (setD Memory.blank m a b) (a + 1) bs

/-- Intervals of undefined bytes without [lo, hi). -/
def cutUndef (lo hi : Nat) (us : List (Nat × Nat × Nat)) : List (Nat × Nat × Nat) :=
  us.flatMap fun i => [(i.1, min i.2.1 lo, i.2.2), (max i.1 hi, i.2.1, i.2.2)].filter fun j => decide (j.1 < j.2.1)

def State.mwr (s : State) (a : Nat) (bs : List Byte) : State :=
  { s with mem := mput s.mem a bs, undef := cutUndef a (a + bs.length) s.undef }

/-- Zero-fill: every byte of [a, a + n) reads as zero again. -/
def State.mzero (s : State) (a n : Nat) : State :=
  { s with mem := kdrop (fun k => decide (a ≤ k) && decide (k < a + n)) s.mem,
           undef := cutUndef a (a + n) s.undef,
           sram := kdrop (fun k => decide (a ≤ 8 * k) && decide (8 * k < a + n)) s.sram }

/-- Every byte of [a, a + n) becomes undefined; check words stay as they are. -/
def State.mundef (s : State) (a n : Nat) : State :=
  if n = 0 then s
  else { s with mem := kdrop (fun k => decide (a ≤ k) && decide (k < a + n)) s.mem,
                undef := cutUndef a (a + n) s.undef ++ [(a, a + n, s.fresh)],
                fresh := s.fresh + 1 }

/-- Undefined bytes are written: whole words and lines get good check words. -/
def State.mwrUndef (s : State) (a n : Nat) : State :=
  { s.mundef a n with
    sram := kdrop (fun k => decide (a ≤ 8 * k) && decide (8 * k + 8 ≤ a + n)) s.sram,
    dram := kdrop (fun l => decide (a ≤ 64 * l) && decide (64 * l + 64 ≤ a + n)) s.dram }

/-! ### Where SRAM lies (R31, R32) -/

def sramBase : Nat := 0x008000000000
def landBase (c : Nat) : Nat := sramBase + (c / 8) * 0x40000000 + (c % 8) * 0x400000
def cmBase (k : Nat) : Nat := sramBase + (k / 64) * 0x40000000 + 0x10000000 + (k % 64) * 0x100000
/-- The key of an engine's scratch, which has no address. -/
def scrBase (e : Nat) : Nat := 2 ^ 48 + e * 0x20000
def cmSize : Nat := 0x100000
def scrSize : Nat := 0x20000
def landSize : Nat := 0x400000

/-- The die of an SRAM key and the MEM_SRAM_ERR word that names the place. -/
def sramPlace (key : Nat) : Nat × Nat :=
  if 2 ^ 48 ≤ key then
    let e := (key - 2 ^ 48) / 0x20000
    (e / 256, e / 32 % 8 + 8 * (e / 4 % 8) + 0x100 * (e % 4))
  else
    let d := (key - sramBase) / 0x40000000
    let o := (key - sramBase) % 0x40000000
    if o < 0x10000000 then (d, o / 0x400000 + 0x80)
    else
      let k := (o - 0x10000000) / 0x100000
      (d, k / 8 + 8 * (k % 8) + 0x40)

/-! ### Injection slots (R551, R552) -/

/-- One injection slot against one event: a new severity, and the slot's words and count after it. -/
def injectSlot (die target : Nat) (sel : Nat → Nat → Nat → Bool) (s : State) (i : Nat) : Nat × State :=
  let a := tstBase die + Reg.TST_INJ_W0 + 16 * i
  let w0 := s.rd a
  let w3 := s.rd (a + 12)
  if bit w0 0 && bits w0 8 4 == target && sel (s.rd (a + 4)) (s.rd (a + 8)) w3 then
    let n := getD 0 s.injCount (4 * die + i) + 1
    let every := if bits w0 31 16 = 0 then 1 else bits w0 31 16
    let applied := s.wr (a + 12) (setBits w3 31 16 (satAdd 0xFFFF (bits w3 31 16) 1))
    if bit w0 1 then
      if n % every = 0 then (bits w0 3 2 + 1, { applied with injCount := setD 0 s.injCount (4 * die + i) 0 })
      else (0, { s with injCount := setD 0 s.injCount (4 * die + i) n })
    else
      let sts := tstBase die + Reg.TST_STS
      (bits w0 3 2 + 1, (applied.wr a (setBits w0 0 0 0)).wr sts (setBits (applied.rd sts) (8 + i) (8 + i) 0))
  else (0, s)

/-- Every armed slot of a die's TST_ block against one event: what each that applies does, 1 SEV 0, 2 SEV 1, 3 SEV 2. -/
def injectAll (s : State) (die target : Nat) (sel : Nat → Nat → Nat → Bool) : List Nat × State :=
  if s.fb (tstBase die) Fld.TST_LOCK_LOCKED then ([], s)
  else (List.range 4).foldl (fun acc i =>
    let r := injectSlot die target sel acc.2 i
    (if r.1 = 0 then acc.1 else acc.1 ++ [r.1], r.2)) ([], s)

/-- The severity that prevails (R552): 0 none, and SEV 1 before the others. -/
def inject (s : State) (die target : Nat) (sel : Nat → Nat → Nat → Bool) : Nat × State :=
  let r := injectAll s die target sel
  (if r.1.contains 2 then 2 else r.1.foldl max 0, r.2)

/-! ### SRAM with SEC-DED words (R197) -/

/-- The 8-byte words an access of `n` bytes at `key` touches. -/
def wordOf (key n w : Nat) : Bool := decide (key / 8 ≤ w) && decide (w ≤ (key + n - 1) / 8)

/-- Read SRAM: are the data poisoned, and the state with errors corrected, counted and reported. -/
def sramRead (s : State) (key n : Nat) : Bool × State :=
  let hits := s.sram.filter fun e => wordOf key n e.1
  if hits.isEmpty then (false, s)
  else
    let d := (sramPlace key).1
    let ce := hits.filter fun e => e.2 == 1
    let ue := hits.filter fun e => !(e.2 == 1)
    let s := { s with sram := kdrop (fun w => wordOf key n w && getD 0 s.sram w == 1) s.sram }
    let s := if ce.isEmpty then s else s.fs (memBase d) Fld.MEM_DIE_ERR_SRAM_CE 1
    match ue with
    | [] => (false, s)
    | u :: _ =>
      let s := (s.fs (memBase d) Fld.MEM_DIE_ERR_SRAM_UE 1).wr (memBase d + Reg.MEM_SRAM_ERR) (sramPlace (8 * u.1)).2
      (true, (s.reportA 7 (unitOfDie d)).toMp 7 (unitOfDie d))

/-- The 64-byte beats of a range. -/
def beatsOf (key n : Nat) : List (Nat × Nat) := (List.range (cdiv n 64)).map fun i => (key + 64 * i, min 64 (n - 64 * i))

/-- Read SRAM beat by beat; a poisoned beat ends the reading (R108, R583). -/
def sramBeats : List (Nat × Nat) → State → Bool × State
  | [], s => (false, s)
  | b :: bs, s =>
    let r := sramRead s b.1 b.2
    if r.1 then r else sramBeats bs r.2

/-- The kind of SRAM for injection: 0 scratch, 1 core memory, 2 Landing, with the selectors a slot must name. -/
def sramSel (key : Nat) (w1 _w2 _w3 : Nat) : Bool :=
  let p := (sramPlace key).2
  bits w1 2 0 == bits p 2 0 && (bits p 7 6 == 2 || bits w1 5 3 == bits p 5 3)
    && (!(bits p 7 6 == 0) || bits w1 7 6 == bits p 9 8)

/-- Write SRAM: a whole word gets fresh check bits; of a word written in part, a single-bit error is corrected and counted,
and an uncorrectable word stays marked. -/
def sramWrite (s : State) (key : Nat) (bs : List Byte) : State :=
  let n := bs.length
  let whole := fun w => decide (key ≤ 8 * w) && decide (8 * w + 8 ≤ key + n)
  let s := if s.sram.any fun e => wordOf key n e.1 && e.2 == 1 && !whole e.1 then
      s.fs (memBase (sramPlace key).1) Fld.MEM_DIE_ERR_SRAM_CE 1 else s
  let s := { s with sram := kdrop (fun w => whole w || (wordOf key n w && getD 0 s.sram w == 1)) s.sram }
  let s := s.mwr key bs
  let p := sramPlace key
  let r := inject s p.1 (bits p.2 7 6) (sramSel key)
  if r.1 = 0 ∨ n = 0 then r.2 else { r.2 with sram := setD 0 r.2.sram (key / 8) (if r.1 = 2 then 2 else 1) }

/-! ### DRAM lines and the error log (R201 to R205, R215 to R217) -/

/-- A request's identity for the error log. -/
structure Who where
  ini : Nat
  ctx : Nat
  patrol : Bool
  deriving DecidableEq, Repr

def rawDie (raw : Nat) : Nat := raw / 0x800000000
def rawOff (raw : Nat) : Nat := raw % 0x800000000

/-- Channel, bank, row and column of a die offset (R201). -/
def dramCh (o : Nat) : Nat := bits o 11 8
def dramBank (o : Nat) : Nat := Nat.xor (bits o 15 12) (bits o 19 16)
def dramRow (o : Nat) : Nat := bits o 31 16
def dramCol (o : Nat) : Nat := bits o 34 32 * 256 + bits o 7 0

/-- Make an error-log entry, or count it in OVF when the log is full (R216). -/
def elogAdd (s : State) (raw type : Nat) (w : Who) : State :=
  let d := rawDie raw
  let o := rawOff raw
  let b := memBase d
  let n := s.fg b Fld.MEM_ELOG_STS_COUNT
  if 16 ≤ n then (s.faddSat b Fld.MEM_ELOG_STS_OVF 1).fs b Fld.MEM_DIE_ERR_LOG_OVF 1
  else
    let e := b + Reg.MEM_ELOG_W0 + 16 * n
    let syn := s.free
    let s := syn.2.wr e (type + dramCh o * 16 + dramBank o * 256 + dramRow o * 4096)
    let s := s.wr (e + 4) (dramCol o + bits syn.1.toNat 15 0 * 2 ^ 16)
    let s := s.wr (e + 8) ((if w.patrol then 0x1000 else w.ini) + w.ctx * 2 ^ 16)
    let q := getD 0 s.elogSeq d
    let s := { s.wr (e + 12) q with elogSeq := setD 0 s.elogSeq d ((q + 1) % 2 ^ 32) }
    s.fs b Fld.MEM_ELOG_STS_COUNT (n + 1)

/-- Island event 0x06 and a MEMORY notice (R217). -/
def memEvent (s : State) (d : Nat) : State := ((s.reportBoth 6 (unitOfDie d)).toMp 6 (unitOfDie d)).notice 0x0A (unitOfDie d) 0 0

/-- Count and log an error found by a read of a line: mark 1 correctable, 2 data, 3 address, 4 poison. -/
def dramError (s : State) (raw mark : Nat) (w : Who) : State :=
  let b := memBase (rawDie raw)
  if mark = 1 then
    let s := (s.fs b Fld.MEM_DIE_ERR_CE 1).wr (b + Reg.MEM_CE_CNT) (satAdd 0xFFFFFFFF (s.rd (b + Reg.MEM_CE_CNT)) 1)
    let s := if s.fb b Fld.MEM_DIE_CTL_LOG_CE then elogAdd s raw 1 w else s
    if s.rd (b + Reg.MEM_CE_CNT) = s.rd (b + Reg.MEM_CE_THRESH) then s.toMp 0x16 (unitOfDie (rawDie raw)) else s
  else if mark = 2 ∨ mark = 3 then
    let s := s.fs b (if mark = 2 then Fld.MEM_DIE_ERR_UE_DATA else Fld.MEM_DIE_ERR_UE_ADDR) 1
    let s := s.wr (b + Reg.MEM_UE_CNT) (satAdd 0xFFFFFFFF (s.rd (b + Reg.MEM_UE_CNT)) 1)
    memEvent (elogAdd s raw mark w) (rawDie raw)
  else if mark = 4 then memEvent (elogAdd (s.fs b Fld.MEM_DIE_ERR_POISON_RD 1) raw 4 w) (rawDie raw)
  else s

/-- A bank by the number its row and its check burst are kept under. -/
def bankKey (raw : Nat) : Nat := 256 * rawDie raw + 16 * dramCh (rawOff raw) + dramBank (rawOff raw)

/-- A bank closes its row, and forgets the check burst it kept (R204, R209). -/
def closeBank (s : State) (key : Nat) : State :=
  { s with openRows := setD 0 s.openRows key 0, checkBurst := setD 0 s.checkBurst key 0 }

/-- The row of a line opens in its bank: another row that was open closes first. -/
def openRow (s : State) (raw : Nat) : State :=
  let row := dramRow (rawOff raw) + 1
  if getD 0 s.openRows (bankKey raw) = row then s
  else
    let s := closeBank s (bankKey raw)
    { s with openRows := setD 0 s.openRows (bankKey raw) row }

/-- A line is accessed: the channel's read or write counter counts, and the bank's row is open (R209). -/
def chCount (s : State) (raw : Nat) (f : Fld) : State :=
  (openRow s raw).faddWrap (memBase (rawDie raw) + 0x100 * dramCh (rawOff raw)) f 1

/-- Is inline ECC in effect on a die (R206)? -/
def eccOn (s : State) (d : Nat) : Bool := s.fb (memBase d) Fld.MEM_DIE_STS_ECC_ACTIVE

/-- The die offset of the 8 check bytes of the line at die offset `o` (R202). -/
def checkOff (o : Nat) : Nat := 0x700000000 + bits o 31 8 * 256 + 32 * bits o 34 32 + 8 * bits o 7 6

/-- The check burst that covers a line's check bytes: its column (R204). -/
def checkCol (o : Nat) : Nat := 0x700 + 64 * ((32 * bits o 34 32 + 8 * bits o 7 6) / 64)

/-- A read of a data line also reads its check burst, unless its bank keeps it since the row opened (R204). -/
def readCheck (s : State) (raw : Nat) : State :=
  if eccOn s (rawDie raw) then { s with checkBurst := setD 0 s.checkBurst (bankKey raw) (checkCol (rawOff raw) + 1) } else s

/-- The lines [raw, raw + n) touches. -/
def linesOf (raw n : Nat) : List Nat := if n = 0 then [] else rangeFrom (raw / 64) ((raw + n - 1) / 64 - raw / 64 + 1)

/-- A memory controller reads one line: poisoned?, and the state after counting and logging. Without inline ECC no error
is detected (R206). -/
def dramLineRead (s : State) (l : Nat) (w : Who) : Bool × State :=
  let s := readCheck (chCount s (64 * l) Fld.MEM_CH_RDCNT_COUNT) (64 * l)
  let m := if eccOn s (rawDie (64 * l)) then getD 0 s.dram l else 0
  (decide (2 ≤ m), dramError s (64 * l) m w)

/-! ### The system cache (R194 to R197)

It is write-through, so it never holds other bytes than DRAM: the model keeps which lines are present. -/

/-- Requester group of an initiator that reaches DRAM through the IOD network; compute dies' own do not. -/
def scGroup (ini : Nat) : Option Nat :=
  if iniDie ini < 4 then none
  else if 0xE00 ≤ ini then some 0
  else if iniDie ini = 4 then some (if ini = 0x806 ∨ ini = 0x807 then 2 else 1)
  else some 3

/-- Way mask of a group. -/
def scMask (s : State) (g : Nat) : Nat :=
  bits (s.rd (memIBase + (if g < 2 then Reg.MEM_SC_WAYS01 else Reg.MEM_SC_WAYS23))) (16 * (g % 2) + 15) (16 * (g % 2))

/-- Does the cache serve requests: enabled, no invalidation in progress? -/
def scOn (s : State) : Bool := s.fb memIBase Fld.MEM_SC_CTL_EN && !s.fb memIBase Fld.MEM_SC_CTL_INV_BUSY

/-- The slice of a line. -/
def scSlice (l : Nat) : Nat := Nat.xor (Nat.xor (bits l 3 0) (bits l 7 4)) (bits l 11 8)

def scFind (s : State) (l : Nat) : Option ScLine := s.sc.find? fun x => x.line == l

/-- Lines leave the cache; a sector without lines leaves the directory. -/
def scDrop (s : State) (p : Nat → Bool) : State :=
  let ls := s.sc.filter fun x => !p x.line
  { s with sc := ls, scSects := s.scSects.filter fun c => ls.any fun x => x.line / 64 == c }

/-- A line's error after it was corrected or overwritten. -/
def scMend (s : State) (l : Nat) : State :=
  { s with sc := s.sc.map fun x => if x.line = l then { x with mark := 0 } else x }

/-- The bit numbers of a mask. -/
def maskBits (m : Nat) : List Nat := (List.range 16).filter fun i => bit m i

/-- Allocate a line for an initiator's group (R195, R196). -/
def scFill (s : State) (l ini : Nat) : State :=
  match scGroup ini with
  | none => s
  | some g =>
    let ws := maskBits (scMask s g)
    if ws.isEmpty then s
    else
      let sec := l / 64
      let s := if s.scSects.contains sec || decide (s.scSects.length < 16384) then s
        else match s.scSects with
          | [] => s
          | o :: _ => scDrop s fun x => x / 64 == o
      let v := Config.scVictim s.fresh
      let s := { s with fresh := s.fresh + 1 }
      let way := ws.getD (v % ws.length) 0
      let same := (s.sc.filter fun x => x.way == way && scSlice x.line == scSlice l).map (·.line)
      let s := match same[v / 16 % (if 4096 ≤ same.length then same.length else same.length + 1)]? with
        | some o => scDrop s fun x => x == o
        | none => s
      let r := inject s 4 0 fun _ _ _ => true
      { r.2 with sc := r.2.sc ++ [⟨l, way, if r.1 = 2 then 2 else min r.1 1⟩],
                 scSects := (r.2.scSects.filter fun c => !(c == sec)) ++ [sec] }

/-- A read of a line that the cache does not hold. -/
def scMiss (s : State) (l : Nat) (w : Who) : Bool × State :=
  let r := dramLineRead (s.faddWrap memIBase Fld.MEM_SC_MISS_COUNT 1) l w
  (r.1, if r.1 then r.2 else scFill r.2 l w.ini)

/-- A read of one line by an initiator: a hit, or a miss that goes on to the memory controller. -/
def lineRead (s : State) (l : Nat) (w : Who) : Bool × State :=
  if w.patrol || (scGroup w.ini).isNone || !scOn s then dramLineRead s l w
  else match scFind s l with
    | none => scMiss s l w
    | some x =>
      if x.mark = 2 then scMiss (scDrop (s.fs memIBase Fld.MEM_SC_ERR_UE 1) fun y => y == l) l w
      else
        let s := if x.mark = 1 then scMend (s.fs memIBase Fld.MEM_SC_ERR_CE 1) l else s
        (false, s.faddWrap memIBase Fld.MEM_SC_HIT_COUNT 1)

/-- What a write does to a cached copy: one through the IOD network updates it, any other invalidates it. -/
def scWritten (s : State) (l : Nat) (full : Bool) (w : Who) : State :=
  match scFind s l with
  | none => s
  | some _ => if (scGroup w.ini).isNone then scDrop s fun y => y == l else if full then scMend s l else s

/-- Read DRAM: poisoned?, and the state after counting and logging. -/
def dramRead (s : State) (raw n : Nat) (w : Who) : Bool × State :=
  (linesOf raw n).foldl (fun acc l =>
    let r := lineRead acc.2 l w
    (acc.1 || r.1, r.2)) (false, s)

/-- Which whole-line writes an injection slot of target 3 matches. -/
def lineSel (raw : Nat) (w1 w2 w3 : Nat) : Bool := !bit w1 15 || (w2 + bits w3 9 0 * 2 ^ 32 == raw / 64)

/-- Effects of a write on the check word of one line (R205): `full` when all 64 bytes are written. A write of less reads
the line first. -/
def dramLineWrite (s : State) (l : Nat) (full : Bool) (w : Who) : State :=
  let d := rawDie (64 * l)
  let b := memBase d
  let s := if full then s else readCheck (chCount s (64 * l) Fld.MEM_CH_RDCNT_COUNT) (64 * l)
  let s := chCount s (64 * l) Fld.MEM_CH_WRCNT_COUNT
  let m := getD 0 s.dram l
  if !eccOn s d then s
  else if full then
    let s := { s with dram := setD 0 s.dram l 0 }
    let r := inject s d 3 (lineSel (64 * l))
    if r.1 = 0 then r.2 else { r.2 with dram := setD 0 r.2.dram l (if r.1 = 2 then 2 else 1) }
  else if m = 0 then s
  else if m = 1 then { dramError s (64 * l) 1 w with dram := setD 0 s.dram l 0 }
  else
    let s := if m = 4 then s.fs b Fld.MEM_DIE_ERR_POISON_RD 1
      else (s.fs b (if m = 2 then Fld.MEM_DIE_ERR_UE_DATA else Fld.MEM_DIE_ERR_UE_ADDR) 1).wr (b + Reg.MEM_UE_CNT)
        (satAdd 0xFFFFFFFF (s.rd (b + Reg.MEM_UE_CNT)) 1)
    let s := memEvent (elogAdd s (64 * l) 5 w) d
    { s with dram := setD 0 s.dram l 4 }

/-- Write DRAM. -/
def dramWrite (s : State) (raw : Nat) (bs : List Byte) (w : Who) : State :=
  ((linesOf raw bs.length).foldl (fun t l =>
    let full := decide (raw ≤ 64 * l) && decide (64 * l + 64 ≤ raw + bs.length)
    scWritten (dramLineWrite t l full w) l full w) s).mwr raw bs

/-! ### Address map (R25 to R31) -/

/-- What a package address names once the interleaved window is translated (R28). -/
inductive Space where
  | dram (raw : Nat)
  | landing (c off : Nat)
  | coreMem (k off : Nat)
  | reg
  | boot
  | none
  deriving DecidableEq, Repr

/-- Is the interleaved window valid as programmed (R29)? -/
def ilValid (s : State) (sg bg : Nat) : Bool :=
  decide (1 ≤ sg) && decide (s.part.dies * sg ≤ 32)
    && (List.range s.part.dies).all fun d => decide (bg + sg ≤ if eccOn s d then 28 else 32)

/-- The raw address of an interleaved-window address (R28). -/
def ilRaw (s : State) (a : Nat) : Option Nat :=
  let n := s.part.dies
  let sz := s.fg memIBase Fld.MEM_IL_CTL_S_GIB * 2 ^ 30
  let b := s.fg memIBase Fld.MEM_IL_CTL_B_GIB * 2 ^ 30
  let w := a - 0x004000000000
  if s.fb memIBase Fld.MEM_IL_CTL_EN && decide (w < n * sz) then
    let g := w / 4096
    some (g % n * 0x800000000 + b + g / n * 4096 + w % 4096)
  else Option.none

/-- The address under which the interleaved window shows a raw address, where it does. -/
def ilPkg (s : State) (raw : Nat) : Option Nat :=
  let n := s.part.dies
  let sz := s.fg memIBase Fld.MEM_IL_CTL_S_GIB * 2 ^ 30
  let b := s.fg memIBase Fld.MEM_IL_CTL_B_GIB * 2 ^ 30
  if s.fb memIBase Fld.MEM_IL_CTL_EN && decide (b ≤ rawOff raw) && decide (rawOff raw < b + sz) then
    some (0x004000000000 + ((rawOff raw - b) / 4096 * n + rawDie raw) * 4096 + raw % 4096)
  else Option.none

/-- Raw DRAM under R3 and R27. -/
def rawSpace (s : State) (raw : Nat) : Space :=
  let d := rawDie raw
  if s.part.fitted d && !(eccOn s d && decide (0x700000000 ≤ rawOff raw)) then .dram raw
  else .none

/-- Where a package address leads. -/
def space (s : State) (a : Nat) : Space :=
  if a < 0x002000000000 then rawSpace s a
  else if 0x004000000000 ≤ a ∧ a < 0x004800000000 then
    (match ilRaw s a with | some r => rawSpace s r | Option.none => .none)
  else if sramBase ≤ a ∧ a < 0x008100000000 then
    let d := (a - sramBase) / 0x40000000
    let o := (a - sramBase) % 0x40000000
    if !s.part.fitted d then .none
    else if o < 0x2000000 then .landing (8 * d + o / 0x400000) (o % 0x400000)
    else if 0x10000000 ≤ o ∧ o < 0x14000000 then .coreMem (64 * d + (o - 0x10000000) / 0x100000) (o % 0x100000)
    else .none
  else if (locate s.part a).isSome then .reg
  else if (0x00FF80000000 ≤ a ∧ a < 0x00FF80020000) ∨ (0x00FF81000000 ≤ a ∧ a < 0x00FF81002000)
    ∨ (0x00FF90000000 ≤ a ∧ a < 0x00FFA0000000) then .boot
  else .none

/-- The die a place lies on: compute dies, 4 the IOD, 5 the Porch, 6 the islands. -/
def spaceDie (s : State) (a : Nat) : Nat :=
  match space s a with
  | .dram raw => rawDie raw
  | .landing c _ => c / 8
  | .coreMem k _ => k / 64
  | .reg => if 0x00FF00000000 ≤ a then 6 else (a - 0x00F000000000) / 0x1000000
  | .boot => 4
  | .none => iniDie 0

/-! ### Ranges of raw granules (R582) -/

/-- Do [a, a+n) and [b, b+m) meet? -/
def meets (a n b m : Nat) : Bool := decide (a < b + m) && decide (b < a + n) && decide (0 < n) && decide (0 < m)

/-- The raw ranges of a package range, granule by granule in the interleaved window. -/
def rawRanges (s : State) (a n : Nat) : List (Nat × Nat) :=
  if n = 0 then []
  else if 0x004000000000 ≤ a ∧ a < 0x004800000000 then
    (rangeFrom (a / 4096) ((a + n - 1) / 4096 - a / 4096 + 1)).filterMap fun g =>
      let lo := max a (4096 * g)
      let hi := min (a + n) (4096 * g + 4096)
      (ilRaw s lo).map fun r => (r, hi - lo)
  else [(a, n)]

/-- Does a package range meet a raw range? -/
def rangeMeets (s : State) (a n b m : Nat) : Bool := (rawRanges s a n).any fun r => meets r.1 r.2 b m

/-! ### Protected ranges -/

def poolBase (s : State) (d p : Nat) : Nat := s.fg (panBase d + 0x20 * p) Fld.PAN_POOL_BASE_BASE * 2 ^ 21
/-- Bytes of a pool's page (R157). -/
def pageBytes (s : State) (d p : Nat) : Nat :=
  32 * (64 * (s.fg (panBase d + 0x20 * p) Fld.PAN_POOL_CFG_DM1 + 1))
    * (if s.fg (panBase d + 0x20 * p) Fld.PAN_POOL_CFG_FMT = 2 then 2 else 1)
def poolPages (s : State) (d p : Nat) : Nat := s.fg (panBase d + 0x20 * p) Fld.PAN_POOL_CFG_PAGES
def poolOn (s : State) (d p : Nat) : Bool := s.fb (panBase d + 0x20 * p) Fld.PAN_POOL_CFG_EN
def metaBase (s : State) (d : Nat) : Nat := s.fg (panBase d) Fld.PAN_META_BASE_BASE * 2 ^ 21
/-- Bytes of the metadata region (R163). -/
def metaSize : Nat := 0x6000000

/-- The pool and metadata ranges of a die's enabled Pantry. -/
def panRanges (s : State) (d : Nat) : List (Nat × Nat) :=
  if s.fb (panBase d) Fld.PAN_CTL_EN then
    (metaBase s d, metaSize) ::
      ((List.range 4).filter (poolOn s d)).map fun p => (poolBase s d p, poolPages s d p * pageBytes s d p)
  else []

/-- Who may touch pools and metadata (R161). -/
def panAllowed (d ini : Nat) : Bool :=
  ini == 0x800 || ini == 0x804 || ini == d * 512 + 0x101 || ini == dcIni d
    || (iniDie ini == d && decide (0x108 ≤ ini % 512) && decide (ini % 512 ≤ 0x10F))

/-- The secure region's raw base; it has none before SEC_SECURE_BASE holds one (R527). -/
def secBaseRaw (s : State) : Option Nat :=
  let b := s.fg secBase Fld.SEC_SECURE_BASE_BASE * 2 ^ 20
  if b = 0 then Option.none else some b

/-- Does the secure region refuse the access (R527)? -/
def secRejects (s : State) (raw n ini : Nat) (write : Bool) : Bool :=
  match secBaseRaw s with
  | Option.none => false
  | some b =>
    if ini = 0x800 then false
    else if meets raw n b 0x8000000 then true
    else if meets raw n (b + 0x8000000) 0x2000000 then
      write || decide (0xE00 ≤ ini) || ini == 0x806 || ini == 0x807 || ini == 0x808
    else false

/-! ### Routes (R115, R240 to R243, R500) -/

/-- Is a die-link module end up, at full or half width? -/
def modUp (s : State) (d port : Nat) : Bool := decide (2 ≤ s.fg (ddlBase d + 0x1000 * port) Fld.DDL_STS_STATE)

/-- Is a die held in reset (R500), or without power (R474, R568)? -/
def dieHeld (s : State) (d : Nat) : Bool :=
  decide (d < 6) && (bit (s.rd (rstIBase + Reg.RST_DIE_STS)) d || s.dark.contains d)

/-- Has the ring pair from die `d` to its neighbour `n` a module up (R240)? Ports 0, 1 lead to d + 1, 2, 3 to d − 1. -/
def pairUp (s : State) (d n : Nat) : Bool :=
  if n = (d + 1) % 4 then modUp s d 0 || modUp s d 1
  else if n = (d + 3) % 4 then modUp s d 2 || modUp s d 3
  else false

/-- Is the route of die `d` to the diagonal die through `v` available (R242)? -/
def routeUp (s : State) (d v : Nat) : Bool := s.part.fitted v && !dieHeld s v && pairUp s d v && pairUp s v ((d + 2) % 4)

/-- The intermediate die that MODE gives a diagonal request for address bit [12] (R241). -/
def modeVia (s : State) (d i : Nat) : Nat :=
  let mode := s.fg (ddlBase d) Fld.DDL_ROUTE_MODE
  if mode = 1 then (d + 1) % 4 else if mode = 2 then (d + 3) % 4 else (d + 1 + 2 * i) % 4

/-- The intermediate die now: MODE's, until its route was unavailable (R242). -/
def curVia (s : State) (d i : Nat) : Nat := match aget s.routes (2 * d + i) with | some v => v | none => modeVia s d i

/-- The intermediate die a diagonal request takes, the other while the route through it is unavailable. -/
def viaDie (s : State) (d a : Nat) : Option Nat :=
  let v := curVia s d (b2n (bit a 12))
  if routeUp s d v then some v else if routeUp s d ((v + 2) % 4) then some ((v + 2) % 4) else Option.none

/-- Is there a route from die `f` to die `t` for a request at address `a` (R17)? Compute dies use the ring; every other
pair goes over IOD port `d` and the die's own port 4; the Porch is IOD port 4. The islands (6) lie behind the safety
bridge of the IOD. -/
def routed (s : State) (f t a : Nat) : Bool :=
  let iodUp := fun d => if d = 5 then modUp s 4 4 else modUp s 4 d
  if f = t then true
  else if f < 4 ∧ t < 4 then
    (if t = (f + 2) % 4 then (viaDie s f a).isSome else pairUp s f t)
  else (if f < 4 ∨ f = 5 then iodUp f else true) && (if t < 4 ∨ t = 5 then iodUp t else true)

/-! ### The access -/

/-- What a requester receives. -/
inductive AccRes where
  | data (bs : List Byte)
  | ack
  | poison (sram : Bool) (die : Nat)
  | err (code : Nat)
  deriving DecidableEq, Repr

def State.isl (s : State) (i : Nat) : Island := getD Island.reset s.islands i
def State.setIsl (s : State) (i : Nat) (v : Island) : State := { s with islands := setD Island.reset s.islands i v }

/-- ACN_STS.STATE: 1 BOOT, 2 RUN, 3 SAFE, 4 HALTED. -/
def islState (s : State) (i : Nat) : Nat := s.fg (acnBase i) Fld.ACN_STS_STATE

/-- The island an Acina initiator belongs to. -/
def islOf (ini : Nat) : Nat := b2n (decide (0xD00 ≤ ini))

/-- Can an initiator issue a request at all: not from a die held in reset, nor from an island that is unpowered or
HALTED (R417)? -/
def iniBlocked (s : State) (ini : Nat) : Bool :=
  dieHeld s (iniDie ini) || isAcina ini && (!(s.isl (islOf ini)).powered || islState s (islOf ini) == 4)

/-- The checks every request passes before its destination takes it: the 4 KiB rule, the map, the route, the pool
firewall, the secure region and the boot region. Code 0: the request is not issued. -/
def accCheck (s : State) (ini a n : Nat) (write : Bool) : Option Nat × State :=
  let f := iniDie ini
  let t := spaceDie s a
  if iniBlocked s ini then (some 0, s)
  else if n = 0 ∨ a / 4096 ≠ (a + n - 1) / 4096 then (some 1, s)
  else match space s a with
    | .none => (some 1, if f < 4 then s.fs (dieBase f) Fld.CLU_NET_ERR_DECODE 1 else s)
    | sp =>
      if f ≠ t ∧ (dieHeld s t || !routed s f t a) then
        (some 2, if f < 4 ∧ t = (f + 2) % 4 ∧ t < 4 ∧ (viaDie s f a).isNone
          then s.fs (dieBase f) Fld.CLU_NET_ERR_ROUTE 1 else s)
      else match sp with
        | .dram raw =>
          let d := rawDie raw
          if (panRanges s d).any (fun r => meets raw n r.1 r.2) && !panAllowed d ini then
            (some 1, s.fs (panBase d) Fld.PAN_ERR_FW_REJECT 1)
          else if secRejects s raw n ini write then (some 1, s.fs secBase Fld.SEC_ERR_SR_REJECT 1)
          else (Option.none, s)
        | .reg => if n = 4 ∧ a % 4 = 0 then (Option.none, s) else (some 1, s)
        | .boot =>
          if (ini = 0x800 ∨ (ini = 0x808 ∧ s.fb secBase Fld.SEC_STS_TEST_UNLOCKED)) ∧ write = false then (Option.none, s)
          else (some 1, s)
        | .landing _ off => if off + n ≤ landSize then (Option.none, s) else (some 1, s)
        | .coreMem _ off => if off + n ≤ cmSize then (Option.none, s) else (some 1, s)
        | .none => (some 1, s)

/-- What a register read changes beside answering: high words latch (CORE_CYC, ADM_NOW, PCH_TIME, FUS_POSE_SEQ), and
reading CHK_MM_TOL ends the first-mismatch record. -/
def readEffect (s : State) (l : Loc) (a : Nat) : State :=
  match l.blk, l.off with
  | .core, 0x40 => { s with latched := setD 0 s.latched (a + 4) (BitVec.ofNat 32 (s.rd (a + 4))) }
  | .adm, 0x10 => { s with latched := setD 0 s.latched (a + 4) (BitVec.ofNat 32 (s.rd (a + 4))) }
  | .pch, 0x18 => { s with latched := setD 0 s.latched (a + 4) (BitVec.ofNat 32 (s.rd (a + 4))) }
  | .fus, 0x10 => { s with latched := setD 0 s.latched (a + 4) (BitVec.ofNat 32 (s.rd (a + 4))) }
  | .chk, 0x14 => s.fs (a - 0x14) Fld.CHK_MM_INFO_VALID 0
  | _, _ => s

/-- Does the offset hold the high word of a latching pair? -/
def isLatchedHi (l : Loc) : Bool :=
  match l.blk, l.off with
  | .core, 0x44 => true
  | .adm, 0x14 => true
  | .pch, 0x1C => true
  | .fus, 0x14 => true
  | _, _ => false

/-! ### Policy tables (R432) -/

/-- Default level of an event (R422). -/
def defaultLevel (ev : Nat) : Nat :=
  if ev ∈ [0x04, 0x0D, 0x0F, 0x10] then 2
  else if ev ∈ [0x00, 0x01, 0x02, 0x03, 0x05, 0x11, 0x13] then 3
  else if ev = 0x0A then 0
  else 1

/-- The default body of an entry, from packet byte 40 on (R432). The golden entries are disabled: the firmware's images
are not in the spec (assumption 21). -/
def policyBody (table entry : Nat) : List Byte :=
  match table with
  | 0 => if entry = 0 then leBytes 8 (3 * 2 ^ 24) else leBytes 8 0
  | 1 => leBytes 8 (defaultLevel entry + 100 * 2 ^ 16)
  | 2 => leBytes 16 (400 + 5000 * 2 ^ 16 + 100 * 2 ^ 32 + 1000 * 2 ^ 48 + 4000 * 2 ^ 64)
  | 3 => leBytes 16 (8 + 64 * 2 ^ 8 + 8 * 2 ^ 16 + 4 * 2 ^ 24 + 2 * 2 ^ 32 + 3 * 2 ^ 40)
  | _ => leBytes 64 0

/-- The 128-byte image of an entry: record bytes 32 to 159. -/
def policyImage (s : State) (isl table entry : Nat) : List Byte :=
  match aget s.policy (2 ^ 16 * isl + 2 ^ 8 * table + entry) with
  | some b => b
  | none => leBytes 8 0 ++ policyBody table entry ++ leBytes (120 - (policyBody table entry).length) 0

/-- A field of an entry, by packet byte offset. -/
def policyField (s : State) (isl table entry off len : Nat) : Nat := leAt (policyImage s isl table entry) (off - 32) len

/-- The legal entries of a table. -/
def policyEntries (table : Nat) : Nat := match table with | 0 => 8 | 1 => 21 | 2 => 1 | 3 => 1 | 4 => 8 | _ => 0

/-- The word of a policy table entry in an island's block (R454). -/
def policyWord (s : State) (l : Loc) : Option Nat :=
  if l.blk == .acn && decide (0x100000 ≤ l.off) then
    let t := (l.off - 0x100000) / 0x10000
    let e := (l.off - 0x100000) % 0x10000 / 0x80
    if e < policyEntries t then some (leAt (policyImage s l.unit t e) (l.off % 0x80) 4) else none
  else none

/-- Requests of the context in teardown and its old generation that the units of a die hold: the count, the clusters
that hold some, and whether a die-level unit does (R502). A die in reset counts none. -/
def tdOut (s : State) (d : Nat) : Nat × Nat × Bool :=
  match s.td with
  | none => (0, 0, false)
  | some t =>
    if dieHeld s d then (0, 0, false)
    else
      let mine := s.reqs.filter fun r => r.ctx == t.ctx && r.cgen == t.gen && !r.dead
      let own := mine.filter fun r => iniDie r.ini == d
      let port := mine.filter fun r => !(iniDie r.ini == d) && spaceDie s r.addr == d
      let clu := fun (r : Req) => if r.ini % 512 < 0x100 then some (r.ini % 512 / 32)
        else if 0x108 ≤ r.ini % 512 ∧ r.ini % 512 < 0x110 then some (r.ini % 512 - 0x108) else Option.none
      let cl := if d < 4 then own.filterMap clu else []
      (own.length + port.length, sumN ((List.range 8).map fun c => b2n (cl.contains c) * 2 ^ c),
        !port.isEmpty || !(if d < 4 then own.all fun r => (clu r).isSome else own.isEmpty))

/-- Bits set in the lowest `n` bits of a number. -/
def ones (n w : Nat) : Nat := sumN ((List.range n).map fun i => w / 2 ^ i % 2)

/-- The lifecycle state in the OTP (R543): 0 BLANK, 1 PRODUCTION, 2 RETURNED, 3 SCRAPPED. -/
def lifecycle (s : State) : Nat := min 3 (ones 8 (getD 0 s.otp 0x800).toNat)

/-- The place of a new element in the order of grants. -/
def insGrant (r : Req) : List Req → List Req
  | [] => [r]
  | x :: xs => if r.grant < x.grant then r :: x :: xs else x :: insGrant r xs

/-- Requests that a die's memory port has granted, in the order of their grants (R207). -/
def granted (s : State) (d : Nat) : List Req :=
  (s.reqs.filter fun r => r.stage == .mem && decide (0 < r.grant)
    && (r.todo.any fun l => rawDie (64 * l) == d)).foldr insGrant []

/-- The lines that wait at channel `ch` of die `d`, each with its request, in the order the port granted them. -/
def chLines (s : State) (d ch : Nat) : List (Req × Nat) :=
  (granted s d).flatMap fun r => (r.todo.filter fun l => dramCh (rawOff (64 * l)) == ch).map fun l => (r, l)

def lineBank (x : Req × Nat) : Nat := dramBank (rawOff (64 * x.2))

/-- Lines in staging: those beyond 16 of their bank (R207). -/
def stagedOf (xs : List (Req × Nat)) : Nat := sumN ((List.range 16).map fun b => (xs.filter fun x => lineBank x == b).length - 16)

/-- Status words that show what other units hold at the moment of the read: RST_TD_OUT, TST_STS, MEM_CHc_STS. -/
def liveWord (s : State) (l : Loc) (a : Nat) : Option Nat :=
  match l.blk, l.off with
  | .rstD, 0x6C =>
    let t := tdOut s l.unit
    some (t.2.1 + b2n t.2.2 * 2 ^ 8 + min 0xFFFF t.1 * 2 ^ 16)
  | .memD, o =>
    if o % 0x100 = 4 ∧ 0x1000 ≤ o ∧ o < 0x2000 then
      some (setBits (s.rd a) 14 8 (min 64 (stagedOf (chLines s l.unit ((o - 0x1000) / 0x100)))))
    else none
  | .tstD, 8 | .tstI, 8 | .tstP, 8 =>
    some (setBits (setBits (s.rd a) 1 0 (lifecycle s)) 2 2 (s.fg secBase Fld.SEC_STS_TEST_UNLOCKED))
  | _, _ => none

/-- Read the register word at an aligned address of a register block: an offset without a register reads zero (R33). -/
def regRead (s : State) (a : Nat) : Nat × State :=
  match locate s.part a with
  | none => (0, s)
  | some l =>
    match policyWord s l, liveWord s l a with
    | some w, _ => (w, s)
    | none, some w => (w, s)
    | none, none => (if isLatchedHi l then (getD 0 s.latched a).toNat else s.rd a, readEffect s l a)

/-- A byte of the boot region (R39): the mask ROM's content, the OTP with its secret rows hidden once it is locked
(R517), the flash. -/
def bootByte (s : State) (a : Nat) : Byte :=
  if a < 0x00FF80020000 then Config.romByte (a - 0x00FF80000000)
  else if a < 0x00FF81002000 then
    let o := a - 0x00FF81000000
    if s.fb secBase Fld.SEC_STS_OTP_LOCKED && decide (0x200 ≤ o) && decide (o < 0x220) then 0 else getD 0 s.otp o
  else
    let o := a - 0x00FF90000000
    if o < s.flashMb * 2 ^ 20 then getD 0xFF s.flash o else Config.noFlash o

/-! ### Register writes (R12, R13, R33, R428) -/

/-- The fields of a register after a write: RW and RWL set, W1C bits clear, RO and WO keep. -/
def applyFields (fs : List RegField) (old v : Nat) : Nat :=
  fs.foldl (fun acc f =>
    match f.acc with
    | .rw | .rwl => setBits acc f.hi f.lo (bits v f.hi f.lo)
    | .w1c => setBits acc f.hi f.lo (bits acc f.hi f.lo - Nat.land (bits acc f.hi f.lo) (bits v f.hi f.lo))
    | .ro | .wo => acc) old

/-- Does the register hold an RWL field (R12)? -/
def RegSpec.hasRwl (r : RegSpec) : Bool := r.fields.any fun f => f.acc == .rwl

/-- May the initiator write the block (R130, R132, R192, R193, R224, R225, R254, R288, R289, R326 to R328, R352, R365,
R392, R415, R487, R488, R513, R514, R542, R557)? RWL registers are judged apart. -/
def writerOk (l : Loc) (name : String) (ini : Nat) : Bool :=
  match l.blk with
  | .core => if l.off = 0x28 then ini == dcIni (l.unit / 64) else true
  | .dieClu => if 0x8000 ≤ l.off then ini == dcIni l.unit else true
  | .pan => ini == 0x800 || ini == 0x801
  | .att => if name == "PAN_ATT_CTL" then ini == dcIni (l.unit / 8) else true
  | .bwrD => if decide (0x1000 ≤ l.off) then ini == dcIni l.unit else ini == 0x800
  | .syn => ini == 0x800 || ini == 0x801
  | .rstD => if name == "RST_TD" then ini == 0x800 else ini == 0x800 || ini == dcIni l.unit
  | .tstD | .tstI | .tstP => if decide (0x400 ≤ l.off) then ini == 0x800 else ini == 0x800 || ini == 0x808 || isAcina ini
  | .clu | .chk | .eng => true
  | .acn => isAcina ini
  | _ => ini == 0x800

/-- A rejected write is recorded by each island, the first since its reset, and raises event 0x12 (R428). -/
def fwLog (s : State) (ini a : Nat) : State :=
  let one := fun (t : State) (i : Nat) =>
    if t.fb (acnBase i) Fld.ACN_FW_LOG1_VALID then t
    else (t.wr (acnBase i + Reg.ACN_FW_LOG0) (a % 2 ^ 32)).wr (acnBase i + Reg.ACN_FW_LOG1)
      (a / 2 ^ 32 % 2 ^ 16 + ini * 2 ^ 16 + 2 ^ 28)
  (one (one s 0) 1).reportBoth 0x12 0

/-- Is the write refused, and the state after a refusal? -/
def regDenied (s : State) (ini a : Nat) (l : Loc) (spec : Option (RegSpec × Nat × Nat)) : Bool × State :=
  let nm := match spec with | some r => r.1.name | none => ""
  let rwl := match spec with | some r => r.1.hasRwl | none => false
  if (l.blk == .acn || rwl) && !isAcina ini then (true, fwLog s ini a)
  else if rwl then (false, s)
  else if writerOk l nm ini then (false, s)
  else (true, s)

/-- Store a word in a register by its access codes; an offset without a register ignores it (R33). -/
def regStore (s : State) (a v : Nat) (spec : Option (RegSpec × Nat × Nat)) : State :=
  match spec with
  | some r => s.wr a (applyFields r.1.fields (s.rd a) v)
  | none => s

/-- A refused register write is answered with an access-error response (R12); code 0 stands for a request that is not
issued. -/
def accessError (s : State) (ini code : Nat) : State := if code = 0 then s else s.emit "ACCESS_ERROR" ini [code]

/-- A register write that its port admits is handed to `f`. -/
def viaPort (s : State) (ini a : Nat) (f : State → Option (RegSpec × Nat × Nat) → State) : State :=
  let c := accCheck s ini a 4 true
  match c.1 with
  | some e => accessError c.2 ini e
  | none =>
    match locate c.2.part a with
    | none => accessError c.2 ini 1
    | some l =>
      let g := regDenied c.2 ini a l (regAt c.2.part l)
      if g.1 then accessError g.2 ini 1 else f g.2 (regAt c.2.part l)

/-- Split a range at 4 KiB boundaries (R26): address and length of each part. -/
def split4k : (fuel : Nat) → (a n : Nat) → List (Nat × Nat)
  | 0, _, _ => []
  | f + 1, a, n =>
    if n = 0 then []
    else
      let m := min n (4096 - a % 4096)
      (a, m) :: split4k f (a + m) (n - m)

/-- The parts of a range. -/
def parts4k (a n : Nat) : List (Nat × Nat) := split4k (n / 4096 + 2) a n

end Sys2Proof.Machine
end

