-- ==== Sys2Proof/Machine/Bwr.lean ====
section
/-!
DEFINITION. Machine/Bwr.lean: the bandwidth regulators: floors, class floors after a capacity change, the group table
and the registered floors it makes, the writes a regulator ignores, and the order in which a path serves requests (R353
to R365).
-/
namespace Sys2Proof.Machine

open Sys2Proof

/-! ### Path registers -/

def pathArea (d p : Nat) : Nat := bwrBase d + 0x100 + 0x80 * p
def pathCap (s : State) (d p : Nat) : Nat := s.rd (pathArea d p) % 2 ^ 20
def fixAddr (d p r : Nat) : Nat := pathArea d p + 8 + 4 * r
def clsAddr (d p c : Nat) : Nat := pathArea d p + 0x28 + 4 * c
def regAddr (d p c : Nat) : Nat := pathArea d p + 0x48 + 4 * c

/-- How many regulated paths a die has (R354). -/
def pathCount (d : Nat) : Nat := if d < 4 then 11 else if d = 4 then 6 else 1

/-- Σ fixed floors of a path. -/
def fixSum (s : State) (d p : Nat) : Nat := sumN ((List.range 5).map fun r => s.rd (fixAddr d p r) % 2 ^ 20)
/-- Σ class floors of a path as programmed. -/
def clsSum (s : State) (d p : Nat) : Nat := sumN ((List.range 8).map fun c => s.rd (clsAddr d p c) % 2 ^ 20)
def classFloor (s : State) (d p c : Nat) : Nat := s.rd (clsAddr d p c) % 2 ^ 20

/-- Is `need` more than the class floor in force: as programmed, or scaled by (C' − Σ fixed) / Σ class floors when the
capacity no longer covers them (R355, R359)? -/
def aboveFloor (s : State) (d p c need : Nat) : Bool :=
  let cap := pathCap s d p
  let fx := fixSum s d p
  let cs := clsSum s d p
  if fx + cs ≤ cap then decide (classFloor s d p c < need)
  else decide (classFloor s d p c * (cap - fx) < need * cs)

/-! ### The group table (R358) -/

def grpAddr (d g : Nat) : Nat := bwrBase d + 0x1000 + 16 * g

/-- The registered floor of a group on a path, zero where it does not count there. -/
def grpOn (s : State) (d g p : Nat) : Nat :=
  let w0 := s.rd (grpAddr d g)
  let first := bits w0 9 4
  let size := bits w0 16 10
  if !bit w0 0 then 0
  else if p = 0 then s.rd (grpAddr d g + 4) % 2 ^ 20
  else if p = 9 then s.rd (grpAddr d g + 12) % 2 ^ 20
  else if 1 ≤ p ∧ p ≤ 8 ∧ first / 8 ≤ p - 1 ∧ p - 1 ≤ (first + size - 1) / 8 then s.rd (grpAddr d g + 8) % 2 ^ 20
  else 0

/-- S_c of a path: the registered floors of the class-c groups (R359). -/
def regSum (s : State) (d p c : Nat) : Nat :=
  sumN ((List.range 64).map fun g => if bits (s.rd (grpAddr d g)) 3 1 = c then grpOn s d g p else 0)

/-- Is a class pool oversubscribed (R359)? With EN = 0 floors are ignored. -/
def oversub (s : State) (d p c : Nat) : Bool :=
  s.fb (bwrBase d) Fld.BWR_CTL_EN && aboveFloor s d p c (s.rd (regAddr d p c))

/-- A pool that was not oversubscribed before and is now sets SHORTFALL and is counted once. -/
def countShort (before : State) (d : Nat) (s : State) : State :=
  (List.range 10).foldl (fun t p => (List.range 8).foldl (fun u c =>
    if oversub u d p c && !oversub before d p c then
      (u.fs (bwrBase d) Fld.BWR_ERR_SHORTFALL 1).faddSat (bwrBase d) Fld.BWR_SHORT_CNT_COUNT 1
    else u) t) s

/-- The registered floors of every path of a compute die follow its group table. -/
def syncGroups (before s : State) (d : Nat) : State :=
  countShort before d ((List.range 10).foldl (fun t p => (List.range 8).foldl (fun u c =>
    u.wr (regAddr d p c) (regSum u d p c % 2 ^ 24)) t) s)

/-- The table entry of the group whose first core has die index `first`. -/
def findGroup (s : State) (d first : Nat) : Option Nat :=
  (List.range 64).find? fun g => bit (s.rd (grpAddr d g)) 0 && bits (s.rd (grpAddr d g)) 9 4 == first

/-- The floor buckets that `p` picks, by key, start full (R362). -/
def fillBuckets (s : State) (p : Nat → Bool) : State := { s with buckets := kdrop p s.buckets }

/-- The key of a requester's floor bucket on a path: fixed requester `r` for r < 5, group `r` − 64 above. -/
def bucketKey (d p r : Nat) : Nat := 2048 * d + 128 * p + r

/-- Write an entry's four words. -/
def putGroup (s : State) (d g w0 w1 w2 w3 : Nat) : State :=
  let s := fillBuckets s fun k => k / 2048 == d && k % 128 == 64 + g
  syncGroups s ((((s.wr (grpAddr d g) w0).wr (grpAddr d g + 4) w1).wr (grpAddr d g + 8) w2).wr (grpAddr d g + 12) w3) d

/-- A group's entry: class in effect, first core, size and floors; the first free entry takes a new group. -/
def setGroup (s : State) (d first size cls mem clu ring : Nat) : State :=
  let g := match findGroup s d first with
    | some g => some g
    | none => (List.range 64).find? fun g => !bit (s.rd (grpAddr d g)) 0
  match g with
  | some g => putGroup s d g (1 + cls * 2 + first * 16 + size * 1024) (min mem 0xFFFFF) (min clu 0xFFFFF) (min ring 0xFFFFF)
  | none => s

/-- The entry clears when its group leaves RUNNING or LOADING. -/
def dropGroup (s : State) (d first : Nat) : State :=
  match findGroup s d first with
  | some g => putGroup s d g 0 0 0 0
  | none => s

/-- The entry's class is rewritten and its floor moves to the pool of that class (R349, R358). -/
def classGroup (s : State) (d first cls : Nat) : State :=
  match findGroup s d first with
  | some g => syncGroups s (s.wr (grpAddr d g) (setBits (s.rd (grpAddr d g)) 3 1 cls)) d
  | none => s

/-! ### Capacity (R355) -/

/-- A path's capacity changes: CAP is set when the class floors no longer fit, and shortfalls are judged anew. -/
def setCapacity (s : State) (d p cap : Nat) : State :=
  let t := s.wr (pathArea d p) (cap % 2 ^ 20)
  let t := if cap < fixSum t d p + clsSum t d p then t.fs (bwrBase d) Fld.BWR_ERR_CAP 1 else t
  if d < 4 then countShort s d t else t

/-! ### Writes a regulator judges -/

/-- A floor write (R357): one that would break Σ fixed + Σ class ≤ C is ignored and sets CFG. -/
def floorWrite (s : State) (d a v : Nat) (p : Nat) : State :=
  let r := (a - fixAddr d p 0) / 4
  let t := (fillBuckets s fun k => k == bucketKey d p r && decide (r < 5)).wr a (setBits (s.rd a) 19 0 v)
  if fixSum t d p + clsSum t d p ≤ pathCap t d p then (if d < 4 then countShort s d t else t)
  else s.fs (bwrBase d) Fld.BWR_ERR_CFG 1

/-- A write of BWR_URGn: LO ≥ HI is ignored and sets CFG (R364). -/
def urgWrite (s : State) (d a v : Nat) : State :=
  if bits v 13 8 < bits v 5 0 then s.wr a (setBits (setBits (s.rd a) 5 0 (bits v 5 0)) 13 8 (bits v 13 8))
  else s.fs (bwrBase d) Fld.BWR_ERR_CFG 1

/-- The path of a floor register, if the offset is one: BWR_P_FIX or BWR_P_CLS. -/
def floorPath (d off : Nat) : Option Nat :=
  if off < 0x100 then none
  else
    let p := (off - 0x100) / 0x80
    let o := (off - 0x100) % 0x80
    if p < pathCount d ∧ off % 4 = 0 ∧ 8 ≤ o ∧ o < 0x48 ∧ (o < 0x1C ∨ 0x28 ≤ o) then some p else none

/-- A write of a BWR_ register that its port has admitted. -/
def bwrRegWrite (s : State) (d off v : Nat) (spec : Option (RegSpec × Nat × Nat)) : State :=
  let a := bwrBase d + off
  match spec with
  | none => s
  | some _ =>
    match floorPath d off with
    | some p => floorWrite s d a v p
    | none =>
      if 0x40 ≤ off ∧ off < 0x100 then urgWrite s d a v
      else
        let t := regStore s a v spec
        if d < 4 then (if 0x1000 ≤ off then syncGroups s t d else countShort s d t) else t

/-- A write of a floor: fixed requester `r` for r < 5, class r − 5 above. -/
def execBwrFloorWrite (ini d p r : Nat) (v : Word) (s : State) : Host.Outcome State Fault Refusal :=
  let a := if r < 5 then fixAddr d p r else clsAddr d p (r - 5)
  .next (viaPort s ini a fun t spec => bwrRegWrite t d (a - bwrBase d) v.toNat spec)

/-! ### Labels of a request (R41, R244, R356, R364, R491) -/

/-- The run of an attention unit whose requests are on their way. -/
def attRunOf (s : State) (c : Nat) : Option AttRun :=
  let u := getD AttSt.reset s.atts c
  match u.att with | some r => some r | none => u.app

/-- The core of a core's initiators, and the attention unit's cluster. -/
def iniCore (ini : Nat) : Option Nat :=
  if iniDie ini < 4 ∧ ini % 512 < 0x100 then some (64 * iniDie ini + ini % 512 / 4) else none
def iniAtt (ini : Nat) : Option Nat :=
  if iniDie ini < 4 ∧ 0x108 ≤ ini % 512 ∧ ini % 512 < 0x110 then some (8 * iniDie ini + ini % 512 - 0x108) else none

/-- The generation of a requester's innermost domain (R491): a core's, a cluster's for an attention unit, the die's for
its other units, the package's for units of the IOD and the Porch and for requests from outside. -/
def iniGen (s : State) (ini : Nat) : Nat :=
  match iniCore ini, iniAtt ini with
  | some k, _ => s.coreGen k
  | none, some c => s.cluGen c
  | none, none => if 4 ≤ iniDie ini then s.fg rstIBase Fld.RST_PKG_STS_PKG_GEN else s.dieGen (iniDie ini)

/-- The context and generation that an initiator's requests carry: a core's, as its registers name them, and for an
attention unit the posting step's. -/
def iniCtx (s : State) (ini : Nat) : Nat × Nat :=
  match iniCore ini, iniAtt ini with
  | some k, _ => (s.fg (coreBase k) Fld.CORE_CTXT_CTX, s.fg (coreBase k) Fld.CORE_CTXT_CTX_GEN)
  | none, some c => (match attRunOf s c with | some r => (r.post.ctx, r.post.ctxGen) | none => (0, 0))
  | none, none => (0, 0)

/-- The class label of an initiator's requests (R356); a span port's are labelled as they arrived. -/
def iniClass (s : State) (ini : Nat) : Nat :=
  match iniCore ini, iniAtt ini with
  | some k, _ => s.fg (coreBase k) Fld.CORE_STEP_CLASS
  | none, some c => (match attRunOf s c with | some r => r.post.cls | none => 0)
  | none, none =>
    if iniDie ini < 4 then (if ini % 512 = 0x101 ∨ ini % 512 = 0x111 then 0 else 7)
    else if ini = 0x804 ∨ ini = 0x808 then 0
    else if iniDie ini = 4 then 7
    else if iniDie ini = 5 then 6
    else if iniDie ini = 6 then 7
    else s.fg (bwrBase 4) Fld.BWR_HOST_CLASS

/-- Is the urgency wire of source `n` set (R364)? -/
def urgWire (s : State) (n : Nat) : Bool := bit (s.rd (bwrBase (if n < 21 then 5 else 4) + 0x40 + 4 * n)) 14

/-- Does an initiator drive an urgency wire that is set? -/
def iniUrgent (s : State) (ini : Nat) : Bool :=
  if ini = 0xA00 then (List.range 20).any (urgWire s)
  else if ini = 0xA01 then urgWire s 20
  else if ini = 0x806 then urgWire s 21
  else if ini = 0x807 then urgWire s 22
  else false

/-! ### Arbitration (R353, R354, R362, R363)

A path's requesters are its fixed ones, by their number in the table of R354, and the groups of its table, 64 more than
their entry. -/

/-- What a request asks of a path: its initiator, class label, urgency, and the bytes it is charged. -/
structure Charge where
  ini : Nat
  cls : Nat
  urg : Bool
  bytes : Nat
  deriving DecidableEq, Repr

/-- The bytes of a request of `len` data bytes on a path (R353). -/
def chargeBytes (d p len : Nat) (write : Bool) : Nat :=
  let n := if len ≤ 4 then 32 else if write then len else roundUp len 32
  if d < 4 ∧ p = 0 then max 64 n else n

/-- The fixed requester a request belongs to on a path. -/
def fixedReq (d p ini : Nat) : Option Nat :=
  if d < 4 ∧ p = 0 then
    (if 4 ≤ iniDie ini then some 0 else if iniDie ini ≠ d then some 1 else if ini % 512 = 0x101 then some 2 else none)
  else if d < 4 ∧ p = 9 then (if iniDie ini ≠ d then some 0 else none)
  else if d < 4 ∧ p = 10 then
    (if ini % 512 = 0x100 ∨ ini % 512 = 0x110 ∨ ini % 512 = 0x111 then some 0 else none)
  else if d = 4 ∧ p < 4 then
    (if 0xE00 ≤ ini then some 0 else if iniDie ini = 5 then some 1 else if 0x800 ≤ ini ∧ ini ≤ 0x805 then some 2
     else if isAcina ini then some 3 else if ini = 0x806 ∨ ini = 0x807 then some 4 else none)
  else if d = 4 then some (if ini = 0x806 ∨ ini = 0x807 then 0 else 1)
  else if d = 5 ∧ 0xA00 ≤ ini ∧ ini ≤ 0xA02 then some (ini - 0xA00)
  else none

/-- The registered group a request belongs to on its own die: its core's, or the posting core's of an attention unit. -/
def groupReq (s : State) (d p ini : Nat) : Option Nat :=
  let k := match iniCore ini, iniAtt ini with
    | some k, _ => some k
    | none, some c => (attRunOf s c).map fun r => r.post.core
    | none, none => none
  match k with
  | none => none
  | some k =>
    if d < 4 ∧ k / 64 = d then
      (List.range 64).find? fun g =>
        let w := s.rd (grpAddr d g)
        decide (0 < grpOn s d g p) && decide (bits w 9 4 ≤ k % 64) && decide (k % 64 < bits w 9 4 + bits w 16 10)
    else none

/-- The rate in MB/s, which is bytes per µs, that a group is granted on a path (R355, R359). -/
def groupRate (s : State) (d p g : Nat) : Nat :=
  let c := bits (s.rd (grpAddr d g)) 3 1
  let fx := fixSum s d p
  let cs := clsSum s d p
  let f := if fx + cs ≤ pathCap s d p then classFloor s d p c else classFloor s d p c * (pathCap s d p - fx) / cs
  let sc := s.rd (regAddr d p c)
  if sc ≤ f then grpOn s d g p else grpOn s d g p * f / sc

/-- Who a request's floor belongs to, with the granted rate; none where it has no floor, or floors are ignored. -/
def floorOf (s : State) (d p : Nat) (x : Charge) : Option (Nat × Nat) :=
  if !s.fb (bwrBase d) Fld.BWR_CTL_EN then none
  else match fixedReq d p x.ini with
    | some r => if s.rd (fixAddr d p r) % 2 ^ 20 = 0 then none else some (r, s.rd (fixAddr d p r) % 2 ^ 20)
    | none => (groupReq s d p x.ini).map fun g => (64 + g, groupRate s d p g)

/-- Depth of a floor bucket in bytes. -/
def bucketDepth : Nat := 8192

/-- What a floor bucket that fills at `rate` holds now. -/
def bucketLevel (s : State) (key rate : Nat) : Nat :=
  match aget s.buckets key with
  | none => bucketDepth
  | some (l, t) => min bucketDepth (l + rate * (s.nowUs - t))

/-- The requester whose bucket holds the charge of a request (rule 1), with its rate. -/
def holds (s : State) (d p : Nat) (x : Charge) : Option (Nat × Nat) :=
  match floorOf s d p x with
  | some (r, rate) => if x.bytes ≤ bucketLevel s (bucketKey d p r) rate then some (r, rate) else none
  | none => none

/-- The weight of a flow: its class's, with the urgency multiplier (assumption 79: requests of one label and urgency
share a turn, and a turn lasts as many requests as its weight). -/
def flowWeight (s : State) (d flow : Nat) : Nat :=
  let c := flow % 8
  let w := max 1 (bits (s.rd (bwrBase d + (if c < 4 then Reg.BWR_WEIGHT0 else Reg.BWR_WEIGHT1))) (8 * (c % 4) + 7) (8 * (c % 4)))
  if 8 ≤ flow then w * max 1 (s.fg (bwrBase d) Fld.BWR_URG_MULT) else w

def Charge.flow (x : Charge) : Nat := x.cls % 8 + 8 * b2n x.urg

/-- The first of `xs` at or after place `i` of `n`, counted round. -/
def firstFrom (n i : Nat) (p : Nat → Bool) : Option Nat := ((List.range n).map fun j => (i + j) % n).find? p

def turnOf (s : State) (d p : Nat) : PathTurn := getD ⟨0, 0, 0⟩ s.turns (16 * d + p)
def setTurn (s : State) (d p : Nat) (t : PathTurn) : State := { s with turns := setD ⟨0, 0, 0⟩ s.turns (16 * d + p) t }

/-- The path serves a request: under rule 1 its charge leaves the bucket, under rule 2 the turn of its flow advances. -/
def pathServe (s : State) (d p : Nat) (x : Charge) : State :=
  match holds s d p x with
  | some (r, rate) =>
    let key := bucketKey d p r
    setTurn { s with buckets := aput s.buckets key (bucketLevel s key rate - x.bytes, s.nowUs) } d p { turnOf s d p with last := r }
  | none =>
    let t := turnOf s d p
    let left := if t.flow = x.flow ∧ 0 < t.left then t.left - 1 else flowWeight s d x.flow - 1
    setTurn s d p { t with flow := x.flow, left := left }

/-- The place in `xs` of the request the path serves next. -/
def pathPick (s : State) (d p : Nat) (xs : List Charge) : Option Nat :=
  let t := turnOf s d p
  match firstFrom 128 (t.last + 1) fun r => xs.any fun x => match holds s d p x with | some h => h.1 == r | none => false with
  | some r => xs.findIdx? fun x => match holds s d p x with | some h => h.1 == r | none => false
  | none =>
    match firstFrom 16 (t.flow + b2n (t.left == 0)) fun f => xs.any fun x => x.flow == f with
    | some f => xs.findIdx? fun x => x.flow == f
    | none => none

end Sys2Proof.Machine
end

