-- ==== Sys2Proof/Machine/Operands.lean ====
section
/-!
DEFINITION. Machine/Operands.lean: number formats (R47 to R50), exact values, rounding, and the conversions the
engines, the vector units, the checkers and the fusion units share.
-/
namespace Sys2Proof.Machine

/-- An exact value: NaN, a signed infinity, or (−1)^s · m · 2^e. A zero keeps its sign (R72). -/
inductive FVal where
  | nan
  | inf (s : Bool)
  | fin (s : Bool) (m : Nat) (e : Int)
  deriving DecidableEq, Repr

/-- How a floating format treats its largest exponent field. -/
inductive TopExp where
  | ieee | e4m3 | finite
  deriving DecidableEq, Repr

/-- A floating format: mantissa and exponent widths, bias, special encodings (R47). -/
structure FFmt where
  mb : Nat
  eb : Nat
  bias : Nat
  top : TopExp
  deriving DecidableEq, Repr

def fE4M3 : FFmt := ⟨3, 4, 7, .e4m3⟩
def fE5M2 : FFmt := ⟨2, 5, 15, .ieee⟩
def fE2M1 : FFmt := ⟨1, 2, 1, .finite⟩
def fE2M3 : FFmt := ⟨3, 2, 1, .finite⟩
def fE3M2 : FFmt := ⟨2, 3, 3, .finite⟩
def fF16 : FFmt := ⟨10, 5, 15, .ieee⟩
def fBF16 : FFmt := ⟨7, 8, 127, .ieee⟩
def fF32 : FFmt := ⟨23, 8, 127, .ieee⟩
def fF64 : FFmt := ⟨52, 11, 1023, .ieee⟩

/-- The format codes of R47; reserved codes have none. -/
inductive Fmt where
  | int8 | int4 | e4m3 | e5m2 | mxint8 | mxfp4 | e2m3 | e3m2 | fp16 | bf16 | fp32 | int32
  deriving DecidableEq, Repr

def Fmt.ofCode : Nat → Option Fmt
  | 0 => some .int8
  | 1 => some .int4
  | 2 => some .e4m3
  | 3 => some .e5m2
  | 4 => some .mxint8
  | 5 => some .mxfp4
  | 6 => some .e2m3
  | 7 => some .e3m2
  | 8 => some .fp16
  | 9 => some .bf16
  | 10 => some .fp32
  | 11 => some .int32
  | _ => none

/-- Element width in bits (R47). -/
def Fmt.width : Fmt → Nat
  | .int8 | .e4m3 | .e5m2 | .mxint8 => 8
  | .int4 | .mxfp4 => 4
  | .e2m3 | .e3m2 => 6
  | .fp16 | .bf16 => 16
  | .fp32 | .int32 => 32

/-- The floating layout of a format, if it has one. -/
def Fmt.float : Fmt → Option FFmt
  | .e4m3 => some fE4M3
  | .e5m2 => some fE5M2
  | .mxfp4 => some fE2M1
  | .e2m3 => some fE2M3
  | .e3m2 => some fE3M2
  | .fp16 => some fF16
  | .bf16 => some fBF16
  | .fp32 => some fF32
  | _ => none

/-- Microscaling element formats, which take a block scale (R50). -/
def Fmt.isMX : Fmt → Bool
  | .mxint8 | .mxfp4 | .e2m3 | .e3m2 => true
  | _ => false

def Fmt.isFP8 : Fmt → Bool
  | .e4m3 | .e5m2 => true
  | _ => false

/-- Exponent of the least subnormal step. -/
def FFmt.emin (f : FFmt) : Int := 1 - (f.bias : Int) - (f.mb : Int)

/-- Value of a floating bit pattern (R47). -/
def FFmt.decode (f : FFmt) (w : Nat) : FVal :=
  let m := w % 2 ^ f.mb
  let e := w / 2 ^ f.mb % 2 ^ f.eb
  let s := bit w (f.mb + f.eb)
  if f.top = .ieee ∧ e = 2 ^ f.eb - 1 then (if m = 0 then .inf s else .nan)
  else if f.top = .e4m3 ∧ e = 2 ^ f.eb - 1 ∧ m = 2 ^ f.mb - 1 then .nan
  else if e = 0 then .fin s m f.emin
  else .fin s (2 ^ f.mb + m) (f.emin + (e : Int) - 1)

/-- Value of an integer. -/
def ofInt (v : Int) : FVal := .fin (decide (v < 0)) v.natAbs 0

/-- Value of an element of a format, block scale apart (R47, R49). -/
def Fmt.decode (f : Fmt) (w : Nat) : FVal :=
  match f with
  | .int8 => ofInt (toSigned 8 w)
  | .int4 => ofInt (toSigned 4 w)
  | .int32 => ofInt (toSigned 32 w)
  | .mxint8 => let v := toSigned 8 w; .fin (decide (v < 0)) v.natAbs (-6)
  | .e4m3 => fE4M3.decode w
  | .e5m2 => fE5M2.decode w
  | .mxfp4 => fE2M1.decode w
  | .e2m3 => fE2M3.decode w
  | .e3m2 => fE3M2.decode w
  | .fp16 => fF16.decode w
  | .bf16 => fBF16.decode w
  | .fp32 => fF32.decode w

/-- Number of significant bits. -/
def bitLen (m : Nat) : Nat := if m = 0 then 0 else Nat.log2 m + 1

/-- The rounding modes the spec uses: to nearest even, toward zero, away from zero. -/
inductive Rnd where
  | rne | rtz | away
  deriving DecidableEq, Repr

/-- `m / 2^d` rounded to an integer. -/
def roundShift (mode : Rnd) (m d : Nat) : Nat :=
  let q := m / 2 ^ d
  let r := m % 2 ^ d
  if r = 0 then q
  else match mode with
    | .rtz => q
    | .away => q + 1
    | .rne =>
      let h := 2 ^ d / 2
      if h < r ∨ (r = h ∧ q % 2 = 1) then q + 1 else q

/-- Round m · 2^e to `p` significant bits, no bit below 2^emin: the rounded mantissa and its exponent. -/
def roundTo (mode : Rnd) (p : Nat) (emin : Int) (m : Nat) (e : Int) : Nat × Int :=
  if m = 0 then (0, emin)
  else
    let q := max emin (e + (bitLen m : Int) - (p : Int))
    if q ≤ e then (m * 2 ^ (e - q).toNat, q) else (roundShift mode m (q - e).toNat, q)

/-- Is m · 2^e below 2^k? -/
def below (m : Nat) (e k : Int) : Bool :=
  if m = 0 then true else decide (e + (bitLen m : Int) ≤ k)

/-- Exclusive upper power of two of a format's finite values with IEEE specials. -/
def FFmt.etop (f : FFmt) : Int := 2 ^ f.eb - 1 - (f.bias : Int)

/-- Round an exact value to a format with IEEE specials; overflow gives ±Inf. -/
def FFmt.round (f : FFmt) (mode : Rnd) : FVal → FVal
  | .nan => .nan
  | .inf s => .inf s
  | .fin s m e =>
    let r := roundTo mode (f.mb + 1) f.emin m e
    if below r.1 r.2 f.etop then .fin s r.1 r.2 else .inf s

/-- The canonical quiet NaN pattern of a format: 0x7F, 0x7E00, 0x7FC0, 0x7FC0_0000 (R66, R73). -/
def FFmt.nanBits (f : FFmt) : Nat :=
  match f.top with
  | .ieee => (2 ^ f.eb - 1) * 2 ^ f.mb + (if f.eb = 5 ∧ f.mb = 2 then 3 else 2 ^ (f.mb - 1))
  | _ => 2 ^ (f.eb + f.mb) - 1

/-- Bit pattern of a value that the format holds exactly. -/
def FFmt.encode (f : FFmt) : FVal → Nat
  | .nan => f.nanBits
  | .inf s => b2n s * 2 ^ (f.mb + f.eb) + (2 ^ f.eb - 1) * 2 ^ f.mb
  | .fin s m e =>
    let sg := b2n s * 2 ^ (f.mb + f.eb)
    if m = 0 then sg
    else
      let sh := (bitLen m : Int) - (f.mb + 1 : Nat)
      -- the mantissa brought to mb + 1 bits, or to the subnormal step
      let e' := max f.emin (e + sh)
      let m' := if e' ≤ e then m * 2 ^ (e - e').toNat else m / 2 ^ (e' - e).toNat
      if m' < 2 ^ f.mb then sg + m'
      else sg + (e' - f.emin + 1).toNat * 2 ^ f.mb + (m' - 2 ^ f.mb)

/-- binary32 value of a pattern, and the pattern of a value rounded to binary32 with RNE. -/
def dec32 (w : Nat) : FVal := fF32.decode w
def enc32 (v : FVal) : Nat := fF32.encode (fF32.round .rne v)
def dec64 (w : Nat) : FVal := fF64.decode w
def enc64 (v : FVal) : Nat := fF64.encode (fF64.round .rne v)

/-! ### Exact arithmetic -/

/-- A signed integer mantissa. -/
def sgn (s : Bool) (m : Nat) : Int := if s then -(m : Int) else (m : Int)

/-- Exact product; Inf × 0 is NaN (R66). -/
def FVal.mul : FVal → FVal → FVal
  | .nan, _ => .nan
  | _, .nan => .nan
  | .inf s, .inf t => .inf (s ^^ t)
  | .inf s, .fin t m _ => if m = 0 then .nan else .inf (s ^^ t)
  | .fin s m _, .inf t => if m = 0 then .nan else .inf (s ^^ t)
  | .fin s m e, .fin t n f => .fin (s ^^ t) (m * n) (e + f)

/-- Exact sum; +Inf and −Inf give NaN (R66). A zero sum is +0 unless both terms are −0. -/
def FVal.add : FVal → FVal → FVal
  | .nan, _ => .nan
  | _, .nan => .nan
  | .inf s, .inf t => if s = t then .inf s else .nan
  | .inf s, .fin _ _ _ => .inf s
  | .fin _ _ _, .inf t => .inf t
  | .fin s m e, .fin t n f =>
    let g := min e f
    let v := sgn s m * (2 ^ (e - g).toNat : Nat) + sgn t n * (2 ^ (f - g).toNat : Nat)
    if v = 0 then .fin (s && t && decide (m = 0) && decide (n = 0)) 0 g
    else .fin (decide (v < 0)) v.natAbs g

def FVal.neg : FVal → FVal
  | .nan => .nan
  | .inf s => .inf !s
  | .fin s m e => .fin (!s) m e

def FVal.sub (a b : FVal) : FVal := a.add b.neg

def FVal.abs : FVal → FVal
  | .nan => .nan
  | .inf _ => .inf false
  | .fin _ m e => .fin false m e

def FVal.isNan : FVal → Bool
  | .nan => true
  | _ => false

def FVal.isInf : FVal → Bool
  | .inf _ => true
  | _ => false

def FVal.isZero : FVal → Bool
  | .fin _ m _ => decide (m = 0)
  | _ => false

/-- Strict order of values; false where either is NaN. -/
def FVal.lt (a b : FVal) : Bool :=
  match a, b with
  | .nan, _ => false
  | _, .nan => false
  | .inf s, .inf t => s && !t
  | .inf s, .fin _ _ _ => s
  | .fin _ _ _, .inf t => !t
  | .fin s m e, .fin t n f =>
    let g := min e f
    decide (sgn s m * (2 ^ (e - g).toNat : Nat) < sgn t n * (2 ^ (f - g).toNat : Nat))

/-- Order of values; false where either is NaN. -/
def FVal.le (a b : FVal) : Bool := !a.isNan && !b.isNan && !b.lt a

/-- Exact sum of a list, +0 when empty. -/
def sumF (xs : List FVal) : FVal :=
  match xs with
  | [] => .fin false 0 0
  | x :: xs => xs.foldl FVal.add x

/-- A power of two as an exact value. -/
def pow2 (e : Int) : FVal := .fin false 1 e

/-- The block scale of an E8M0 byte; 0xFF marks the block as NaN (R50). -/
def e8m0 (x : Nat) : FVal := if x = 255 then .nan else pow2 ((x : Int) - 127)

/-- The binary32 rounding of the quotient a / b of two positive naturals times 2^e, upward (R436). -/
def quotUp32 (a b : Nat) (e : Int) : FVal :=
  if a = 0 ∨ b = 0 then .fin false 0 0
  else
    -- scale so that the integer quotient has more than 26 bits, then make any remainder sticky
    let k := 64 + bitLen b
    let q := a * 2 ^ k / b
    let st := if a * 2 ^ k % b = 0 then 0 else 1
    fF32.round .away (.fin false (2 * q + st) (e - (k : Int) - 1))

/-- The RNE binary32 quotient of two exact finite values (b not zero), through a sticky bit. -/
def divF (f : FFmt) (a b : FVal) : FVal :=
  match a, b with
  | .nan, _ => .nan
  | _, .nan => .nan
  | .inf _, .inf _ => .nan
  | .inf s, .fin t _ _ => .inf (s ^^ t)
  | .fin s _ _, .inf t => .fin (s ^^ t) 0 0
  | .fin s m e, .fin t n g =>
    if n = 0 then (if m = 0 then .nan else .inf (s ^^ t))
    else if m = 0 then .fin (s ^^ t) 0 0
    else
      let k := 128 + bitLen n
      let q := m * 2 ^ k / n
      let st := if m * 2 ^ k % n = 0 then 0 else 1
      f.round .rne (.fin (s ^^ t) (2 * q + st) (e - g - (k : Int) - 1))

/-- Integer square root by bisection on `fuel` bits. -/
def isqrtGo : (fuel : Nat) → (n r : Nat) → Nat
  | 0, _, r => r
  | b + 1, n, r =>
    let c := r + 2 ^ b
    isqrtGo b n (if c * c ≤ n then c else r)

def isqrt (n : Nat) : Nat := isqrtGo (bitLen n / 2 + 1) n 0

/-- The RNE square root of a value in a format; NaN for a negative operand. -/
def sqrtF (f : FFmt) : FVal → FVal
  | .nan => .nan
  | .inf s => if s then .nan else .inf false
  | .fin s m e =>
    if m = 0 then .fin s 0 0
    else if s then .nan
    else
      let k : Nat := if e % 2 = 0 then 256 else 257
      let r := isqrt (m * 2 ^ k)
      let st := if r * r = m * 2 ^ k then 0 else 1
      f.round .rne (.fin false (2 * r + st) ((e - (k : Int)) / 2 - 1))

/-- An exact value rounded to an integer, halves away from zero or to even by mode; NaN and Inf give none. -/
def toIntR (mode : Rnd) : FVal → Option Int
  | .fin s m e =>
    let n := if 0 ≤ e then m * 2 ^ e.toNat else roundShift mode m (-e).toNat
    some (sgn s n)
  | _ => none

/-- Clamp an integer. -/
def clampI (lo hi v : Int) : Int := if v < lo then lo else if hi < v then hi else v

/-! ### Output conversion (R71 to R75) -/

/-- Largest finite mantissa and exponent of an output float format. -/
def FFmt.maxFinite (f : FFmt) : Nat × Int :=
  match f.top with
  | .e4m3 => (14, 5)          -- 448 = 1.75 · 2^8
  | _ => (2 ^ (f.mb + 1) - 1, f.etop - (f.mb + 1 : Nat))

/-- Is the magnitude m · 2^e above the largest finite value? -/
def FFmt.exceeds (f : FFmt) (m : Nat) (e : Int) : Bool :=
  (FVal.fin false f.maxFinite.1 f.maxFinite.2).lt (.fin false m e)

/-- What an overflow or an Inf becomes: saturated, Inf, or NaN for E4M3 (R73). The flag is OSAT. -/
def FFmt.overflow (f : FFmt) (sat s : Bool) : Nat :=
  if sat then f.encode (.fin s f.maxFinite.1 f.maxFinite.2)
  else match f.top with
    | .ieee => f.encode (.inf s)
    | _ => f.nanBits

/-- A rounded magnitude as an output pattern, with its OSAT flag (R72, R73). -/
def FFmt.finish (f : FFmt) (sat s : Bool) (r : Nat × Int) : Nat × Bool :=
  if f.exceeds r.1 r.2 then (f.overflow sat s, true) else (f.encode (.fin s r.1 r.2), false)

/-- Is the magnitude below the smallest normal value (and not zero)? -/
def FFmt.isSubMag (f : FFmt) (m : Nat) (e : Int) : Bool :=
  !decide (m = 0) && below m e (f.emin + (f.mb : Int))

/-- Conversion of a binary32 value to a floating output format under RNE or RTZ (R71 to R73): pattern and OSAT. -/
def FFmt.convert (f : FFmt) (mode : Rnd) (sat ftz : Bool) (v : FVal) : Nat × Bool :=
  match v with
  | .nan => (f.nanBits, false)
  | .inf s =>
    if f = fF32 then (f.encode (.inf s), false)
    else (f.overflow sat s, sat || decide (f.top = .e4m3))
  | .fin s m e =>
    if ftz && f.isSubMag m e then (f.encode (.fin s 0 0), false)
    else if f = fF32 then (f.encode v, false)
    else f.finish sat s (roundTo mode (f.mb + 1) f.emin m e)

/-- Stochastic rounding (R75): a draw is needed when the value is not on the format's grid, and for every finite value
above the largest finite one. -/
def FFmt.srInexact (f : FFmt) (v : FVal) : Bool :=
  match v with
  | .fin _ m e =>
    -- the step of the format's largest binade is carried on above it
    let q := min (max f.emin (e + (bitLen m : Int) - (f.mb + 1 : Nat))) f.maxFinite.2
    f.exceeds m e || (!decide (m = 0) && decide (e < q) && !decide (m % 2 ^ (q - e).toNat = 0))
  | _ => false

/-- Stochastic rounding with the 16-bit draw `r` (R75): pattern and OSAT. -/
def FFmt.convertSR (f : FFmt) (sat ftz : Bool) (r : Nat) (v : FVal) : Nat × Bool :=
  match v with
  | .fin s m e =>
    if ftz && f.isSubMag m e then (f.encode (.fin s 0 0), false)
    else if f.srInexact v then
      let q := min (max f.emin (e + (bitLen m : Int) - (f.mb + 1 : Nat))) f.maxFinite.2
      let d := (q - e).toNat
      let lo := m / 2 ^ d
      let fr := (m % 2 ^ d) * 2 ^ 16 / 2 ^ d
      f.finish sat s (if r < fr then lo + 1 else lo, q)
    else f.finish sat s (m, e)
  | _ => f.convert .rne sat ftz v

/-- Conversion to INT8 (R73): pattern and OSAT. -/
def convInt8 (mode : Rnd) (v : FVal) : Nat × Bool :=
  match v with
  | .nan => (0, true)
  | .inf s => (if s then 128 else 127, true)
  | .fin _ _ _ =>
    match toIntR mode v with
    | some n => (ofSigned 8 (clampI (-128) 127 n), decide (n < -128) || decide (127 < n))
    | none => (0, true)

/-- ⌊log2⌋ of a positive exact magnitude. -/
def log2Mag (m : Nat) (e : Int) : Int := e + (bitLen m : Int) - 1

end Sys2Proof.Machine
end

