-- ==== Sys2Proof/Machine/Image.lean ====
section
/-!
DEFINITION. Machine/Image.lean: the fields of a registered step image, read from its bytes in DRAM, the checks of its
registration, and the times Threshold computes from it (R135 to R151, R300 to R302).
-/
namespace Sys2Proof.Machine

open Sys2Proof

/-! ### Bytes at a package address -/

/-- The raw address of a DRAM address in either view. -/
def physOf (s : State) (a : Nat) : Nat :=
  if 0x004000000000 ≤ a ∧ a < 0x004800000000 then (match ilRaw s a with | some r => r | none => a) else a

/-- `n` bytes at a DRAM address, granule by granule. -/
def pkgBytes (s : State) (a n : Nat) : List Byte := (List.range n).map fun i => s.mb (physOf s (a + i))
def pkgNat (s : State) (a n : Nat) : Nat := leNat (pkgBytes s a n)

/-! ### Header, section table, sections (R137, R140) -/

/-- An image's place. -/
def imgAddr (s : State) (h : Nat) : Nat := match aget s.images h with | some i => i.addr | none => 0
def imgSize (s : State) (h : Nat) : Nat := match aget s.images h with | some i => i.size | none => 0

/-- The number in bytes [off, off + n) of the image at address `a`. -/
def imf (s : State) (a off n : Nat) : Nat := pkgNat s (a + off) n

def imgNsect (s : State) (a : Nat) : Nat := imf s a 6 2
def imgGroup (s : State) (a : Nat) : Nat := imf s a 16 1
def imgFlags (s : State) (a : Nat) : Nat := imf s a 17 1
def imgGolden (s : State) (a : Nat) : Bool := bit (imgFlags s a) 0
def imgBwd (s : State) (a : Nat) : Bool := bit (imgFlags s a) 1
def imgAttn (s : State) (a : Nat) : Bool := bit (imgFlags s a) 2
def imgStreams (s : State) (a : Nat) : Bool := bit (imgFlags s a) 3
def imgArgSize (s : State) (a : Nat) : Nat := imf s a 18 2
def imgEntry (s : State) (a : Nat) : Nat := imf s a 20 4
def imgArgOff (s : State) (a : Nat) : Nat := imf s a 24 4
def imgCmUse (s : State) (a : Nat) : Nat := imf s a 28 4
def imgScrUse (s : State) (a : Nat) : Nat := imf s a 32 4
def imgLndUse (s : State) (a : Nat) : Nat := imf s a 36 4

/-- A section: type, offset, size, record count. -/
structure Sect where
  type : Nat
  off : Nat
  size : Nat
  count : Nat
  deriving DecidableEq, Repr

def imgSect (s : State) (a i : Nat) : Sect :=
  let b := 64 + 16 * i
  ⟨imf s a b 1, imf s a (b + 4) 4, imf s a (b + 8) 4, imf s a (b + 12) 4⟩

def imgSects (s : State) (a : Nat) : List Sect := (List.range (imgNsect s a)).map (imgSect s a)

/-- The section of a type, empty where the image has none. -/
def imgFind (s : State) (a type : Nat) : Sect := ((imgSects s a).find? fun x => x.type == type).getD ⟨type, 0, 0, 0⟩

/-- A binding record (R142). -/
structure Binding where
  kind : Nat
  home : Nat
  align : Nat
  size : Nat
  deriving DecidableEq, Repr

def imgBindings (s : State) (a : Nat) : List Binding :=
  let x := imgFind s a 2
  (List.range x.count).map fun i =>
    let o := x.off + 32 * i
    ⟨imf s a o 1, imf s a (o + 1) 1, imf s a (o + 2) 1, imf s a (o + 8) 8⟩

/-- A stream declaration (R146). -/
structure StrDecl where
  key : Nat
  role : Nat
  member : Nat
  mover : Nat
  slots : Nat
  slotsz : Nat
  ring : Nat
  base : Nat
  deriving DecidableEq, Repr

def imgStrDecls (s : State) (a : Nat) : List StrDecl :=
  let x := imgFind s a 5
  (List.range x.count).map fun i =>
    let o := x.off + 16 * i
    ⟨imf s a o 2, imf s a (o + 2) 1, imf s a (o + 3) 1, imf s a (o + 4) 1, imf s a (o + 5) 1, imf s a (o + 6) 1,
     imf s a (o + 7) 1, imf s a (o + 8) 4⟩

/-- A semaphore declaration (R147). -/
structure SemDecl where
  slot : Nat
  use : Nat
  hold : Nat
  deriving DecidableEq, Repr

def imgSems (s : State) (a : Nat) : List SemDecl :=
  let x := imgFind s a 6
  (List.range x.count).map fun i =>
    let o := x.off + 8 * i
    ⟨imf s a o 2, imf s a (o + 2) 1, imf s a (o + 4) 4⟩

/-- NW: SEMS records whose USE has the wait bit (R300). -/
def imgNw (s : State) (a : Nat) : Nat := ((imgSems s a).filter fun d => bit d.use 0).length

/-! ### The bound record (R148) -/

def imgBoundOff (s : State) (a : Nat) : Nat := (imgFind s a 7).off
def imgBoundNs (s : State) (a : Nat) : Nat := imf s a (imgBoundOff s a) 4
def imgMinClk (s : State) (a : Nat) : Nat := imf s a (imgBoundOff s a + 4) 2
def imgNphase (s : State) (a : Nat) : Nat := imf s a (imgBoundOff s a + 6) 2
def imgLongest (s : State) (a : Nat) : Nat := imf s a (imgBoundOff s a + 8) 4
def imgSaveBytes (s : State) (a : Nat) : Nat := imf s a (imgBoundOff s a + 12) 4
def imgSaveNs (s : State) (a : Nat) : Nat := imf s a (imgBoundOff s a + 16) 4
def imgRho (s : State) (a : Nat) : Nat := imf s a (imgBoundOff s a + 24) 2

/-- A path entry: code, floor, bytes. -/
structure PathEnt where
  code : Nat
  floor : Nat
  bytes : Nat
  deriving DecidableEq, Repr

/-- A phase of the bound (R148). -/
structure PhaseRec where
  cycles : Nat
  rtrips : Nat
  lat : Nat
  paths : List PathEnt
  deriving DecidableEq, Repr

/-- The phases from offset `o` on, each 16 + 16 × NPATH bytes. -/
def phasesFrom (s : State) (a : Nat) : (n : Nat) → (o : Nat) → List PhaseRec
  | 0, _ => []
  | n + 1, o =>
    let np := imf s a (o + 6) 1
    let es := (List.range np).map fun i =>
      let p := o + 16 + 16 * i
      (⟨imf s a p 1, imf s a (p + 4) 4, imf s a (p + 8) 8⟩ : PathEnt)
    ⟨imf s a o 4, imf s a (o + 4) 2, imf s a (o + 8) 4, es⟩ :: phasesFrom s a n (o + 16 + 16 * np)

def imgPhases (s : State) (a : Nat) : List PhaseRec := phasesFrom s a (imgNphase s a) (imgBoundOff s a + 64)

/-- Codes of R149 and those whose time is divided by ρ. -/
def pathCodeOk (c : Nat) : Bool := decide (1 ≤ c) && decide (c ≤ 7)
def pathDram (c : Nat) : Bool := decide (1 ≤ c) && decide (c ≤ 4)

/-! ### CRC-32C (R137) -/

def crcStep : (n : Nat) → Nat → Nat
  | 0, c => c
  | n + 1, c => crcStep n (if c % 2 = 1 then Nat.xor (c / 2) 0x82F63B78 else c / 2)

/-- CRC-32C of bytes: Castagnoli, reflected, initial and final value all ones. -/
def crc32c (bs : List Byte) : Nat :=
  Nat.xor (bs.foldl (fun c b => crcStep 8 (Nat.xor c b.toNat)) 0xFFFFFFFF) 0xFFFFFFFF

/-! ### The bound sum (R151) -/

/-- A fraction of nanoseconds, numerator over a positive denominator. -/
abbrev Frac := Nat × Nat

def fracMax (a b : Frac) : Frac := if a.1 * b.2 < b.1 * a.2 then b else a
def fracAdd (a b : Frac) : Frac := (a.1 * b.2 + b.1 * a.2, a.2 * b.2)

/-- A path entry's time, if finite. -/
def entryTime (rho : Nat) (e : PathEnt) : Option Frac :=
  if e.bytes = 0 then some (0, 1)
  else if e.floor = 0 then none
  else if pathDram e.code then (if rho = 0 then none else some (e.bytes * 1000 * 65536, e.floor * rho))
  else some (e.bytes * 1000, e.floor)

/-- T_p. -/
def phaseTime (minClk rho : Nat) (p : PhaseRec) : Option Frac :=
  (p.paths.foldl (fun (acc : Option Frac) e =>
    match acc, entryTime rho e with
    | some x, some y => some (fracMax x y)
    | _, _ => none) (some (p.cycles * 1000, minClk))).map fun t => fracAdd t (p.rtrips * p.lat, 1)

/-- ⌈Σ T_p⌉, if finite. -/
def boundSum (minClk rho : Nat) (ps : List PhaseRec) : Option Nat :=
  (ps.foldl (fun (acc : Option Frac) p =>
    match acc, phaseTime minClk rho p with
    | some x, some y => some (fracAdd x y)
    | _, _ => none) (some (0, 1))).map fun t => cdiv t.1 t.2

/-! ### Registration checks (R135): the DETAIL of BAD_IMAGE, 0 for an image that passes -/

def headerOk (s : State) (a size : Nat) : Bool :=
  let g := imgGroup s a
  decide (imf s a 0 4 = 0x50455453) && decide (imf s a 4 2 = 0x0100) && decide (imf s a 8 4 = size)
    && decide (size % 256 = 0) && decide (4096 ≤ size) && decide (size ≤ 0x4000000)
    && decide (3 ≤ imgNsect s a) && decide (imgNsect s a ≤ 16)
    && decide (1 ≤ g) && decide (g ≤ 64) && (decide (g ≤ 8) || decide (g % 8 = 0)) && decide (imgFlags s a / 16 = 0)
    && decide (imgArgSize s a % 4 = 0) && decide (imgArgSize s a ≤ 4096)
    && decide (imgEntry s a % 8 = 0) && decide (imgArgOff s a % 64 = 0)
    && decide (4096 ≤ imgCmUse s a) && decide (imgCmUse s a ≤ 0x100000)
    && decide (imgScrUse s a % 64 = 0) && decide (imgScrUse s a ≤ 0x20000) && decide (imgLndUse s a ≤ 0x400000)
    && (!imgAttn s a || decide (imgLndUse s a ≤ 4186112))
    && decide (imf s a 48 16 = 0) && decide (imgEntry s a < imgCmUse s a)
    && decide (imgArgOff s a + imgArgSize s a ≤ imgCmUse s a)

/-- Record sizes of the section types; none for those without one. -/
def recSize (t : Nat) : Option Nat :=
  match t with | 2 => some 32 | 3 => some 8 | 4 => some 48 | 5 => some 16 | 6 => some 8 | _ => none

/-- Least and most records of a section type (R140). -/
def recRange (t : Nat) : Nat × Nat :=
  match t with | 2 => (1, 64) | 3 => (0, 65536) | 4 => (0, 4096) | 5 => (1, 64) | _ => (0, 64)

/-- One section's table entry. A section may not lie in the header or the section table, which R137 places before the
sections; the model refuses it with DETAIL 2 (assumption 40). -/
def sectOk (s : State) (a size : Nat) (x : Sect) : Bool :=
  decide (1 ≤ x.type) && decide (x.type ≤ 7) && decide (x.off % 256 = 0) && decide (x.off + x.size ≤ size)
    && decide (64 + 16 * imgNsect s a ≤ x.off)
    && (match recSize x.type with
        | some n => decide (x.size = n * x.count) && decide ((recRange x.type).1 ≤ x.count)
            && decide (x.count ≤ (recRange x.type).2)
        | none => if x.type = 1 then decide (x.count = 0) && decide (x.size = imgCmUse s a)
            else decide (x.count = imf s a (x.off + 6) 2)
              && decide (x.size = 64 + sumN ((imgPhases s a).map fun p => 16 + 16 * p.paths.length)))

/-- No two sections overlap or share a type. -/
def sectsApart : List Sect → Bool
  | [] => true
  | x :: xs => xs.all (fun y => !(x.type == y.type) && !meets x.off x.size y.off y.size) && sectsApart xs

def sectTableOk (s : State) (a size : Nat) : Bool :=
  let xs := imgSects s a
  let has := fun t => xs.any fun x => x.type == t
  xs.all (sectOk s a size) && sectsApart xs && has 1 && has 2 && has 7 && (has 5 == imgStreams s a)
    && (List.range (imgNsect s a)).all fun i => decide (imf s a (65 + 16 * i) 3 = 0)

def bindingOk (s : State) (a i : Nat) (b : Binding) : Bool :=
  decide (b.kind ≤ 5) && decide (b.home ≤ 2) && decide (6 ≤ b.align) && decide (b.align ≤ 30)
    && decide (64 ≤ b.size) && decide (b.size ≤ 2 ^ 35)
    && decide (imf s a ((imgFind s a 2).off + 32 * i + 3) 5 = 0) && decide (imf s a ((imgFind s a 2).off + 32 * i + 20) 12 = 0)
    && (!(b.kind == 5) || (b.home == 0 && decide (b.size % 4 = 0) && decide (b.size ≤ 16384)))

def strDeclOk (s : State) (a : Nat) (d : StrDecl) : Bool :=
  decide (d.role ≤ 1) && decide (d.member < imgGroup s a) && decide (d.mover ≤ 1)
    && (if d.role = 1 then decide (2 ≤ d.slots) && decide (d.slots ≤ 64) && decide (1 ≤ d.slotsz) && decide (d.slotsz ≤ 64)
          && decide (d.base % 256 = 0) && decide (d.ring < 32)
        else decide (d.slots = 0) && decide (d.slotsz = 0) && decide (d.ring = 0) && decide (d.base = 0))

/-- SLOT values are 0 to COUNT − 1, each once (R147). -/
def semsOk (ds : List SemDecl) : Bool :=
  ds.all (fun d => decide (d.slot < ds.length) && decide (d.use < 8)) && (ds.map (·.slot)).Nodup

/-- Does every byte of a range hold 0? -/
def imgZero (s : State) (a off n : Nat) : Bool := decide (imf s a off n = 0)

/-- The reserved bytes of the phase records from offset `o` on are 0 (R148). -/
def phasesZero (s : State) (a : Nat) : (n : Nat) → (o : Nat) → Bool
  | 0, _ => true
  | n + 1, o =>
    let np := imf s a (o + 6) 1
    imgZero s a (o + 7) 1 && imgZero s a (o + 12) 4 && (List.range np).all (fun i => imgZero s a (o + 17 + 16 * i) 3)
      && phasesZero s a n (o + 16 + 16 * np)

/-- The reserved bytes of the bound record are 0 (R148). -/
def boundZero (s : State) (a : Nat) : Bool :=
  imgZero s a (imgBoundOff s a + 26) 38 && phasesZero s a (imgNphase s a) (imgBoundOff s a + 64)

/-- The reserved bytes of stream and semaphore declarations are 0 (R146, R147). -/
def declsZero (s : State) (a : Nat) : Bool :=
  let x := imgFind s a 5
  let y := imgFind s a 6
  (List.range x.count).all (fun i => imgZero s a (x.off + 16 * i + 12) 4)
    && (List.range y.count).all fun i => imgZero s a (y.off + 8 * i + 3) 1

/-- A weight layout record (R145). -/
def weightOk (s : State) (a i : Nat) : Bool :=
  let f := fun o n => imf s a ((imgFind s a 4).off + 48 * i + o) n
  (match (imgBindings s a)[f 0 2]? with | some b => b.kind == 2 || b.kind == 3 | none => false)
    && (Fmt.ofCode (f 2 1)).isSome && decide (f 3 1 < 4) && decide (1 ≤ f 4 4) && decide (0 < f 12 4) && decide (f 12 4 % 32 = 0)
    && decide (f 8 4 % f 12 4 = 0) && (bit (f 3 1) 0 || decide (f 24 8 = 0)) && (bit (f 3 1) 1 || decide (f 32 8 = 0))
    && decide (f 40 8 = 0)

def phaseOk (p : PhaseRec) : Bool := decide (p.paths.length ≤ 8) && p.paths.all fun e => pathCodeOk e.code

/-- The save size is that of some number of banks from 0 to 32 (R150). -/
def saveOk (s : State) (a : Nat) : Bool :=
  let base := 4096 + imgCmUse s a + 4 * imgScrUse s a
  decide (base ≤ imgSaveBytes s a) && decide ((imgSaveBytes s a - base) % 2048 = 0) && decide (imgSaveBytes s a - base ≤ 65536)

def sectionsOk (s : State) (a : Nat) : Bool :=
  let ps := imgPhases s a
  let bs := imgBindings s a
  ((List.range bs.length).zip bs).all (fun p => bindingOk s a p.1 p.2) && (imgStrDecls s a).all (strDeclOk s a)
    && declsZero s a && (List.range (imgFind s a 4).count).all (weightOk s a) && boundZero s a
    && semsOk (imgSems s a) && decide (1 ≤ imgNphase s a) && decide (imgNphase s a ≤ 256) && ps.all phaseOk
    && decide (800 ≤ imgMinClk s a) && decide (imgMinClk s a ≤ 2200) && decide (imgRho s a ≤ 56140) && saveOk s a

/-- DETAIL of BAD_IMAGE: 1 header, 2 section table, 3 section, 4 CRC, 5 bound sum; 0 when every check passes. -/
def imageCheck (s : State) (a size : Nat) : Nat :=
  if !headerOk s a size then 1
  else if !sectTableOk s a size then 2
  else if !sectionsOk s a then 3
  else if crc32c (pkgBytes s (a + 16) (size - 16)) ≠ imf s a 12 4 then 4
  else match boundSum (imgMinClk s a) (imgRho s a) (imgPhases s a) with
    | none => 5
    | some n => if imgBoundNs s a < n then 5 else 0

/-! ### Charge, load time and pre-emption cost (R300 to R302) -/

/-- L in ns. -/
def loadNs (s : State) (a : Nat) : Nat := 3000 + cdiv (5 * imgCmUse s a) 128 + 10 * (imgFind s a 3).count

/-- E in µs. -/
def chargeUs (s : State) (a : Nat) : Nat :=
  cdiv (2000 + s.fg admBase Fld.ADM_QMAX_NS + loadNs s a + imgBoundNs s a
    + imgNw s a * s.fg admBase Fld.ADM_HOLD_NS + 2000) 1000

/-- Q in ns, computed at registration. -/
def preemptNs (s : State) (a : Nat) : Nat :=
  cdiv (imgLongest s a * 1000) (imgMinClk s a) + imgSaveNs s a + cdiv (imgLndUse s a * 1000) 51200 + 1000

/-! ### Floors of a step (R358, R361) -/

/-- Sum of a phase's floors on the regulated path `p`; `ringAll` counts stream entries on the ring. -/
def phaseFloor (s : State) (p : PhaseRec) (path : Nat) (ringAll : Bool) : Nat :=
  let n := s.part.dies
  sumN (p.paths.map fun e =>
    if path = 0 then (if e.code = 1 ∨ e.code = 4 then e.floor else if e.code = 3 then cdiv e.floor n else 0)
    else if path = 9 then
      (if e.code = 2 then e.floor else if e.code = 3 then cdiv (e.floor * (n - 1)) n
       else if e.code = 7 ∧ ringAll then e.floor else 0)
    else if e.code = 5 then e.floor else 0)

/-- The registered floor of an image on a path: the largest over its phases. -/
def regFloor (s : State) (a path : Nat) (ringAll : Bool) : Nat :=
  (imgPhases s a).foldl (fun m p => max m (phaseFloor s p path ringAll)) 0

/-- Is every core-port entry (path code 0x06) within 102,400 MB/s (R354, R361)? -/
def corePortOk (s : State) (a : Nat) : Bool :=
  (imgPhases s a).all fun p => decide (sumN (p.paths.map fun e => if e.code = 6 then e.floor else 0) ≤ 102400)

end Sys2Proof.Machine
end

