-- ==== Sys2Proof/Machine/Place.lean ====
section
/-!
DEFINITION. Machine/Place.lean: where a step may run: the calendar of bookings, candidate groups in scan order, free
cores and resources, the fit of a booking, and the re-placement of bookings when a core leaves service (R303 to R320).
-/
namespace Sys2Proof.Machine

open Sys2Proof

/-! ### Services and cores -/

/-- Is the die in service: fitted, out of reset, its die controller running (R117)? -/
def dieInService (s : State) (d : Nat) : Bool :=
  s.part.fitted d && !dieHeld s d && s.fb (dieBase d) Fld.CLU_DC_STS_DC_RUN

/-- May a step be placed on the core (R315): not fenced, enabled, in service, its cluster not kept in Doze? -/
def coreUsable (s : State) (k : Nat) : Bool :=
  dieInService s (k / 64) && !s.fb (coreBase k) Fld.CORE_CTL_FENCE
    && bit (s.fg (cluBase (k / 8)) Fld.CLU_CTL_CORE_EN) (k % 8)
    && bit (s.fg (dieBase (k / 64)) Fld.CLU_DIE_CTL_CLUSTER_EN) (k / 8 % 8)
    && s.fg (chkBase k) Fld.CHK_QSTS_STATE == 0 && !s.dozeHold.contains (k / 8)

/-! ### Steps and their cores -/

/-- Every step command with its record, by tag. -/
def steps (s : State) : List (Nat × Cmd × StepRec) :=
  s.cmds.filterMap fun e => e.2.step.map fun r => (e.1, e.2, r)

/-- Is the step on its cores now? -/
def onCores (c : Cmd) : Bool := c.phase == .running || c.phase == .loading

/-- The image address of a step. -/
def stepImg (s : State) (r : StepRec) : Nat := imgAddr s r.image

/-- The clusters a group of cores occupies. -/
def clustersOf (cores : List Nat) : List Nat := (cores.map (· / 8)).eraseDups

def needsLnd (s : State) (r : StepRec) : Bool := decide (0 < imgLndUse s (stepImg s r))
def needsAttn (s : State) (r : StepRec) : Bool := imgAttn s (stepImg s r)

/-! ### The calendar (R303, R442, R451) -/

/-- An interval [start, stop) on some cores; golden bookings do not count toward the booked time of R305. -/
structure Booking where
  tag : Option Nat
  start : Nat
  stop : Nat
  cores : List Nat
  lnd : Bool
  attn : Bool
  golden : Bool
  deriving DecidableEq, Repr

/-- Every booking in force. -/
def calendar (s : State) : List Booking :=
  ((steps s).flatMap fun e =>
    let c := e.2.1
    let r := e.2.2
    let own := if r.booking && !(c.phase == .reply) then
      [⟨some e.1, r.start, r.start + r.charge, r.cores, needsLnd s r, needsAttn s r, false⟩] else []
    let again := if r.reexec == .booked && r.booking && !(c.phase == .reply) then
      [⟨some e.1, r.reStart, r.reStart + r.charge, r.rerun, needsLnd s r, needsAttn s r, false⟩] else []
    own ++ again) ++
  s.cores.filterMap fun e => e.2.golden.map fun g => ⟨none, g.start, g.stop, [e.1], false, false, true⟩

/-- Do [a, b) and [c, d) meet? -/
def overlap (a b c d : Nat) : Bool := decide (a < d) && decide (c < b)

/-- Length of the common part of [a, b) and [c, d). -/
def common (a b c d : Nat) : Nat := min b d - max a c

/-- The booked time of a core inside [lo, hi): bookings in force and those that have ended. -/
def bookedIn (s : State) (cal : List Booking) (k lo hi : Nat) : Nat :=
  sumN (cal.map fun b => if !b.golden && b.cores.contains k then common b.start b.stop lo hi else 0)
    + sumN (s.pastBooked.map fun p => if p.1 = k then common p.2.1 p.2.2 lo hi else 0)

/-- The golden window, clamped (ADM_GOLD_WIN). -/
def goldWin (s : State) : Nat := max 10000 (min 100000 (s.fg admBase Fld.ADM_GOLD_WIN_US))

/-- R305 for one core and a new interval: every window it touches keeps the class-7 allowance. -/
def allowance (s : State) (cal : List Booking) (k a b : Nat) : Bool :=
  let w := goldWin s
  (rangeFrom (a / w) (b / w + 1 - a / w)).all fun i =>
    decide (bookedIn s cal k (i * w) (i * w + w) + common a b (i * w) (i * w + w) ≤ w - s.fg admBase Fld.ADM_GOLD_US)

/-- Does the calendar leave [a, b) free for a group with these needs? -/
def gapFor (cal : List Booking) (cores : List Nat) (lnd attn : Bool) (a b : Nat) : Bool :=
  let cl := clustersOf cores
  cal.all fun x => !overlap x.start x.stop a b
    || (!(x.cores.any cores.contains)
        && !((lnd && x.lnd || attn && x.attn) && (clustersOf x.cores).any cl.contains))

/-- Does a core's calendar hold 16 bookings that have not ended (R303 check 9)? -/
def coreFull (cal : List Booking) (now k : Nat) : Bool :=
  decide (16 ≤ (cal.filter fun b => b.cores.contains k && decide (now < b.stop)).length)

/-! ### Candidates (R138, R143, R315) -/

/-- The die that holds a step's HOME 0 bindings, if it has any. -/
def homeDie (s : State) (r : StepRec) : Option Nat :=
  ((imgBindings s (stepImg s r)).zip r.bases).foldl (fun acc p => if p.1.home = 0 then some (rawDie p.2) else acc) none

/-- Groups of `g` cores that start in cluster `c`. -/
def groupsIn (g c : Nat) : List (List Nat) :=
  if g = 0 then []
  else if g ≤ 8 then (List.range (9 - g)).map fun k => rangeFrom (8 * c + k) g
  else if g % 8 = 0 ∧ g ≤ 64 ∧ c % 8 + g / 8 ≤ 8 then [rangeFrom (8 * c) g]
  else []

/-- Clusters in scan order. -/
def scanOrder (s : State) : List Nat :=
  let n := 8 * s.part.dies
  (List.range n).map fun i => (s.fg dspBase Fld.DSP_ROT_START + i) % n

/-- Candidate groups in scan order for a group size, a home die and excluded cores. -/
def candidates (s : State) (g : Nat) (home : Option Nat) (excl : List Nat) : List (List Nat) :=
  (scanOrder s).flatMap fun c =>
    if (match home with | some d => d == c / 8 | none => true) then
      (groupsIn g c).filter fun ks => ks.all fun k => coreUsable s k && !excl.contains k
    else []

/-- Has the fabric manager declared a fault on the die (R313)? -/
def dieFaulty (s : State) (d : Nat) : Bool := bit (s.fg admBase Fld.ADM_FAULT_DIE) d

/-- Reserved cores. -/
def reserved (s : State) : List Nat := s.resvs.flatMap fun e => e.2.groups.flatten

/-- The groups a booking may take: not on a faulty die, not reserved unless drawn from the reservation. -/
def bookable (s : State) (r : StepRec) (excl : List Nat) : List (List Nat) :=
  let all := (candidates s (imgGroup s (stepImg s r)) (homeDie s r) excl).filter fun ks =>
    !ks.any fun k => dieFaulty s (k / 64) || s.noBook.contains (k / 8)
  if r.rsv = 0 then
    let rs := reserved s
    all.filter fun ks => !ks.any rs.contains
  else
    let gs := match aget s.resvs (r.rsv % 1024) with | some v => v.groups | none => []
    all.filter gs.contains

/-! ### The fit (R304, R309) -/

/-- One member's needs in a fit. -/
structure Need where
  cands : List (List Nat)
  charge : Nat
  lnd : Bool
  attn : Bool
  deriving DecidableEq, Repr

def needOf (s : State) (r : StepRec) (excl : List Nat) : Need :=
  ⟨bookable s r excl, chargeUs s (stepImg s r), needsLnd s r, needsAttn s r⟩

/-- May the group start at `a` under the calendar? -/
def feasible (s : State) (cal : List Booking) (a : Nat) (n : Need) (ks : List Nat) : Bool :=
  gapFor cal ks n.lnd n.attn a (a + n.charge) && ks.all fun k => allowance s cal k a (a + n.charge)

/-- All members' groups at one common start: the first choice in scan order, member by member, that fits them all. -/
def fitAt (s : State) (a : Nat) : List Need → List Booking → Option (List (List Nat))
  | [], _ => some []
  | n :: ns, cal => n.cands.findSome? fun ks =>
    if feasible s cal a n ks then
      (fitAt s a ns (cal ++ [⟨none, a, a + n.charge, ks, n.lnd, n.attn, false⟩])).map (ks :: ·)
    else none

/-- The earliest common start from `a` on, over at most `fuel` microseconds. -/
def fitFrom (s : State) (ns : List Need) (cal : List Booking) : (fuel : Nat) → (a : Nat) → Option (Nat × List (List Nat))
  | 0, _ => none
  | f + 1, a =>
    match fitAt s a ns cal with
    | some gs => some (a, gs)
    | none => fitFrom s ns cal f (a + 1)

/-- The fit at decision time `now`: s + E − t is at most 1,048,575 µs for every member. -/
def fit (s : State) (now : Nat) (ns : List Need) : Option (Nat × List (List Nat)) :=
  let e := ns.foldl (fun m n => max m n.charge) 0
  fitFrom s ns (calendar s) (1048576 - e) now

/-! ### Free cores and resources (R317, R318) -/

/-- Does a saved victim hold the core? -/
def holdsSaved (s : State) (k : Nat) : Bool :=
  (steps s).any fun e => e.2.1.phase == .preempted && e.2.2.cores.contains k

/-- Is a step or a golden step on the core? -/
def occupied (s : State) (k : Nat) : Bool :=
  s.fb (coreBase k) Fld.CORE_STS_SEQ_RUN || (s.core k).golden.isSome
    || (steps s).any fun e => onCores e.2.1 && e.2.2.cores.contains k

/-- Does a BOOKED step wait with its interval begun: for victims that are cleared for it, with or without its promise
(R312), or for a step that overran (R314)? -/
def bookedHere (s : State) (e : Nat × Cmd × StepRec) : Bool :=
  e.2.1.phase == .booked && (e.2.2.begun || (e.2.2.booking && decide (e.2.2.start ≤ s.nowUs)))

/-- Does a booking of another step whose interval has begun hold the core? -/
def begunBooking (s : State) (tag : Nat) (k : Nat) : Bool :=
  ((calendar s).any fun b => !(b.tag == some tag) && b.cores.contains k && decide (b.start ≤ s.nowUs) && decide (s.nowUs < b.stop))
    || (steps s).any fun e => !(e.1 == tag) && bookedHere s e && e.2.2.cores.contains k

/-- Does another step hold or book the Landing (or the attention unit) of a cluster? A saved victim's Landing stays in
place until it is saved. -/
def lndHeld (s : State) (tag c : Nat) : Bool :=
  (steps s).any fun e => !(e.1 == tag) && needsLnd s e.2.2 && (clustersOf e.2.2.cores).contains c
    && (onCores e.2.1 || (e.2.1.phase == .preempted && !e.2.2.lndSaved.contains c) || bookedHere s e)
def attnHeld (s : State) (tag c : Nat) : Bool :=
  (steps s).any fun e => !(e.1 == tag) && needsAttn s e.2.2 && (clustersOf e.2.2.cores).contains c
    && (onCores e.2.1 || bookedHere s e)

def resourcesFree (s : State) (tag : Nat) (r : StepRec) (ks : List Nat) : Bool :=
  (clustersOf ks).all fun c => !(needsLnd s r && lndHeld s tag c) && !(needsAttn s r && attnHeld s tag c)

/-- A core is free for the step `tag` (R318). -/
def coreFree (s : State) (tag k : Nat) : Bool := !occupied s k && !holdsSaved s k && !begunBooking s tag k

/-- Free but for the step's own saved state (R324). -/
def coreFreeFor (s : State) (tag k : Nat) : Bool :=
  !occupied s k && !begunBooking s tag k
    && !(steps s).any fun e => !(e.1 == tag) && e.2.1.phase == .preempted && e.2.2.cores.contains k

/-! ### Replies of steps that end without running -/

/-- A booking is over: the time it took is kept for the windows of R305 (assumption 22). -/
def pastBooking (s : State) (c : Cmd) (r : StepRec) : State :=
  let stop := min (r.start + r.charge) s.nowUs
  if r.booking && r.begun && decide (r.start < stop) && !(c.phase == .reply) then
    let w := goldWin s
    let keep := s.pastBooked.filter fun p => decide (s.nowUs / w * w < p.2.2)
    { s with pastBooked := keep ++ r.cores.map fun k => (k, r.start, stop) }
  else s

/-- A command is finished: its reply waits to be written (R283). -/
def finishCmd (s : State) (tag : Nat) (status detail result : Nat) : State :=
  match s.cmd? tag with
  | none => s
  | some c => s.setCmd tag { c with phase := .reply, status := status, detail := detail, result := result, doneUs := s.nowUs }

/-- A packet is refused: its reply, and the command processor's record of refusals (R285, R289). -/
def refuse (s : State) (tag status detail : Nat) : State :=
  match s.cmd? tag with
  | none => s
  | some c =>
    let s := if status < 0x20 then s.fs cmdBase Fld.CMD_ERR_REFUSED 1 else s
    let s := s.wr (cmdBase + Reg.CMD_LAST_REFUSE) (c.queue % 2 ^ 20 + status * 2 ^ 20)
    finishCmd (s.faddWrap cmdBase Fld.CMD_REFUSED_CNT_COUNT 1) tag status detail 0

/-- DSP_STS.QUEUED and SAVED follow the steps. -/
def syncDsp (s : State) : State :=
  let q := ((steps s).filter fun e => e.2.1.phase == .queued).length
  let v := ((steps s).filter fun e => e.2.1.phase == .preempted).length
  (s.fs dspBase Fld.DSP_STS_QUEUED (min q 0xFFFF)).fs dspBase Fld.DSP_STS_SAVED v

/-- The RESULT of a step (R280, R310): placement, and the promised bound of a BOOKED step. -/
def stepResult (r : StepRec) : Nat :=
  match r.cores with
  | [] => 0
  | k :: _ => k / 64 + k / 8 % 8 * 4 + k % 8 * 32 + r.cores.length * 256 + (r.promised - r.decided) * 2 ^ 32

/-- A step's result is ready (R285, R310, R314): LATE, and counted, when its promise has passed. -/
def replyStep (s : State) (tag : Nat) (c : Cmd) (r : StepRec) (status detail : Nat) : State :=
  let late := decide (0 < r.promised) && decide (r.promised < s.nowUs)
  let s := pastBooking s c r
  let s := if late then s.faddWrap admBase Fld.ADM_LATE_CNT_COUNT 1 else s
  s.setCmd tag { c with phase := .reply, status := status, detail := detail, result := stepResult r, doneUs := s.nowUs,
                        late := c.late || late }

end Sys2Proof.Machine
end

