-- ==== Sys2Proof/Machine/CoreOps.lean ====
section
/-!
DEFINITION. Machine/CoreOps.lean: what every core-level meaning shares: the state a core stops in, faults of a core
(R100), the end of a step (R96, R129, R298), and ABORT (R581).
-/
namespace Sys2Proof.Machine

open Sys2Proof

/-! ### Status bits that mirror what a core holds -/

/-- CLU_STS.CORE_BUSY of one core. -/
def setCoreBusy (s : State) (k : Nat) (b : Bool) : State :=
  let a := cluBase (k / 8) + Reg.CLU_STS
  s.wr a (setBits (s.rd a) (k % 8) (k % 8) (b2n b))

/-- ENG_STS of an engine after its held operations changed. -/
def syncEng (s : State) (e : Nat) : State :=
  let h := (s.eng e).held
  let b := engBase e
  let s := s.fs b Fld.ENG_STS_QDEPTH h.length
  let s := s.fs b Fld.ENG_STS_MMA_BUSY (b2n (h.any fun o => o.started && o.kind == .mma))
  s.fs b Fld.ENG_STS_WB_BUSY (b2n (h.any fun o => o.started && !(o.kind == .mma)))

/-- CORE_STS.VEC_BUSY and CORE_SMx_STS after the queues changed. -/
def syncCore (s : State) (k : Nat) : State :=
  let c := s.core k
  let b := coreBase k
  let s := s.fs b Fld.CORE_STS_VEC_BUSY (b2n !c.vq.isEmpty)
  let s := (s.fs b Fld.CORE_SM_STS_QDEPTH c.mov0.queue.length).fs b Fld.CORE_SM_STS_STREAMS c.mov0.ctxs.length
  (s.fs (b + 4) Fld.CORE_SM_STS_QDEPTH c.mov1.queue.length).fs (b + 4) Fld.CORE_SM_STS_STREAMS c.mov1.ctxs.length

/-- Is a step running on the core? -/
def seqRun (s : State) (k : Nat) : Bool := s.fb (coreBase k) Fld.CORE_STS_SEQ_RUN

def seqPc (s : State) (k : Nat) : Nat := s.rd (coreBase k + Reg.CORE_SEQ_PC)

/-- The sequencer stops. CORE_STEP and CORE_CTXT keep the last step's values until another starts (assumption 20). -/
def stopSeq (s : State) (k : Nat) : State :=
  let s := (s.fs (coreBase k) Fld.CORE_STS_SEQ_RUN 0).fs (coreBase k) Fld.CORE_STS_PREEMPT_PEND 0
  let s := setCoreBusy s k false
  s.setCore k { s.core k with wait := .none }

/-! ### Engine banks -/

/-- A bank's words become undefined (R583, R581): 512 free words. -/
def bankUndefined (s : State) (e bank : Nat) : State :=
  let r := freeWords 512 s
  let g := r.2.eng e
  let ws := (List.range 512).zip r.1
  r.2.setEng e { g with banks := ws.foldl (fun m p => setD 0 m (512 * bank + p.1) p.2) g.banks }

/-- Bytes per element of a write-back output row (R87). -/
def outBytes (f : Fmt) : Nat := f.width / 8

/-- The first byte of a write-back's or load's row (R68): in scratch or, with DEST = 1, in core memory. -/
def wbKey (e : Nat) (o : EngOp) (row : Nat) : Nat :=
  (if bit o.wbCtl 13 then cmBase (e / 4) else scrBase e) + o.wbAddr + row * o.wbStride

/-- The destination rows of a WB become undefined. -/
def wbUndefined (s : State) (e : Nat) (o : EngOp) : State :=
  let n := match Fmt.ofCode (bits o.wbCtl 3 0) with
    | some f => 32 * outBytes f
    | none => 0
  (List.range 16).foldl (fun t i => t.mwrUndef (wbKey e o i) n) s

/-- What an operation leaves undefined when it stops while executing. -/
def opUndefined (s : State) (e : Nat) (o : EngOp) : State :=
  if !o.started then s
  else match o.kind with
    | .mma => bankUndefined s e (bits o.mode 11 9)
    | .load => bankUndefined s e (bits o.wbCtl 12 10)
    | .wb => wbUndefined s e o

/-! ### The end of a step -/

/-- The group table entry of a step's cores is cleared when it leaves RUNNING or LOADING (R358). -/
def clearGroup (s : State) (cores : List Nat) : State :=
  match cores with
  | [] => s
  | k :: _ => dropGroup s (k / 64) (k % 64)

/-- A tag release goes to every semaphore unit (R338). -/
def releaseTag (s : State) (tag gen : Nat) : State := { s with tagReleases := s.tagReleases ++ [(tag, gen)] }

/-- A victim is off its cores: the bookings and the golden step that waited for it go on (R322). -/
def victimGone (s : State) (tag : Nat) : State :=
  let s := (s.cmds.map (·.1)).foldl (fun t b =>
    match t.cmd? b with
    | some c =>
      match c.step with
      | some r =>
        if r.victims.contains tag then
          let vs := r.victims.filter fun v => !(v == tag)
          t.setCmd b { c with step := some { r with victims := vs },
                              phase := if vs.isEmpty && c.phase == .booked && r.begun then .loading else c.phase }
        else t
      | none => t
    | none => t) s
  (s.cores.map (·.1)).foldl (fun t k =>
    match (t.core k).golden with
    | some g => if g.waits = some tag then t.setCore k { t.core k with golden := some { g with waits := none } } else t
    | none => t) s

/-- Forget the saved records of a step that will not resume. -/
def dropSaved (s : State) (tag : Nat) : State :=
  (s.cores.map (·.1)).foldl (fun t k =>
    match (t.core k).saved with
    | some v => if v.tag = tag then t.setCore k { t.core k with saved := none } else t
    | none => t) s

/-- The table entry of a stream number: bits [11:10] name the consumer's die (R122). -/
def strmBase (st : Nat) : Nat := dieBase (st / 1024 % 4) + 32 * (st % 1024)

/-- A step holds its stream contexts while it runs (R341): the credits of those that a core's movers leave stay with
their streams (R346). -/
def freeContexts (s : State) (k : Nat) : State :=
  let c := s.core k
  let xs := c.mov0.ctxs ++ c.mov1.ctxs
  if xs.isEmpty then s
  else
    let s := xs.foldl (fun t x => t.faddWrap (strmBase x.stream) Fld.CLU_STRM_W4_CKPT_CRED x.credits) s
    syncCore (s.setCore k { c with mov0 := { c.mov0 with ctxs := [] }, mov1 := { c.mov1 with ctxs := [] } }) k

/-- A step leaves RUNNING or LOADING, or is discarded from PREEMPTED: its stream contexts are free, its group entry
clears and its tag is released at the semaphore units (R338, R341, R358). -/
def leaveRun (s : State) (tag : Nat) (c : Cmd) (r : StepRec) : State :=
  if onCores c then releaseTag (clearGroup (r.cores.foldl freeContexts s) r.cores) tag c.gen
  else if c.phase = .preempted then releaseTag s tag c.gen
  else s

/-- Is a command of the queue still running (R282)? -/
def queueRuns (s : State) (q self : Nat) : Bool := s.cmds.any fun e => e.2.queue == q && !(e.1 == self) && !(e.2.phase == .reply)

/-- The cores of a unit code (R279); fields below its level are ignored. -/
def coresOfUnit (u : Nat) : List Nat :=
  let d := bits u 13 12
  let c := bits u 11 9
  match bits u 15 14 with
  | 0 => [64 * d + 8 * c + bits u 8 6]
  | 1 => rangeFrom (64 * d + 8 * c) 8
  | 2 => rangeFrom (64 * d) 64
  | _ => []

/-- Does a unit's core hold a step, running, loading or saved? -/
def unitBusy (s : State) (u : Nat) : Bool := (coresOfUnit u).any fun k => occupied s k || holdsSaved s k

/-- ADM_STS.RESV follows the reservations. -/
def syncResv (s : State) : State := s.fs admBase Fld.ADM_STS_RESV s.resvs.length

/-- A reservation given up by UNRESERVE releases its cores once no draw on it is booked or runs (R308). -/
def settleResvs (s : State) : State :=
  let live := fun (slot : Nat) => (steps s).any fun e => e.2.2.rsv % 1024 == slot && !(e.2.2.rsv == 0)
    && (e.2.1.phase == .booked || e.2.1.phase == .loading || e.2.1.phase == .running || e.2.1.phase == .preempted)
  syncResv { s with resvs := s.resvs.filter fun v => !(v.2.closing && !live v.1) }

/-- Complete the commands that wait for a state of the machine: QUEUE_DESTROY for its queue's running commands (R282),
UNIT_FENCE for its unit to hold no step (R507), UNIT_RETURN for the series of its cores (R509). -/
def settleWaiting (s : State) : State :=
  let s := settleResvs s
  (s.cmds.map (·.1)).foldl (fun t tag =>
    match t.cmd? tag with
    | none => t
    | some c =>
      if !(c.phase == .waiting) then t
      else if c.opcode = 0x07 then (if queueRuns t (leAt c.packet 16 4 % 2 ^ 20) tag then t else finishCmd t tag 0 0 c.result)
      else if c.opcode = 0x48 then (if unitBusy t (leAt c.packet 16 2) then t else finishCmd t tag 0 0 0)
      else if c.opcode = 0x49 then
        let ks := coresOfUnit (leAt c.packet 16 2)
        if ks.any fun k => (t.core k).series == .running then t
        else match ks.find? fun k => (t.core k).series == .failed with
          | some k => finishCmd t tag 0x49 (unitOfCore k) 0
          | none => finishCmd t tag 0 0 0
      else t) s

/-- The step reaches REPLY with a status (R285, R298): what it held is released, and what waited for it goes on. -/
def endStep (s : State) (tag status detail : Nat) : State :=
  match s.cmd? tag with
  | none => s
  | some c =>
    match c.step with
    | none => finishCmd s tag status detail 0
    | some r =>
      if c.phase = .reply then s
      else
        let s := replyStep (leaveRun s tag c r) tag c r status detail
        settleWaiting (syncDsp (dropSaved (victimGone s tag) tag))

/-! ### A core leaves service (R320) -/

/-- Re-place one booking on core `k` whose step has not started: the earliest fit that ends no later than the original,
or UNIT_LOST. -/
def replaceOne (k unit : Nat) (s : State) (tag : Nat) : State :=
  match s.cmd? tag with
  | none => s
  | some c =>
    match c.step with
    | none => s
    | some r =>
      if c.phase = .booked ∧ r.booking = true ∧ r.cores.contains k = true then
        let t := s.setCmd tag { c with step := some { r with booking := false } }
        let n := { needOf t r [k] with charge := r.charge }
        match fitFrom t [n] (calendar t) (r.start + r.charge + 1 - n.charge - t.nowUs) t.nowUs with
        | some (a, g :: _) =>
          s.setCmd tag { c with step := some { r with start := a, cores := g, begun := false, victims := [] } }
        | _ => endStep s tag 0x49 unit
      else if r.reexec = .booked ∧ r.booking = true ∧ r.rerun.contains k = true then
        -- a re-execution's booking: re-placed, or the step is delivered as suspect (R451)
        let t := s.setCmd tag { c with step := some { r with reexec := .refused } }
        let n := { needOf t r (k :: r.mmCores) with charge := r.charge }
        let lo := max t.nowUs (r.start + r.charge)
        match fitFrom t [n] (calendar t) (r.reStart + r.charge + 1 - n.charge - lo) lo with
        | some (a, g :: _) => s.setCmd tag { c with step := some { r with reStart := a, rerun := g } }
        | _ => t
      else s

/-- A reservation's group on the core takes a replacement on its die, or is given up (R307, R320). -/
def replaceResv (k : Nat) (s : State) (slot : Nat) : State :=
  match aget s.resvs slot with
  | none => s
  | some v =>
    let hit := v.groups.filter fun g => g.contains k
    hit.foldl (fun t g =>
      match aget t.resvs slot with
      | none => t
      | some w =>
        let rest := w.groups.filter fun x => !(x == g)
        let t := { t with resvs := aput t.resvs slot { w with groups := rest } }
        let taken := (reserved t) ++ (calendar t).flatMap (·.cores)
        match (candidates t (imgGroup t (imgAddr t v.image)) (some v.die) [k]).find? fun x => !x.any taken.contains with
        | some x => { t with resvs := aput t.resvs slot { w with groups := rest ++ [x] } }
        | none => t) s

/-- Every unstarted booking and every reservation on a core that leaves service; `unit` names it in a reply. -/
def coreOut (s : State) (k unit : Nat) : State :=
  let s := (s.cmds.map (·.1)).foldl (replaceOne k unit) s
  (s.resvs.map (·.1)).foldl (replaceResv k) s

/-- The step that a core's CORE_STEP names, if its generation agrees; none while a golden step is on the core. -/
def stepOfCore (s : State) (k : Nat) : Option (Nat × Cmd × StepRec) :=
  let tag := s.fg (coreBase k) Fld.CORE_STEP_TAG
  if (s.core k).golden.isSome then none
  else match s.cmd? tag with
    | none => none
    | some c =>
      match c.step with
      | none => none
      | some r => if c.gen = s.fg (coreBase k) Fld.CORE_STEP_GEN then some (tag, c, r) else none

/-- The cancel of a blocked wait goes to the semaphore unit (R334). -/
def sendCancel (s : State) (k num : Nat) : State :=
  let b := coreBase k
  { s with semMsgs := s.semMsgs ++ [⟨.core k, num, 4, false, s.fg b Fld.CORE_STEP_TAG, s.fg b Fld.CORE_STEP_GEN, 0,
      s.coreGen k, 0, s.fg b Fld.CORE_CTXT_CTX, s.fg b Fld.CORE_CTXT_CTX_GEN⟩] }

/-- The ENG_GO writes that wait without those of the core's sequencer, which issues no more. -/
def noSeqGo (k : Nat) (ws : List (Nat × Nat)) : List (Nat × Nat) := ws.filter fun w => !(w.1 == coreIni k 0)

/-- Stop a core at once and save nothing (R581). -/
def abortCore (s : State) (k : Nat) : State :=
  let s := (List.range 4).foldl (fun t i =>
    let e := 4 * k + i
    let held := (t.eng e).held
    let t := held.foldl (fun u o => opUndefined u e o) t
    syncEng (t.setEng e { t.eng e with held := [], stalledGo := noSeqGo k (t.eng e).stalledGo }) e) s
  let c := s.core k
  let s := match c.wait with
    | .sem 0 num _ => sendCancel s k num
    | _ => s
  let s := s.setCore k { c with vq := [], mov0 := { c.mov0 with queue := [] }, mov1 := { c.mov1 with queue := [] }, acquired := [] }
  syncCore (stopSeq s k) k

/-- The core on which a step ends by a fault stops: what it holds and has not started is discarded, an engine operation
that executes finishes (R84, R100). -/
def haltCore (s : State) (k : Nat) : State :=
  let s := (List.range 4).foldl (fun t i =>
    let e := 4 * k + i
    let g := t.eng e
    syncEng (t.setEng e { g with held := g.held.filter (·.started), stalledGo := noSeqGo k g.stalledGo }) e) s
  let c := s.core k
  let s := s.setCore k { c with vq := [], mov0 := { c.mov0 with queue := [] }, mov1 := { c.mov1 with queue := [] }, acquired := [] }
  syncCore (stopSeq s k) k

/-! ### Quarantine and golden steps (R443, R451, R452) -/

/-- End the saved victim of a core with UNIT_LOST. -/
def loseSaved (s : State) (k unit : Nat) : State :=
  match (steps s).find? fun e => e.2.1.phase == .preempted && e.2.2.cores.contains k with
  | some e => endStep s e.1 0x49 unit
  | none => s

/-- Is an entry of table 4 enabled: EN set and its image still registered (R440, R441)? -/
def goldEnabled (s : State) (e : Nat) : Bool :=
  bit (policyField s 0 4 e 44 1) 0 && (aget s.images (policyField s 0 4 e 40 4)).isSome

def goldEntries (s : State) : List Nat := (List.range 8).filter (goldEnabled s)

/-- Quarantine a core (R451); one whose checker failed stays in state 3, which it leaves under R447 alone. -/
def quarantine (s : State) (k : Nat) : State :=
  let u := unitOfCore k
  let failed := s.fg (chkBase k) Fld.CHK_QSTS_STATE == 3
  let s := if failed then s else (s.fs (chkBase k) Fld.CHK_QSTS_STATE 1).fs (chkBase k) Fld.CHK_QSTS_SERIES 0
  let s := s.fs (coreBase k) Fld.CORE_CTL_FENCE 1
  let s := if failed then s else s.setCore k { s.core k with series := .running }
  let s := loseSaved (coreOut s k u) k u
  (s.reportA 0x0B u).event 0x73 u 0

/-- A core returns to service: fence and state clear. EVT_UNIT_IN names the core after a quarantine (R452), else the
cluster once its last core has returned (R509). -/
def returnCore (s : State) (k : Nat) : State :=
  let quar := s.fg (chkBase k) Fld.CHK_QSTS_STATE != 0
  let s := (s.fs (chkBase k) Fld.CHK_QSTS_STATE 0).fs (coreBase k) Fld.CORE_CTL_FENCE 0
  let s := s.setCore k { s.core k with series := .idle }
  if quar then s.event 0x74 (unitOfCore k) 0
  else if (rangeFrom (k / 8 * 8) 8).all fun j => !s.fb (coreBase j) Fld.CORE_CTL_FENCE then s.event 0x74 (unitOfClu (k / 8)) 0
  else s

/-- Open the series that returns a fenced core (R509): back to service at once where no golden image is enabled. A core
in state 3, and one whose series runs or has failed, waits for other means (R447, R452). -/
def beginSeries (s : State) (k : Nat) : State :=
  if !s.fb (coreBase k) Fld.CORE_CTL_FENCE || s.fg (chkBase k) Fld.CHK_QSTS_STATE == 3 || !((s.core k).series == .idle) then s
  else if (goldEntries s).isEmpty then returnCore s k
  else (s.setCore k { s.core k with series := .running }).fs (chkBase k) Fld.CHK_QSTS_SERIES 0

/-- GOLD_SERIES of table 3. -/
def goldSeries (s : State) : Nat := policyField s 0 3 0 42 1

/-- A core's last mismatch is now (R451). -/
def stampMismatch (s : State) (k : Nat) : State :=
  (s.wr (chkBase k + Reg.CHK_LAST_MM) (s.nowUs % 2 ^ 32)).fs (chkBase k) Fld.CHK_LAST_VALID_VALID 1

/-- A golden step is over: counters, then the series or the core's own standing (R443, R444, R452); a mismatch in it is
the core's last one (R451). -/
def goldenEnd (s : State) (k : Nat) (pass : Bool) : State :=
  match (s.core k).golden with
  | none => s
  | some g =>
    let b := chkBase k
    let s := if s.fg b Fld.CHK_STEP_MM_COUNT = 0 then s else stampMismatch s k
    let s := s.setCore k { s.core k with golden := none, goldDue := if (s.core k).series == .running then (s.core k).goldDue else none }
    let s := ((s.fs b Fld.CHK_GOLD_ENTRY g.entry).fs b Fld.CHK_GOLD_PASS (b2n pass)).faddWrap b Fld.CHK_GOLD_RUNS 1
    let s := if (s.core k).series = .running then
        if pass then
          let n := s.fg b Fld.CHK_QSTS_SERIES + 1
          let s := s.fs b Fld.CHK_QSTS_SERIES n
          if goldSeries s ≤ n then returnCore s k else s
        else
          let s := s.setCore k { s.core k with series := .failed }
          let s := if s.fg b Fld.CHK_QSTS_STATE = 1 then s.reportA 0x0B (unitOfCore k) else quarantine s k
          s.setCore k { s.core k with series := .failed }
      else if pass then
        let s := s.fs b Fld.CHK_QSTS_DEFER 0
        if s.fg b Fld.CHK_QSTS_STATE = 2 then (s.fs b Fld.CHK_QSTS_STATE 0).event 0x74 (unitOfCore k) 0 else s
      else quarantine s k
    settleWaiting s

/-- Does the result of a golden step agree with its reference (R443)? -/
def goldenAgrees (s : State) (k entry : Nat) : Bool :=
  let f := fun o => policyField s 0 4 entry o 4
  let a := imgAddr s (f 40)
  let ref := a + (imgFind s a 1).off + f 52
  (List.range (f 56 / 4)).all fun i =>
    let x := dec32 (s.mnat (cmBase k + f 48 + 4 * i) 4)
    let r := dec32 (pkgNat s (ref + 4 * i) 4)
    ((x.sub r).abs).le ((dec32 (f 60)).add ((dec32 (f 64)).mul r.abs))

/-- A step fails on a core: the core stops, the first failure gives the status, and the rest of the group is aborted
by the die controller (R100, R298). A golden step that fails does not pass. -/
def failStep (s : State) (k status detail : Nat) : State :=
  if !seqRun s k then s
  else if (s.core k).golden.isSome then goldenEnd (haltCore s k) k false
  else
    match stepOfCore s k with
    | none => haltCore s k
    | some (tag, _, r) =>
      let s := haltCore s k
      let s := (r.cores.filter fun j => !(j == k)).foldl abortCore s
      endStep s tag status detail

/-- A booked step's first execution is over and its re-execution takes its place (R453). -/
def startAgain (s : State) (tag : Nat) (c : Cmd) (r : StepRec) : State :=
  let s := leaveRun (pastBooking s c r) tag c r
  let s := s.setCmd tag { c with phase := if r.booking then .booked else .queued,
                                 step := some { r with ended := [], begun := false, cores := r.rerun, reexec := .running,
                                                       start := r.reStart, mmCores := r.mmCores } }
  syncDsp (victimGone s tag)

/-- Complete a step whose cores have all ended, once any mismatch decision has been made (R451, R453). -/
def settleStep (s : State) (tag : Nat) : State :=
  match s.cmd? tag with
  | none => s
  | some c =>
    match c.step with
    | none => s
    | some r =>
      if c.phase ≠ .running ∨ !(r.cores.all fun k => r.ended.contains k) then s
      else match r.mmCores with
        | [] => endStep s tag 0 0
        | k :: _ =>
          match r.reexec with
          | .none | .undecided => s
          | .refused | .again => endStep (s.setCmd tag { c with suspect := true }) tag 1 (unitOfCore k)
          | .running => endStep (s.setCmd tag { c with reexecd := true }) tag 1 (unitOfCore k)
          | .booked => startAgain s tag c r

/-- One core of a step's group retires END; a golden step's result is compared (R443). -/
def coreEnded (s : State) (k : Nat) : State :=
  match (s.core k).golden with
  | some g => goldenEnd (stopSeq s k) k (goldenAgrees s k g.entry && s.fg (chkBase k) Fld.CHK_STEP_MM_COUNT == 0)
  | none =>
    match stepOfCore s k with
    | none => stopSeq s k
    | some (tag, c, r) =>
      let s := stopSeq s k
      let s := s.setCmd tag { c with step := some { r with ended := r.ended ++ [k] } }
      settleStep s tag

/-! ### Faults of a core (R100) -/

/-- Record a fault bit; CORE_FAULT_INFO keeps the PC of the instruction concerned, which for an engine operation or a
descriptor is the WREG, VEC or SMV that issued it, for the first unclear fault. -/
def recordFault (s : State) (k : Nat) (f : Fld) (engine pc : Nat) : State :=
  let b := coreBase k
  let first := s.rd (b + Reg.CORE_FAULT) == 0
  let s := if first then s.wr (b + Reg.CORE_FAULT_INFO) (pc % 2 ^ 20 + engine * 2 ^ 20) else s
  (s.fs b f 1).fs b Fld.CORE_STS_FAULT 1

/-- Record a fault of the instruction at `pc` and end the step with its status (R285): DETAIL is CORE_FAULT[15:0]. -/
def faultAt (s : State) (k : Nat) (f : Fld) (status pc : Nat) : State :=
  let s := recordFault s k f 0 pc
  failStep s k status (bits (s.rd (coreBase k + Reg.CORE_FAULT)) 15 0)

/-- A fault of the sequencer's own instruction. -/
def coreFault (s : State) (k : Nat) (f : Fld) (status : Nat) : State := faultAt s k f status (seqPc s k)

/-- A core's own unit read an uncorrectable SRAM word of die `d`: the step ends with HW_ERROR (R197). -/
def hwError (s : State) (k d : Nat) : State := failStep s k 0x46 (bits (s.rd (memBase d + Reg.MEM_SRAM_ERR)) 9 0)

/-! ### Declared faults (R313, R496) -/

/-- Faults are declared on dies: steps booked or running there carry BREACH and lose their promise. -/
def declareFaults (s : State) (mask : Nat) : State :=
  (steps s).foldl (fun t e =>
    if (e.2.1.phase == .booked || onCores e.2.1) && e.2.2.cores.any fun k => bit mask (k / 64) then
      t.setCmd e.1 { e.2.1 with breach := true, step := some { e.2.2 with promised := 0 } }
    else t) s

/-- The fabric manager declares a fault on a die: 4 the IOD, 5 the Porch. -/
def setFault (s : State) (d : Nat) : State :=
  let a := admBase + Reg.ADM_FAULT
  if bit (s.rd a) d then s else declareFaults (s.wr a (s.rd a + 2 ^ d)) (2 ^ d)

/-- A fault that lasts until the die has returned to service (R496). -/
def faultDie (s : State) (d : Nat) : State :=
  setFault { s with hardFault := if s.hardFault.contains d then s.hardFault else s.hardFault ++ [d] } d

/-- A link event, which clears once the link has held its state (R496). -/
def linkEvent (s : State) (d : Nat) : State := setFault { s with linkEvAt := aput s.linkEvAt d s.nowUs } d

end Sys2Proof.Machine
end

