-- ==== Sys2Proof/Machine/Ledger.lean ====
section
/-!
DEFINITION. Machine/Ledger.lean: the ledgers of the counted pools: a failed check, the update of a term with its check
bits, and the rebase (R342 to R346, R551).
-/
namespace Sys2Proof.Machine

open Sys2Proof

def ledgerKey (d id inst : Nat) : Nat := d * 2 ^ 40 + id * 2 ^ 32 + inst % 2 ^ 24

/-- Was this ledger silenced by a failed check since its last rebase (R344)? -/
def ledgerMuted (s : State) (d id inst : Nat) : Bool := s.ledgerMute.contains (ledgerKey d id inst)

/-- A failed check (R344): the error bit, the first failure's log, the count, the event to the management processor and
both islands, and the notice. The ledger makes no claim until its next rebase. -/
def ledgerFail (s : State) (d id inst diff : Nat) : State :=
  let s := { s with ledgerMute := ledgerKey d id inst :: s.ledgerMute }
  let s := if d < 4 then
      let b := synBase d
      let s := if id = 6 then s.fs (panBase d) Fld.PAN_ERR_LEDGER 1 else s.fs b Fld.SYN_ERR_LEDGER 1
      let s := if s.fb b Fld.SYN_LEDGER_LOG0_VALID then s
        else (s.wr (b + Reg.SYN_LEDGER_LOG0) (id + inst % 2 ^ 24 * 16 + 2 ^ 31)).wr (b + Reg.SYN_LEDGER_LOG1) diff
      s.faddSat b Fld.SYN_LEDGER_CNT_COUNT 1
    else s
  faultDie ((((s.reportBoth 8 (unitOfDie d)).toMp 8 (unitOfDie d))).notice 9 (unitOfDie d) 0 0) d

/-- The next rebase of a ledger. -/
def ledgerRebase (s : State) (d id inst : Nat) : State :=
  { s with ledgerMute := s.ledgerMute.filter fun k => !(k == ledgerKey d id inst) }

/-- Rebase every instance of a ledger on a die. -/
def ledgerRebaseAll (s : State) (d id : Nat) : State :=
  { s with ledgerMute := s.ledgerMute.filter fun k => !(k / 2 ^ 32 == d * 256 + id) }

/-- One update of a term: each armed injection slot that matches may corrupt its check bits or add 1 to it (R345, R551,
R552). Answers how much the term is off, after the check that follows. -/
def ledgerUpdate (s : State) (d id inst : Nat) : Nat × State :=
  let r := injectAll s d (if d < 4 then 5 else 4) (fun w1 _ _ => bits w1 14 11 == id)
  let off := (r.1.filter fun x => decide (3 ≤ x)).length
  let ue := r.1.contains 2
  let s := r.2
  let s := if 4 ≤ d then s
    else if ue then s.fs (synBase d) Fld.SYN_ERR_LEDGER_UE 1
    else if r.1.contains 1 then s.fs (synBase d) Fld.SYN_ERR_LEDGER_CE 1 else s
  (off, if (ue || decide (0 < off)) && !ledgerMuted s d id inst then ledgerFail s d id inst off else s)

/-- A term of a pool whose relation holds by its counting changes (ledgers 2, 4, 5, 9 and 10). -/
def poolUpdate (s : State) (d id inst : Nat) : State := (ledgerUpdate s d id inst).2

/-- Check a relation, left side against right side. -/
def ledgerCheck (s : State) (d id inst left right : Nat) : State :=
  if left = right ∨ ledgerMuted s d id inst then s
  else ledgerFail s d id inst ((2 ^ 32 + left % 2 ^ 32 - right % 2 ^ 32) % 2 ^ 32)

/-- A term of a ring changes, and 0 ≤ `used` ≤ `size` is checked (ledgers 7 and 8). -/
def ringUpdate (s : State) (id inst used size : Nat) : State := ledgerCheck (poolUpdate s 4 id inst) 4 id inst used (min used size)

end Sys2Proof.Machine
end

