-- ==== Sys2Proof/Machine/Regions.lean ====
section
/-!
DEFINITION. Machine/Regions.lean: the DRAM ranges the system keeps for itself, which placement rules compare against
(R27, R118, R158, R290, R323, R370, R504), and bulk stores into them.
-/
namespace Sys2Proof.Machine

open Sys2Proof

/-- End of a die's usable DRAM (R27). -/
def usableEnd (s : State) (d : Nat) : Nat :=
  d * 0x800000000 + if s.fb (memBase d) Fld.MEM_DIE_STS_ECC_ACTIVE then 0x700000000 else 0x800000000

/-- Does a raw range meet the secure region, which counts as outside usable DRAM (R527)? -/
def meetsSecure (s : State) (a n : Nat) : Bool :=
  match secBaseRaw s with
  | some b => meets a n b 0xA000000
  | none => false

/-- Does a raw range lie within one fitted die's usable DRAM (R27, R527)? -/
def inUsable (s : State) (a n : Nat) : Bool :=
  let d := rawDie a
  s.part.fitted d && decide (a + n ≤ usableEnd s d) && decide (0 < n) && !meetsSecure s a n

/-- The range of R118. -/
def dcRange (s : State) (d : Nat) : Nat × Nat := (usableEnd s d - 0x100000, 0x100000)

/-- A save region as DSP_SAVE_BASE gives it, and its raw address. -/
def saveAddr (s : State) (d : Nat) : Nat := s.fg (dspBase + 4 * d) Fld.DSP_SAVE_BASE_BASE * 2 ^ 21
def saveBase (s : State) (d : Nat) : Nat := physOf s (saveAddr s d)
def saveSize : Nat := 0xA000000
def descBase (s : State) : Nat := s.fg qmBase Fld.QM_DESC_BASE_BASE * 2 ^ 26
def cqBase (s : State) : Nat := s.fg qmBase Fld.QM_CQ_BASE_BASE * 2 ^ 21
def dumpBase (s : State) : Nat := s.fg rstIBase Fld.RST_DUMP_BASE_BASE * 2 ^ 20

/-- The die-controller ranges of the fitted dies. -/
def dcRanges (s : State) : List (Nat × Nat) := (List.range s.part.dies).map (dcRange s)

/-- The raw ranges of the save regions; before DSP_CTL.EN is set, a base of zero names none (assumption 24). -/
def saveRanges (s : State) : List (Nat × Nat) :=
  ((List.range s.part.dies).filter fun d => decide (0 < saveAddr s d) || s.fb dspBase Fld.DSP_CTL_EN).flatMap fun d =>
    rawRanges s (saveAddr s d) saveSize

/-- The raw ranges of the queue-descriptor and completion-ring tables; a base of zero names none. -/
def tableRanges (s : State) : List (Nat × Nat) :=
  (if descBase s = 0 then [] else rawRanges s (descBase s) 0x4000000) ++ (if cqBase s = 0 then [] else rawRanges s (cqBase s) 0x200000)

/-- The dump region; a base of zero names none. -/
def dumpRanges (s : State) : List (Nat × Nat) := if dumpBase s = 0 then [] else rawRanges s (dumpBase s) 0x100000

/-- The ranges of every enabled Pantry. -/
def pantryRanges (s : State) : List (Nat × Nat) := (List.range s.part.dies).flatMap (panRanges s)

/-- The DRAM ranges of the registered images. -/
def imageRanges (s : State) : List (Nat × Nat) := s.images.flatMap fun e => rawRanges s e.2.addr e.2.size

/-- Does a raw range meet one of a list of raw ranges? -/
def meetsAny (a n : Nat) (rs : List (Nat × Nat)) : Bool := rs.any fun r => meets a n r.1 r.2

/-- Does a package range meet one of a list of raw ranges? -/
def pkgMeetsAny (s : State) (a n : Nat) (rs : List (Nat × Nat)) : Bool :=
  (rawRanges s a n).any fun r => meetsAny r.1 r.2 rs

/-- Does a package range lie in usable DRAM, granule by granule? -/
def pkgUsable (s : State) (a n : Nat) : Bool :=
  decide (0 < n) && (decide (a < 0x002000000000) || (decide (0x004000000000 ≤ a) && decide (a + n ≤ 0x004800000000)))
    && (if a < 0x002000000000 then inUsable s a n
        else decide (sumN ((rawRanges s a n).map (·.2)) = n) && (rawRanges s a n).all fun r => inUsable s r.1 r.2)

/-- Every byte of [a, a + n) takes the value `f` gives it by offset, with good check words. -/
def State.mset (s : State) (a n : Nat) (f : Nat → Byte) : State :=
  { s with mem := (s.mem.filter fun e => decide (e.1 < a))
             ++ ((List.range n).filterMap fun i => if f i = Memory.blank then none else some (a + i, f i))
             ++ s.mem.filter fun e => decide (a + n ≤ e.1),
           undef := cutUndef a (a + n) s.undef,
           dram := kdrop (fun l => decide (a ≤ 64 * l) && decide (64 * l + 64 ≤ a + n)) s.dram }

end Sys2Proof.Machine
end

