-- ==== Sys2Proof/Machine/Pantry.lean ====
section
/-!
DEFINITION. Machine/Pantry.lean: the Pantry of a die: its metadata region, pools and free lists, the track commands, the
scrub engine (R156 to R171, R192).
-/
namespace Sys2Proof.Machine

open Sys2Proof

/-! ### The metadata region (R163, R164) -/

/-- The Pantry's initiator ID (R41). -/
def panIni (d : Nat) : Nat := d * 512 + 0x101

/-- Metadata bytes from region offset `off`. A poisoned read sets PAN_ERR.POISON and its bytes are free values. -/
def metaBytes (s : State) (d off n : Nat) : List Byte × State :=
  let a := metaBase s d + off
  let r := dramRead s a n ⟨panIni d, 0, false⟩
  if r.1 then
    let f := freeWords (n / 4 + 1) (r.2.fs (panBase d) Fld.PAN_ERR_POISON 1)
    ((wordsBytes f.1).take n, f.2)
  else (r.2.mrd a n, r.2)

def metaPut (s : State) (d off : Nat) (bs : List Byte) : State :=
  dramWrite s (metaBase s d + off) bs ⟨panIni d, 0, false⟩

/-- A track table entry. -/
structure TrackEnt where
  state : Nat
  pool : Nat
  layers : Nat
  ctx : Nat
  gen : Nat
  ring : Nat
  window : Nat
  pt : Nat
  rsvd : Nat
  used : Nat
  deriving DecidableEq, Repr

def entryRead (s : State) (d t : Nat) : TrackEnt × State :=
  let r := metaBytes s d (64 * t) 64
  let b := r.1
  (⟨byteAt b 2 % 4, byteAt b 2 / 4 % 4, byteAt b 3 % 64 + 1, leAt b 4 2, byteAt b 6, byteAt b 7 + 1, leAt b 8 2 % 8192,
    leAt b 12 4 % 2 ^ 18, leAt b 16 4 % 2 ^ 24, leAt b 20 4 % 2 ^ 24⟩, r.2)

def entryWrite (s : State) (d t : Nat) (e : TrackEnt) : State :=
  metaPut s d (64 * t) (leBytes 2 t ++ [BitVec.ofNat 8 (e.state + 4 * e.pool), BitVec.ofNat 8 (e.layers - 1)]
    ++ leBytes 2 e.ctx ++ [BitVec.ofNat 8 e.gen, BitVec.ofNat 8 (e.ring - 1)] ++ leBytes 2 e.window ++ leBytes 2 0
    ++ leBytes 4 e.pt ++ leBytes 4 e.rsvd ++ leBytes 4 e.used ++ leBytes 40 0)

/-- Bytes of a layer block for a ring of `r` positions. -/
def blockSize (r : Nat) : Nat := roundUp (16 + 4 * r) 16

/-- Region offset of a track's layer block. -/
def blockOff (e : TrackEnt) (layer : Nat) : Nat := 0x2400000 + 256 * e.pt + layer * blockSize e.ring

/-- COUNT, NPG and the PTEs of a layer block. -/
def blockRead (s : State) (d : Nat) (e : TrackEnt) (layer : Nat) : (Nat × Nat × List Nat) × State :=
  let r := metaBytes s d (blockOff e layer) (16 + 4 * e.ring)
  ((leAt r.1 0 6, leAt r.1 6 2, (List.range e.ring).map fun j => leAt r.1 (16 + 4 * j) 4), r.2)

/-! ### Pools and free lists (R157, R165, R169) -/

def poolReg (d p : Nat) : Nat := panBase d + 0x20 * p
def poolFree (s : State) (d p : Nat) : Nat := s.fg (poolReg d p) Fld.PAN_POOL_FREE_COUNT
def poolScrb (s : State) (d p : Nat) : Nat := s.fg (poolReg d p) Fld.PAN_POOL_SCRB_COUNT
def poolRsvd (s : State) (d p : Nat) : Nat := s.fg (poolReg d p) Fld.PAN_POOL_RSVD_COUNT
def poolUsed (s : State) (d p : Nat) : Nat := s.fg (poolReg d p) Fld.PAN_POOL_USED_COUNT

/-- Region offset of a pool's free-list ring. -/
def ringOff (s : State) (d p : Nat) : Nat := 0x400000 + 4 * sumN ((List.range p).map (poolPages s d))

/-- Region offset of the ring entry `i` places after the head. -/
def ringEntry (s : State) (d p i : Nat) : Nat :=
  ringOff s d p + 4 * ((getD 0 s.panHead (4 * d + p) + i) % max 1 (poolPages s d p))

/-- SCRUB_BUSY: some page of an enabled pool waits for zero-fill. -/
def syncScrub (s : State) (d : Nat) : State :=
  s.fs (panBase d) Fld.PAN_STS_SCRUB_BUSY (b2n ((List.range 4).any fun p => poolOn s d p && decide (0 < poolScrb s d p)))

/-- The conservation check at a change of a pool's counts, ledger 6 (R169, R342). -/
def poolCheck (s : State) (d p : Nat) : State :=
  let u := ledgerUpdate s d 6 p
  let s := if u.1 = 0 then u.2 else u.2.faddWrap (poolReg d p) Fld.PAN_POOL_USED_COUNT u.1
  let s := ledgerCheck s d 6 p (poolFree s d p + poolScrb s d p + poolUsed s d p) (poolPages s d p)
  syncScrub (if poolUsed s d p ≤ poolRsvd s d p ∧ poolRsvd s d p ≤ poolPages s d p then s
    else if ledgerMuted s d 6 p then s else ledgerFail s d 6 p 0) d

/-- Address of a page. -/
def pageAddr (s : State) (d p page : Nat) : Nat := poolBase s d p + page * pageBytes s d p

/-- Zero-fill a page. -/
def pageZero (s : State) (d p page : Nat) : State :=
  dramWrite s (pageAddr s d p page) (List.replicate (pageBytes s d p) 0) ⟨panIni d, 0, false⟩

/-- Zero-fill the page at the scrub pointer and advance the pointer (R165). -/
def scrubOne (s : State) (d p : Nat) : State :=
  let r := metaBytes s d (ringEntry s d p (poolFree s d p)) 4
  let s := pageZero r.2 d p (leNat r.1 % 2 ^ 24)
  let f := poolFree s d p
  let s := s.fs (poolReg d p) Fld.PAN_POOL_SCRB_COUNT (poolScrb s d p - 1)
  poolCheck (s.fs (poolReg d p) Fld.PAN_POOL_FREE_COUNT (f + 1)) d p

/-- Take a page from the head; a page that waits for scrubbing is zero-filled at once when none is ready (R167). -/
def takePage (s : State) (d p : Nat) : Nat × State :=
  let s := if poolFree s d p = 0 ∧ 0 < poolScrb s d p then scrubOne s d p else s
  let r := metaBytes s d (ringEntry s d p 0) 4
  let s := r.2
  let s := { s with panHead := setD 0 s.panHead (4 * d + p) ((getD 0 s.panHead (4 * d + p) + 1) % max 1 (poolPages s d p)) }
  let s := s.fs (poolReg d p) Fld.PAN_POOL_FREE_COUNT (poolFree s d p - 1)
  (leNat r.1 % 2 ^ 24, poolCheck (s.fs (poolReg d p) Fld.PAN_POOL_USED_COUNT (poolUsed s d p + 1)) d p)

/-- Append freed pages at the tail (R168). -/
def freePages (s : State) (d p : Nat) (pages : List Nat) : State :=
  let at0 := poolFree s d p + poolScrb s d p
  let s := ((List.range pages.length).zip pages).foldl (fun t q =>
    metaPut t d (ringEntry t d p (at0 + q.1)) (leBytes 4 q.2)) s
  let s := s.fs (poolReg d p) Fld.PAN_POOL_SCRB_COUNT (poolScrb s d p + pages.length)
  poolCheck (s.fs (poolReg d p) Fld.PAN_POOL_USED_COUNT (poolUsed s d p - pages.length)) d p

/-! ### Enabling (R158, R163) -/

def poolBytes (s : State) (d p : Nat) : Nat := poolPages s d p * pageBytes s d p

/-- Do the pools and the metadata region keep the placement rules? -/
def placementOk (s : State) (d : Nat) : Bool :=
  let ps := (List.range 4).filter (poolOn s d)
  let mreg := (metaBase s d, metaSize)
  let rs := ps.map fun p => (poolBase s d p, poolBytes s d p)
  let own := fun (r : Nat × Nat) => rawDie r.1 == d && inUsable s r.1 r.2
  let others := dcRange s d :: saveRanges s ++ tableRanges s ++ dumpRanges s
  ps.all (fun p => decide (1 ≤ poolPages s d p) && decide (poolPages s d p ≤ 8388608)
      && !(s.fg (poolReg d p) Fld.PAN_POOL_CFG_FMT == 3))
    && decide (sumN (rs.map (·.2)) ≤ 0x400000000)
    && (mreg :: rs).all (fun r => own r && !meetsAny r.1 r.2 others)
    && rs.all (fun r => !meets r.1 r.2 mreg.1 mreg.2)
    && (List.range rs.length).all fun i => (List.range i).all fun j =>
        !meets (rs.getD i (0, 0)).1 (rs.getD i (0, 0)).2 (rs.getD j (0, 0)).1 (rs.getD j (0, 0)).2

/-- A write of PAN_CTL: EN from 0 to 1 starts the initialisation or sets CFG (R158, R163); EN = 0 ends READY. -/
def panCtlWrite (s : State) (d v : Nat) : State :=
  let b := panBase d
  let on := s.fb b Fld.PAN_CTL_EN
  if bit v 0 then
    if on then s
    else if placementOk s d then (ledgerRebaseAll (s.fs b Fld.PAN_CTL_EN 1) d 6).fs b Fld.PAN_STS_READY 0
    else s.fs b Fld.PAN_ERR_CFG 1
  else (s.fs b Fld.PAN_CTL_EN 0).fs b Fld.PAN_STS_READY 0

/-- The tables are initialised: every track free, every pool's pages in its ring, waiting for scrubbing (R163). -/
def panInit (s : State) (d : Nat) : State :=
  let m := metaBase s d
  let s := s.mset m 0x400000 fun i => if i % 64 = 0 then BitVec.ofNat 8 (i / 64) else if i % 64 = 1 then BitVec.ofNat 8 (i / 64 / 256) else 0
  let s := s.mset (m + 0x2400000) 0x3C00000 fun _ => 0
  let s := (List.range 4).foldl (fun t p =>
    if poolOn t d p then
      let n := poolPages t d p
      let t := t.mset (m + ringOff t d p) (4 * n) fun i => BitVec.ofNat 8 (i / 4 / 256 ^ (i % 4))
      let r := poolReg d p
      let t := (t.fs r Fld.PAN_POOL_FREE_COUNT 0).fs r Fld.PAN_POOL_SCRB_COUNT n
      let t := (t.fs r Fld.PAN_POOL_RSVD_COUNT 0).fs r Fld.PAN_POOL_USED_COUNT 0
      { t with panHead := setD 0 t.panHead (4 * d + p) 0 }
    else t) s
  let s := { s with ptRuns := s.ptRuns.filter fun r => !(r.1 == d), tcmds := adel s.tcmds d }
  let s := s.fs (panBase d) Fld.PAN_TRACKS_OPEN 0
  syncScrub (s.fs (panBase d) Fld.PAN_STS_READY 1) d

/-- The Pantry finishes the initialisation that EN started. -/
def execPantryReady (d : Nat) (s : State) : Host.Outcome State Fault Refusal :=
  .next (if s.fb (panBase d) Fld.PAN_CTL_EN && !s.fb (panBase d) Fld.PAN_STS_READY then panInit s d else s)

/-- The scrub engine zero-fills a page; with RATE = 0 it works on demand only. -/
def execScrubPage (d p : Nat) (s : State) : Host.Outcome State Fault Refusal :=
  .next (if s.fb (panBase d) Fld.PAN_STS_READY && poolOn s d p && decide (0 < poolScrb s d p)
      && decide (0 < s.fg (panBase d) Fld.PAN_SCRUB_RATE) then scrubOne s d p else s)

/-! ### Track commands (R166 to R171) -/

/-- Does the run of a pipeline use the track? -/
def runUses (r : Option AttRun) (t : Nat) : Bool := match r with | some x => x.track == t | none => false

/-- Does an attention command of the die, started earlier, still use the track? -/
def trackBusy (s : State) (d t : Nat) : Bool :=
  s.atts.any fun e => e.1 / 8 == d && (runUses e.2.app t || runUses e.2.att t)

/-- The first run of `n` free page-table units (R164). -/
def findRun (s : State) (d n : Nat) : Option Nat :=
  let own := s.ptRuns.filter fun r => r.1 == d
  let starts := 0 :: own.map fun r => r.2.1 + r.2.2
  let ok := fun a => decide (a + n ≤ 245760) && own.all fun r => !meets a n r.2.1 r.2.2
  (starts.filter ok).foldl (fun acc a => match acc with | none => some a | some b => some (min a b)) none

/-- Give the running track command its result; the Pahal command that asked for it is answered (R285). -/
def tcmdResult (s : State) (d code : Nat) (tag : Option Nat) (result : Nat) : State :=
  let s := (s.fs (panBase d) Fld.PAN_TCMD_STS_RESULT code).fs (panBase d) Fld.PAN_TCMD_STS_BUSY 0
  let s := s.fs (panBase d) Fld.PAN_STS_TCMD_BUSY 0
  match tag with
  | none => s
  | some t => if code = 0 then finishCmd s t 0 0 result else refuse s t 0x1E code

/-- OPEN. -/
def tcmdOpen (s : State) (d : Nat) (tag : Option Nat) : State :=
  let b := panBase d
  let t := s.fg b Fld.PAN_TCMD_ARG0_TRACK
  let p := s.fg b Fld.PAN_TCMD_ARG1_POOL
  let l := s.fg b Fld.PAN_TCMD_ARG1_LAYERS_M1 + 1
  let r := s.fg b Fld.PAN_TCMD_ARG1_RING_M1 + 1
  let w := s.fg b Fld.PAN_TCMD_ARG1_WINDOW
  if !poolOn s d p ∨ r < 2 ∨ w = 0 ∨ (r - 1) * 32 < w then tcmdResult s d 4 tag 0
  else
    let e := entryRead s d t
    let s := e.2
    if e.1.state ≠ 0 then tcmdResult s d 5 tag 0
    else if poolPages s d p < poolRsvd s d p + l * r then tcmdResult s d 2 tag 0
    else
      let units := cdiv (l * blockSize r) 256
      match findRun s d units with
      | none => tcmdResult s d 3 tag 0
      | some u =>
        let failed := ledgerMuted s d 6 p
        let s := { s with ptRuns := s.ptRuns ++ [(d, u, units)] }
        let s := s.fs (poolReg d p) Fld.PAN_POOL_RSVD_COUNT (poolRsvd s d p + l * r)
        let s := entryWrite s d t ⟨1, p, l, s.fg b Fld.PAN_TCMD_ARG0_CTX, s.fg b Fld.PAN_TCMD_ARG2_CTX_GEN, r, w, u, l * r, 0⟩
        let s := metaPut s d (0x2400000 + 256 * u) (List.replicate (l * blockSize r) 0)
        let s := poolCheck (s.faddWrap b Fld.PAN_TRACKS_OPEN 1) d p
        tcmdResult s d (if ledgerMuted s d 6 p && !failed then 7 else 0) tag 0

/-- The checks of RESET, CLOSE and QUERY: 0, STATE or NOT_OWNER. -/
def trackCheck (s : State) (d : Nat) (e : TrackEnt) : Nat :=
  if e.state ≠ 1 then 5
  else if e.ctx ≠ s.fg (panBase d) Fld.PAN_TCMD_ARG0_CTX ∨ e.gen ≠ s.fg (panBase d) Fld.PAN_TCMD_ARG2_CTX_GEN then 6
  else 0

/-- QUERY. -/
def tcmdQuery (s : State) (d : Nat) (tag : Option Nat) : State :=
  let e := entryRead s d (s.fg (panBase d) Fld.PAN_TCMD_ARG0_TRACK)
  let c := trackCheck e.2 d e.1
  if c ≠ 0 then tcmdResult e.2 d c tag 0
  else
    let r := blockRead e.2 d e.1 0
    let s := (r.2.wr (panBase d + Reg.PAN_TCMD_RES0) e.1.used).wr (panBase d + Reg.PAN_TCMD_RES1) (r.1.1 % 2 ^ 32)
    tcmdResult s d 0 tag (e.1.used + r.1.1 % 2 ^ 32 * 2 ^ 32)

/-- Close a track to new commands. -/
def trackClosing (d : Nat) (s : State) (t : Nat) : State :=
  let e := entryRead s d t
  entryWrite e.2 d t { e.1 with state := 2 }

/-- The command runs until the leases of its tracks have ended. -/
def tcmdWait (s : State) (d op : Nat) (ts : List Nat) (tag : Option Nat) : State :=
  let s := ts.foldl (trackClosing d) s
  let s := (s.fs (panBase d) Fld.PAN_TCMD_STS_BUSY 1).fs (panBase d) Fld.PAN_STS_TCMD_BUSY 1
  { s with tcmds := aput s.tcmds d ⟨op, ts, tag⟩ }

/-- RESET and CLOSE. -/
def tcmdEnd (s : State) (d op : Nat) (tag : Option Nat) : State :=
  let t := s.fg (panBase d) Fld.PAN_TCMD_ARG0_TRACK
  let e := entryRead s d t
  let c := trackCheck e.2 d e.1
  if c ≠ 0 then tcmdResult e.2 d c tag 0 else tcmdWait e.2 d op [t] tag

/-- The open tracks of a context, whatever their generation: entries with STATE 1, from the bytes that are listed. -/
def tracksOf (s : State) (d ctx : Nat) : List Nat :=
  let m := metaBase s d
  s.mem.filterMap fun e =>
    if m ≤ e.1 ∧ e.1 < m + 0x400000 ∧ (e.1 - m) % 64 = 2 ∧ e.2.toNat % 4 = 1 ∧ s.mnat (e.1 + 2) 2 = ctx then some ((e.1 - m) / 64)
    else none

/-- A write of PAN_TCMD_GO (R170). -/
def tcmdGo (s : State) (d op : Nat) (tag : Option Nat) : State :=
  let b := panBase d
  if !s.fb b Fld.PAN_STS_READY || (aget s.tcmds d).isSome then
    let s := s.fs b Fld.PAN_TCMD_STS_RESULT 1
    match tag with
    | some t => refuse s t 0x1E 1
    | none => s
  else match op with
    | 1 => tcmdOpen s d tag
    | 2 => tcmdEnd s d 2 tag
    | 3 => tcmdEnd s d 3 tag
    | 4 => tcmdQuery s d tag
    | 5 => tcmdWait s d 5 (tracksOf s d (s.fg b Fld.PAN_TCMD_ARG0_CTX)) tag
    | _ => tcmdResult s d 4 tag 0

/-- The pages of a track's layers, in order. -/
def trackPages (s : State) (d : Nat) (e : TrackEnt) : List Nat × State :=
  (List.range e.layers).foldl (fun acc l =>
    let r := blockRead acc.2 d e l
    (acc.1 ++ (r.1.2.2.filter fun w => bit w 31).map (· % 2 ^ 24), r.2)) ([], s)

/-- One closing track is drained: pages to the tail, tables cleared, and with CLOSE the reservation and the tables given
back (R168). -/
def trackDrain (d : Nat) (close : Bool) (s : State) (t : Nat) : State :=
  let e := entryRead s d t
  let ps := trackPages e.2 d e.1
  let s := metaPut ps.2 d (blockOff e.1 0) (List.replicate (e.1.layers * blockSize e.1.ring) 0)
  let s := freePages s d e.1.pool ps.1
  let s := entryWrite s d t { e.1 with state := if close then 0 else 1, used := 0 }
  if close then
    let s := { s with ptRuns := s.ptRuns.erase (d, e.1.pt, cdiv (e.1.layers * blockSize e.1.ring) 256) }
    let s := s.fs (poolReg d e.1.pool) Fld.PAN_POOL_RSVD_COUNT (poolRsvd s d e.1.pool - e.1.rsvd)
    poolCheck (s.fs (panBase d) Fld.PAN_TRACKS_OPEN (s.fg (panBase d) Fld.PAN_TRACKS_OPEN - 1)) d e.1.pool
  else s

/-- The leases of every closing track have ended: the track command completes. -/
def execTcmdLeasesDrained (d : Nat) (s : State) : Host.Outcome State Fault Refusal :=
  .next (match aget s.tcmds d with
    | none => s
    | some c =>
      if c.tracks.any (trackBusy s d) then s
      else
        let before := s.ledgerMute
        let s := c.tracks.foldl (trackDrain d (!(c.op == 2))) { s with tcmds := adel s.tcmds d }
        tcmdResult s d (if s.ledgerMute.length ≤ before.length then 0 else 7) c.tag 0)

/-! ### Register writes (R192) -/

/-- A write of the PAN_ block that its port has admitted. -/
def panRegWrite (s : State) (d off v : Nat) (spec : Option (RegSpec × Nat × Nat)) : State :=
  let b := panBase d
  if off = Reg.PAN_CTL then panCtlWrite s d v
  else if off = Reg.PAN_TCMD_GO then tcmdGo s d (v % 8) none
  else if (0x40 ≤ off ∧ off < 0xC0 ∧ off % 0x20 < 8) ∧ s.fb b Fld.PAN_CTL_EN then s.fs b Fld.PAN_ERR_CFG 1
  else regStore s (b + off) v spec

/-- The write a command makes of a register of the block. -/
def panWrite (s : State) (ini d off v : Nat) : State :=
  viaPort s ini (panBase d + off) fun t spec => panRegWrite t d off v spec

def execPantryEnable (ini d : Nat) (v : Word) (s : State) : Host.Outcome State Fault Refusal :=
  .next (panWrite s ini d Reg.PAN_CTL v.toNat)

def execTcmdOpen (ini d : Nat) (s : State) : Host.Outcome State Fault Refusal := .next (panWrite s ini d Reg.PAN_TCMD_GO 1)
def execTcmdReset (ini d : Nat) (s : State) : Host.Outcome State Fault Refusal := .next (panWrite s ini d Reg.PAN_TCMD_GO 2)
def execTcmdClose (ini d : Nat) (s : State) : Host.Outcome State Fault Refusal := .next (panWrite s ini d Reg.PAN_TCMD_GO 3)
def execTcmdQuery (ini d : Nat) (s : State) : Host.Outcome State Fault Refusal := .next (panWrite s ini d Reg.PAN_TCMD_GO 4)
def execTcmdCloseCtx (ini d : Nat) (s : State) : Host.Outcome State Fault Refusal := .next (panWrite s ini d Reg.PAN_TCMD_GO 5)

end Sys2Proof.Machine
end

