-- ==== Sys2Proof/Machine/EngineArith.lean ====
section
/-!
DEFINITION. Machine/EngineArith.lean: the arithmetic of a tensor engine as functions of operand bytes and bank words:
operand layout (R54 to R61), accumulate events (R62 to R67), write-back conversion (R68 to R75), the random generators
(R76) and the checker's sums and tolerance (R434 to R436).
-/
namespace Sys2Proof.Machine

open Sys2Proof

/-! ### Operand pairs (R52) -/

/-- What an operand pair gives: dense positions per accumulate event, an INT32 accumulator or not, and whether it is a
half-width-weight pair. -/
structure PairInfo where
  q : Nat
  int : Bool
  half : Bool
  deriving DecidableEq, Repr

/-- The legal operand pairs (R52); any other is a format error. -/
def pairInfo (a w : Fmt) : Option PairInfo :=
  match a, w with
  | .int8, .int8 => some ⟨1, true, false⟩
  | .int8, .int4 => some ⟨2, true, true⟩
  | .mxint8, .mxint8 => some ⟨1, false, false⟩
  | .fp16, .fp16 => some ⟨1, false, false⟩
  | .bf16, .bf16 => some ⟨1, false, false⟩
  | .int8, .mxfp4 | .int8, .e2m3 | .int8, .e3m2 => some ⟨2, false, true⟩
  | a, w =>
    if a.isFP8 then
      if w.isFP8 then some ⟨1, false, false⟩
      else match w with
        | .int4 | .mxfp4 | .e2m3 | .e3m2 => some ⟨2, false, true⟩
        | _ => none
    else none

/-- The formats of an ENG_MODE word, if both are formats. -/
def modeFmts (mode : Nat) : Option (Fmt × Fmt) :=
  match Fmt.ofCode (bits mode 3 0), Fmt.ofCode (bits mode 7 4) with
  | some a, some w => some (a, w)
  | _, _ => none

/-- The pair of an ENG_MODE word. -/
def modePair (mode : Nat) : Option PairInfo :=
  match modeFmts mode with
  | some (a, w) => pairInfo a w
  | none => none

/-- K is admitted (R59). -/
def kOk (a w : Fmt) (p : PairInfo) (sparse : Bool) (k : Nat) : Bool :=
  decide (1 ≤ k) && decide (k ≤ 65535)
    && (!p.half || decide (k % 2 = 0)) && (!sparse || decide (k % 4 = 0))
    && (!(a.isMX || w.isMX) || decide (k % 32 = 0))

/-- Bytes of an activation slice and of a weight slice (R55, R56). -/
def aSlice (a : Fmt) : Nat := 2 * a.width
def wSlice (w : Fmt) : Nat := 4 * w.width

/-- The operand ranges of the registers an MMA uses: address and length (R54 to R58). -/
def mmaRanges (a w : Fmt) (sparse : Bool) (k aA wA mA asA wsA : Nat) : List (Nat × Nat) :=
  [(aA, aSlice a * k), (wA, if sparse then 2 * wSlice w * (k / 4) else wSlice w * k)]
    ++ (if sparse then [(mA, 16 * (k / 4))] else [])
    ++ (if a = .mxint8 then [(asA, 16 * (k / 32))] else [])
    ++ (if w.isMX then [(wsA, 32 * (k / 32))] else [])

/-- A range admitted as an operand range (R54). -/
def rangeOk (r : Nat × Nat) : Bool := decide (r.1 % 64 = 0) && decide (r.1 + r.2 ≤ 0x20000)

/-! ### Decoded operands -/

/-- The operand bytes of an MMA, read from scratch. -/
structure MmaBytes where
  a : List Byte
  w : List Byte
  sp : List Byte
  asc : List Byte
  wsc : List Byte
  deriving DecidableEq, Repr

/-- A[i][k] with its block scale (R50, R55, R58). -/
def opA (f : Fmt) (m : MmaBytes) (i k : Nat) : FVal :=
  let w := if f.width = 16 then leAt m.a (32 * k + 2 * i) 2 else byteAt m.a (16 * k + i)
  let v := f.decode w
  if f = .mxint8 then v.mul (e8m0 (byteAt m.asc (16 * (k / 32) + i))) else v

/-- Element j of weight slice t (R56). -/
def wElem (f : Fmt) (m : MmaBytes) (t j : Nat) : Nat :=
  leAt m.w (t * wSlice f) (wSlice f) / 2 ^ (f.width * j) % 2 ^ f.width

/-- The metadata nibble of group g, column j (R57). -/
def nibble (m : MmaBytes) (g j : Nat) : Nat := byteAt m.sp (16 * g + j / 2) / 16 ^ (j % 2) % 16

/-- The nibble names no valid pair (R61). -/
def badNibble (n : Nat) : Bool := decide (n / 4 ≤ n % 4)

/-- W[k][j] with its block scale; unstored sparse positions and groups with a bad nibble are exact zeros (R57 to R61). In
a block whose scale byte is 0xFF those zeros are elements like the others, and NaN (R50, R66; assumption 16). -/
def opW (f : Fmt) (sparse : Bool) (m : MmaBytes) (k j : Nat) : FVal :=
  let v :=
    if sparse then
      let n := nibble m (k / 4) j
      if badNibble n then .fin false 0 0
      else if k % 4 = n % 4 then f.decode (wElem f m (2 * (k / 4)) j)
      else if k % 4 = n / 4 then f.decode (wElem f m (2 * (k / 4) + 1) j)
      else .fin false 0 0
    else f.decode (wElem f m k j)
  if f.isMX then v.mul (e8m0 (byteAt m.wsc (32 * (k / 32) + j))) else v

/-! ### Accumulate events (R62, R63, R66) -/

/-- A product, exact within the FP32 range, else ±Inf or rounded into the subnormal range (R62). -/
def product (a w : FVal) : FVal :=
  match a.mul w with
  | .fin s m e =>
    if !below m e 128 then .inf s
    else if below m e (-126) then fF32.round .rne (.fin s m e)
    else .fin s m e
  | v => v

/-- Flags of an accumulation, as ENG_ERR bits [6:4]. -/
structure AccFlags where
  nan : Bool
  fovf : Bool
  isat : Bool
  deriving DecidableEq, Repr

def AccFlags.none : AccFlags := ⟨false, false, false⟩
def AccFlags.or (a b : AccFlags) : AccFlags := ⟨a.nan || b.nan, a.fovf || b.fovf, a.isat || b.isat⟩

/-- One accumulate event on an FP32 bank word: the exact sum rounded once (R63, R66). `hot` says that no product had
an infinite operand. -/
def accF (word : Nat) (ps : List FVal) (hot : Bool) : Nat × AccFlags :=
  let old := dec32 word
  if old.isNan then (0x7FC00000, AccFlags.none)
  else
    let v := fF32.round .rne (ps.foldl FVal.add old)
    match v with
    | .nan => (0x7FC00000, ⟨true, false, false⟩)
    | .inf _ => (enc32 v, ⟨false, hot && !old.isInf, false⟩)
    | _ => (enc32 v, AccFlags.none)

/-- One accumulate event on an INT32 bank word (R63). -/
def accI (word : Nat) (ps : List Int) : Nat × AccFlags :=
  let v := ps.foldl (· + ·) (toSigned 32 word)
  let c := clampI (-2147483648) 2147483647 v
  (ofSigned 32 c, ⟨false, false, !decide (c = v)⟩)

/-- The integer a decoded value is (integer formats only). -/
def FVal.int : FVal → Int
  | .fin s m e => sgn s (m * 2 ^ e.toNat)
  | _ => 0

/-- All accumulate events of one output element, `q` positions each, in ascending k (R63, R64). -/
def accEvents (int : Bool) (q : Nat) : (fuel : Nat) → List (FVal × FVal) → Nat → AccFlags → Nat × AccFlags
  | 0, _, w, fl => (w, fl)
  | n + 1, ps, w, fl =>
    match ps with
    | [] => (w, fl)
    | _ =>
      let ev := ps.take q
      let r := if int then accI w (ev.map fun p => p.1.int * p.2.int)
        else accF w (ev.map fun p => product p.1 p.2) (ev.all fun p => !p.1.isInf && !p.2.isInf)
      accEvents int q n (ps.drop q) r.1 (fl.or r.2)

/-- One output element of an MMA: the bank word after it and its flags. -/
def mmaElem (a w : Fmt) (p : PairInfo) (sparse : Bool) (k : Nat) (m : MmaBytes) (i j word : Nat) : Nat × AccFlags :=
  accEvents p.int (if sparse then 2 * p.q else p.q) k
    ((List.range k).map fun t => (opA a m i t, opW w sparse m t j)) word AccFlags.none

/-! ### The checker's sums (R434) -/

/-- Sum of exact values, as the checker keeps it: an integer, or a binary32 pattern of the exact sum rounded once. -/
def chkSum (int : Bool) (xs : List FVal) : Int :=
  if int then (xs.map FVal.int).foldl (· + ·) 0 else (enc32 (sumF xs) : Nat)

/-- Add a contribution to an old sum, with a single rounding for an FP32 bank. -/
def chkAdd (int : Bool) (old : Int) (xs : List FVal) : Int :=
  if int then old + (xs.map FVal.int).foldl (· + ·) 0
  else (enc32 ((dec32 old.toNat).add (sumF xs)) : Nat)

/-- A sum as an exact value. -/
def chkVal (int : Bool) (v : Int) : FVal := if int then ofInt v else dec32 v.toNat

/-- The four vectors of a bank after an MMA; `c` holds them before it (R434). -/
def chkMma (int : Bool) (k : Nat) (fa fw : Nat → Nat → FVal) (colP colM rowP rowM : List Int) :
    List Int × List Int × List Int × List Int :=
  let ks := List.range k
  let sK := ks.map fun t => chkVal int (chkSum int ((List.range 16).map fun i => fa i t))
  let mK := ks.map fun t => chkVal int (chkSum int ((List.range 16).map fun i => (fa i t).abs))
  let tK := ks.map fun t => chkVal int (chkSum int ((List.range 32).map fun j => fw t j))
  let vK := ks.map fun t => chkVal int (chkSum int ((List.range 32).map fun j => (fw t j).abs))
  let zipK := fun (xs : List FVal) (g : Nat → FVal) => (ks.zip xs).map fun p => p.2.mul (g p.1)
  ((List.range 32).map fun j => chkAdd int (colP.getD j 0) (zipK sK fun t => fw t j),
   (List.range 32).map fun j => chkAdd int (colM.getD j 0) (zipK mK fun t => (fw t j).abs),
   (List.range 16).map fun i => chkAdd int (rowP.getD i 0) (zipK tK fun t => fa i t),
   (List.range 16).map fun i => chkAdd int (rowM.getD i 0) (zipK vK fun t => (fa i t).abs))

/-- The tolerance for magnitude `mag` (a binary32 pattern) and n_t, times the TOL_MULT eighths (R436), rounded up to
binary32; beyond the formula's range it is free. -/
def tolerance (mult nt mag : Nat) : FVal :=
  if 2 ^ 24 ≤ nt then dec32 (Config.tolBeyond nt)
  else match dec32 mag with
    | .fin _ m e =>
      let g := min e (-145)
      let a := m * 2 ^ (e - g).toNat
      let b := 2 ^ ((-145) - g).toNat
      quotUp32 (mult * nt * (a + b * (2 ^ 24 - nt))) (2 ^ 24 - nt) (g - 3)
    | v => v

/-- One comparison: does it fail, and the difference's magnitude (R435). -/
def chkFails (int : Bool) (pred : Int) (sum : Int) (tol : FVal) : Bool × FVal :=
  let d := ((chkVal int sum).sub (chkVal int pred)).abs
  if int then (!decide (sum = pred), d) else (d.isNan || tol.lt d, d)

/-! ### Write-back (R68 to R75) -/

/-- One step of a random generator (R76). -/
def lfsrStep (x : Nat) : Nat := if x % 2 = 1 then Nat.xor (x / 2) 0x80200003 else x / 2

/-- `n` steps. -/
def lfsrSteps : (n : Nat) → Nat → Nat
  | 0, x => x
  | n + 1, x => lfsrSteps n (lfsrStep x)

/-- The binary32 value of a bank word (R68 step 1). -/
def bankVal (int : Bool) (w : Nat) : FVal := if int then fF32.round .rne (ofInt (toSigned 32 w)) else dec32 w

/-- Steps 1 and 2 of R68. -/
def wbValue (int sEn bEn : Bool) (sc bi w : Nat) : FVal :=
  let a := bankVal int w
  if sEn || bEn then
    let s := if sEn then dec32 sc else .fin false 1 0
    let p := s.mul a
    fF32.round .rne (p.add (if bEn then dec32 bi else .fin false 0 0))
  else a

/-- The rounding mode of R71: 0 RNE, 1 RTZ, 2 carried out as RNE unless the output is FP8. -/
def rndOf (c : Nat) : Rnd := if c = 1 then .rtz else .rne

/-- Step 3 of R68 for one element of a format other than MXINT8: pattern, OSAT flag, and the generator after it. -/
def wbConvert (f : Fmt) (rnd : Nat) (sat ftz : Bool) (v : FVal) (lfsr : Nat) : Nat × Bool × Nat :=
  match f with
  | .int8 => let r := convInt8 (rndOf rnd) v; (r.1, r.2, lfsr)
  | _ =>
    match f.float with
    | none => (0, false, lfsr)
    | some ff =>
      if rnd = 2 ∧ f.isFP8 then
        let draw := ff.srInexact v && !(ftz && (match v with | .fin _ m e => ff.isSubMag m e | _ => false))
        let l := if draw then lfsrSteps 16 lfsr else lfsr
        let r := ff.convertSR sat ftz (l % 65536) v
        (r.1, r.2, l)
      else
        let r := ff.convert (rndOf rnd) sat ftz v
        (r.1, r.2, lfsr)

/-- The largest magnitude of a row, as a value. -/
def rowMax (vs : List FVal) : FVal := vs.foldl (fun m v => if m.lt v.abs then v.abs else m) (.fin false 0 0)

/-- A row as MXINT8: scale byte, elements, OSAT (R74). -/
def mxRow (rnd : Nat) (vs : List FVal) : Nat × List Nat × Bool :=
  if vs.any fun v => v.isNan || v.isInf then (0xFF, vs.map fun _ => 0, true)
  else match rowMax vs with
    | .fin _ m e =>
      if m = 0 then (0, vs.map fun _ => 0, false)
      else
        let x := clampI 0 254 (log2Mag m e + 127)
        let q := vs.map fun v => (toIntR (rndOf rnd) (v.mul (pow2 (133 - x)))).getD 0
        (x.toNat, q.map fun n => ofSigned 8 (clampI (-127) 127 n), q.any fun n => decide (n < -127) || decide (127 < n))
    | _ => (0xFF, vs.map fun _ => 0, true)

end Sys2Proof.Machine
end

