-- ==== Sys2Proof/Machine/Engine.lean ====
section
/-!
DEFINITION. Machine/Engine.lean: the tensor engine: ENG_GO and its checks, the start and the completion of operations,
faults and poison, and the engine's own registers (R44 to R87, R583).
-/
namespace Sys2Proof.Machine

open Sys2Proof

/-! ### Faults and poison -/

/-- A faulting error (R84) of the operation that the WREG at `pc` issued: the engine halts with its bits, discards every
held operation, and its sequencer ends the step with ARITH_FAULT. An operation that executes in the other pipeline is
discarded as if it had never run (assumption 16). -/
def engFault (s : State) (e errBits pc : Nat) : State :=
  let b := engBase e
  let s := s.wr (b + Reg.ENG_ERR) (Nat.lor (s.rd (b + Reg.ENG_ERR)) errBits)
  let g := s.eng e
  let s := s.setEng e { g with held := [], haltBits := Nat.lor g.haltBits errBits }
  let s := syncEng (s.fs b Fld.ENG_STS_HALT 1) e
  let s := recordFault s (e / 4) Fld.CORE_FAULT_ENG (e % 4) pc
  failStep s (e / 4) 0x41 (bits (s.rd (b + Reg.ENG_ERR)) 7 0 + (e % 4) * 256)

/-- Record error bits, of which those that fault do (R84): FMT, ADDR, SPMETA, DIS always, the others by mask. ENG_ERR_MASK
is read when the operation completes: it sets no operation up, so it is not among what ENG_GO latches (R80;
assumption 16). -/
def engErrors (s : State) (e errBits pc : Nat) : State :=
  let b := engBase e
  let mask := Nat.lor 0xF (bits (s.rd (b + Reg.ENG_ERR_MASK)) 7 4 * 16)
  let f := Nat.land errBits mask
  let s := s.wr (b + Reg.ENG_ERR) (Nat.lor (s.rd (b + Reg.ENG_ERR)) errBits)
  if f = 0 then s else engFault s e f pc

/-- Poisoned data reached an operation (R583): every held operation is discarded, no error bit, no halt; the step ends
with HW_ERROR. What an operation of the other pipeline leaves when it is discarded while it executes, the rule does not
say: it goes as if it had never run, its bank or rows unchanged (assumption 16). -/
def engPoison (s : State) (e : Nat) : State :=
  let s := syncEng (s.setEng e { s.eng e with held := [] }) e
  hwError s (e / 4) (e / 256)

/-! ### ENG_GO (R80 to R82) -/

/-- Is bank `b` INT32 once the held operations `h` have been done in order? -/
def bankIntAfter (h : List EngOp) (b : Nat) (now : Bool) : Bool :=
  h.foldl (fun t o =>
    match o.kind with
    | .mma => if bits o.mode 11 9 = b then (match modePair o.mode with | some p => p.int | none => t) else t
    | .load => if bits o.wbCtl 12 10 = b then decide (bits o.wbCtl 3 0 = 11) else t
    | .wb => t) now

def bankInt (s : State) (e b : Nat) : Bool := bit (s.fg (engBase e) Fld.ENG_STS_BANK_INT) b

/-- The operation an ENG_GO write latches (R80). -/
def latchOp (s : State) (e : Nat) (kind : EngKind) : EngOp :=
  let b := engBase e
  ⟨kind, s.rd (b + Reg.ENG_MODE), s.rd (b + Reg.ENG_K), s.rd (b + Reg.ENG_A_ADDR), s.rd (b + Reg.ENG_W_ADDR),
   s.rd (b + Reg.ENG_META_ADDR), s.rd (b + Reg.ENG_AS_ADDR), s.rd (b + Reg.ENG_WS_ADDR), s.rd (b + Reg.ENG_WB_SB_ADDR),
   s.rd (b + Reg.ENG_WB_CTL), s.rd (b + Reg.ENG_WB_ADDR), s.rd (b + Reg.ENG_WB_STRIDE), s.rd (b + Reg.ENG_WB_XS_ADDR),
   false, seqPc s (e / 4)⟩

/-- Does an MMA break a format rule (R45, R48, R52, R59)? -/
def mmaFmtBad (s : State) (e : Nat) (o : EngOp) : Bool :=
  match modeFmts o.mode with
  | none => true
  | some (fa, fw) =>
    match pairInfo fa fw with
    | none => true
    | some p => !kOk fa fw p (bit o.mode 8) o.kdim
        || (bit o.mode 12 && !(bankIntAfter (s.eng e).held (bits o.mode 11 9) (bankInt s e (bits o.mode 11 9)) == p.int))

/-- The operand ranges of an MMA; an operand of no format has no bytes, and its address is checked alone. -/
def opRanges (o : EngOp) : List (Nat × Nat) :=
  match modeFmts o.mode with
  | some (fa, fw) => mmaRanges fa fw (bit o.mode 8) o.kdim o.aAddr o.wAddr o.metaAddr o.asAddr o.wsAddr
  | none => [(o.aAddr, 0), (o.wAddr, 0)] ++ (if bit o.mode 8 then [(o.metaAddr, 0)] else [])

/-- FMT as bit 0 and ADDR as bit 1 of ENG_ERR. -/
def stopBits (fmt addr : Bool) : Nat := b2n fmt + 2 * b2n addr

/-- The ENG_ERR bits that stop an MMA before it starts (R54, R84). -/
def mmaCheck (s : State) (e : Nat) (o : EngOp) : Nat := stopBits (mmaFmtBad s e o) (!(opRanges o).all rangeOk)

/-- Is an output format admitted (R70)? -/
def ofmtOk : Fmt → Bool
  | .int8 | .e4m3 | .e5m2 | .mxint8 | .fp16 | .bf16 | .fp32 | .int32 => true
  | _ => false

/-- Bytes of a write-back's or load's destination memory. -/
def wbSize (o : EngOp) : Nat := if bit o.wbCtl 13 then cmSize else scrSize

/-- Rows at a stride lie within the destination and keep their alignment (R87). -/
def rowsOk (o : EngOp) (rowLen : Nat) : Bool :=
  decide (o.wbAddr % 32 = 0) && decide (o.wbStride % 32 = 0) && decide (rowLen ≤ o.wbStride)
    && decide (o.wbAddr + 15 * o.wbStride + rowLen ≤ wbSize o)

/-- Does a write-back scale or add a bias? -/
def wbScaled (o : EngOp) : Bool := bit o.wbCtl 8 || bit o.wbCtl 9

/-- Is it a raw write-back, which writes the bank words unchanged and ignores RND, SAT and FTZ (R69)? -/
def wbRaw (o : EngOp) (f : Fmt) (int : Bool) : Bool :=
  !wbScaled o && ((f == .int32 && int) || (f == .fp32 && !int))

/-- The ENG_ERR bits that stop a WB before it starts (R54, R69 to R71, R87). -/
def wbCheck (s : State) (e : Nat) (o : EngOp) : Nat :=
  let f := Fmt.ofCode (bits o.wbCtl 3 0)
  let b := bits o.wbCtl 12 10
  let int := bankIntAfter (s.eng e).held b (bankInt s e b)
  let fmt := match f with
    | none => true
    | some f => !ofmtOk f || (!wbRaw o f int && (bits o.wbCtl 5 4 == 3 || f == .int32))
  let rowLen := match f with
    | some f => 32 * outBytes f
    | none => 0
  stopBits fmt (!rowsOk o rowLen || (wbScaled o && !rangeOk (o.sbAddr, 256))
    || (f == some .mxint8 && (!(o.xsAddr % 16 == 0) || decide (wbSize o < o.xsAddr + 16))))

/-- The ENG_ERR bits that stop a LOAD before it starts (R82, R87). -/
def loadCheck (o : EngOp) : Nat :=
  stopBits (!(bits o.wbCtl 3 0 == 10) && !(bits o.wbCtl 3 0 == 11)) (!rowsOk o 128)

/-- A GO value taken by an enabled engine that is not halted and has room: more than one operation bit is a format
error, and a value without one starts nothing and sets no bit (R80; assumption 16). -/
def goTake (s : State) (e v : Nat) : State :=
  let g := s.eng e
  let put := fun (o : EngOp) (err : Nat) =>
    if err = 0 then syncEng (s.setEng e { g with held := g.held ++ [o] }) e else engFault s e err (seqPc s (e / 4))
  match v % 8 with
  | 1 => let o := latchOp s e .mma; put o (mmaCheck s e o)
  | 2 => let o := latchOp s e .wb; put o (wbCheck s e o)
  | 4 => let o := latchOp s e .load; put o (loadCheck o)
  | 0 => s
  | _ => engFault s e 1 (seqPc s (e / 4))

/-- A write of ENG_GO by an initiator: discarded while halted (R84), DIS while disabled, and waiting while four operations
are held or an earlier write waits (R81). -/
def goWrite (s : State) (ini e v : Nat) : State :=
  let b := engBase e
  let g := s.eng e
  if s.fb b Fld.ENG_STS_HALT then s
  else if !s.fb b Fld.ENG_CTL_EN then engFault s e 8 (seqPc s (e / 4))
  else if decide (4 ≤ g.held.length) || !g.stalledGo.isEmpty then s.setEng e { g with stalledGo := g.stalledGo ++ [(ini, v)] }
  else goTake s e v

/-- The waiting writes of an engine are judged again, in order (R81, R84). -/
def takeWaiting (s : State) (e : Nat) : State :=
  let g := s.eng e
  g.stalledGo.foldl (fun t w => goWrite t w.1 e w.2) (s.setEng e { g with stalledGo := [] })

/-- ENG_GO written by an initiator through the register port. -/
def goRequest (s : State) (ini e v : Nat) : State :=
  viaPort s ini (engBase e + Reg.ENG_GO) fun t _ => goWrite t ini e v

/-- ENG_GO with the MMA bit (R80, R81). -/
def execEngGoMma (ini e : Nat) (v : Word) (s : State) : Host.Outcome State Fault Refusal :=
  .next (if bit v.toNat 0 then goRequest s ini e v.toNat else s)

/-- ENG_GO with the WB bit. -/
def execEngGoWb (ini e : Nat) (v : Word) (s : State) : Host.Outcome State Fault Refusal :=
  .next (if bit v.toNat 1 then goRequest s ini e v.toNat else s)

/-- ENG_GO with the LOAD bit (R82). -/
def execEngGoLoad (ini e : Nat) (v : Word) (s : State) : Host.Outcome State Fault Refusal :=
  .next (if bit v.toNat 2 then goRequest s ini e v.toNat else s)

/-! ### Starting an operation (R81) -/

/-- The bank an operation names. -/
def EngOp.bank (o : EngOp) : Nat := match o.kind with | .mma => bits o.mode 11 9 | _ => bits o.wbCtl 12 10

/-- Start the first waiting operation of a pipeline whose bank no earlier operation names; `seen` holds the earlier
operations. -/
def startOp (wbPipe : Bool) : (seen : List EngOp) → List EngOp → List EngOp
  | _, [] => []
  | seen, o :: os =>
    if (o.kind == .mma) == !wbPipe then
      -- the first operation of this pipeline: it alone may be executing
      if o.started || seen.any (fun p => p.bank == o.bank) then o :: os else { o with started := true } :: os
    else o :: startOp wbPipe (seen ++ [o]) os

def execEngOperationStart (e : Nat) (wbPipe : Bool) (s : State) : Host.Outcome State Fault Refusal :=
  let g := s.eng e
  .next (if s.fb (coreBase (e / 4)) Fld.CORE_STS_PREEMPT_PEND || !clocked s (e / 4) then s
    else syncEng (s.setEng e { g with held := startOp wbPipe [] g.held }) e)

/-! ### Completing operations -/

/-- The held operations without the executing one of a kind. -/
def dropOp (kind : EngKind) : List EngOp → List EngOp
  | [] => []
  | o :: os => if o.kind == kind && o.started then os else o :: dropOp kind os

def bankWord (g : Eng) (b n : Nat) : Nat := (getD 0 g.banks (512 * b + n)).toNat

/-- Put 512 words into a bank. -/
def putBank (g : Eng) (b : Nat) (ws : List Nat) : Eng :=
  { g with banks := ((List.range 512).zip ws).foldl (fun m p => setD 0 m (512 * b + p.1) (BitVec.ofNat 32 p.2)) g.banks }

def setBankInt (s : State) (e b : Nat) (int : Bool) : State :=
  let a := engBase e + Reg.ENG_STS
  s.wr a (setBits (s.rd a) (8 + b) (8 + b) (b2n int))

def AccFlags.bits (f : AccFlags) : Nat := b2n f.nan * 16 + b2n f.fovf * 32 + b2n f.isat * 64

def engChk (g : Eng) (b : Nat) : ChkBank := getD ChkBank.zero g.chk b

/-- Count in a checker counter that wraps. -/
def chkCount (s : State) (k : Nat) (f : Fld) : State := s.faddWrap (chkBase k) f 1

/-- An MMA's results into its bank: words, type, flags, checker sums (R44, R45, R61 to R67, R434). -/
def mmaDone (s : State) (e : Nat) (o : EngOp) : State :=
  match modeFmts o.mode with
  | none => s
  | some (fa, fw) =>
    match pairInfo fa fw with
    | none => s
    | some p =>
      let sp := bit o.mode 8
      let accum := bit o.mode 12
      let b := o.bank
      let rs := mmaRanges fa fw sp o.kdim o.aAddr o.wAddr o.metaAddr o.asAddr o.wsAddr
      let rd := sramBeats (rs.flatMap fun r => beatsOf (scrBase e + r.1) r.2) s
      let s := rd.2
      if rd.1 then engPoison (setBankInt (bankUndefined s e b) e b p.int) e
      else
        let by_ := fun (a n : Nat) => s.mrd (scrBase e + a) n
        let m : MmaBytes := ⟨by_ o.aAddr (aSlice fa * o.kdim),
          by_ o.wAddr (if sp then 2 * wSlice fw * (o.kdim / 4) else wSlice fw * o.kdim),
          if sp then by_ o.metaAddr (16 * (o.kdim / 4)) else [],
          if fa = .mxint8 then by_ o.asAddr (16 * (o.kdim / 32)) else [],
          if fw.isMX then by_ o.wsAddr (32 * (o.kdim / 32)) else []⟩
        let g := s.eng e
        let old := fun n => if accum then bankWord g b n else 0
        let rsl := (List.range 512).map fun n => mmaElem fa fw p sp o.kdim m (n / 32) (n % 32) (old n)
        let fl := rsl.foldl (fun a r => a.or r.2) AccFlags.none
        let c0 := if accum then engChk g b else ChkBank.zero
        let drop := !accum && (engChk g b).unwritten
        let v := chkMma p.int o.kdim (fun i t => opA fa m i t) (fun t j => opW fw sp m t j) c0.colP c0.colM c0.rowP c0.rowM
        let qe := if sp then 2 * p.q else p.q
        let c : ChkBank := ⟨v.1, v.2.1, v.2.2.1, v.2.2.2, c0.events + cdiv o.kdim qe, c0.positions + o.kdim,
          c0.tainted || fl.nan || fl.fovf || fl.isat, true⟩
        let g := putBank g b (rsl.map (·.1))
        let s := setBankInt (s.setEng e { g with chk := setD ChkBank.zero g.chk b c }) e b p.int
        let s := if drop then chkCount s (e / 4) Fld.CHK_CNT_DROP_COUNT else s
        let s := s.faddWrap (engBase e) Fld.ENG_MMA_CNT_COUNT 1
        let bad := sp && (List.range (o.kdim / 4)).any fun gr => (List.range 32).any fun j => badNibble (nibble m gr j)
        engErrors s e (fl.bits + b2n bad * 4) o.pc

/-- The executing MMA finishes. -/
def execMmaComplete (e : Nat) (s : State) : Host.Outcome State Fault Refusal :=
  match (s.eng e).held.find? fun o => o.kind == .mma && o.started && clocked s (e / 4) with
  | none => .next s
  | some o =>
    let s := syncEng (s.setEng e { s.eng e with held := dropOp .mma (s.eng e).held }) e
    .next (mmaDone s e o)

/-- 512 words enter a bank bit-exactly, with the checker sums of a LOAD (R82, R435). -/
def bankLoad (s : State) (e b : Nat) (int : Bool) (ws : List Nat) : State :=
  let val := fun i j => (if int then ofInt (toSigned 32 (ws.getD (32 * i + j) 0)) else dec32 (ws.getD (32 * i + j) 0))
  let rows := List.range 16
  let cols := List.range 32
  let c : ChkBank :=
    ⟨cols.map fun j => chkSum int (rows.map fun i => val i j), cols.map fun j => chkSum int (rows.map fun i => (val i j).abs),
     rows.map fun i => chkSum int (cols.map fun j => val i j), rows.map fun i => chkSum int (cols.map fun j => (val i j).abs),
     0, 32, false, (engChk (s.eng e) b).unwritten⟩
  let g := putBank (s.eng e) b ws
  setBankInt (s.setEng e { g with chk := setD ChkBank.zero g.chk b c }) e b int

/-- A LOAD's rows into its bank. -/
def loadDone (s : State) (e : Nat) (o : EngOp) : State :=
  let b := o.bank
  let int := decide (bits o.wbCtl 3 0 = 11)
  let rd := sramBeats ((List.range 16).flatMap fun i => beatsOf (wbKey e o i) 128) s
  let s := rd.2
  if rd.1 then engPoison (setBankInt (bankUndefined s e b) e b int) e
  else bankLoad s e b int ((List.range 512).map fun n => s.mnat (wbKey e o (n / 32) + 4 * (n % 32)) 4)

def execLoadComplete (e : Nat) (s : State) : Host.Outcome State Fault Refusal :=
  match (s.eng e).held.find? fun o => o.kind == .load && o.started && clocked s (e / 4) with
  | none => .next s
  | some o =>
    let s := syncEng (s.setEng e { s.eng e with held := dropOp .load (s.eng e).held }) e
    .next (loadDone s e o)

/-! ### Write-back (R68 to R75) -/

/-- The 16 rows of a write-back: bytes of each row, the scale byte, OSAT, and the generators after it. -/
def wbRows (f : Fmt) (ctl : Nat) (int : Bool) (word : Nat → Nat) (scale bias : Nat → Nat) (lfsr : List Word) :
    List (List Nat × Nat) × Bool × List Word :=
  let sEn := bit ctl 8
  let bEn := bit ctl 9
  let rnd := bits ctl 5 4
  let raw := !sEn && !bEn && (decide (f = .int32) || (decide (f = .fp32) && !int))
  (List.range 16).foldl (fun (acc : List (List Nat × Nat) × Bool × List Word) i =>
    if raw then (acc.1 ++ [((List.range 32).map fun j => word (32 * i + j), 0)], acc.2)
    else
      let vs := (List.range 32).map fun j => wbValue int sEn bEn (scale j) (bias j) (word (32 * i + j))
      if f = .mxint8 then
        let r := mxRow rnd vs
        (acc.1 ++ [(r.2.1, r.1)], acc.2.1 || r.2.2, acc.2.2)
      else
        let r := ((List.range 32).zip vs).foldl (fun (a : List Nat × Bool × List Word) p =>
          let x := wbConvert f rnd (bit ctl 6) (bit ctl 7) p.2 (a.2.2.getD p.1 1).toNat
          (a.1 ++ [x.1], a.2.1 || x.2.1, setNth a.2.2 p.1 (BitVec.ofNat 32 x.2.2))) ([], false, acc.2.2)
        (acc.1 ++ [(r.1, 0)], acc.2.1 || r.2.1, r.2.2)) ([], false, lfsr)

/-- The bytes of a row of elements. -/
def rowBytes (f : Fmt) (xs : List Nat) : List Byte := xs.flatMap fun x => leBytes (outBytes f) x

/-- A write-back's rows to its destination; does poison stop it (R583)? -/
def wbWrite (s : State) (e : Nat) (o : EngOp) : Bool × State :=
  match Fmt.ofCode (bits o.wbCtl 3 0) with
  | none => (false, s)
  | some f =>
    let rd := if wbScaled o then sramBeats (beatsOf (scrBase e + o.sbAddr) 256) s else (false, s)
    let s := rd.2
    if rd.1 then (true, engPoison (wbUndefined s e o) e)
    else
      let g := s.eng e
      let r := wbRows f o.wbCtl (bankInt s e o.bank) (bankWord g o.bank)
        (fun j => s.mnat (scrBase e + o.sbAddr + 4 * j) 4) (fun j => s.mnat (scrBase e + o.sbAddr + 128 + 4 * j) 4) g.lfsr
      let s := s.setEng e { g with lfsr := r.2.2 }
      let s := ((List.range 16).zip r.1).foldl (fun t p => sramWrite t (wbKey e o p.1) (rowBytes f p.2.1)) s
      let s := if f = .mxint8 then
          sramWrite s ((if bit o.wbCtl 13 then cmBase (e / 4) else scrBase e) + o.xsAddr)
            (r.1.map fun p => BitVec.ofNat 8 p.2)
        else s
      (false, engErrors s e (b2n r.2.1 * 128) o.pc)

/-! ### Registers with an effect -/

/-- ENG_SR_SEED re-seeds the 32 generators (R76). -/
def seedWrite (s : State) (e v : Nat) : State :=
  (s.wr (engBase e + Reg.ENG_SR_SEED) v).setEng e { s.eng e with lfsr := (List.range 32).map (lfsrSeed v) }

def execEngSrSeedWrite (ini e : Nat) (v : Word) (s : State) : Host.Outcome State Fault Refusal :=
  .next (viaPort s ini (engBase e + Reg.ENG_SR_SEED) fun t _ => seedWrite t e v.toNat)

/-- ENG_ERR bits clear by writing 1; HALT clears when every bit that made the fault has been cleared (R84). -/
def errClear (s : State) (e v : Nat) : State :=
  let b := engBase e
  let err := s.rd (b + Reg.ENG_ERR)
  let left := err - Nat.land err v
  let s := s.wr (b + Reg.ENG_ERR) left
  let g := s.eng e
  if s.fb b Fld.ENG_STS_HALT && decide (Nat.land left g.haltBits = 0) then
    (s.setEng e { g with haltBits := 0 }).fs b Fld.ENG_STS_HALT 0
  else s

def execEngErrClear (ini e : Nat) (v : Word) (s : State) : Host.Outcome State Fault Refusal :=
  .next (viaPort s ini (engBase e + Reg.ENG_ERR) fun t _ => errClear t e v.toNat)

/-- A write of a register of an engine's block by an initiator. -/
def engRegWrite (s : State) (ini e off v : Nat) : State :=
  if off = Reg.ENG_GO then goWrite s ini e v
  else if off = Reg.ENG_SR_SEED then seedWrite s e v
  else if off = Reg.ENG_ERR then errClear s e v
  else
    let a := engBase e + off
    match locate s.part a with
    | some l => regStore s a v (regAt s.part l)
    | none => s

end Sys2Proof.Machine
end

