-- ==== Sys2Proof/Machine/Checker.lean ====
section
/-!
DEFINITION. Machine/Checker.lean: the checker of a core at a write-back: the comparisons, the skip cases, the injected
and the self-test comparison, and the record of a mismatch (R435 to R437, R446, R449, R551).
-/
namespace Sys2Proof.Machine

open Sys2Proof

/-- One comparison of a WB check: axis (0 column, 1 row), index, predicted sum, formed sum, tolerance. -/
structure Comparison where
  axis : Nat
  index : Nat
  pred : Int
  sum : Int
  tol : FVal
  deriving DecidableEq, Repr

/-- The comparisons of a bank, columns 0 to 31 then rows 0 to 15 (R435, R449). -/
def comparisons (int : Bool) (mult : Nat) (c : ChkBank) (word : Nat → Nat) : List Comparison :=
  let val := fun i j => if int then ofInt (toSigned 32 (word (32 * i + j))) else dec32 (word (32 * i + j))
  let nt := c.events + c.positions + 48
  let tol := fun (m : Int) => if int then FVal.fin false 0 0 else tolerance mult nt m.toNat
  let cols := (List.range 32).map fun j =>
    (⟨0, j, c.colP.getD j 0, chkSum int ((List.range 16).map fun i => val i j), tol (c.colM.getD j 0)⟩ : Comparison)
  let rows := (List.range 16).map fun i =>
    (⟨1, i, c.rowP.getD i 0, chkSum int ((List.range 32).map fun j => val i j), tol (c.rowM.getD i 0)⟩ : Comparison)
  cols ++ rows

/-- Does a comparison fail when the predicted sum is shifted by 2τ + 2^−126, or by 1 for an INT32 bank (R446, R551)? -/
def shiftedFails (int : Bool) (c : Comparison) : Bool :=
  if int then !decide (c.sum = c.pred + 1)
  else
    let p := (chkVal int c.pred).add ((c.tol.add c.tol).add (pow2 (-126)))
    let d := ((chkVal int c.sum).sub p).abs
    d.isNan || c.tol.lt d

/-- TOL_MULT, at least 8 (CHK_CTL). -/
def tolMult (s : State) (k : Nat) : Nat := max 8 (s.fg (chkBase k) Fld.CHK_CTL_TOL_MULT)

/-- The dispatcher hears of a mismatch: the first asks for a decision; one in a re-execution makes it suspect (R451,
R453). -/
def noteMismatch (s : State) (k : Nat) : State :=
  match stepOfCore s k with
  | none => s
  | some (tag, c, r) =>
    let re := match r.reexec with
      | .none => .undecided
      | .running => .again
      | x => x
    s.setCmd tag { c with step := some { r with reexec := re, mmCores := if r.mmCores.contains k then r.mmCores else r.mmCores ++ [k] } }

/-- A mismatch of core `k` (R449): recorded when the record is free, counted, reported to both islands. -/
def logMismatch (s : State) (k info diff tol : Nat) : State :=
  let b := chkBase k
  let s := if s.fb b Fld.CHK_MM_INFO_VALID then s
    else ((s.wr (b + Reg.CHK_MM_INFO) info).wr (b + Reg.CHK_MM_DIFF) diff).wr (b + Reg.CHK_MM_TOL) tol
  ((s.faddSat b Fld.CHK_STEP_MM_COUNT 1).faddWrap b Fld.CHK_CNT_MM_COUNT 1).reportBoth 0x0A (unitOfCore k)

/-- A mismatch at a write-back: its first failing comparison (R449). -/
def recordMismatch (s : State) (e bank : Nat) (int : Bool) (c : Comparison) : State :=
  let k := e / 4
  let info := e % 4 + bank * 4 + c.axis * 32 + c.index * 64 + b2n int * 2048
    + s.fg (coreBase k) Fld.CORE_STEP_TAG * 4096 + 2 ^ 31
  let diff := if int then min (c.sum - c.pred).natAbs 0xFFFFFFFF else enc32 (chkFails int c.pred c.sum c.tol).2
  noteMismatch (logMismatch s k info diff (if int then 0 else enc32 c.tol)) k

/-- Does the injection slot name this core (R551 target 6)? -/
def coreSel (k : Nat) (w1 _w2 _w3 : Nat) : Bool := bits w1 2 0 == k / 8 % 8 && bits w1 5 3 == k % 8

/-- The self-test comparison at a WB check (R446): the state with DONE and PASS, and whether the test failed. -/
def selfTestAt (s : State) (k : Nat) (int : Bool) (cs : List Comparison) : State × Bool :=
  if !(s.core k).selfTest then (s, false)
  else
    let b := chkBase k
    let axis := s.fg b Fld.CHK_ST_AXIS
    let idx := s.fg b Fld.CHK_ST_INDEX
    let pos := if axis = 0 then idx else 32 + idx % 16
    let pass := match (cs.drop pos).head? with | some c => shiftedFails int c | none => true
    let s := s.setCore k { s.core k with selfTest := false }
    (((s.fs b Fld.CHK_ST_DONE 1).fs b Fld.CHK_ST_PASS (b2n pass)).fs b Fld.CHK_ST_PATTERN 0, !pass)

/-- The WB check of an operation (R435 to R437): the state after it, and whether a self-test failed at it. -/
def wbChecked (s : State) (e : Nat) (o : EngOp) : State × Bool :=
  let k := e / 4
  let b := o.bank
  let g := s.eng e
  let int := bankInt s e b
  let c := engChk g b
  let s := s.setEng e { g with chk := setD ChkBank.zero g.chk b { c with unwritten := false } }
  let special := !int && (List.range 512).any fun n => (dec32 (bankWord g b n)).isNan || (dec32 (bankWord g b n)).isInf
  if c.tainted || special || !s.fb (chkBase k) Fld.CHK_CTL_EN then (chkCount s k Fld.CHK_CNT_SKIP_COUNT, false)
  else
    let s := chkCount s k Fld.CHK_CNT_CHECK_COUNT
    let cs := comparisons int (tolMult s k) c (bankWord g b)
    let inj := inject s (k / 64) 6 (coreSel k)
    let s := inj.2
    let fails := fun (x : Comparison) =>
      if inj.1 ≠ 0 ∧ x.axis = 0 ∧ x.index = 0 then shiftedFails int x else (chkFails int x.pred x.sum x.tol).1
    let s := match cs.find? fails with
      | some x => recordMismatch s e b int x
      | none => s
    selfTestAt s k int cs

/-- A write-back done: the check, then conversion and its rows; the flag says that a self-test failed. -/
def wbDone (s : State) (e : Nat) (o : EngOp) : State × Bool :=
  let r := wbChecked s e o
  let w := wbWrite r.1 e o
  (w.2, r.2)

end Sys2Proof.Machine
end

