-- ==== Sys2Proof/Machine/Wire.lean ====
section
/-!
DEFINITION. Machine/Wire.lean: what passes over a link: its ends, the messages and their layout, flits with sequence
number, acknowledgement, credits and CRC, the links a message takes and the way its response comes back (R232 to R241).
-/
namespace Sys2Proof.Machine

open Sys2Proof

/-! ### Ends of links -/

inductive LinkKind where
  | die | host | span
  deriving DecidableEq, Repr

def linkKind (e : Nat) : LinkKind := if e < 26 then .die else if e < 30 then .host else .span

/-- The die an end lies on: compute dies, 4 the IOD, 5 the Porch. -/
def endDie (e : Nat) : Nat := if e < 20 then e / 5 else if e = 25 then 5 else 4
/-- Its port, module or sub-port. -/
def endPort (e : Nat) : Nat :=
  if e < 20 then e % 5 else if e < 25 then e - 20 else if e = 25 then 0 else if e < 30 then e - 26 else e - 30

/-- Base for the fields of a die-link port, a host module, a span sub-port. -/
def portBase (e : Nat) : Nat := ddlBase (endDie e) + 0x1000 * endPort e
def hostBase (m : Nat) : Nat := hpBase + 0x20 * m
def subBase (x : Nat) : Nat := spnBase + 0x400 * x

/-- The other end of a die link (R254); the host's and the other package's ends lie outside. -/
def farEnd (s : State) (e : Nat) : Option Nat :=
  if e < 20 then
    let d := e / 5
    let p := e % 5
    let n := if p < 2 then (d + 1) % 4 else (d + 3) % 4
    if p = 4 then some (20 + d) else if s.part.fitted n then some (5 * n + (p + 2) % 4) else none
  else if e < 24 then (if s.part.fitted (e - 20) then some (5 * (e - 20) + 4) else none)
  else if e = 24 then some 25
  else if e = 25 then some 24
  else none

/-- Does the end exist on this part? -/
def endFitted (s : State) (e : Nat) : Bool :=
  (if e < 20 then s.part.fitted (e / 5) else true) && (decide (26 ≤ e) || (farEnd s e).isSome)

/-- The other module of a ring pair. -/
def pairMate (e : Nat) : Option Nat := if e < 20 ∧ e % 5 < 4 then some (e / 5 * 5 + Nat.xor (e % 5) 1) else none

/-- Does the end carry traffic? -/
def linkUp (s : State) (e : Nat) : Bool :=
  match linkKind e with
  | .die => decide (2 ≤ s.fg (portBase e) Fld.DDL_STS_STATE)
  | .host => decide (2 ≤ s.fg (hostBase (e - 26)) Fld.HP_MOD_STS_STATE)
  | .span => s.fg (subBase (e - 30)) Fld.SPN_S_STS_STATE == 2

def linkEnd (s : State) (e : Nat) : LinkEnd := getD LinkEnd.down s.links e

/-- Receive buffer sizes by virtual channel (R236, R260). -/
def bufSizes (e : Nat) : List Nat := match linkKind e with | .host => [2048, 2048, 0, 64] | _ => [384, 1024, 1024, 64]

def addAt (xs : List Nat) (i n : Nat) : List Nat := setNth xs i (xs.getD i 0 + n)
def subAt (xs : List Nat) (i n : Nat) : List Nat := setNth xs i (xs.getD i 0 - n)
def addLists (xs ys : List Nat) : List Nat := (xs.zip ys).map fun p => p.1 + p.2
def mod32 (xs : List Nat) : List Nat := xs.map fun x => x % 2 ^ 32

/-- Store an end; a die link's DDL_CRED_VC registers show its credits and its occupied units. -/
def setEnd (s : State) (e : Nat) (l : LinkEnd) : State :=
  let s := { s with links := setD LinkEnd.down s.links e l }
  if e < 26 then
    (List.range 4).foldl (fun t v =>
      let b := portBase e + 4 * v
      (t.fs b Fld.DDL_CRED_VC_TX_CRED (l.creds.getD v 0)).fs b Fld.DDL_CRED_VC_RX_USED (l.used.getD v 0)) s
  else s

/-- The regulated path an end feeds: die and path (R354). -/
def endReg (e : Nat) : Option (Nat × Nat) :=
  if e < 20 then some (e / 5, if e % 5 = 4 then 10 else 9)
  else if e < 24 then some (4, e - 20)
  else if e = 24 then none
  else if e = 25 then some (5, 0)
  else if e < 30 then none
  else some (4, 4 + (e - 30) / 2)

/-- Units of a span port's receive buffer in use (R364): what its sub-ports hold of messages that still arrive, and the
requests that wait at the port, a span word and two words each and the data of a write. -/
def spanFill (s : State) (n : Nat) : Nat :=
  (linkEnd s (30 + 2 * n)).used.getD 0 0 + (linkEnd s (31 + 2 * n)).used.getD 0 0
    + sumN (s.reqs.map fun r => if r.ini = 0x806 + n ∧ r.stage = .port then cdiv (24 + r.data.length) 16 else 0)
    + 2 * (s.semMsgs.filter fun m => match m.src with | .span x _ => x % 4 / 2 == n | _ => false).length

/-- The buffer of its requests: the units of VC0 at each of its sub-ports, one when none is up. -/
def spanUnits (s : State) (n : Nat) : Nat :=
  384 * max 1 ((List.range 2).filter fun x => linkUp s (30 + 2 * n + x)).length

/-- The urgency wire of a span port after its fill or its levels changed (R364). -/
def syncSpanUrg (s : State) (n : Nat) : State :=
  let b := bwrBase 4 + 4 * (21 + n)
  let f := 64 * spanFill s n
  let c := spanUnits s n
  if s.fg b Fld.BWR_URGN_HI * c ≤ f then s.fs b Fld.BWR_URGN_ACTIVE 1
  else if f ≤ s.fg b Fld.BWR_URGN_LO * c then s.fs b Fld.BWR_URGN_ACTIVE 0
  else s

def syncSpanUrgs (s : State) : State := syncSpanUrg (syncSpanUrg s 0) 1

/-! ### Messages (R233 to R235, R247, R261) -/

/-- The common word of a message (R233). -/
structure Common where
  mtype : Nat
  size : Nat
  cls : Nat
  poison : Bool
  urg : Bool
  init : Nat
  ctx : Nat
  cgen : Nat
  txid : Nat
  deriving DecidableEq, Repr

def Common.word (c : Common) : Nat :=
  c.mtype % 16 + c.size % 4 * 2 ^ 4 + c.cls % 8 * 2 ^ 6 + b2n c.poison * 2 ^ 9 + b2n c.urg * 2 ^ 10
    + c.init % 2 ^ 12 * 2 ^ 12 + c.ctx % 2 ^ 16 * 2 ^ 24 + c.cgen % 2 ^ 8 * 2 ^ 40 + c.txid % 2 ^ 16 * 2 ^ 48

def Common.ofWord (w : Nat) : Common :=
  ⟨bits w 3 0, bits w 5 4, bits w 8 6, bit w 9, bit w 10, bits w 23 12, bits w 39 24, bits w 47 40, bits w 63 48⟩

/-- Channel and length of a message from its common word; none where the link's kind does not carry it (R234, R247,
R261). A NOP has no channel. -/
def msgInfo (k : LinkKind) (w : Nat) : Option (Option Nat × Nat) :=
  let t := w % 16
  let data := match bits w 5 4 with | 0 => 64 | 1 => 32 | 2 => 8 | _ => 256
  let carried := match k with
    | .die => decide (t ≤ 12) && !(bits w 5 4 == 3)
    | .host => t == 0 || t == 1 || t == 2 || t == 14
    | .span => [0, 1, 2, 3, 5, 6, 7, 8, 10, 13].contains t
  if !carried then none
  else match t with
    | 0 => some (none, 8)
    | 1 => some (some 0, 16)
    | 2 => some (some 0, 16 + data)
    | 3 => some (some 0, 16)
    | 4 => some (some 0, 16)
    | 5 => some (some 3, 64)
    | 6 => some (some 1, 8 + data)
    | 7 => some (some 1, 8)
    | 8 => some (some 1, 16)
    | 9 => some (some 1, 8)
    | 10 => some (some 1, 16)
    | 11 => some (some 2, 272)
    | 12 => some (some 2, 16)
    | 13 => some (some 3, 64)
    | _ => some (some 0, 16)

/-- The SIZE code that carries `n` bytes, and the bytes a code carries. -/
def sizeCode (n : Nat) : Nat := if n = 256 then 3 else if n ≤ 8 then 2 else if n ≤ 32 then 1 else 0
def sizeBytes (c : Nat) : Nat := match c with | 0 => 64 | 1 => 32 | 2 => 8 | _ => 256

/-- A message's bytes: the common word, the words that follow, and its data, padded to the size its code names. -/
def msgBytes (c : Common) (ws : List Nat) (data : List Byte) : List Byte :=
  leBytes 8 c.word ++ ws.flatMap (leBytes 8)
    ++ (if data.isEmpty then [] else data ++ leBytes (sizeBytes c.size - data.length) 0)

/-- Credit units and bytes of messages that follow each other (R236). -/
def packed (ms : List (List Byte)) : Nat × List Byte := (sumN (ms.map fun m => cdiv m.length 16), ms.flatten)

/-- The parts of a request on a die link, where a message carries at most 64 bytes: address and length of each. -/
def parts64 : (fuel : Nat) → (a n : Nat) → List (Nat × Nat)
  | 0, _, _ => []
  | f + 1, a, n => if n = 0 then [] else
      let m := min n (64 - a % 64)
      (a, m) :: parts64 f (a + m) (n - m)

def reqParts (a n : Nat) : List (Nat × Nat) := parts64 (n / 64 + 2) a n

/-- The messages of a request on a die link: RD or WR, with the address and DGEN word. -/
def reqMsgs (r : Req) : List (List Byte) :=
  (reqParts r.addr r.len).map fun p =>
    msgBytes ⟨if r.write then 2 else 1, sizeCode p.2, r.cls, false, r.urg, r.ini, r.ctx, r.cgen, r.txid⟩
      [p.1 % 2 ^ 48 + r.dgen % 2 ^ 8 * 2 ^ 48] (if r.write then (r.data.drop (p.1 - r.addr)).take p.2 else [])

/-- MTYPE of a response. -/
def RespKind.mtype (k : RespKind) : Nat := match k with | .data | .poison => 6 | .ack => 7 | .err => 8 | .sem => 10

/-- The messages of a response that carries `data` in parts of at most `cap` bytes. A poisoned one carries bytes nobody
uses. -/
def respMsgs (r : Resp) (cap : Nat) (data : List Byte) : List (List Byte) :=
  let one := fun (n : Nat) (ws : List Nat) (d : List Byte) =>
    msgBytes ⟨r.kind.mtype, sizeCode n, r.cls, r.kind == .poison, r.urg, r.ini, r.ctx, r.cgen, r.txid⟩ ws d
  match r.kind with
  | .err => [one 64 [r.code % 256] []]
  | .sem => [one 64 [r.code] []]
  | .ack => if cap = 64 then (reqParts 0 r.len).map fun _ => one 64 [] [] else [one 64 [] []]
  | _ =>
    if cap = 64 then (reqParts 0 r.len).map fun p => one p.2 [] ((data.drop p.1).take p.2)
    else [one r.len [] (data.take 256)]

/-- The span word that goes before a message on a span link (R247). -/
def spanWord (dst src ttl : Nat) : List Byte := leBytes 8 (dst % 2 ^ 12 + src % 2 ^ 12 * 2 ^ 12 + ttl % 2 ^ 6 * 2 ^ 24)

/-! ### Flits (R232, R237, R238) -/

/-- One step of CRC-64 (R237). -/
def crc64Bits : (n : Nat) → Nat → Nat
  | 0, c => c
  | n + 1, c => crc64Bits n (if 2 ^ 63 ≤ c then Nat.xor (2 * c % 2 ^ 64) 0x42F0E1EBA9EA3693 else 2 * c)

def crc64 (bs : List Byte) : Nat :=
  Nat.xor (bs.foldl (fun c b => crc64Bits 8 (Nat.xor c (b.toNat * 2 ^ 56))) (2 ^ 64 - 1)) (2 ^ 64 - 1)

/-- The bytes of a flit: SEQ and FTYPE, ACK_SEQ with ACK_VALID once a flit has been accepted, the units returned, the
payload, the CRC; `bad` when an injection corrupts it. -/
def flitBytes (l : LinkEnd) (ftype seq : Nat) (creds : List Nat) (payload : List Byte) (bad : Bool) : List Byte :=
  let b := leBytes 2 (seq % 4096 + ftype * 4096) ++ leBytes 2 ((l.rxSeq + 4095) % 4096 + b2n l.heard * 4096)
    ++ creds.flatMap (leBytes 1) ++ payload ++ leBytes (240 - payload.length) 0
  b ++ leBytes 8 (if bad then Nat.xor (crc64 b) 1 else crc64 b)

/-- Flits a replay buffer holds. -/
def replayCap (e : Nat) : Nat := match linkKind e with | .span => 256 | _ => 128

/-- Has the end credits, and its replay buffer room, for `units` of a virtual channel? -/
def hasRoom (s : State) (e vc units : Nat) : Bool :=
  let l := linkEnd s e
  linkUp s e && decide (units ≤ l.creds.getD vc 0) && decide (l.unacked.length + cdiv units 15 ≤ replayCap e)

/-- The ends whose messages go on here when they are down: the other module of a ring pair, the other host modules. -/
def mates (e : Nat) : List Nat :=
  match pairMate e with
  | some m => [m]
  | none => if 26 ≤ e ∧ e < 30 then (rangeFrom 26 4).filter fun x => !(x == e) else []

/-- May the end send new messages of `units` on a virtual channel now? Those that a down mate left go first (R243). -/
def canSend (s : State) (e vc units : Nat) : Bool :=
  hasRoom s e vc units && (mates e).all fun m => linkUp s m || (linkEnd s m).unacked.isEmpty

/-- Does an armed injection slot corrupt the next payload flit of the end? -/
def flitInject (s : State) (e : Nat) : Bool × State :=
  let sel := fun (w1 _ _ : Nat) => bits w1 10 8 == endPort e
  let r := if e < 20 then inject s (e / 5) 4 sel
    else if e < 25 then inject s 4 1 sel
    else if e = 25 then inject s 5 0 fun _ _ _ => true
    else if e < 30 then inject s 4 2 sel
    else inject s 4 3 sel
  (decide (0 < r.1), r.2)

/-- Does a host module keep its VC0 credits back: the doorbell buffer is full, or messages wait in its VC0 buffer, among
them requests whose links have no credits (R236, R260, R295)? -/
def holdsVc0 (s : State) (e : Nat) : Bool :=
  decide (26 ≤ e ∧ e < 30) && (decide (512 ≤ s.pendDb.length)
    || (s.reqs.any fun r => r.stage == .port && decide (0xE00 ≤ r.ini) && r.mod + 26 == e) || s.vc0.any fun m =>
    match m with | .dbell n _ _ _ | .head n _ _ _ => n + 26 == e | .host r => r.mod + 26 == e)

/-- Units an end returns in one flit: at most 255 by channel; `hold` keeps those of VC0 back. -/
def giveBack (hold : Bool) (l : LinkEnd) : List Nat × LinkEnd :=
  let g := (l.owed.map fun x => min x 255).zipIdx.map fun p => if hold ∧ p.2 = 0 then 0 else p.1
  (g, { l with owed := (l.owed.zip g).map fun p => p.1 - p.2, gave := mod32 (addLists l.gave g), ackDue := 0 })

/-- What the transmitter latches at a SEQ of 0: credits less units received back (R343). -/
def txTerms (l : LinkEnd) : List Nat := (l.creds.zip l.got).map fun p => (p.1 + 2 ^ 32 - p.2) % 2 ^ 32

/-- One payload flit leaves: the credits of the messages that start in it are consumed, and it is kept until it is
acknowledged. -/
def sendOne (s : State) (e vc units : Nat) (payload : List Byte) : State :=
  let j := flitInject s e
  let u := ledgerUpdate j.2 (endDie e) 0 e
  let s := u.2
  let l := linkEnd s e
  let l := if l.txSeq = 0 then { l with txLatch := txTerms l } else l
  let g := giveBack (holdsVc0 s e) l
  let l := { g.2 with creds := addAt (subAt g.2.creds vc units) vc u.1,
                      unacked := g.2.unacked ++ [⟨l.txSeq, vc, units, payload, j.1⟩],
                      txSeq := (l.txSeq + 1) % 4096,
                      since := if l.unacked.isEmpty then s.nowUs else l.since }
  (setEnd s e l).emit "FLIT" e ((flitBytes g.2 0 g.2.txSeq g.1 payload j.1).map (·.toNat))

/-- Messages leave in as many payload flits as they need. -/
def sendFlits (e vc : Nat) : (fuel : Nat) → (units : Nat) → List Byte → State → State
  | 0, _, _, s => s
  | f + 1, units, bs, s => if bs.isEmpty then s else sendFlits e vc f 0 (bs.drop 240) (sendOne s e vc units (bs.take 240))

def sendFlit (s : State) (e vc units : Nat) (bs : List Byte) : State := sendFlits e vc (bs.length / 240 + 1) units bs s

/-- Messages of a down module's unacknowledged flits go out on its mate, in order (R243). -/
def reissue (e m : Nat) : (fuel : Nat) → State → State
  | 0, s => s
  | n + 1, s =>
    match (linkEnd s e).unacked with
    | [] => s
    | f :: fs =>
      if hasRoom s m f.vc f.units then
        reissue e m n (sendOne (setEnd s e { linkEnd s e with unacked := fs }) m f.vc f.units f.payload)
      else s

/-! ### The links a message takes (R240, R241) -/

/-- The module of a ring pair that carries a message meant for end `e`: itself, or its mate while it is down. -/
def liveEnd (s : State) (e : Nat) : Nat :=
  match pairMate e with | some m => if linkUp s e || !linkUp s m then e else m | none => e

/-- The ends a message passes from die `f` to die `t` for an address, in order; 7 stands for the host port and the span
ports, which lie on the IOD. -/
def pathEnds (s : State) (f t a : Nat) : List Nat :=
  let ring := fun (x y : Nat) => liveEnd s (5 * x + (if y = (x + 1) % 4 then 0 else 2) + bits a 8 8)
  let toIod := fun x => if x = 5 then 25 else 5 * x + 4
  let ofIod := fun x => if x = 5 then 24 else 20 + x
  if f = t then []
  else if f < 4 ∧ t < 4 then
    (if t = (f + 2) % 4 then (match viaDie s f a with | some v => [ring f v, ring v t] | none => []) else [ring f t])
  else (if f < 4 ∨ f = 5 then [toIod f] else []) ++ (if t < 4 ∨ t = 5 then [ofIod t] else [])

/-- The way back over the same modules. -/
def backEnds (s : State) (es : List Nat) : List Nat := es.reverse.filterMap (farEnd s)

def canPass (s : State) (es : List Nat) (vc units : Nat) : Bool := es.all fun e => canSend s (liveEnd s e) vc units
def passAll (s : State) (es : List Nat) (vc : Nat) (m : Nat × List Byte) : State :=
  es.foldl (fun t e => sendFlit t (liveEnd t e) vc m.1 m.2) s

/-- The regulators of the links charge a message of a requester (R353). -/
def chargeAll (s : State) (es : List Nat) (x : Charge) : State :=
  es.foldl (fun t e => match endReg e with | some (d, p) => pathServe t d p x | none => t) s

/-- A message between dies that stands in `ms` may pass, and passes. -/
def msgCan (s : State) (f t a vc : Nat) (m : List Byte) : Bool := routed s f t a && canPass s (pathEnds s f t a) vc (cdiv m.length 16)
def msgPass (s : State) (f t a vc : Nat) (m : List Byte) : State := passAll s (pathEnds s f t a) vc (packed [m])

/-! ### The MSG of a die (R234) -/

/-- A MSG: 64 bytes, its words as they stand. -/
def dieMsg (f : Nat) (words : List Nat) : List Byte :=
  msgBytes ⟨5, 0, 7, false, false, if f < 4 then dcIni f else 0x800, 0, 0, 0⟩ ((words ++ List.replicate 7 0).take 7) []

/-- May a MSG pass from die `f` to die `t`? -/
def dieMsgCan (s : State) (f t : Nat) : Bool := msgCan s f t 0 3 (dieMsg f [])

/-- A MSG passes on VC3, charged 32 bytes, and is delivered (R240, R353). -/
def sendDieMsg (s : State) (f t : Nat) (words : List Nat) : State :=
  let s := chargeAll s (pathEnds s f t 0) ⟨if f < 4 then dcIni f else 0x800, 7, false, 32⟩
  (msgPass s f t 0 3 (dieMsg f words)).emit "MSG" t (f :: words)

/-! ### Requests, and where they are metered (R109, R353, R356) -/

/-- A request as the fabric carries it: its label and its generations are the requester's now (R244, R356, R364). -/
def newReq (s : State) (ini txid : Nat) (write : Bool) (addr len : Nat) (data : List Byte) : Req :=
  ⟨ini, txid, write, addr, len, data, (iniCtx s ini).1, (iniCtx s ini).2, iniGen s ini, .port, s.nowUs, 0, false,
    iniClass s ini, iniUrgent s ini, 0, [], [], false, 0⟩

/-- The die a request enters the fabric on: its own, or the IOD for the islands, the host and span ports. -/
def entryDie (ini : Nat) : Nat := if iniDie ini < 4 ∨ iniDie ini = 5 then iniDie ini else 4

/-- The links a request to an address passes. -/
def reqPath (s : State) (ini a : Nat) : List Nat :=
  pathEnds s (entryDie ini) (let t := spaceDie s a; if t = 6 then 4 else t) a

/-- The regulated paths before the first link: a core's requests pass its cluster's port, unless they stay in the
cluster's own memories (R112, R354). -/
def clusterPath (s : State) (r : Req) : Option (Nat × Nat) :=
  match iniCore r.ini with
  | none => none
  | some k => (match space s r.addr with
    | .landing c _ => if c = k / 8 then none else some (k / 64, 1 + k / 8 % 8)
    | .coreMem j _ => if j / 8 = k / 8 then none else some (k / 64, 1 + k / 8 % 8)
    | _ => some (k / 64, 1 + k / 8 % 8))

/-- What a request asks of a link or a cluster port. -/
def linkCharge (r : Req) : Charge := ⟨r.ini, r.cls, r.urg, chargeBytes 4 0 r.len r.write⟩

/-- A request is metered at its cluster's port and at every link it passes. -/
def meterLinks (s : State) (r : Req) : State :=
  let s := match clusterPath s r with | some (d, p) => pathServe s d p (linkCharge r) | none => s
  chargeAll s (reqPath s r.ini r.addr) (linkCharge r)

/-- A request that is answered at once is metered on its whole way, under the class label, context and generation its
initiator gives it. -/
def meter (s : State) (r : Req) : State :=
  let s := meterLinks s r
  match space s r.addr with
  | .dram raw => pathServe s (rawDie raw) 0 ⟨r.ini, r.cls, r.urg, chargeBytes (rawDie raw) 0 r.len r.write⟩
  | _ => s

/-- A read answered where it lands. Nobody uses the free bytes of a poisoned response, so a poisoned result carries none. -/
def memGet (s : State) (ini ctx a n : Nat) : AccRes × State :=
  let c := accCheck s ini a n false
  match c.1 with
  | some e => (.err e, c.2)
  | Option.none =>
    match space c.2 a with
    | .dram raw =>
      let r := dramRead c.2 raw n ⟨ini, ctx, false⟩
      (if r.1 then .poison false (rawDie raw) else .data (r.2.mrd raw n), r.2)
    | .landing cl _ =>
      let r := sramRead c.2 a n
      (if r.1 then .poison true (cl / 8) else .data (r.2.mrd a n), r.2)
    | .coreMem k _ =>
      let r := sramRead c.2 a n
      (if r.1 then .poison true (k / 64) else .data (r.2.mrd a n), r.2)
    | .boot => (.data ((List.range n).map fun i => bootByte c.2 (a + i)), c.2)
    | .reg => let r := regRead c.2 a; (.data (leBytes 4 r.1), r.2)
    | .none => (.err 1, c.2)

/-- A write of bytes to DRAM or SRAM; registers are written by viaPort. -/
def memPut (s : State) (ini ctx a : Nat) (bs : List Byte) : AccRes × State :=
  let c := accCheck s ini a bs.length true
  match c.1 with
  | some e => (.err e, c.2)
  | Option.none =>
    match space c.2 a with
    | .dram raw => (.ack, dramWrite c.2 raw bs ⟨ini, ctx, false⟩)
    | .landing _ _ => (.ack, sramWrite c.2 a bs)
    | .coreMem _ _ => (.ack, sramWrite c.2 a bs)
    | _ => (.err 1, c.2)

/-- A read of an initiator, metered where it passes. -/
def memRead (s : State) (ini ctx a n : Nat) : AccRes × State :=
  let r := memGet s ini ctx a n
  match r.1 with
  | .err e => (.err e, r.2)
  | x => (x, meter r.2 (newReq s ini 0 false a n []))

/-- Read parts of a range for their check and firewalls only, up to the first that fails. -/
def readAll (s : State) (ini ctx : Nat) : List (Nat × Nat) → AccRes × State
  | [] => (.ack, s)
  | p :: ps =>
    let r := memRead s ini ctx p.1 p.2
    match r.1 with
    | .data _ => readAll r.2 ini ctx ps
    | x => (x, r.2)

/-- A write of an initiator, metered where it passes. -/
def memWrite (s : State) (ini ctx a : Nat) (bs : List Byte) : AccRes × State :=
  let r := memPut s ini ctx a bs
  match r.1 with
  | .err e => (.err e, r.2)
  | x => (x, meter r.2 (newReq s ini 0 true a bs.length []))

end Sys2Proof.Machine
end

