-- ==== Sys2Proof/Machine/Stream.lean ====
section
/-!
DEFINITION. Machine/Stream.lean: raw streams: the stream table, slot credits, the consumer ring, STRSEG and STRCRED (R122 to
R127, R234, R240).
-/
namespace Sys2Proof.Machine

open Sys2Proof

def strmOpen (s : State) (st : Nat) : Bool :=
  s.fb (strmBase st) Fld.CLU_STRM_W0_VALID && s.fb (strmBase st) Fld.CLU_STRM_W0_OPEN

def strmSlots (s : State) (st : Nat) : Nat := s.fg (strmBase st) Fld.CLU_STRM_W0_SLOTS
/-- Bytes of a slot. -/
def slotBytes (s : State) (st : Nat) : Nat := 256 * s.fg (strmBase st) Fld.CLU_STRM_W0_SLOTSZ

/-- The endpoint encoding of a core and mover (CLU_STRM word 1). -/
def endpoint (k m : Nat) : Nat := 4 * k + 2 * m
def strmProd (s : State) (st : Nat) : Nat := s.fg (strmBase st) Fld.CLU_STRM_W1_PROD
def strmConsCore (s : State) (st : Nat) : Nat := s.fg (strmBase st) Fld.CLU_STRM_W1_CONS / 4

/-- A core's mover. -/
def getMover (c : CoreSt) (m : Nat) : Mover := if m = 0 then c.mov0 else c.mov1
def setMover (c : CoreSt) (m : Nat) (v : Mover) : CoreSt := if m = 0 then { c with mov0 := v } else { c with mov1 := v }

/-- Credits of the producer's context of a stream, if it has one. -/
def prodCredits (s : State) (st : Nat) : Option Nat :=
  let p := strmProd s st
  ((getMover (s.core (p / 4)) (p / 2 % 2)).ctxs.find? fun c => c.stream == st).map (·.credits)

/-- Give the producer's context `n` more credits; with no context (checkpointed) they go to CKPT_CRED (R127). -/
def addCredits (s : State) (st n : Nat) : State :=
  let p := strmProd s st
  let k := p / 4
  let m := p / 2 % 2
  match prodCredits s st with
  | some _ =>
    let c := s.core k
    let v := getMover c m
    s.setCore k (setMover c m { v with ctxs := v.ctxs.map fun x => if x.stream = st then { x with credits := x.credits + n } else x })
  | none => s.faddWrap (strmBase st) Fld.CLU_STRM_W4_CKPT_CRED n

/-- Slots of a stream in flight and credits returning. -/
def inFlight (s : State) (st : Nat) : Nat := (s.strSegs.filter fun x => x.stream == st).length
def returning (s : State) (st : Nat) : Nat := sumN ((s.strCreds.filter fun x => x.stream == st).map (·.count))

/-- Ledger 1 (R342, R343): producer credits, slots in flight, filled slots and returning credits make SLOTS. -/
def ledger1 (s : State) (st : Nat) : State :=
  let cr := match prodCredits s st with
    | some c => c
    | none => s.fg (strmBase st) Fld.CLU_STRM_W4_CKPT_CRED
  ledgerCheck s (st / 1024 % 4) 1 st
    (cr + inFlight s st + s.fg (strmBase st) Fld.CLU_STRM_W4_FILLED + returning s st) (strmSlots s st)

/-- Byte offset of a ring slot in the consumer's scratch or core memory. -/
def ringOffset (s : State) (st n : Nat) : Nat :=
  s.fg (strmBase st) Fld.CLU_STRM_W3_RING_BASE + n % max 1 (strmSlots s st) * slotBytes s st

/-- One segment of a slot is written to the consumer's ring at HEAD (R124, R125). -/
def segArrive (s : State) (x : StrSeg) : State :=
  let st := x.stream
  let b := strmBase st
  let k := strmConsCore s st
  let off := ringOffset s st (s.fg b Fld.CLU_STRM_W4_HEAD) + 256 * x.seg
  let bs := (x.data.drop (256 * x.seg)).take 256
  if s.fb b Fld.CLU_STRM_W0_RING_CM then sramWrite s (cmBase k + off) bs
  else (List.range 4).foldl (fun t i =>
    if bit (t.fg b Fld.CLU_STRM_W0_ENG_MASK) i then sramWrite t (scrBase (4 * k + i) + off) bs else t) s

/-- A slot is whole at the consumer: HEAD advances. -/
def slotArrive (s : State) (st : Nat) : State :=
  let b := strmBase st
  let s := s.fs b Fld.CLU_STRM_W4_HEAD ((s.fg b Fld.CLU_STRM_W4_HEAD + 1) % max 1 (strmSlots s st))
  let s := s.faddWrap b Fld.CLU_STRM_W4_FILLED 1
  s.faddWrap b Fld.CLU_STRM_W5_SENT 1

/-- The common word of a stream message from core `k`. -/
def strmCommon (s : State) (k mtype : Nat) : Common :=
  let ini := coreIni k 0
  ⟨mtype, 0, s.fg (coreBase k) Fld.CORE_STEP_CLASS, false, false, ini, (iniCtx s ini).1, (iniCtx s ini).2, 0⟩

/-- The STRSEG message of a slot's next segment (R234). -/
def segMsg (s : State) (x : StrSeg) : List Byte :=
  let last := decide (slotBytes s x.stream ≤ 256 * (x.seg + 1))
  msgBytes (strmCommon s (strmProd s x.stream / 4) 11)
    [x.stream % 2 ^ 12 + s.fg (strmBase x.stream) Fld.CLU_STRM_W4_HEAD % 64 * 2 ^ 12 + x.seg % 64 * 2 ^ 18 + b2n last * 2 ^ 24]
    ((x.data.drop (256 * x.seg)).take 256)

/-- The STRCRED message of returned credits (R234). -/
def credMsg (s : State) (x : StrCred) : List Byte :=
  msgBytes (strmCommon s (strmConsCore s x.stream) 12) [x.stream % 2 ^ 12 + x.count % 128 * 2 ^ 12] []

/-- The address whose bit [8] is the module a stream's messages take (R240). -/
def strmAddr (st : Nat) : Nat := 256 * (st % 2)

/-- The next segment of the first slot in flight of stream `st` crosses to the consumer's die, once its links have
credits; with the last one the slot has arrived. -/
def execStrseg (st : Nat) (s : State) : Host.Outcome State Fault Refusal :=
  match s.strSegs.find? fun x => x.stream == st with
  | none => .next s
  | some x =>
    let f := strmProd s st / 256
    let t := st / 1024 % 4
    .next (if !strmOpen s st then { s with strSegs := s.strSegs.erase x }
      else if !msgCan s f t (strmAddr st) 2 (segMsg s x) then s
      else
        let s := chargeAll s (pathEnds s f t (strmAddr st)) ⟨coreIni (strmProd s st / 4) 1, (strmCommon s (strmProd s st / 4) 11).cls, false, 256⟩
        let s := segArrive (msgPass s f t (strmAddr st) 2 (segMsg s x)) x
        if slotBytes s st ≤ 256 * (x.seg + 1) then slotArrive { s with strSegs := s.strSegs.erase x } st
        else { s with strSegs := s.strSegs.map fun y => if y = x then { x with seg := x.seg + 1 } else y })

/-- Returned credits of stream `st` reach its producer, once their links have credits. -/
def execStrcred (st : Nat) (s : State) : Host.Outcome State Fault Refusal :=
  match s.strCreds.find? fun x => x.stream == st with
  | none => .next s
  | some x =>
    let f := st / 1024 % 4
    let t := strmProd s st / 256
    .next (if !strmOpen s st then { s with strCreds := s.strCreds.erase x }
      else if !msgCan s f t (strmAddr st) 2 (credMsg s x) then s
      else
        let s := msgPass s f t (strmAddr st) 2 (credMsg s x)
        addCredits { s with strCreds := s.strCreds.erase x } st x.count)

/-- Open streams whose table entry names the core as producer or consumer. -/
def coreStreams (s : State) (k : Nat) : List Nat :=
  (s.regs.filterMap fun e =>
    match locate s.part e.1 with
    | some l => if l.blk == .dieClu && decide (0x8000 ≤ l.off) && decide (l.off % 32 = 0) then
        some (1024 * l.unit + (l.off - 0x8000) / 32) else none
    | none => none).filter fun st => strmOpen s st && (strmProd s st / 4 == k || strmConsCore s st == k)

/-- Has the producer's step of a stream not ended yet? -/
def producerLives (s : State) (k st : Nat) : Bool :=
  s.strKeys.any fun x => x.stream == st && x.tags.any fun p =>
    match s.cmd? p.1 with
    | some c => c.gen == p.2 && !(c.phase == .reply) && (match c.step with | some r => r.cores.contains k | none => false)
    | none => false

/-- The contexts of a core's mover changed: ledger 2 sees the update (R342). -/
def ctxUpdate (s : State) (k m : Nat) : State := poolUpdate s (k / 64) 2 (2 * k + m)

/-- A mover with a free context takes the open stream that has waited for one: its credits stand in CKPT_CRED until
then (R124). -/
def giveContext (s : State) (k m : Nat) : State :=
  let v := getMover (s.core k) m
  if 4 ≤ v.ctxs.length then s
  else match (coreStreams s k).find? fun st => strmProd s st == endpoint k m && !s.fb (strmBase st) Fld.CLU_STRM_W0_CKPT
      && producerLives s k st && !v.ctxs.any fun x => x.stream == st with
    | none => s
    | some st =>
      let cr := s.fg (strmBase st) Fld.CLU_STRM_W4_CKPT_CRED
      let s := s.fs (strmBase st) Fld.CLU_STRM_W4_CKPT_CRED 0
      ctxUpdate (syncCore (s.setCore k (setMover (s.core k) m { v with ctxs := v.ctxs ++ [⟨st, cr⟩] })) k) k m

/-- Close a stream: the entry clears and the producer's context is freed (R122). -/
def closeStream (s : State) (st : Nat) : State :=
  let p := strmProd s st
  let k := p / 4
  let m := p / 2 % 2
  let c := s.core k
  let v := getMover c m
  let s := ctxUpdate (syncCore (s.setCore k (setMover c m { v with ctxs := v.ctxs.filter fun x => !(x.stream == st) })) k) k m
  let b := strmBase st + 0x8000
  let s := (List.range 7).foldl (fun t i => t.wr (b + 4 * i) 0) s
  let s := { s with strSegs := s.strSegs.filter fun x => !(x.stream == st), strCreds := s.strCreds.filter fun x => !(x.stream == st) }
  giveContext { s with strKeys := s.strKeys.filter fun x => !(x.stream == st) } k m

/-- Has a step that declares the stream not ended yet? A stream without a record of its declaration is in use by
nothing. -/
def strmInUse (s : State) (st : Nat) : Bool :=
  s.strKeys.any fun x => x.stream == st && x.tags.any fun p =>
    match s.cmd? p.1 with
    | some c => c.gen == p.2 && !(c.phase == .reply)
    | none => false

/-- The die controller closes a stream once the groups that declare it have ended (assumption 80). -/
def execStreamClose (st : Nat) (s : State) : Host.Outcome State Fault Refusal :=
  .next (if strmOpen s st && !strmInUse s st then closeStream s st else s)

end Sys2Proof.Machine
end

