-- ==== Sys2Proof/Machine/Seq.lean ====
section
/-!
DEFINITION. Machine/Seq.lean: the scalar sequencer: fetch, the instructions of R96, the waits they make and how the
waits end (R95 to R103, R331, R335).
-/
namespace Sys2Proof.Machine

open Sys2Proof

/-! ### Scalar registers, the PC, fetch -/

/-- S[n]; S0 reads as zero (R95). -/
def sreg (s : State) (k n : Nat) : Nat := if n = 0 then 0 else s.rd (coreBase k + Reg.CORE_SEQ_S + 4 * n)
/-- Write S[n]; S0 keeps zero. -/
def setSreg (s : State) (k n v : Nat) : State := if n = 0 then s else s.wr (coreBase k + Reg.CORE_SEQ_S + 4 * n) v

/-- The PC takes a value; one outside core memory or not a multiple of 8 makes the fetch there fault (R95). Bits [2:0] of
the register read as 0 (R131). -/
def setPc (s : State) (k t : Nat) : State :=
  let s := (s.retired k).wr (coreBase k + Reg.CORE_SEQ_PC) (t % 2 ^ 20 / 8 * 8)
  if t < cmSize ∧ t % 8 = 0 then s else coreFault s k Fld.CORE_FAULT_SEQ_ADDR 0x42

/-- The instruction at the PC retires: the PC moves on. -/
def retire (s : State) (k : Nat) : State := setPc s k (seqPc s k + 8)

/-- The 64-bit instruction at the PC. -/
def instrAt (s : State) (k : Nat) : Nat := s.mnat (cmBase k + seqPc s k) 8

def iOp (w : Nat) : Nat := bits w 7 0
def iD (w : Nat) : Nat := bits w 12 8
def iA (w : Nat) : Nat := bits w 17 13
def iB (w : Nat) : Nat := bits w 22 18
def iF (w : Nat) : Nat := bits w 31 23
def iImm (w : Nat) : Nat := bits w 63 32

/-- May the sequencer issue: a step runs, no pre-emption is pending, nothing blocks it? -/
def seqReady (s : State) (k : Nat) : Bool :=
  seqRun s k && clocked s k && !s.fb (coreBase k) Fld.CORE_STS_PREEMPT_PEND && (s.core k).wait == .none

/-- Fetch the instruction and act on it; a poisoned fetch ends the step (R197). -/
def withFetch (s : State) (k : Nat) (f : Nat → State → State) : State :=
  let w := instrAt s k
  let r := sramRead s (cmBase k + seqPc s k) 8
  if r.1 then hwError r.2 k (k / 64) else f w r.2

/-- The meaning of the row of opcode `op`: it acts when the sequencer may issue and that opcode stands at the PC. -/
def seqDo (s : State) (k op : Nat) (f : Nat → State → State) : Host.Outcome State Fault Refusal :=
  .next (if seqReady s k && iOp (instrAt s k) == op then withFetch s k f else s)

/-- S[A] + IMM modulo 2^32. -/
def effAddr (s : State) (k w : Nat) : Nat := (sreg s k (iA w) + iImm w) % 2 ^ 32

/-- The ALU group's second operand: IMM when F[0] is set, else S[B] (R96). -/
def aluB (s : State) (k w : Nat) : Nat := if bit (iF w) 0 then iImm w else sreg s k (iB w)

/-- An ALU instruction: S[D] takes f(S[A], operand) modulo 2^32, and it retires. -/
def alu (f : Nat → Nat → Nat) (k w : Nat) (s : State) : State :=
  retire (setSreg s k (iD w) (f (sreg s k (iA w)) (aluB s k w) % 2 ^ 32)) k

/-! ### Simple instructions -/

def execSeqNop (k : Nat) (s : State) : Host.Outcome State Fault Refusal := seqDo s k 0x00 fun _ s => retire s k

def execSeqLi (k : Nat) (s : State) : Host.Outcome State Fault Refusal :=
  seqDo s k 0x03 fun w s => retire (setSreg s k (iD w) (iImm w)) k

def execSeqAdd (k : Nat) (s : State) : Host.Outcome State Fault Refusal := seqDo s k 0x04 (alu (· + ·) k)
def execSeqSub (k : Nat) (s : State) : Host.Outcome State Fault Refusal :=
  seqDo s k 0x05 (alu (fun a b => a + 2 ^ 32 - b) k)
def execSeqAnd (k : Nat) (s : State) : Host.Outcome State Fault Refusal := seqDo s k 0x06 (alu Nat.land k)
def execSeqOr (k : Nat) (s : State) : Host.Outcome State Fault Refusal := seqDo s k 0x07 (alu Nat.lor k)
def execSeqXor (k : Nat) (s : State) : Host.Outcome State Fault Refusal := seqDo s k 0x08 (alu Nat.xor k)
def execSeqMul (k : Nat) (s : State) : Host.Outcome State Fault Refusal := seqDo s k 0x09 (alu (· * ·) k)
def execSeqShl (k : Nat) (s : State) : Host.Outcome State Fault Refusal :=
  seqDo s k 0x0A (alu (fun a b => a * 2 ^ (b % 32)) k)
def execSeqShr (k : Nat) (s : State) : Host.Outcome State Fault Refusal :=
  seqDo s k 0x0B (alu (fun a b => a / 2 ^ (b % 32)) k)

/-- A branch condition (R96): 0 always, 1 EQ, 2 NE, 3 LT, 4 GE signed, 5 LTU, 6 GEU. -/
def brTaken (c a b : Nat) : Bool :=
  match c with
  | 0 => true
  | 1 => a == b
  | 2 => !(a == b)
  | 3 => decide (toSigned 32 a < toSigned 32 b)
  | 4 => decide (toSigned 32 b ≤ toSigned 32 a)
  | 5 => decide (a < b)
  | _ => decide (b ≤ a)

def execSeqBr (k : Nat) (s : State) : Host.Outcome State Fault Refusal :=
  .next (if seqReady s k && iOp (instrAt s k) == 0x0C && !(iF (instrAt s k) % 8 == 7) then
      withFetch s k fun w s =>
        if brTaken (iF w % 8) (sreg s k (iA w)) (sreg s k (iB w)) then setPc s k (iImm w) else retire s k
    else s)

def execSeqCyc (k : Nat) (s : State) : Host.Outcome State Fault Refusal :=
  seqDo s k 0x17 fun w s => retire (setSreg s k (iD w) (s.rd (coreBase k + Reg.CORE_CYC_LO))) k

/-- An opcode that R96 does not list, BR condition 7 or SEM operation 3. -/
def isIllop (w : Nat) : Bool :=
  decide (0x17 < iOp w) || (iOp w == 0x0C && iF w % 8 == 7) || (iOp w == 0x14 && iF w % 4 == 3)

def execIllop (k : Nat) (s : State) : Host.Outcome State Fault Refusal :=
  .next (if seqReady s k && isIllop (instrAt s k) then
      withFetch s k fun _ s => coreFault s k Fld.CORE_FAULT_ILLOP 0x42
    else s)

/-! ### The end of a step on the core -/

/-- FAIL ends the step with STEP_FAIL, DETAIL IMM[15:0]. -/
def execSeqFail (k : Nat) (s : State) : Host.Outcome State Fault Refusal :=
  seqDo s k 0x02 fun w s => failStep s k 0x40 (iImm w % 2 ^ 16)

/-! ### Core memory -/

/-- A word address of core memory: inside it and aligned (R96). -/
def wordOk (a : Nat) : Bool := decide (a + 4 ≤ cmSize) && decide (a % 4 = 0)

def execSeqLd (k : Nat) (s : State) : Host.Outcome State Fault Refusal :=
  seqDo s k 0x0D fun w s =>
    let a := effAddr s k w
    if wordOk a then
      let r := sramRead s (cmBase k + a) 4
      if r.1 then hwError r.2 k (k / 64)
      else retire (setSreg r.2 k (iD w) (r.2.mnat (cmBase k + a) 4)) k
    else coreFault s k Fld.CORE_FAULT_SEQ_ADDR 0x42

def execSeqSt (k : Nat) (s : State) : Host.Outcome State Fault Refusal :=
  seqDo s k 0x0E fun w s =>
    let a := effAddr s k w
    if wordOk a then retire (sramWrite s (cmBase k + a) (leBytes 4 (sreg s k (iB w)))) k
    else coreFault s k Fld.CORE_FAULT_SEQ_ADDR 0x42

/-! ### Registers of the own core block -/

/-- The package address of a core-block offset, if it lies in a named block of the own core (R33, R35, R96). -/
def ownReg (s : State) (k off : Nat) : Option (Nat × Loc) :=
  if off < 0x10000 ∧ off % 4 = 0 then
    match locate s.part (coreBase k + off) with
    | some l => some (coreBase k + off, l)
    | none => none
  else none

/-- A write of a CORE_ register that has no row of its own: CORE_STS.FAULT follows CORE_FAULT. -/
def coreRegWrite (s : State) (k a v : Nat) (spec : Option (RegSpec × Nat × Nat)) : State :=
  let s := regStore s a v spec
  s.fs (coreBase k) Fld.CORE_STS_FAULT (b2n !(s.rd (coreBase k + Reg.CORE_FAULT) == 0))

/-- Does an ENG_GO write of the core's sequencer wait at the engine? -/
def seqWaits (s : State) (k e : Nat) : Bool := (s.eng e).stalledGo.any fun w => w.1 == coreIni k 0

/-- WREG: an access error (CORE_CMD, a register with an RWL field) sets SEQ_ADDR; a full ENG_GO stalls (R81, R96). -/
def execSeqWreg (k : Nat) (s : State) : Host.Outcome State Fault Refusal :=
  seqDo s k 0x0F fun w s =>
    let v := sreg s k (iB w)
    match ownReg s k (effAddr s k w) with
    | none => coreFault s k Fld.CORE_FAULT_SEQ_ADDR 0x42
    | some (a, l) =>
      let spec := regAt s.part l
      let d := regDenied s (coreIni k 0) a l spec
      if d.1 then coreFault d.2 k Fld.CORE_FAULT_SEQ_ADDR 0x42
      else
        let s := match l.blk with
          | .eng => engRegWrite s (coreIni k 0) l.unit l.off v
          | _ => coreRegWrite s k a v spec
        if l.blk == .eng && seqWaits s k l.unit then s.setCore k { s.core k with wait := .stall }
        else if seqRun s k then retire s k else s

def execSeqRreg (k : Nat) (s : State) : Host.Outcome State Fault Refusal :=
  seqDo s k 0x10 fun w s =>
    match ownReg s k (effAddr s k w) with
    | none => coreFault s k Fld.CORE_FAULT_SEQ_ADDR 0x42
    | some (a, _) =>
      let r := regRead s a
      retire (setSreg r.2 k (iD w) r.1) k

/-! ### Issuing descriptors (R88, R104) -/

/-- The 32 bytes of a descriptor in core memory. -/
def descOk (a : Nat) : Bool := decide (a + 32 ≤ cmSize)

/-- Queue a vector descriptor, or stall while four are held. -/
def issueVec (s : State) (k a : Nat) : State :=
  if 4 ≤ (s.core k).vq.length then s.setCore k { s.core k with wait := .stall }
  else
    let r := sramRead s (cmBase k + a) 32
    if r.1 then hwError r.2 k (k / 64)
    else
      let s := r.2
      let c := s.core k
      let d : VecDesc := ⟨s.mrd (cmBase k + a) 32, seqPc s k, 0, false, false⟩
      retire (syncCore (s.setCore k { c with vq := c.vq ++ [d], wait := .none }) k) k

/-- Queue a mover descriptor, or stall while sixteen are held. -/
def issueMov (s : State) (k m a : Nat) : State :=
  if 16 ≤ (getMover (s.core k) m).queue.length then s.setCore k { s.core k with wait := .stall }
  else
    let r := sramRead s (cmBase k + a) 32
    if r.1 then hwError r.2 k (k / 64)
    else
      let s := r.2
      let c := { s.core k with wait := .none }
      let v := getMover c m
      let d : MovDesc := ⟨s.mrd (cmBase k + a) 32, seqPc s k, 0, false⟩
      retire (syncCore (s.setCore k (setMover c m { v with queue := v.queue ++ [d] })) k) k

def execSeqVec (k : Nat) (s : State) : Host.Outcome State Fault Refusal :=
  seqDo s k 0x11 fun w s =>
    if descOk (effAddr s k w) then issueVec s k (effAddr s k w) else coreFault s k Fld.CORE_FAULT_SEQ_ADDR 0x42

def execSeqSmv (k : Nat) (s : State) : Host.Outcome State Fault Refusal :=
  seqDo s k 0x12 fun w s =>
    if descOk (effAddr s k w) then issueMov s k (iF w % 2) (effAddr s k w)
    else coreFault s k Fld.CORE_FAULT_SEQ_ADDR 0x42

/-- The core's engines take the ENG_GO writes that wait and now have room (R81). -/
def takeStalled (s : State) (k : Nat) : State := (List.range 4).foldl (fun t i => takeWaiting t (4 * k + i)) s

/-- A stalled SMV, VEC or GO is accepted once room frees (R99). -/
def execSeqStallRelease (k : Nat) (s : State) : Host.Outcome State Fault Refusal :=
  let s := takeStalled s k
  .next (if (s.core k).wait == .stall && seqRun s k then
      let w := instrAt s k
      match iOp w with
      | 0x11 => issueVec s k (effAddr s k w)
      | 0x12 => issueMov s k (iF w % 2) (effAddr s k w)
      | _ =>
        if (List.range 4).any fun i => seqWaits s k (4 * k + i) then s
        else retire (s.setCore k { s.core k with wait := .none }) k
    else s)

/-! ### WAIT (R98) -/

/-- Do all the conditions a WAIT selects hold? -/
def waitHolds (s : State) (k f : Nat) : Bool :=
  let c := s.core k
  ((List.range 4).all fun i => !bit f i || (s.eng (4 * k + i)).held.isEmpty)
    && (!bit f 4 || c.vq.isEmpty) && (!bit f 5 || c.mov0.queue.isEmpty) && (!bit f 6 || c.mov1.queue.isEmpty)

def execSeqWait (k : Nat) (s : State) : Host.Outcome State Fault Refusal :=
  seqDo s k 0x13 fun w s =>
    if waitHolds s k (iF w) then retire s k else s.setCore k { s.core k with wait := .wait (iF w) }

/-- A blocked WAIT retires once its conditions hold. -/
def execWaitRetire (k : Nat) (s : State) : Host.Outcome State Fault Refusal :=
  .next (match (s.core k).wait with
    | .wait f => if waitHolds s k f then retire (s.setCore k { s.core k with wait := .none }) k else s
    | _ => s)

/-! ### Semaphores (R331, R335) -/

/-- Is the operation declared by the step's semaphore map? USE [0] wait, [1] signal. -/
def semDeclared (c : CoreSt) (num op : Nat) : Bool :=
  c.sems.any fun u => u.sem == num && bit u.use (if op = 1 then 1 else 0)

def semHold (c : CoreSt) (num : Nat) : Bool := c.sems.any fun u => u.sem == num && u.hold

/-- A SEM instruction: UNDECLARED and UNREACHABLE are answered at once, else the request is sent and the sequencer
waits for its result word (R331, R332). -/
def semIssue (k op w : Nat) (s : State) : State :=
  let raw := sreg s k (iA w) + iImm w
  let num := raw % 2 ^ 32
  let c := s.core k
  if !semDeclared c num op || decide (2 ^ 14 ≤ num) then
    let s := s.fs (synBase (k / 64)) Fld.SYN_ERR_UNDECL 1
    retire (setSreg s k (iD w) 0x10) k
  else
    let d := num / 4096
    if !s.part.fitted d || dieHeld s d || !routed s (k / 64) d (synBase d) then retire (setSreg s k (iD w) 0x13) k
    else
      let b := coreBase k
      let msg : SemMsg := ⟨.core k, num, op, semHold c num, s.fg b Fld.CORE_STEP_TAG, s.fg b Fld.CORE_STEP_GEN,
        s.fg b Fld.CORE_STEP_CLASS, s.coreGen k, 0, s.fg b Fld.CORE_CTXT_CTX, s.fg b Fld.CORE_CTXT_CTX_GEN⟩
      { s.setCore k { c with wait := .sem op num (iD w) } with semMsgs := s.semMsgs ++ [msg] }

/-- The row of a SEM operation. -/
def semDo (s : State) (k op : Nat) : Host.Outcome State Fault Refusal :=
  .next (if seqReady s k && iOp (instrAt s k) == 0x14 && iF (instrAt s k) % 4 == op then
      withFetch s k (semIssue k op)
    else s)

def execSeqSemWait (k : Nat) (s : State) : Host.Outcome State Fault Refusal := semDo s k 0
def execSeqSemSignal (k : Nat) (s : State) : Host.Outcome State Fault Refusal := semDo s k 1
def execSeqSemTryWait (k : Nat) (s : State) : Host.Outcome State Fault Refusal := semDo s k 2

/-- The SEMRSP to an initiator: the result word in bits [31:0] of its second word (R332). -/
def semRspMsg (ini : Nat) (w : Word) : List Byte := msgBytes ⟨10, 0, 0, false, false, ini, 0, 0, 0⟩ [w.toNat] []

/-- A response reaches the core: dropped when the core's domain has a new generation or the response answers another
step (R244), else the SEM retires with the result word in S[D]. -/
def rspArrive (s : State) (k : Nat) (r : SemRsp) (w : Word) : State :=
  let b := coreBase k
  match (s.core k).wait with
  | .sem _ _ d =>
    if r.dgen = s.coreGen k ∧ r.tag = s.fg b Fld.CORE_STEP_TAG ∧ r.gen = s.fg b Fld.CORE_STEP_GEN ∧ seqRun s k then
      retire (setSreg (s.setCore k { s.core k with wait := .none }) k d w.toNat) k
    else s
  | _ => s

/-- The first response for a core crosses from its unit's die, once its links have credits; with no route left the
request was answered with ERRRSP, and its code is UNREACHABLE (R243, R331). -/
def execSemResultArrive (k : Nat) (s : State) : Host.Outcome State Fault Refusal :=
  match s.semRsps.find? fun r => r.core == k with
  | none => .next s
  | some r =>
    let t := { s with semRsps := s.semRsps.erase r }
    .next (if !routed s r.die (k / 64) 0 then rspArrive t k r 0x13
      else if !canPass s (backEnds s (pathEnds s (k / 64) r.die 0)) 1 1 then s
      else rspArrive (passAll t (backEnds s (pathEnds s (k / 64) r.die 0)) 1 (packed [semRspMsg (coreIni k 0) r.result])) k r r.result)

/-! ### Raw-stream slots (R124, R126) -/

/-- Acquired, unreleased slots of a stream. -/
def acquiredOf (c : CoreSt) (st : Nat) : Nat := getD 0 c.acquired st

/-- Is the core the consumer of an open stream? -/
def isConsumer (s : State) (k st : Nat) : Bool := strmOpen s st && strmConsCore s st == k

/-- Hand the sequencer the oldest filled slot it has not acquired. -/
def sacqTake (s : State) (k st d : Nat) : State :=
  let c := s.core k
  let n := acquiredOf c st
  let off := ringOffset s st (s.fg (strmBase st) Fld.CLU_STRM_W4_TAIL + n)
  retire (setSreg (s.setCore k { c with acquired := setD 0 c.acquired st (n + 1), wait := .none }) k d off) k

/-- Does a filled, unacquired slot wait? -/
def slotWaits (s : State) (k st : Nat) : Bool :=
  decide (acquiredOf (s.core k) st < s.fg (strmBase st) Fld.CLU_STRM_W4_FILLED)

def execSeqSacq (k : Nat) (s : State) : Host.Outcome State Fault Refusal :=
  seqDo s k 0x15 fun w s =>
    let st := sreg s k (iA w)
    if st < 4096 ∧ isConsumer s k st then
      if slotWaits s k st then sacqTake s k st (iD w) else s.setCore k { s.core k with wait := .sacq st }
    else coreFault s k Fld.CORE_FAULT_STREAM 0x44

/-- A blocked SACQ retires once a filled slot has arrived. -/
def execSacqRetire (k : Nat) (s : State) : Host.Outcome State Fault Refusal :=
  .next (match (s.core k).wait with
    | .sacq st => if slotWaits s k st && seqRun s k then sacqTake s k st (iD (instrAt s k)) else s
    | _ => s)

/-- SREL: the slots leave the ring and their credits return to the producer; ledger 1 is checked (R124, R343). -/
def execSeqSrel (k : Nat) (s : State) : Host.Outcome State Fault Refusal :=
  seqDo s k 0x16 fun w s =>
    let st := sreg s k (iA w)
    let n := iImm w % 256
    if st < 4096 ∧ isConsumer s k st ∧ n ≤ acquiredOf (s.core k) st then
      let b := strmBase st
      let c := s.core k
      let s := s.setCore k { c with acquired := setD 0 c.acquired st (acquiredOf c st - n) }
      let s := s.fs b Fld.CLU_STRM_W4_TAIL ((s.fg b Fld.CLU_STRM_W4_TAIL + n) % max 1 (strmSlots s st))
      let s := s.fs b Fld.CLU_STRM_W4_FILLED (s.fg b Fld.CLU_STRM_W4_FILLED - n)
      let s := s.faddWrap b Fld.CLU_STRM_W6_RELEASED n
      let s := if n = 0 then s else { s with strCreds := s.strCreds ++ [⟨st, n⟩] }
      let u := ledgerUpdate s (st / 1024) 1 st
      retire (ledger1 u.2 st) k
    else coreFault s k Fld.CORE_FAULT_STREAM 0x44

end Sys2Proof.Machine
end

