-- ==== Sys2Proof/Machine/StepOps.lean ====
section
/-!
DEFINITION. Machine/StepOps.lean: what the dispatcher and the die controller do to a step on its cores: START, the class
in effect, pre-emption of a core and of a group, the checkpoint of streams, the save and the restore of a core (R97,
R122, R127 to R129, R322, R323, R349, R492).
-/
namespace Sys2Proof.Machine

open Sys2Proof

/-! ### Streams of a core -/

/-- A stream with a pre-empted end is checkpointed (R127): the credits are recorded (those of a stream that waits for a
context stand in the entry already), CKPT is set and the producer's context is freed; ledger 1 is checked (R343). -/
def checkpointStream (s : State) (st : Nat) : State :=
  let b := strmBase st
  if s.fb b Fld.CLU_STRM_W0_CKPT then s
  else
    let p := strmProd s st
    let cr := (prodCredits s st).getD (s.fg b Fld.CLU_STRM_W4_CKPT_CRED)
    let s := (s.fs b Fld.CLU_STRM_W4_CKPT_CRED cr).fs b Fld.CLU_STRM_W0_CKPT 1
    let c := s.core (p / 4)
    let v := getMover c (p / 2 % 2)
    let s := s.setCore (p / 4) (setMover c (p / 2 % 2) { v with ctxs := v.ctxs.filter fun x => !(x.stream == st) })
    giveContext (ledger1 (ctxUpdate (syncCore s (p / 4)) (p / 4) (p / 2 % 2)) st) (p / 4) (p / 2 % 2)

/-- On resume the die controller restores the context from the entry, once both ends run (R127); with four contexts in
use the stream waits for a free one, its credits in the entry (R124). -/
def restoreStream (s : State) (st : Nat) : State :=
  let b := strmBase st
  let p := strmProd s st
  let saved := fun k => (s.core k).saved.isSome
  if !s.fb b Fld.CLU_STRM_W0_CKPT || saved (p / 4) || saved (strmConsCore s st) then s
  else
    giveContext (s.fs b Fld.CLU_STRM_W0_CKPT 0) (p / 4) (p / 2 % 2)

/-! ### START (R97, R492) -/

/-- What the core shows of the step that runs on it. -/
def setStepRegs (s : State) (k tag gen cls ctx ctxGen : Nat) : State :=
  let b := coreBase k
  (s.wr (b + Reg.CORE_STEP) (tag + gen * 2 ^ 15 + cls * 2 ^ 23)).wr (b + Reg.CORE_CTXT) (ctx + ctxGen * 2 ^ 16)

/-- A step starts on a core: PC = CORE_SEQ_ENTRY, S1 to S3 as given, every other register zero; the step counter of
mismatches clears, the watchdog takes its limit, and a mover's HALT ends. -/
def startCore (s : State) (k s1 s2 s3 : Nat) : State :=
  let b := coreBase k
  let s := wakeCluster s (k / 8)
  let s := (List.range 32).foldl (fun t n => t.wr (b + Reg.CORE_SEQ_S + 4 * n)
    (if n = 1 then s1 else if n = 2 then s2 else if n = 3 then s3 else 0)) s
  let s := (s.fs b Fld.CORE_STS_SEQ_RUN 1).fs b Fld.CORE_STS_PREEMPT_PEND 0
  let s := (s.fs b Fld.CORE_SM_STS_HALT 0).fs (b + 4) Fld.CORE_SM_STS_HALT 0
  let s := s.wr (b + Reg.CORE_WDOG) (s.fg (rstBase (k / 64)) Fld.RST_HANG_WDOG_US)
  let s := setCoreBusy (s.fs (chkBase k) Fld.CHK_STEP_MM_COUNT 0) k true
  let s := s.setCore k { s.core k with wait := .none, acquired := [] }
  setPc s k (s.rd (b + Reg.CORE_SEQ_ENTRY))

/-! ### The class in effect (R349, R350, R356, R358) -/

/-- Hold records of a tag on a die: their numbers, from the words that are listed. -/
def holdsOn (s : State) (d : Nat) (p : Nat → Nat → Bool) : List Nat :=
  let b := synBase d + Reg.SYN_HOLD_W0
  s.regs.filterMap fun e =>
    if b ≤ e.1 ∧ e.1 < b + 0x40000 ∧ (e.1 - b) % 8 = 0 then
      (if bit e.2.toNat 12 && p e.2.toNat (s.rd (e.1 + 4)) then some ((e.1 - b) / 8) else none)
    else none

/-- Does a hold record's second word name the tag and generation? -/
def holdOf (tag gen w1 : Nat) : Bool := bits w1 14 0 == tag && bits w1 22 15 == gen

/-- Change every hold record of a step on every fitted die. -/
def mapHolds (s : State) (tag gen : Nat) (f : Nat → Nat → State → State) : State :=
  (List.range s.part.dies).foldl (fun t d => (holdsOn t d fun _ w1 => holdOf tag gen w1).foldl (fun u j => f d j u) t) s

/-- The class in effect of a step: on its cores, in its group entry, its hold records and its places in waiter lists. -/
def setStepClass (s : State) (tag cls : Nat) : State :=
  match s.cmd? tag with
  | none => s
  | some c =>
    match c.step with
    | none => s
    | some r =>
      let s := s.setCmd tag { c with step := some { r with effClass := cls } }
      let s := r.cores.foldl (fun t k => t.fs (coreBase k) Fld.CORE_STEP_CLASS cls) s
      let s := match r.cores with
        | k :: _ => classGroup s (k / 64) (k % 64) cls
        | [] => s
      let s := mapHolds s tag c.gen fun d j t => t.fs (synBase d + 8 * j) Fld.SYN_HOLD_W1_CLASS cls
      { s with waiters := s.waiters.map fun w => if w.tag = tag ∧ w.gen = c.gen then { w with cls := cls } else w }

/-! ### Pre-emption of a core (R128, R129) -/

/-- PREEMPT: the sequencer issues no more; a blocked WAIT or SACQ and a stalled instruction are abandoned and run again
at resume; a blocked SEM wait is cancelled; streams are checkpointed. With no step running, the die controller reports a
pre-emption with no victim (R129). -/
def preemptCore (s : State) (k : Nat) : State :=
  if !seqRun s k then s.emit "PREEMPT_NO_VICTIM" (unitOfCore k) []
  else if s.fb (coreBase k) Fld.CORE_STS_PREEMPT_PEND then s
  else
    let s := s.fs (coreBase k) Fld.CORE_STS_PREEMPT_PEND 1
    let c := s.core k
    let s := match c.wait with
      | .sem 0 num _ => sendCancel s k num
      | .sem _ _ _ => s
      | _ => s.setCore k { c with wait := .none }
    let s := (List.range 4).foldl (fun t i => t.setEng (4 * k + i) { t.eng (4 * k + i) with stalledGo := noSeqGo k (t.eng (4 * k + i)).stalledGo }) s
    (coreStreams s k).foldl checkpointStream s

/-- Pre-empt every core of a victim group that still runs; a group that is pre-empted already counts no second time. -/
def preemptGroup (s : State) (tag : Nat) : State :=
  match s.cmd? tag with
  | none => s
  | some c =>
    match c.step with
    | none => s
    | some r =>
      let ks := r.cores.filter fun k => seqRun s k && !s.fb (coreBase k) Fld.CORE_STS_PREEMPT_PEND
      if ks.isEmpty then s else ks.foldl preemptCore (s.faddWrap dspBase Fld.DSP_PREEMPT_CNT_COUNT 1)

/-! ### Inheritance runs (R348 to R350) -/

/-- Is the step in an inheritance run of R349? -/
def inRun (s : State) (tag gen : Nat) : Bool :=
  match s.cmd? tag with
  | some c => c.gen == gen && (match c.step with | some r => r.inheritSince.isSome | none => false)
  | none => false

/-- Tokens a step holds of the semaphores of a set. -/
def heldOf (s : State) (tag gen : Nat) (sems : List Nat) : Nat :=
  sumN ((List.range s.part.dies).map fun d =>
    sumN ((holdsOn s d fun w0 w1 => holdOf tag gen w1 && sems.contains (4096 * d + bits w0 11 0)).map fun j =>
      s.fg (synBase d + 8 * j) Fld.SYN_HOLD_W0_COUNT))

/-- A run begins: the class is raised, SYN_INH counts it on the dies of the step's records. -/
def beginRun (s : State) (tag cls : Nat) (sems : List Nat) : State :=
  match s.cmd? tag with
  | none => s
  | some c =>
    match c.step with
    | none => s
    | some r =>
      let now := s.nowUs
      let s := s.setCmd tag { c with step := some { r with inheritSince := some now, inheritFor := sems } }
      let s := setStepClass s tag (max cls r.effClass)
      let s := (List.range s.part.dies).foldl (fun t d =>
        if (holdsOn t d fun _ w1 => holdOf tag c.gen w1).isEmpty then t else t.faddSat (synBase d) Fld.SYN_INH_COUNT 1) s
      mapHolds s tag c.gen fun d j t => t.fs (synBase d + 8 * j) Fld.SYN_HOLD_W0_INHERIT 1

/-- A run ends: the class in effect returns to the step's own. -/
def endRun (s : State) (tag : Nat) : State :=
  match s.cmd? tag with
  | none => s
  | some c =>
    match c.step with
    | none => s
    | some r =>
      let s := s.setCmd tag { c with step := some { r with inheritSince := none, inheritFor := [] } }
      let s := setStepClass s tag c.cls
      mapHolds s tag c.gen fun d j t => t.fs (synBase d + 8 * j) Fld.SYN_HOLD_W0_INHERIT 0

/-- Is a booked step waiting for this step to be cleared? -/
def isVictim (s : State) (tag : Nat) : Bool := (steps s).any fun e => e.2.2.victims.contains tag

/-- After a change of hold records: an inheritance run whose holds of the conflict set reached 0 ends, and the victim is
pre-empted; a resumed holder of R350 returns to its own class. -/
def settleRun (s : State) (tag : Nat) : State :=
  match s.cmd? tag with
  | none => s
  | some c =>
    match c.step with
    | none => s
    | some r =>
      if r.inheritFor.isEmpty || !(c.phase == .running) || decide (0 < heldOf s tag c.gen r.inheritFor) then s
      else
        let t := endRun s tag
        if r.inheritSince.isSome && isVictim t tag then preemptGroup t tag else t

end Sys2Proof.Machine
end

