-- ==== Sys2Proof/Machine/Sem.lean ====
section
/-!
DEFINITION. Machine/Sem.lean: the semaphore units: waits, signals, grants, holds, cancels, tag releases, retirement,
and the semaphore ledger (R329 to R346, R352).
-/
namespace Sys2Proof.Machine

open Sys2Proof

/-! ### A semaphore's record -/

/-- Base for the fields of semaphore `n`'s record. -/
def semBase (n : Nat) : Nat := synBase (n / 4096) + 32 * (n % 4096)
def semValue (s : State) (n : Nat) : Nat := s.fg (semBase n) Fld.SYN_SEM_W0_VALUE
def semOwned (s : State) (n : Nat) : Bool := s.fb (semBase n) Fld.SYN_SEM_W1_OWNED
/-- Is the semaphore owned by this context and generation? -/
def semOwner (s : State) (n ctx gen : Nat) : Bool :=
  semOwned s n && s.fg (semBase n) Fld.SYN_SEM_W1_CTX == ctx && s.fg (semBase n) Fld.SYN_SEM_W1_CTX_GEN == gen

/-- Largest VALUE. -/
def semMax : Nat := 2 ^ 31 - 1

/-- A result word (R331). -/
def semResult (code value : Nat) : Word :=
  BitVec.ofNat 32 (code + if 0x10 ≤ code then 0 else min value 0xFFFFFF * 256)

/-- Does the unit of die `d` serve operations? -/
def semServes (s : State) (d : Nat) : Bool := !dieHeld s d && s.fb (synBase d) Fld.SYN_CTL_EN

/-- Tokens of a semaphore that hold records count. -/
def holdSum (s : State) (n : Nat) : Nat :=
  sumN ((holdsOn s (n / 4096) fun w0 _ => bits w0 11 0 == n % 4096).map fun j =>
    s.fg (synBase (n / 4096) + 8 * j) Fld.SYN_HOLD_W0_COUNT)

/-- Ledger 3 of a semaphore (R342): VALUE, and hold COUNTs within what was granted and not signalled by its holders. -/
def ledger3 (s : State) (n : Nat) : State :=
  let b := semBase n
  let right := s.fg b Fld.SYN_SEM_W2_BASE + s.fg b Fld.SYN_SEM_W3_SIGNALS + s.fg b Fld.SYN_SEM_W4_RETURNS
    + 2 ^ 32 - s.fg b Fld.SYN_SEM_W5_GRANTS
  let s := ledgerCheck s (n / 4096) 3 n (semValue s n) (right % 2 ^ 32)
  let room := (s.fg b Fld.SYN_SEM_W5_GRANTS + 2 ^ 32 - getD 0 s.holdSig n % 2 ^ 32) % 2 ^ 32
  ledgerCheck s (n / 4096) 3 n (holdSum s n) (min (holdSum s n) room)

/-- One update of a counter of the record and the check that follows it (R343, R345). -/
def semCount (s : State) (n : Nat) (f : Fld) (k : Nat) : State :=
  let u := ledgerUpdate s (n / 4096) 3 n
  ledger3 (u.2.faddWrap (semBase n) f (k + u.1)) n

/-- Rebase: BASE takes VALUE and the counters clear (R330, R342). -/
def semRebase (s : State) (n v : Nat) : State :=
  let b := semBase n
  let s := (s.fs b Fld.SYN_SEM_W0_VALUE v).fs b Fld.SYN_SEM_W2_BASE v
  let s := ((s.fs b Fld.SYN_SEM_W3_SIGNALS 0).fs b Fld.SYN_SEM_W4_RETURNS 0).fs b Fld.SYN_SEM_W5_GRANTS 0
  ledgerRebase { s with holdSig := setD 0 s.holdSig n 0 } (n / 4096) 3 n

/-! ### Holds (R337) -/

/-- The hold record of a semaphore and step, if there is one. -/
def holdRec (s : State) (n tag gen : Nat) : Option Nat :=
  (holdsOn s (n / 4096) fun w0 w1 => bits w0 11 0 == n % 4096 && holdOf tag gen w1).head?

/-- SYN_HOLDS.USED after records were made or freed; ledger 4 sees the update. -/
def syncHolds (s : State) (d : Nat) : State :=
  let s := s.fs (synBase d) Fld.SYN_HOLDS_USED (min 0xFFFF (holdsOn s d fun _ _ => true).length)
  (ledgerUpdate s d 4 0).2

/-- One more token held: the record is made, in the lowest free place, when the step has none. -/
def addHold (s : State) (n tag gen cls : Nat) : State :=
  let d := n / 4096
  match holdRec s n tag gen with
  | some j => s.faddWrap (synBase d + 8 * j) Fld.SYN_HOLD_W0_COUNT 1
  | none =>
    match (List.range 32768).find? fun j => !bit (s.rd (synBase d + Reg.SYN_HOLD_W0 + 8 * j)) 12 with
    | none => s
    | some j =>
      let a := synBase d + Reg.SYN_HOLD_W0 + 8 * j
      let s := s.wr a (n % 4096 + 2 ^ 12 + b2n (inRun s tag gen) * 2 ^ 14 + 2 ^ 16)
      let s := s.wr (a + 4) (tag + gen * 2 ^ 15 + cls * 2 ^ 23)
      syncHolds (s.faddWrap (semBase n) Fld.SYN_SEM_W6_HOLDERS 1) d

/-- Free hold record `j` of die `d`. -/
def freeHold (s : State) (d j : Nat) : State :=
  let a := synBase d + Reg.SYN_HOLD_W0 + 8 * j
  let n := 4096 * d + bits (s.rd a) 11 0
  let s := (s.wr a 0).wr (a + 4) 0
  syncHolds (s.fs (semBase n) Fld.SYN_SEM_W6_HOLDERS (s.fg (semBase n) Fld.SYN_SEM_W6_HOLDERS - 1)) d

/-- A signal of a step that holds the semaphore gives one token back. -/
def subHold (s : State) (n tag gen : Nat) : State :=
  match holdRec s n tag gen with
  | none => s
  | some j =>
    let b := synBase (n / 4096) + 8 * j
    let c := s.fg b Fld.SYN_HOLD_W0_COUNT
    let s := { s with holdSig := setD 0 s.holdSig n (getD 0 s.holdSig n + 1) }
    if c ≤ 1 then freeHold s (n / 4096) j else s.fs b Fld.SYN_HOLD_W0_COUNT (c - 1)

/-! ### Answers -/

/-- The status a SEM_SIGNAL command ends with for a result code (R330). -/
def signalStatus (s : State) (n code : Nat) : Nat × Nat :=
  match code with
  | 0x11 => if semOwned s n then (0x1A, 0) else (0x13, 16)
  | 0x12 => (0x13, 20)
  | 0x13 => (0x1A, 1)
  | _ => (0, 0)

/-- A port's frame signal failed: SIG_FAIL, and no more signals until its next SENSOR_CONFIG (R371). -/
def portSigFail (s : State) (p : Nat) : State :=
  let s := s.fs pchBase Fld.PCH_ERR_SIG_FAIL 1
  { s with sports := setD SensorPort.off s.sports p { getD SensorPort.off s.sports p with sigStop := true } }

/-- A fusion ring's signal failed (R413): ring 0 is the pose ring, 1 the projection ring. -/
def ringSigFail (s : State) (r : Nat) : State :=
  let s := s.fs fusBase Fld.FUS_ERR_SIG_FAIL 1
  if r = 0 then { s with integ := s.integ.map fun (x : Integ) => { x with sigStop := true } }
  else { s with proj := s.proj.map fun (x : Proj) => { x with sigStop := true } }

/-- A span port's message. -/
def isSpan (m : SemMsg) : Bool := match m.src with | .span _ _ => true | _ => false

/-- The die a SEM message starts from, its initiator and its class label (R356). -/
def semFrom (m : SemMsg) : Nat := match m.src with | .core k => k / 64 | .cmd _ | .span _ _ => 4 | .port _ | .ring _ => 5
def semIni (m : SemMsg) : Nat :=
  match m.src with
  | .core k => coreIni k 0
  | .cmd _ => 0x801
  | .port _ => 0xA00
  | .ring r => if r = 0 then 0xA02 else 0xA01
  | .span sub _ => 0x806 + sub % 4 / 2
def semLabel (m : SemMsg) : Nat := match m.src with | .core _ | .span _ _ => m.cls | .cmd _ => 7 | .port _ | .ring _ => 6

/-- The second word of a SEM message (R332). -/
def semWord (m : SemMsg) : Nat :=
  m.sem % 2 ^ 14 + m.op % 4 * 2 ^ 14
    + (if m.op = 3 then m.count % 2 ^ 32 * 2 ^ 16
       else b2n m.hold * 2 ^ 16 + m.tag % 2 ^ 15 * 2 ^ 17 + m.gen % 2 ^ 8 * 2 ^ 32) + m.dgen % 2 ^ 8 * 2 ^ 48

def semBytes (m : SemMsg) : List Byte :=
  msgBytes ⟨3, 0, semLabel m, false, false, semIni m, m.ctx, m.cgen, 0⟩ [semWord m] []

/-- The answer to a unit that is no core crosses back over the message's links. -/
def semBack (s : State) (m : SemMsg) (w : Word) : State :=
  passAll s (backEnds s (pathEnds s (semFrom m) (m.sem / 4096) 0)) 1 (packed [semRspMsg (semIni m) w])

/-- A result goes back to who asked. A sensor port's or a fusion ring's failed signal sets its SIG_FAIL. -/
def semAnswer (s : State) (m : SemMsg) (code value : Nat) : State :=
  let s := match m.src with
    | .core _ | .span _ _ => s
    | _ => if code = 0x13 then s else semBack s m (semResult code value)
  match m.src with
  | .core k => { s with semRsps := s.semRsps ++ [⟨m.sem / 4096, k, m.tag, m.gen, m.dgen, semResult code value⟩] }
  | .cmd tag =>
    let st := signalStatus s m.sem code
    if st.1 = 0 then finishCmd s tag 0 0 0 else refuse s tag st.1 st.2
  | .span sub txid =>
    let es := if code = 0x13 then [] else backEnds s (pathEnds s 4 (m.sem / 4096) 0)
    { s with resps := s.resps ++ [⟨semIni m, txid, .sem, (semResult code value).toNat, [], 0, 0,
        s.fg rstIBase Fld.RST_PKG_STS_PKG_GEN, sub, m.cls, false, 0, es⟩] }
  | .port p => if code = 0 then s else portSigFail s p
  | .ring r => if code = 0 then s else ringSigFail s r

/-! ### Grants (R333, R337, R349) -/

/-- Take one token: VALUE and GRANTS, and the hold record of a wait with HOLD. -/
def takeToken (s : State) (n : Nat) (hold : Bool) (tag gen cls : Nat) : State :=
  let b := semBase n
  let s := semCount (s.fs b Fld.SYN_SEM_W0_VALUE (semValue s n - 1)) n Fld.SYN_SEM_W5_GRANTS 1
  if hold then addHold s n tag gen cls else s

/-- WAITERS fields after the lists changed; ledger 5 sees the update. -/
def syncWaiters (s : State) (n : Nat) : State :=
  let d := n / 4096
  let s := s.fs (semBase n) Fld.SYN_SEM_W6_WAITERS (s.waiters.filter fun w => w.sem == n).length
  let s := s.fs (synBase d) Fld.SYN_STS_WAITERS (s.waiters.filter fun w => w.sem / 4096 == d).length
  (ledgerUpdate s d 5 0).2

/-- May the waiter be granted? One that an inheritance run bars stays blocked. -/
def grantable (s : State) (w : Waiter) : Bool := !(w.barred && inRun s w.tag w.gen)

/-- The next waiter of a semaphore: highest class, then arrival. -/
def nextWaiter (s : State) (n : Nat) : Option Waiter :=
  let ws := s.waiters.filter fun w => w.sem == n && grantable s w
  ws.foldl (fun acc w =>
    match acc with
    | none => some w
    | some b => if b.cls < w.cls then some w else some b) none

/-- Grant waiters while VALUE lasts. -/
def grantLoop (n : Nat) : (fuel : Nat) → State → State
  | 0, s => s
  | f + 1, s =>
    if semValue s n = 0 then s
    else match nextWaiter s n with
      | none => s
      | some w =>
        let s := syncWaiters { s with waiters := s.waiters.erase w } n
        let s := takeToken s n w.hold w.tag w.gen w.cls
        let s := { s with semRsps := s.semRsps ++ [⟨n / 4096, w.core, w.tag, w.gen, w.dgen, semResult 0 (semValue s n)⟩] }
        grantLoop n f s

def grants (s : State) (n : Nat) : State := grantLoop n (s.waiters.length + 1) s

/-- After a step's holds fell: its inheritance run may end, and waiters it barred may then be granted. -/
def holdsFell (s : State) (tag : Nat) : State :=
  let t := settleRun s tag
  ((t.waiters.filter fun w => w.tag == tag && w.barred).map (·.sem)).foldl grants t

/-! ### The unit (R329, R331, R332, R336) -/

/-- May a message reach its unit now: it crosses no link (a cancel has no layout and crosses as it stands), has no route
(and is answered as unreachable), or its links have credits for it and, unless a core asked, for the answer? -/
def semGoes (s : State) (m : SemMsg) : Bool :=
  let f := semFrom m
  let d := m.sem / 4096
  m.op == 4 || !routed s f d 0
    || (canPass s (pathEnds s f d 0) 0 1 && (match m.src with | .core _ | .span _ _ => true | _ => canPass s (backEnds s (pathEnds s f d 0)) 1 1))

/-- The message crosses its links, charged 32 bytes on each (R353). -/
def semCross (s : State) (m : SemMsg) : State :=
  let es := pathEnds s (semFrom m) (m.sem / 4096) 0
  if m.op = 4 ∨ routed s (semFrom m) (m.sem / 4096) 0 = false then s
  else
    passAll (chargeAll s es ⟨semIni m, semLabel m, false, 32⟩) es 0 (packed [semBytes m])

/-- The first message for the unit of die `d` that its links let through. -/
def firstSem (s : State) (d : Nat) : Option SemMsg := s.semMsgs.find? fun m => m.sem / 4096 == d && semGoes s m

/-- Does the unit of the message's die serve it: in service, and reached by a route? -/
def semReached (s : State) (m : SemMsg) : Bool := semServes s (m.sem / 4096) && routed s (semFrom m) (m.sem / 4096) 0

/-- Refused with NOT_OWNER. -/
def notOwner (s : State) (m : SemMsg) : State :=
  let b := synBase (m.sem / 4096)
  let s := s.fs b Fld.SYN_ERR_NOT_OWNER 1
  semAnswer (if isSpan m then s.fs b Fld.SYN_ERR_SPAN_REJ 1 else s) m 0x11 0

/-- Does the ownership check pass? A span port needs the SPAN bit instead, and issues only signal-n and try-wait (R336). -/
def mayOperate (s : State) (m : SemMsg) : Bool :=
  if isSpan m then s.fb (semBase m.sem) Fld.SYN_SEM_W1_SPAN && (m.op == 3 || m.op == 2) else semOwner s m.sem m.ctx m.cgen

/-- Serve the first message of the unit when it is operation `op`: unreachable, then NOT_OWNER, then `f`. -/
def unitDo (s : State) (d op : Nat) (f : SemMsg → State → State) : Host.Outcome State Fault Refusal :=
  .next (match firstSem s d with
    | none => s
    | some m =>
      if m.op = op then
        let reached := semReached s m
        let s := semCross (syncSpanUrgs { s with semMsgs := s.semMsgs.erase m }) m
        if !reached then semAnswer s m 0x13 0
        else if !mayOperate s m then notOwner s m
        else f m s
      else s)

/-- In an inheritance run, a request with HOLD for a semaphore on which the step holds nothing (R349). -/
def barredHold (s : State) (m : SemMsg) : Bool := m.hold && inRun s m.tag m.gen && (holdRec s m.sem m.tag m.gen).isNone

/-- Wait: one token, or a place in the waiter list. -/
def unitWait (m : SemMsg) (s : State) : State :=
  let n := m.sem
  let core := match m.src with | .core k => k | _ => 0
  if 0 < semValue s n && !barredHold s m then
    let s := takeToken s n m.hold m.tag m.gen m.cls
    semAnswer s m 0 (semValue s n)
  else
    syncWaiters { s with waiters := s.waiters ++ [⟨n, core, m.hold, m.tag, m.gen, m.cls, m.dgen, barredHold s m⟩] } n

def execSemunitWait (d : Nat) (s : State) : Host.Outcome State Fault Refusal := unitDo s d 0 unitWait

/-- Try-wait: one token, or WOULD_BLOCK. -/
def unitTry (m : SemMsg) (s : State) : State :=
  if 0 < semValue s m.sem && !barredHold s m then
    let s := takeToken s m.sem m.hold m.tag m.gen m.cls
    semAnswer s m 0 (semValue s m.sem)
  else semAnswer s m 1 (semValue s m.sem)

def execSemunitTryWait (d : Nat) (s : State) : Host.Outcome State Fault Refusal := unitDo s d 2 unitTry

/-- Add `k` tokens, or OVERFLOW; the answer's VALUE is before the grants that follow (R331). -/
def unitAdd (k : Nat) (m : SemMsg) (s : State) : State :=
  let n := m.sem
  if semMax < semValue s n + k then semAnswer (s.fs (synBase (n / 4096)) Fld.SYN_ERR_OVERFLOW 1) m 0x12 0
  else
    let s := semCount (s.fs (semBase n) Fld.SYN_SEM_W0_VALUE (semValue s n + k)) n Fld.SYN_SEM_W3_SIGNALS k
    let s := match m.src with
      | .core _ => subHold s n m.tag m.gen
      | _ => s
    let s := grants (semAnswer s m 0 (semValue s n)) n
    match m.src with
    | .core _ => holdsFell s m.tag
    | _ => s

def execSemunitSignal (d : Nat) (s : State) : Host.Outcome State Fault Refusal := unitDo s d 1 (unitAdd 1)

def execSemunitSignalN (d : Nat) (s : State) : Host.Outcome State Fault Refusal :=
  unitDo s d 3 fun m => unitAdd m.count m

/-! ### Cancel (R334) -/

/-- The core whose blocked wait was cancelled: the WAIT will run again at resume. -/
def waitCancelled (s : State) (k : Nat) (m : SemMsg) : State :=
  match (s.core k).wait with
  | .sem 0 num _ =>
    if num = m.sem ∧ m.tag = s.fg (coreBase k) Fld.CORE_STEP_TAG ∧ m.gen = s.fg (coreBase k) Fld.CORE_STEP_GEN then
      s.setCore k { s.core k with wait := .none } else s
  | _ => s

/-- A cancel removes the waiter and answers CANCELLED; a wait granted before keeps its grant, whose answer is on its
way. A unit that serves nothing answers with an error, and the wait retires with UNREACHABLE. -/
def execSemCancel (d : Nat) (s : State) : Host.Outcome State Fault Refusal :=
  .next (match firstSem s d with
    | none => s
    | some m =>
      if m.op = 4 then
        let s := { s with semMsgs := s.semMsgs.erase m }
        match m.src with
        | .core k =>
          if !semReached s m then semAnswer s m 0x13 0
          else match s.waiters.find? fun w => w.sem == m.sem && w.core == k && w.tag == m.tag && w.gen == m.gen with
            | some w => waitCancelled (syncWaiters { s with waiters := s.waiters.erase w } m.sem) k m
            | none => s
        | _ => s
      else s)

/-! ### Tag release (R338) -/

/-- One unit acts on a tag release: waiters of the tag leave, held tokens return, records are freed, and the semaphores
that took tokens grant. -/
def releaseOn (tag gen : Nat) (s : State) (d : Nat) : State :=
  let gone := (s.waiters.filter fun w => w.sem / 4096 == d && w.tag == tag && w.gen == gen).map (·.sem)
  let s := { s with waiters := s.waiters.filter fun w => !(w.sem / 4096 == d && w.tag == tag && w.gen == gen) }
  let s := gone.foldl syncWaiters s
  (holdsOn s d fun _ w1 => holdOf tag gen w1).foldl (fun t j =>
    let b := synBase d + 8 * j
    let n := 4096 * d + t.fg b Fld.SYN_HOLD_W0_SEM
    let c := t.fg b Fld.SYN_HOLD_W0_COUNT
    let t := semCount (t.fs (semBase n) Fld.SYN_SEM_W0_VALUE (semValue t n + c)) n Fld.SYN_SEM_W4_RETURNS c
    let t := (freeHold t d j).fs (synBase d) Fld.SYN_ERR_HOLD_RET 1
    grants t n) s

/-- A release reaches the units of every fitted die. -/
def releaseAll (s : State) (r : Nat × Nat) : State := (List.range s.part.dies).foldl (releaseOn r.1 r.2) s

/-- Every release that was sent has reached the units, as it has within 1 µs (R338), before semaphores are retired
(R340). -/
def releasesDone (s : State) : State := s.tagReleases.foldl releaseAll { s with tagReleases := [] }

/-- The release of a tag reaches the units of every fitted die. -/
def execTagRelease (tg : Nat) (s : State) : Host.Outcome State Fault Refusal :=
  .next (match s.tagReleases.find? fun r => r.1 == tg with
    | none => s
    | some r => releaseAll { s with tagReleases := s.tagReleases.erase r } r)

/-! ### Retirement (R340) -/

/-- SYN_STS.OWNED of a die, from the records that are listed. -/
def syncOwned (s : State) (d : Nat) : State :=
  let b := synBase d + Reg.SYN_SEM_W1
  let n := (s.regs.filter fun e => decide (b ≤ e.1) && decide (e.1 < b + 0x20000) && decide ((e.1 - b) % 32 = 0)
    && bit e.2.toNat 24).length
  s.fs (synBase d) Fld.SYN_STS_OWNED n

/-- Retire a semaphore: its ledger is checked once more, VALUE goes to SYN_RETIRED, the record is FREE. -/
def retireSem (s : State) (n : Nat) : State :=
  let d := n / 4096
  let s := ledger3 s n
  let s := s.faddSat (synBase d) Fld.SYN_RETIRED_COUNT (semValue s n)
  let s := (semRebase s n 0).fs (semBase n) Fld.SYN_SEM_W1_OWNED 0
  let s := syncWaiters { s with waiters := s.waiters.filter fun w => !(w.sem == n) } n
  syncOwned s d

/-- The semaphores that a predicate of owner context and generation picks. -/
def ownedBy (s : State) (p : Nat → Nat → Bool) : List Nat :=
  s.regs.filterMap fun e =>
    match locate s.part e.1 with
    | some l =>
      if l.blk == .syn && decide (0x10000 ≤ l.off) && decide (l.off < 0x30000) && decide (l.off % 32 = 4)
          && bit e.2.toNat 24 && p (bits e.2.toNat 15 0) (bits e.2.toNat 23 16) then
        some (4096 * l.unit + (l.off - 0x10000) / 32) else none
    | none => none

/-! ### Writes of the records (R352) -/

/-- A write of VALUE rebases the ledger; it is ignored while the semaphore has waiters or hold records. -/
def semValueWrite (s : State) (n v : Nat) : State :=
  if s.fg (semBase n) Fld.SYN_SEM_W6_WAITERS = 0 ∧ s.fg (semBase n) Fld.SYN_SEM_W6_HOLDERS = 0 then
    semRebase s n (v % 2 ^ 31) else s

/-- A write of the SYN_ block that its port has admitted: only the management processor changes SPAN; clearing
SYN_ERR.LEDGER ends the log entry. -/
def synRegWrite (s : State) (ini d off v : Nat) (spec : Option (RegSpec × Nat × Nat)) : State :=
  let a := synBase d + off
  let n := 4096 * d + (off - 0x10000) / 32
  if 0x10000 ≤ off ∧ off < 0x30000 ∧ off % 32 = 0 then semValueWrite s n v
  else if 0x10000 ≤ off ∧ off < 0x30000 ∧ off % 32 = 4 then
    let w := if ini = 0x800 then v else setBits v 25 25 (bits (s.rd a) 25 25)
    syncOwned (regStore s a w spec) d
  else
    let t := regStore s a v spec
    if off = Reg.SYN_ERR ∧ t.fb (synBase d) Fld.SYN_ERR_LEDGER = false then
      (t.wr (synBase d + Reg.SYN_LEDGER_LOG0) 0).wr (synBase d + Reg.SYN_LEDGER_LOG1) 0
    else t

/-- A write of a semaphore's VALUE through the register port. -/
def execSynSemWrite (ini n : Nat) (v : Word) (s : State) : Host.Outcome State Fault Refusal :=
  .next (viaPort s ini (semBase n + Reg.SYN_SEM_W0) fun t spec =>
    synRegWrite t ini (n / 4096) (Reg.SYN_SEM_W0 + 32 * (n % 4096)) v.toNat spec)

/-! ### The end of an inheritance run (R349) -/

/-- ADM_HOLD.NS has passed since the run began: the victim is pre-empted still holding the tokens. -/
def execInheritanceTimeout (tg : Nat) (s : State) : Host.Outcome State Fault Refusal :=
  .next (match s.cmd? tg with
    | none => s
    | some c =>
      match c.step with
      | none => s
      | some r =>
        match r.inheritSince with
        | none => s
        | some t0 =>
          if s.fg admBase Fld.ADM_HOLD_NS ≤ 1000 * (s.nowUs - t0) then
            let s := (List.range s.part.dies).foldl (fun t d =>
              if (holdsOn t d fun w0 w1 => holdOf tg c.gen w1 && r.inheritFor.contains (4096 * d + bits w0 11 0)).isEmpty then t
              else (t.fs (synBase d) Fld.SYN_ERR_INH_TIMEOUT 1).faddSat (synBase d) Fld.SYN_INH_TO_COUNT 1) s
            let s := endRun s tg
            if isVictim s tg then preemptGroup s tg else s
          else s)

end Sys2Proof.Machine
end

