-- ==== Sys2Proof/Machine/Island.lean ====
section
/-!
DEFINITION. Machine/Island.lean: an Acina island's state: the conditions of its events, its latch, its clamps and its
outputs, heartbeats and the clock monitors (R416 to R427). The commands of the islands are in Machine/Acina.lean.
-/
namespace Sys2Proof.Machine

open Sys2Proof

/-- Do the island's cores run their verified image? -/
def islRuns (s : State) (i : Nat) : Bool := (s.isl i).powered && (islState s i == 2 || islState s i == 3)

/-- Microseconds of ACN_US since `t`; the count wraps (R427). -/
def acnSince (s : State) (i t : Nat) : Nat := (s.fg (acnBase i) Fld.ACN_US_COUNT + 2 ^ 32 - t) % 2 ^ 32

/-- Level that policy table 1 of the island gives an event. -/
def islLevel (s : State) (i ev : Nat) : Nat := policyField s i 1 ev 40 1

/-- Events an island evaluates (R418, R422): B those marked Both, its own and 0x0D. -/
def evaluates (i ev : Nat) : Bool :=
  if i = 0 then decide (ev ≤ 0x14) && !(ev == 0x0D)
  else ev ∈ [0x00, 0x01, 0x02, 0x03, 0x05, 0x0D, 0x0F, 0x10, 0x11, 0x13, 0x14]

/-! ### Heartbeats (R421) -/

/-- Is a source's heartbeat live at the island? -/
def hbLive (s : State) (i src : Nat) : Bool := bit (s.rd (acnBase i + Reg.ACN_HB)) src

/-- Set a source's bit in ACN_HB; ACN_STS.PEER_OK follows the other island's. -/
def hbSet (s : State) (i src : Nat) (v : Bool) : State :=
  let a := acnBase i + Reg.ACN_HB
  let s := s.wr a (setBits (s.rd a) src src (b2n v))
  if src = 7 then s.fs (acnBase i) Fld.ACN_STS_PEER_OK (b2n v) else s

/-- Is a source known and lost? -/
def hbLost (s : State) (i src : Nat) : Bool := (s.isl i).seen.contains src && !hbLive s i src

/-- The sources that belong to fitted dies. -/
def hbFitted (s : State) : List Nat := (List.range 8).filter fun n => decide (4 ≤ n) || s.part.fitted n

/-- Event and unit code of a lost source. -/
def hbEvent (src : Nat) : Nat × Nat :=
  if src < 4 then (0x04, unitOfDie src) else if src = 4 then (0x03, 0) else if src = 7 then (0x01, 0)
  else (0x05, unitOfDie (src - 1))

/-- Timeout of a source in policy table 2. -/
def hbTimeout (s : State) (i src : Nat) : Nat :=
  policyField s i 2 0 (if src < 4 then 40 else if src = 4 then 42 else if src = 7 then 46 else 44) 2

/-! ### Conditions (R422, R424) -/

/-- Has the clamp not taken: guarantees not suspended, or a core island above 800 MHz (R461)? -/
def clampFailed (s : State) : Bool :=
  !s.fb admBase Fld.ADM_STS_SUSPENDED
    || (List.range (8 * s.part.dies)).any fun c => !dieHeld s (c / 8) && decide (800 < s.fg (cluBase c) Fld.CLU_CLK_CUR_MHZ)

/-- Is the condition of an event present? `unit` 0 stands for any unit. An event without a lasting condition has none. -/
def condition (s : State) (i ev unit : Nat) : Bool :=
  match ev with
  | 0x00 => islState s i == 4
  | 0x01 => hbLost s i 7
  | 0x02 => s.mainBad || s.pllBad
  | 0x03 => hbLost s i 4
  | 0x04 => (List.range 4).any fun d => hbLost s i d && (unit == 0 || unit == unitOfDie d)
  | 0x05 => (hbLost s i 5 && (unit == 0 || unit == unitOfDie 4)) || (hbLost s i 6 && (unit == 0 || unit == unitOfDie 5))
  | 0x0D => (s.isl i).stalled
  | 0x0F => s.fg hthBase Fld.HTH_STS_COOL == 2
  | 0x10 => s.fb hthBase Fld.HTH_STS_THERMAL
  | 0x11 => !s.railsBad.isEmpty
  | 0x13 => s.fg hpBase Fld.HP_STS_MOD_UP == 0
  | 0x14 => s.trigBad
  | _ => false

/-- The condition of a latched or clamping occurrence: the readback's is the clamp that does not take. -/
def occurs (s : State) (i ev unit : Nat) (read : Bool) : Bool :=
  if read then s.fb (acnBase i) Fld.ACN_STS_CLAMP && clampFailed s else condition s i ev unit

/-- Is a condition of level SAFE present? -/
def safePresent (s : State) (i : Nat) : Bool :=
  (List.range 21).any fun ev => evaluates i ev && islLevel s i ev == 3 && condition s i ev 0

/-! ### The latch and the safe-state output (R419, R420, R424) -/

/-- Events leave the latch once acknowledged and cleared; the output is released once R420 and R424 allow it. -/
def settleIsland (s : State) (i : Nat) : State :=
  if !islRuns s i then s
  else
    let v := s.isl i
    let keep := v.latch.filter fun e => !e.acked || occurs s i e.event e.unit e.read
    let s := s.setIsl i { v with latch := keep }
    let s := s.fs (acnBase i) Fld.ACN_STS_LATCHED (min 255 keep.length)
    if keep.isEmpty && !safePresent s i && ((hbFitted s).all fun n => v.seen.contains n) then
      (s.fs (acnBase i) Fld.ACN_STS_STATE 2).fs (acnBase i) Fld.ACN_STS_SAFE_OUT 0
    else s

/-- Both islands look at their latches again. -/
def settleIslands (s : State) : State := settleIsland (settleIsland s 0) 1

/-- Island A writes CHK_CTL of every checker of a die under table 3 (R432); bit EN keeps its value. -/
def tolWrite (s : State) (d : Nat) : State :=
  if s.part.fitted d && !dieHeld s d then
    (List.range 64).foldl (fun t k => t.fs (chkBase (64 * d + k)) Fld.CHK_CTL_TOL_MULT (policyField t 0 3 0 40 1)) s
  else s

/-- A monitor wire toggles at an island: its timeout starts again, and a lost source is live again (R421). -/
def hbToggle (s : State) (i src : Nat) : State :=
  let v := s.isl i
  if !v.powered || islState s i == 4 then s
  else
    let was := hbLive s i src
    let s := s.setIsl i { v with seen := if v.seen.contains src then v.seen else v.seen ++ [src],
                                 beats := aput v.beats src (s.fg (acnBase i) Fld.ACN_US_COUNT) }
    let s := hbSet s i src true
    let s := if i = 0 ∧ src < 4 ∧ was = false ∧ islRuns s 0 = true then tolWrite s src else s
    settleIsland s i

/-- The clock monitors of an island show REFCLK_MAIN, REFCLK_TRIG and the PLLs (R24). -/
def clockMonitor (s : State) (i : Nat) : State :=
  if (s.isl i).powered then
    ((s.fs (acnBase i) Fld.ACN_CLK_MAIN_OK (b2n !s.mainBad)).fs (acnBase i) Fld.ACN_CLK_TRIG_OK (b2n !s.trigBad)).fs
      (acnBase i) Fld.ACN_CLK_PLL_OK (b2n !s.pllBad)
  else s

def clockMonitors (s : State) : State := clockMonitor (clockMonitor s 0) 1

/-! ### OTP (R516, R543) -/

def otpByte (s : State) (o : Nat) : Nat := (getD 0 s.otp o).toNat
def otpBytes (s : State) (o n : Nat) : List Nat := (List.range n).map fun i => otpByte s (o + i)
def bytesNat : List Nat → Nat
  | [] => 0
  | b :: bs => b + 256 * bytesNat bs
def otpNat (s : State) (o n : Nat) : Nat := bytesNat (otpBytes s o n)

/-- Burn one more bit: the lowest one that is clear among the `n` bytes from `o`. A burnt bit never clears. -/
def otpBurn (s : State) (o n : Nat) : State :=
  match (List.range (8 * n)).find? fun i => !bit (otpByte s (o + i / 8)) (i % 8) with
  | some i => { s with otp := setD 0 s.otp (o + i / 8) (BitVec.ofNat 8 (otpByte s (o + i / 8) + 2 ^ (i % 8))) }
  | none => s

/-- The security-version counter of a unit: the number of bits set. -/
def svnCounter (s : State) (u : Nat) : Nat := ones 128 (otpNat s (0x400 + 16 * u) 16)

/-- Raise a counter to a version (R538). -/
def raiseCounter (u : Nat) : (fuel : Nat) → State → State
  | 0, s => s
  | n + 1, s => raiseCounter u n (otpBurn s (0x400 + 16 * u) 16)

def keyRevoked (s : State) (slot : Nat) : Bool := bit (otpByte s 0xC0) slot
def deviceId (s : State) : List Nat := otpBytes s 0 8
def vendorKey (s : State) (slot : Nat) : List Nat := otpBytes s (0x40 + 0x40 * slot) 64
/-- The unique device secret, which the ROM and the crypto engine alone read. -/
def uds (s : State) : List Nat := otpBytes s 0x200 32
def idpk (s : State) : List Nat := otpBytes s 0x100 64
def eccOptOut (s : State) : Bool := bit (otpByte s 8) 0

/-! ### Units of firmware (R525, R530, R539) -/

/-- Set a unit's bit in one of the masks of SEC_UNITS. -/
def unitBit (s : State) (f : Fld) (u : Nat) (v : Bool) : State := s.fs secBase f (setBits (s.fg secBase f) u u (b2n v))

/-- A unit runs its image. -/
def unitStarted (s : State) (u : Nat) : State :=
  unitBit (unitBit s Fld.SEC_UNITS_RUNNING u true) Fld.SEC_UNITS_DEAD u false

/-- A unit did not start, or its image was refused. -/
def unitDead (s : State) (u : Nat) : State :=
  unitBit (unitBit (s.fs secBase Fld.SEC_ERR_START_FAIL 1) Fld.SEC_UNITS_DEAD u true) Fld.SEC_UNITS_RUNNING u false

end Sys2Proof.Machine
end

