-- ==== Sys2Proof/Machine/Functions.lean ====
section
/-!
DEFINITION. Machine/Functions.lean: the function operations of the vector unit (R92). The spec bounds their error, so
the result is one of the binary32 values within the bound, and which one is free. The exact value is computed here in
fixed point of 400 fraction bits, far finer than any bound.
-/
namespace Sys2Proof.Machine

open Sys2Proof

/-- Fraction bits of the fixed-point numbers. -/
def fpBits : Nat := 400

/-- An exact value in fixed point (finite values no smaller than 2^−400 in step). -/
def toFix : FVal → Int
  | .fin s m e => let sh := e + (fpBits : Int); sgn s (if 0 ≤ sh then m * 2 ^ sh.toNat else m / 2 ^ (-sh).toNat)
  | _ => 0

def ofFix (v : Int) : FVal := .fin (decide (v < 0)) v.natAbs (-(fpBits : Int))

/-- Taylor sum of the exponential: `t` is the term of index `n`. -/
def expTerms (y : Int) : (fuel : Nat) → (n : Nat) → (t : Int) → Int
  | 0, _, _ => 0
  | f + 1, n, t => t + expTerms y f (n + 1) (t * y / 2 ^ fpBits / ((n : Int) + 1))

/-- Square `k` times. -/
def squareTimes : (k : Nat) → Int → Int
  | 0, v => v
  | k + 1, v => squareTimes k (v * v / 2 ^ fpBits)

/-- e^x in fixed point, |x| at most 256. -/
def expFix (x : Int) : Int := squareTimes 9 (expTerms (x / 512) 90 0 (2 ^ fpBits))

/-- Taylor sum of erf without its factor: `t` is (−1)^n x^(2n+1) / n!. -/
def erfTerms (x : Int) : (fuel : Nat) → (n : Nat) → (t : Int) → Int
  | 0, _, _ => 0
  | f + 1, n, t => t / (2 * (n : Int) + 1)
      + erfTerms x f (n + 1) (-(t * x / 2 ^ fpBits * x / 2 ^ fpBits) / ((n : Int) + 1))

/-- 2/√π in fixed point. -/
def twoOverRootPi : Int :=
  2913756966668194800300214067270034030186276855045544562015353861004409627435460814446341471088463227900768995815277951550

/-- The exact value of a function at a finite operand, to far below its bound: 0x09 EXP, 0x0C TANH, 0x0D ERF. -/
def fnExact (op : Nat) (x : FVal) : FVal :=
  let X := toFix x
  let one : Int := 2 ^ fpBits
  if op = 0x09 then (if X < -(150 * one) then .fin false 0 0 else ofFix (expFix X))
  else if op = 0x0C then
    if 60 * one < X then ofFix one else if X < -(60 * one) then ofFix (-one)
    else let e := expFix (2 * X); ofFix ((e - one) * one / (e + one))
  else
    if 6 * one ≤ X then ofFix (one - 2 ^ 345) else if X ≤ -(6 * one) then ofFix (2 ^ 345 - one)
    else ofFix (erfTerms X 300 0 X * twoOverRootPi / one)

/-- One unit in the last place of binary32 at an exact value. -/
def ulp32 (c : FVal) : FVal :=
  match c with
  | .fin _ m e => if m = 0 then pow2 (-149) else pow2 (max (-149) (log2Mag m e - 23))
  | _ => pow2 (-149)

/-- The binary32 patterns whose value lies within `bound` of `c`. -/
def within (c bound : FVal) : List Nat :=
  let r := enc32 c
  let cand := (rangeFrom 0 9).filterMap fun i => if 4 ≤ r + i then some (r + i - 4) else none
  cand.filter fun p => match dec32 p with
    | .fin s m e => ((FVal.fin s m e).sub c).abs.le bound
    | _ => false

/-- The free choice among the admitted patterns; the nearest one is always admitted. -/
def choose (op x : Nat) (c bound : FVal) : Nat :=
  let w := within c bound
  match w with
  | [] => enc32 c
  | p :: ps => ((p :: ps).drop (Config.pick op x % w.length)).headD p

/-- Quotient 1/x and 1/√x as exact-enough values: rounded to 400 bits. -/
def recipExact (x : FVal) : FVal := divF ⟨400, 20, 500000, .ieee⟩ (.fin false 1 0) x
def rsqrtExact (x : FVal) : FVal := divF ⟨400, 20, 500000, .ieee⟩ (.fin false 1 0) (sqrtF ⟨200, 20, 500000, .ieee⟩ x)

/-- A function operation on a binary32 pattern (R92). -/
def fnApply (op w : Nat) : Nat :=
  match dec32 w with
  | .nan => 0x7FC00000
  | .inf s =>
    if op = 0x09 then (if s then 0 else 0x7F800000)
    else if op = 0x0A then (if s then 0x80000000 else 0)
    else if op = 0x0B then (if s then 0x7FC00000 else 0)
    else (if s then 0xBF800000 else 0x3F800000)
  | .fin s m e =>
    let x := FVal.fin s m e
    if op = 0x09 then
      if (FVal.fin false 887228 0).lt (x.mul (.fin false 10000 0)) then 0x7F800000
      else
        let c := fnExact 0x09 x
        let bound := match c with
          | .fin _ cm ce => if below cm ce (-126) then pow2 (-148) else (ulp32 c).mul (.fin false 2 0)
          | _ => pow2 (-148)
        choose op w c bound
    else if op = 0x0A then
      if m = 0 then (if s then 0xFF800000 else 0x7F800000)
      else
        let c := recipExact x
        -- 1/x of the smallest subnormals lies beyond the largest finite value
        match fF32.round .rne c with
        | .inf _ => enc32 c
        | _ => choose op w c (ulp32 c)
    else if op = 0x0B then
      if m = 0 then (if s then 0xFF800000 else 0x7F800000)
      else if s then 0x7FC00000
      else let c := rsqrtExact x; choose op w c (ulp32 c)
    else if op = 0x0C then
      let c := fnExact op x; choose op w c ((ulp32 c).mul (.fin false 2 0))
    else
      let c := fnExact op x; choose op w c ((ulp32 c).mul (.fin false 3 0))

end Sys2Proof.Machine
end

