-- ==== Sys2Proof/Machine/Attn.lean ====
section
/-!
DEFINITION. Machine/Attn.lean: the attention units: posts in the command rings, the two pipelines, APPEND, SELF and CROSS,
leases and recycling, completion (R172 to R189, R193).
-/
namespace Sys2Proof.Machine

open Sys2Proof

/-! ### Sums within their bound (R77, R183, R188) -/

/-- The order of binary32 patterns as whole numbers. -/
def ord32 (p : Nat) : Int := if p < 2 ^ 31 then (p : Int) else -((p - 2 ^ 31 : Nat) : Int)
def unord32 (v : Int) : Nat := if 0 ≤ v then v.toNat else 2 ^ 31 + v.natAbs

/-- Is pattern `p` within num / den of `c`? -/
def nearOk (c num : FVal) (den : Nat) (p : Int) : Bool :=
  match dec32 (unord32 p) with
  | .fin s m e => ((((FVal.fin s m e).sub c).abs).mul (ofInt (den : Int))).le num
  | _ => false

/-- Move `p` by `d` while it is out of the bound, a few times. -/
def walkIn (c num : FVal) (den : Nat) (d : Int) : (fuel : Nat) → Int → Int
  | 0, p => p
  | f + 1, p => if nearOk c num den p then p else walkIn c num den d f (p + d)

/-- A number for an exact value, to key a free choice. -/
def fvalKey : FVal → Nat
  | .fin s m e => (m * 2 + b2n s) * 4096 + (e + 2048).toNat + 3
  | .inf s => b2n s
  | .nan => 2

/-- A binary32 value within num / den of the exact value `c`, one of those, free (assumption 5); where none is, the one
nearest to `c`. -/
def freeNear (op key : Nat) (c num : FVal) (den : Nat) : FVal :=
  match num with
  | .fin _ m e =>
    let b := quotUp32 m den e
    let top : Int := 0x7F7FFFFF
    let hi := walkIn c num den (-1) 8 (min top (ord32 (enc32 (c.add b)) + 1))
    let lo := walkIn c num den 1 8 (max (-top) (ord32 (enc32 (c.sub b)) - 1))
    if hi ≤ lo then dec32 (enc32 c)
    else dec32 (unord32 (lo + ((Config.pick op key % (hi - lo + 1).toNat : Nat) : Int)))
  | _ => dec32 (enc32 c)

def termsKey (ts : List FVal) : Nat := ts.foldl (fun a t => a * 2 ^ 160 + fvalKey t) 1

/-- The binary32 sum of `n` terms in an order the spec does not give: within γ(n) · Σ|t| + n · 2^−150 of the exact sum
(R77). Terms that are not finite follow binary32 arithmetic. -/
def sumFree (op n : Nat) (ts : List FVal) : FVal :=
  let c := sumF ts
  match c with
  | .fin _ _ _ =>
    let g : Nat := 2 ^ 24 - n
    let k := ofInt (n : Int)
    freeNear op (termsKey ts) c ((k.mul (sumF (ts.map FVal.abs))).add ((k.mul (pow2 (-150))).mul (ofInt (g : Int)))) g
  | v => v

def f32 (v : FVal) : FVal := fF32.round .rne v
def bf16 (v : FVal) : FVal := fBF16.round .rne v
def dotFree (op : Nat) (xs ys : List FVal) : FVal := sumFree op xs.length ((xs.zip ys).map fun p => p.1.mul p.2)

/-- Clamp a score to the finite binary32 range (R183). -/
def clampScore (v : FVal) : FVal :=
  match f32 v with
  | .inf s => if s then dec32 0xFF7FFFFF else dec32 0x7F7FFFFF
  | x => x

/-- The score of a token (R183): within |SCALE| · γ(D) · Σ|q̃ c| + 2^−24 · |s| of the exact score s (R188), free. -/
def scoreFree (scale : FVal) (q c : List FVal) : FVal :=
  let ts := (q.zip c).map fun p => p.1.mul p.2
  let s := scale.mul (sumF ts)
  match s, scale with
  | .fin _ _ _, .fin _ _ _ =>
    let g : Nat := 2 ^ 24 - q.length
    clampScore (freeNear 0x70 (termsKey (scale :: ts)) s
      ((((ofInt (q.length : Int)).mul scale.abs).mul (sumF (ts.map FVal.abs))).add
        ((s.abs.mul (pow2 (-24))).mul (ofInt (g : Int)))) g)
  | v, _ => clampScore v

/-- e^v by the function of R92 on a binary32 value. -/
def expF (v : FVal) : FVal := dec32 (fnApply 0x09 (enc32 v))

def maxF (xs : List FVal) : FVal := xs.foldl (fun a x => if a.lt x then x else a) (.inf true)

/-! ### One head-row (R183, R189) -/

/-- The running sums of a head-row. -/
structure HeadSt where
  m : Option FVal
  l : FVal
  acc : List FVal
  z : FVal
  a : FVal
  deriving DecidableEq, Repr

def HeadSt.zero (d : Nat) : HeadSt :=
  ⟨none, .fin false 0 0, List.replicate d (.fin false 0 0), .fin false 0 0, .fin false 0 0⟩

/-- One block of tokens. -/
def headBlock (d : Nat) (scale : FVal) (q : List FVal) (h : HeadSt) (block : List (List FVal)) : HeadSt :=
  let ss := block.map (scoreFree scale q)
  let top := maxF ss
  let m' := match h.m with
    | none => top
    | some m => if m.lt top then top else m
  let al := match h.m with
    | none => FVal.fin false 0 0
    | some m => expF (f32 (m.sub m'))
  let ps := ss.map fun s => bf16 (expF (f32 (s.sub m')))
  let n := block.length + 2
  let sg := block.map fun c => sumFree 0x73 d c
  let ab := block.map fun c => sumFree 0x73 d (c.map FVal.abs)
  let mix := fun (old : FVal) (xs : List FVal) => sumFree 0x71 n (al.mul old :: (ps.zip xs).map fun p => p.1.mul p.2)
  ⟨some m', sumFree 0x72 n (al.mul h.l :: ps),
   (List.range d).map fun j => mix (h.acc.getD j (.fin false 0 0)) (block.map fun c => c.getD j (.fin false 0 0)),
   mix h.z sg, mix h.a ab⟩

/-- The check of R189: does it hold, the difference, and the tolerance rounded up to binary32. -/
def headCheck (d blocks : Nat) (h : HeadSt) : Bool × FVal × FVal :=
  let n := d + 33 * blocks
  let diff := ((sumF h.acc).sub h.z).abs
  if 2 ^ 24 ≤ n then (Config.pick 0x74 n % 2 == 0, diff, dec32 (Config.tolBeyond n))
  else
    let t := (ofInt ((2 * n : Nat) : Int)).mul h.a
    ((diff.mul (ofInt ((2 ^ 24 - n : Nat) : Int))).le t, diff,
      match t with | .fin _ m e => quotUp32 m (2 ^ 24 - n) e | v => v)

/-- What a head-row puts out: values, whether NaN, whether its check holds, and the check's difference and tolerance. -/
structure HeadOut where
  vals : List FVal
  nan : Bool
  ok : Bool
  diff : Nat
  tol : Nat
  deriving DecidableEq, Repr

/-- A head-row over its blocks; `wuk` and `wuv` are the head's matrices where they are used. -/
def headRow (d : Nat) (scale : FVal) (q : List FVal) (wuk wuv : Option (List (List FVal))) (blocks : List (List (List FVal))) :
    HeadOut :=
  let qt := match wuk with
    | none => q
    | some w => (List.range d).map fun i => bf16 (dotFree 0x75 (w.map fun r => r.getD i (.fin false 0 0)) q)
  let h := blocks.foldl (headBlock d scale qt) (HeadSt.zero d)
  let o := h.acc.map fun x => divF fF32 x h.l
  let out := match wuv with
    | none => o
    | some w => w.map fun r => dotFree 0x76 r (o.map bf16)
  let bad := out.any FVal.isNan || qt.any FVal.isNan || scale.isNan
    || blocks.any fun b => b.any fun c => c.any FVal.isNan
  let vals := if bad then out.map fun _ => FVal.nan else out
  let k := headCheck d blocks.length h
  ⟨vals, bad, bad || k.1, enc32 k.2.1, enc32 k.2.2⟩

/-! ### Records (R176, R177) -/

def rOp (r : List Byte) : Nat := byteAt r 0
def rXk (r : List Byte) : Bool := bit (byteAt r 1) 0
def rXv (r : List Byte) : Bool := bit (byteAt r 1) 1
def rF32 (r : List Byte) : Bool := bit (byteAt r 1) 2
def rIdx (r : List Byte) : Nat := leAt r 2 2
def rLayer (r : List Byte) : Nat := byteAt r 4
def rN (r : List Byte) : Nat := byteAt r 5
def rH (r : List Byte) : Nat := byteAt r 6
def rDh (r : List Byte) : Nat := 32 * 2 ^ byteAt r 7
def rSrc (r : List Byte) : Nat := leAt r 8 4
def rOut (r : List Byte) : Nat := leAt r 12 4
def rWuk (r : List Byte) : Nat := leAt r 16 4
def rWuv (r : List Byte) : Nat := leAt r 20 4
def rScale (r : List Byte) : FVal := dec32 (leAt r 24 4)
def rAddr (r : List Byte) : Nat := leAt r 32 6
def rTok (r : List Byte) : Nat := leAt r 40 4
def rSeg (r : List Byte) : Nat := leAt r 44 4
def rDone (r : List Byte) : Nat := leAt r 48 4
def rSeq (r : List Byte) : Nat := byteAt r 63
def rCd (r : List Byte) : Nat := 64 * (byteAt r 31 + 1)

/-- Are bytes [off, off + n) zero? -/
def zeroAt (r : List Byte) (off n : Nat) : Bool := leAt r off n == 0

/-- Reserved values and unused fields. -/
def recordOk (r : List Byte) : Bool :=
  let common := zeroAt r 38 2 && zeroAt r 52 11 && decide (1 ≤ rN r) && decide (rN r ≤ 64)
  let heads := decide (byteAt r 1 < 8) && decide (1 ≤ rH r) && decide (rH r ≤ 32) && decide (byteAt r 7 < 3)
  match rOp r with
  | 1 => common && zeroAt r 1 1 && zeroAt r 6 2 && zeroAt r 12 20 && zeroAt r 40 8
  | 2 => common && heads && zeroAt r 30 2 && zeroAt r 40 8
  | 3 => common && heads && rLayer r == 0 && decide (1 ≤ rTok r) && decide (rTok r ≤ 2 ^ 24)
  | _ => false

def inFmt (c : Nat) : Bool := c == 9 || c == 2
def fmtBytes (c : Nat) : Nat := if c = 9 then 2 else 1
def fmtOf (c : Nat) : Fmt := (Fmt.ofCode c).getD .int8

/-- Bytes of the package address space. -/
def packageTop : Nat := 2 ^ 48

/-- Alignment of the command's fields, and the ranges that need no track (R177). -/
def alignOk (r : List Byte) : Bool :=
  decide (rSrc r % 64 = 0) && decide (rAddr r % 64 = 0) && decide (rDone r % 4 = 0) && decide (rDone r + 4 ≤ cmSize)
    && (rOp r == 1 || (decide (rOut r % 64 = 0) && decide (rWuk r % 64 = 0) && decide (rWuv r % 64 = 0)))
    && (rOp r == 3 || decide (rAddr r + 4 * rIdx r + 4 ≤ packageTop))
    && (!(rOp r == 3) || (decide (rSeg r % 64 = 0) && decide (rSeg r + 128 ≤ landSize)))

/-- Elements of an output row, and their bytes. -/
def outLen (r : List Byte) (d : Nat) : Nat := if rXv r then rDh r else d
def outSize (r : List Byte) : Nat := if rF32 r then 4 else 2
def inLen (r : List Byte) (d : Nat) : Nat := if rXk r then rDh r else d

/-- The core memory and Landing ranges of SELF and CROSS for latent width `d`. -/
def rangesOk (r : List Byte) (d : Nat) : Bool :=
  let hr := rN r * rH r
  let w := rH r * rDh r * d * fmtBytes (byteAt r 29)
  decide (rSrc r + hr * inLen r d * fmtBytes (byteAt r 28) ≤ cmSize) && decide (rOut r + hr * outLen r d * outSize r ≤ cmSize)
    && (!rXk r || decide (rWuk r + w ≤ landSize)) && (!rXv r || decide (rWuv r + w ≤ landSize))

/-- Formats of SELF and CROSS. -/
def fmtsOk (r : List Byte) : Bool :=
  inFmt (byteAt r 28) && inFmt (byteAt r 29)
    && (!(rOp r == 3) || inFmt (byteAt r 30) || byteAt r 30 == 3)

/-! ### The unit's state -/

def State.att (s : State) (c : Nat) : AttSt := getD AttSt.reset s.atts c

/-- Commands posted and not completed, of one core or of all. -/
def postedBy (a : AttSt) (p : Post → Bool) : Nat :=
  (a.posts.filter p).length + (match a.app with | some r => b2n (p r.post) | none => 0)
    + (match a.att with | some r => b2n (p r.post) | none => 0)

def hasLease (a : AttSt) : Bool := match a.att with | some r => r.lease | none => false

/-- PAN_ATT_STS and PAN_STS.LEASES follow the unit. -/
def State.setAtt (s : State) (c : Nat) (a : AttSt) : State :=
  let s := { s with atts := setD AttSt.reset s.atts c a }
  let b := attBase c
  let s := (s.fs b Fld.PAN_ATT_STS_APP_BUSY (b2n a.app.isSome)).fs b Fld.PAN_ATT_STS_ATT_BUSY (b2n a.att.isSome)
  let n := postedBy a fun _ => true
  let s := (s.fs b Fld.PAN_ATT_STS_POSTED n).fs (cluBase c) Fld.CLU_STS_ATTN_BUSY (b2n (decide (0 < n)))
  s.fs (panBase (c / 8)) Fld.PAN_STS_LEASES (s.atts.filter fun e => e.1 / 8 == c / 8 && hasLease e.2).length

/-! ### Posting (R172 to R174) -/

/-- The expected sequence value of core `i` of the cluster. -/
def seqExpect (s : State) (c i : Nat) : Nat :=
  bits (s.rd (attBase c + Reg.PAN_ATT_SEQ0 + 4 * (i / 4))) (8 * (i % 4) + 7) (8 * (i % 4))

def seqSet (s : State) (c i v : Nat) : State :=
  let a := attBase c + Reg.PAN_ATT_SEQ0 + 4 * (i / 4)
  s.wr a (setBits (s.rd a) (8 * (i % 4) + 7) (8 * (i % 4)) v)

/-- The image of the step on a core, a golden step's included. -/
def imageOnCore (s : State) (k : Nat) : Option Nat :=
  match (s.core k).golden with
  | some g => some (imgAddr s (policyField s 0 4 g.entry 40 4))
  | none => match stepOfCore s k with
    | some (_, _, r) => some (stepImg s r)
    | none => none

/-- The error bit a status sets. -/
def statusBit (st : Nat) : Option Fld :=
  if st = 0x10 ∨ st = 0x11 ∨ st = 0x12 ∨ st = 0x15 then some Fld.PAN_ATT_ERR_BAD_CMD
  else if st = 0x20 then some Fld.PAN_ATT_ERR_ACCESS
  else if st = 0x21 then some Fld.PAN_ATT_ERR_POISON
  else if st = 3 then some Fld.PAN_ATT_ERR_CHECK
  else if st = 0x16 then some Fld.PAN_ATT_ERR_NOT_HELD
  else none

/-- The completion word, the count and the error bit (R181). -/
def attDone (s : State) (c core : Nat) (raw : List Byte) (st total : Nat) : State :=
  let s := if rDone raw % 4 = 0 ∧ rDone raw + 4 ≤ cmSize then
      sramWrite s (cmBase core + rDone raw) (leBytes 4 (rSeq raw + st * 256 + min total 0xFFFF * 65536)) else s
  let s := s.faddWrap (attBase c) Fld.PAN_ATT_CNT_COUNT 1
  match statusBit st with
  | some f => s.fs (attBase c) f 1
  | none => s

/-- A slot of core `k`'s ring was written whole: the post, or an ignored write. `mover` says that a stream mover of the
core made the write. -/
def slotPosted (s : State) (k : Nat) (mover : Bool) (raw : List Byte) : State :=
  let c := k / 8
  let i := k % 8
  let a := s.att c
  let room := decide (postedBy a (fun p => p.core == k) < 16)
  if mover && rSeq raw == seqExpect s c i && seqRun s k && room && s.fb (cluBase c) Fld.CLU_CTL_ATTN_EN then
    let e := seqExpect s c i
    let s := seqSet s c i (if e = 255 then 1 else e + 1)
    let held := match imageOnCore s k with | some im => imgAttn s im | none => false
    if held then
      let b := coreBase k
      s.setAtt c { a with posts := a.posts ++ [⟨k, raw, s.fg b Fld.CORE_STEP_TAG, s.fg b Fld.CORE_STEP_CLASS,
        s.fg b Fld.CORE_CTXT_CTX, s.fg b Fld.CORE_CTXT_CTX_GEN, a.next⟩], next := a.next + 1 }
    else attDone s c k raw 0x16 0
  else if rSeq raw = 0 then s else s.fs (attBase c) Fld.PAN_ATT_ERR_SEQ_SKIP 1

/-- Landing offset of the command rings. -/
def ringStart : Nat := 0x3FE000

/-- What the attention unit sees of a write of `bs` at Landing offset `off`, made by initiator `ini`: slots written
whole are judged, a part of a slot that holds its byte 63 is ignored (SEQ_SKIP where that byte is not 0). -/
def ringWrite (s : State) (c off : Nat) (ini : Nat) (bs : List Byte) : State :=
  if bs.isEmpty ∨ off + bs.length ≤ ringStart then s
  else (rangeFrom (off / 64) ((off + bs.length - 1) / 64 - off / 64 + 1)).foldl (fun t j =>
    if 64 * j < ringStart then t
    else
      let k := 8 * c + (64 * j - ringStart) / 0x400
      if off ≤ 64 * j ∧ 64 * j + 64 ≤ off + bs.length then
        slotPosted t k (ini == coreIni k 1 || ini == coreIni k 2) ((bs.drop (64 * j - off)).take 64)
      else if off ≤ 64 * j + 63 ∧ 64 * j + 63 < off + bs.length ∧ byteAt bs (64 * j + 63 - off) ≠ 0 then
        t.fs (attBase c) Fld.PAN_ATT_ERR_SEQ_SKIP 1
      else t) s

/-- A memory write that the attention units may see. -/
def busWrite (s : State) (ini ctx a : Nat) (bs : List Byte) : AccRes × State :=
  let r := memWrite s ini ctx a bs
  match r.1, space s a with
  | .ack, .landing c off => (.ack, ringWrite r.2 c off ini bs)
  | x, _ => (x, r.2)

/-- A stream mover of core `k` writes slot `slot` of its ring with `data`. -/
def execAttnPost (k m slot : Nat) (data : List Byte) (s : State) : Host.Outcome State Fault Refusal :=
  .next (busWrite s (coreIni k (m + 1)) (s.fg (coreBase k) Fld.CORE_CTXT_CTX)
    (landBase (k / 8) + ringStart + k % 8 * 0x400 + slot * 64) data).2

/-- A write of PAN_ATT_CTL. -/
def attRegWrite (s : State) (c off v : Nat) (spec : Option (RegSpec × Nat × Nat)) : State :=
  if off = Reg.PAN_ATT_CTL then
    (if bit v 0 then (s.wr (attBase c + Reg.PAN_ATT_SEQ0) 0x01010101).wr (attBase c + Reg.PAN_ATT_SEQ1) 0x01010101 else s)
  else regStore s (attBase c + off) v spec

def execPanAttSeqRst (ini c : Nat) (v : Word) (s : State) : Host.Outcome State Fault Refusal :=
  .next (viaPort s ini (attBase c + Reg.PAN_ATT_CTL) fun t spec => attRegWrite t c Reg.PAN_ATT_CTL v.toNat spec)

/-! ### Reads of the unit -/

/-- Parts of a range read one after another: bytes, or the status that ends the command. -/
def attReadParts (c ctx : Nat) : List (Nat × Nat) → List Byte → State → Except Nat (List Byte) × State
  | [], acc, s => (.ok acc, s)
  | (a, n) :: ps, acc, s =>
    match memRead s (attIni c) ctx a n with
    | (.data bs, s) => attReadParts c ctx ps (acc ++ bs) s
    | (.poison _ _, s) => (.error 0x21, s)
    | (_, s) => (.error 0x20, s)

def attRead (s : State) (c ctx a n : Nat) : Except Nat (List Byte) × State := attReadParts c ctx (parts4k a n) [] s

/-- SRAM of the cluster, read through the unit's own port. -/
def attSram (s : State) (key n : Nat) : Except Nat (List Byte) × State :=
  let r := sramRead s key n
  (if r.1 then .error 0x21 else .ok (r.2.mrd key n), r.2)

/-- Elements of a row. -/
def rowVals (f : Fmt) (bs : List Byte) (n : Nat) : List FVal :=
  let b := f.width / 8
  (List.range n).map fun i => f.decode (leAt bs (i * b) b)

/-- `rows` rows of `n` elements. -/
def matVals (f : Fmt) (bs : List Byte) (rows n : Nat) : List (List FVal) :=
  (List.range rows).map fun i => rowVals f (bs.drop (i * n * (f.width / 8))) n

/-! ### Starting a command (R175, R178, R179) -/

def poolD (s : State) (d p : Nat) : Nat := 64 * (s.fg (poolReg d p) Fld.PAN_POOL_CFG_DM1 + 1)
def poolFmt (s : State) (d p : Nat) : Nat :=
  match s.fg (poolReg d p) Fld.PAN_POOL_CFG_FMT with | 0 => 2 | 1 => 3 | _ => 9
def poolB (s : State) (d p : Nat) : Nat := fmtBytes (poolFmt s d p)

/-- A command as it enters a pipeline, before its checks. -/
def newRun (p : Post) (start : Nat) : AttRun := ⟨p, 65536, 0, start, [], 0, false, 0, 0, [], none, 0⟩

def AttRun.fail (r : AttRun) (st : Nat) : AttRun := { r with status := some st }

/-- Clusters whose SELF holds a lease on the track-layer. -/
def leasesOn (s : State) (d t layer : Nat) : List Nat :=
  (s.atts.filter fun e => e.1 / 8 == d && (match e.2.att with
    | some r => r.lease && r.track == t && rLayer r.post.raw == layer
    | none => false)).map (·.1)

/-- The checks of APPEND and SELF against the track. -/
def startTrack (s : State) (c : Nat) (r : AttRun) : AttRun × State :=
  let raw := r.post.raw
  let d := c / 8
  match attRead s c r.post.ctx (rAddr raw + 4 * rIdx raw) 4 with
  | (.error e, s) => (r.fail e, s)
  | (.ok bs, s) =>
    let t := leNat bs % 65536
    let e := entryRead s d t
    let s := e.2
    let e := e.1
    let dd := poolD s d e.pool
    if e.state ≠ 1 ∨ s.fb (panBase d) Fld.PAN_STS_READY = false then (r.fail 0x13, s)
    else if e.ctx ≠ r.post.ctx ∨ e.gen ≠ r.post.ctxGen then (r.fail 0x14, s)
    else if e.layers ≤ rLayer raw then (r.fail 0x12, s)
    else if rOp raw = 1 then
      if cmSize < rSrc raw + rN raw * dd * poolB s d e.pool then (r.fail 0x11, s)
      else
        let b := blockRead s d e (rLayer raw)
        ({ r with track := t, pool := e.pool, waits := leasesOn s d t (rLayer raw), count := b.1.1, window := e.window }, b.2)
    else if !fmtsOk raw then (r.fail 0x15, s)
    else if 131072 < rN raw * rH raw * dd then (r.fail 0x10, s)
    else if !rangesOk raw dd then (r.fail 0x11, s)
    else
      let b := blockRead s d e (rLayer raw)
      ({ r with track := t, pool := e.pool, lease := true, count := b.1.1, window := e.window, ptes := b.1.2.2 }, b.2)

/-- Where a token table may lie, first byte to last (R187): one die's DRAM by raw address, the interleaved window, or one
memory of the unit's own cluster. -/
def tableOk (s : State) (c a n : Nat) : Bool :=
  match space s a, space s (a + n - 1) with
  | .dram x, .dram y => if a < 0x002000000000 then rawDie x == rawDie y else decide (0x004000000000 ≤ a)
  | .landing i _, .landing j _ => i == c && j == c
  | .coreMem i _, .coreMem j _ => i == j && i / 8 == c
  | _, _ => false

def startCross (s : State) (c : Nat) (r : AttRun) : AttRun :=
  let raw := r.post.raw
  let d := rCd raw
  if !fmtsOk raw then r.fail 0x15
  else if 131072 < rN raw * rH raw * d then r.fail 0x10
  else if !rangesOk raw d || !tableOk s c (rAddr raw) (rTok raw * d * fmtBytes (byteAt raw 30)) then r.fail 0x11
  else r

/-- The checks of a command as it starts. -/
def startRun (s : State) (c : Nat) (r : AttRun) : AttRun × State :=
  let raw := r.post.raw
  if !recordOk raw then (r.fail 0x10, s)
  else if !alignOk raw then (r.fail 0x11, s)
  else if rOp raw = 3 then (startCross s c r, s)
  else startTrack s c r

/-- APPEND enters the append pipeline, everything else the attend pipeline. -/
def pipeFree (a : AttSt) (p : Post) : Bool := if rOp p.raw = 1 then a.app.isNone else a.att.isNone

/-- The next post in round-robin order whose pipeline is free. -/
def nextPost (a : AttSt) : Option Post :=
  ((List.range 8).filterMap fun i => a.posts.find? fun p => p.core % 8 == (a.turn + i) % 8).find? (pipeFree a)

/-- The place of an append that starts now in the order in which its die's Pantry receives them (R179). -/
def appendTurn (s : State) (d : Nat) : Nat :=
  s.atts.foldl (fun n e => match e.2.app with | some r => if e.1 / 8 = d then max n (r.start + 1) else n | none => n) 0

def execAttnCommandStart (c : Nat) (s : State) : Host.Outcome State Fault Refusal :=
  let a := s.att c
  .next (match nextPost a with
    | none => s
    | some p =>
      let r := startRun s c (newRun p (appendTurn s (c / 8)))
      let a := { a with posts := a.posts.erase p, turn := (p.core + 1) % 8 }
      r.2.setAtt c (if rOp p.raw = 1 then { a with app := some r.1 } else { a with att := some r.1 }))

/-! ### APPEND (R167, R179, R182) -/

/-- How a row of an append fared: written, waiting for leases, or ended with a status. -/
inductive RowEnd where
  | ok
  | wait
  | fail (st : Nat)
  deriving DecidableEq, Repr

/-- The page of token `t`: allocated, recycled, or already there; recycling waits for the leases of `waits`. -/
def pageFor (s : State) (d : Nat) (e : TrackEnt) (track layer t : Nat) (wait : Bool) : Option (Nat × State) :=
  let j := t / 32 % e.ring
  let b := blockRead s d e layer
  let s := b.2
  let pte := b.1.2.2.getD j 0
  if t % 32 ≠ 0 then some (pte % 2 ^ 24, s)
  else if bit pte 31 then (if wait then none else some (pte % 2 ^ 24, pageZero s d e.pool (pte % 2 ^ 24)))
  else
    let p := takePage s d e.pool
    let s := metaPut p.2 d (blockOff e layer + 16 + 4 * j) (leBytes 4 (p.1 + 2 ^ 31))
    let s := metaPut s d (blockOff e layer + 6) (leBytes 2 (b.1.2.1 + 1))
    some (p.1, metaPut s d (64 * track + 20) (leBytes 4 (e.used + 1)))

/-- Parts of a row written one after another. -/
def attWriteParts (c ctx : Nat) : List (Nat × Nat) → List Byte → State → Option Nat × State
  | [], _, s => (none, s)
  | (a, n) :: ps, bs, s =>
    match memWrite s (attIni c) ctx a (bs.take n) with
    | (.ack, s) => attWriteParts c ctx ps (bs.drop n) s
    | (_, s) => (some 0x20, s)

/-- One row becomes token COUNT + row. -/
def appendRow (s : State) (c : Nat) (r : AttRun) : RowEnd × State :=
  let d := c / 8
  let raw := r.post.raw
  let e := entryRead s d r.track
  let s := e.2
  let size := poolD s d r.pool * poolB s d r.pool
  let t := r.count + r.row
  match attSram s (cmBase r.post.core + rSrc raw + r.row * size) size with
  | (.error st, s) => (.fail st, s)
  | (.ok bs, s) =>
    match pageFor s d e.1 r.track (rLayer raw) t (!r.waits.isEmpty) with
    | none => (.wait, s)
    | some (page, s) =>
      match attWriteParts c r.post.ctx (parts4k (pageAddr s d r.pool page + t % 32 * size) size) bs s with
      | (none, s) => (.ok, s)
      | (some st, s) => (.fail st, s)

/-- Append rows until all are written, one waits, or one fails. -/
def appendRows (c : Nat) : (fuel : Nat) → AttRun → State → AttRun × State
  | 0, r, s => (r, s)
  | f + 1, r, s =>
    if rN r.post.raw ≤ r.row then
      let e := entryRead s (c / 8) r.track
      let s := metaPut e.2 (c / 8) (blockOff e.1 (rLayer r.post.raw)) (leBytes 6 (r.count + r.row))
      ({ r with status := some 0, total := r.row }, s)
    else match appendRow s c r with
      | (.ok, s) => appendRows c f { r with row := r.row + 1 } s
      | (.wait, s) => (r, s)
      | (.fail st, s) => (r.fail st, s)

/-- Is an append to the same track-layer ahead in the Pantry's order (R179)? -/
def appendAhead (s : State) (c : Nat) (r : AttRun) : Bool :=
  s.atts.any fun e => e.1 / 8 == c / 8 && (match e.2.app with
    | some x => x.status.isNone && x.track == r.track && rLayer x.post.raw == rLayer r.post.raw
        && decide (x.start < r.start)
    | none => false)

/-- COUNT where the append takes it: read when its turn comes. -/
def appendCount (s : State) (c : Nat) (r : AttRun) : AttRun × State :=
  if r.row ≠ 0 then (r, s)
  else
    let e := entryRead s (c / 8) r.track
    let b := blockRead e.2 (c / 8) e.1 (rLayer r.post.raw)
    ({ r with count := b.1.1 }, b.2)

/-- Run the append of a cluster as far as it goes. -/
def appendGo (s : State) (c : Nat) : State :=
  match (s.att c).app with
  | none => s
  | some r =>
    if r.status.isSome || appendAhead s c r then s
    else
      let q := appendCount s c r
      let x := appendRows c (rN r.post.raw + 1) q.1 q.2
      x.2.setAtt c { x.2.att c with app := some x.1 }

def execAttnAppend (c : Nat) (s : State) : Host.Outcome State Fault Refusal := .next (appendGo s c)

/-- An append that waited to recycle a page goes on once the earlier leases have ended. -/
def execPageRecycleResume (c : Nat) (s : State) : Host.Outcome State Fault Refusal :=
  .next (match (s.att c).app with
    | some r => if r.waits.isEmpty then appendGo s c else s
    | none => s)

/-! ### SELF and CROSS (R183 to R187) -/

/-- Output bytes of a head-row. -/
def outBytesOf (raw : List Byte) (vs : List FVal) : List Byte :=
  vs.flatMap fun v => if rF32 raw then leBytes 4 (enc32 v) else leBytes 2 (fBF16.encode (fBF16.round .rne v))

/-- Does an armed slot of target 7 name the cluster (R551)? -/
def cluSel (c : Nat) (w1 _w2 _w3 : Nat) : Bool := bits w1 2 0 == c % 8

/-- A failed check is handled like a mismatch of the posting core's checker (R189, R438, R449). Which engine, bank, axis
and index the record names, the spec does not say: they are free. -/
def attMismatch (s : State) (c : Nat) (p : Post) (diff tol : Nat) : State :=
  let f := (s.fs (attBase c) Fld.PAN_ATT_ERR_CHECK 1).free
  let s := logMismatch f.2 p.core (f.1.toNat % 2 ^ 11 + p.tag * 4096 + 2 ^ 31) diff tol
  if s.fg (coreBase p.core) Fld.CORE_STEP_TAG = p.tag then noteMismatch s p.core else s

/-- The head-rows over their blocks: outputs written, status decided. -/
def attCompute (s : State) (c : Nat) (r : AttRun) (d : Nat) (blocks : List (List (List FVal))) : AttRun × State :=
  let raw := r.post.raw
  let k := r.post.core
  let qf := fmtOf (byteAt raw 28)
  let wf := fmtOf (byteAt raw 29)
  let hr := rN raw * rH raw
  let il := inLen raw d
  let wn := rH raw * rDh raw * d * (wf.width / 8)
  match attSram s (cmBase k + rSrc raw) (hr * il * (qf.width / 8)) with
  | (.error st, s) => (r.fail st, s)
  | (.ok qb, s) =>
    match (if rXk raw then attSram s (landBase c + rWuk raw) wn else (.ok [], s)) with
    | (.error st, s) => (r.fail st, s)
    | (.ok kb, s) =>
      match (if rXv raw then attSram s (landBase c + rWuv raw) wn else (.ok [], s)) with
      | (.error st, s) => (r.fail st, s)
      | (.ok vb, s) =>
        let qs := matVals qf qb hr il
        let mat := fun (bs : List Byte) (h : Nat) => matVals wf (bs.drop (h * rDh raw * d * (wf.width / 8))) (rDh raw) d
        let outs := ((List.range hr).zip qs).map fun p =>
          let h := p.1 % rH raw
          headRow d (rScale raw) p.2 (if rXk raw then some (mat kb h) else none) (if rXv raw then some (mat vb h) else none) blocks
        let s := sramWrite s (cmBase k + rOut raw) (outs.flatMap fun o => outBytesOf raw o.vals)
        let inj := inject s (c / 8) 7 (cluSel c)
        let s := inj.2
        let bad := decide (inj.1 ≠ 0) || outs.any fun o => !o.ok
        let s := if bad then
            let o := ((outs.find? fun o => !o.ok).orElse fun _ => outs.head?).getD ⟨[], false, false, 0, 0⟩
            attMismatch s c r.post o.diff o.tol
          else s
        let st := if bad then 3 else if outs.any (·.nan) then 2 else 0
        ({ r with status := some st, total := blocks.length }, s)

/-- No token: +0 everywhere and EMPTY (R184). -/
def attEmpty (s : State) (r : AttRun) (d : Nat) : AttRun × State :=
  let raw := r.post.raw
  ({ r with status := some 1 },
   sramWrite s (cmBase r.post.core + rOut raw) (List.replicate (rN raw * rH raw * outLen raw d * outSize raw) 0))

/-- Read rows of tokens, one address after another. -/
def readRows (c ctx : Nat) (f : Fmt) (d : Nat) : List Nat → List (List FVal) → State → Except Nat (List (List FVal)) × State
  | [], acc, s => (.ok acc, s)
  | a :: as, acc, s =>
    match attRead s c ctx a (d * (f.width / 8)) with
    | (.error e, s) => (.error e, s)
    | (.ok bs, s) => readRows c ctx f d as (acc ++ [rowVals f bs d]) s

/-- Read blocks of rows. -/
def readBlocks (c ctx : Nat) (f : Fmt) (d : Nat) : List (List Nat) → List (List (List FVal)) → State →
    Except Nat (List (List (List FVal))) × State
  | [], acc, s => (.ok acc, s)
  | b :: bs, acc, s =>
    match readRows c ctx f d b [] s with
    | (.error e, s) => (.error e, s)
    | (.ok rows, s) => readBlocks c ctx f d bs (acc ++ [rows]) s

/-- The addresses of the visible tokens under a lease, block by block (R160, R179). -/
def visibleBlocks (s : State) (d : Nat) (r : AttRun) : List (List Nat) :=
  let lo := r.count - r.window
  let size := poolD s d r.pool * poolB s d r.pool
  (rangeFrom (lo / 32) (cdiv r.count 32 - lo / 32)).map fun b =>
    let page := r.ptes.getD (b % max 1 r.ptes.length) 0 % 2 ^ 24
    ((List.range 32).filter fun i => decide (lo ≤ 32 * b + i) && decide (32 * b + i < r.count)).map fun i =>
      pageAddr s d r.pool page + i * size

/-- The command of the attend pipeline when it has the operation and has not been decided. -/
def attending (s : State) (c op : Nat) : Option AttRun :=
  match (s.att c).att with
  | some r => if r.status.isNone && rOp r.post.raw == op then some r else none
  | none => none

def finishAttend (c : Nat) (x : AttRun × State) : State := x.2.setAtt c { x.2.att c with att := some x.1 }

def execAttnSelf (c : Nat) (s : State) : Host.Outcome State Fault Refusal :=
  .next (match attending s c 2 with
    | none => s
    | some r =>
      let d := c / 8
      let dd := poolD s d r.pool
      let bs := visibleBlocks s d r
      if bs.isEmpty then finishAttend c (attEmpty s r dd)
      else match readBlocks c r.post.ctx (fmtOf (poolFmt s d r.pool)) dd bs [] s with
        | (.error st, s) => finishAttend c (r.fail st, s)
        | (.ok blocks, s) => finishAttend c (attCompute s c r dd blocks))

/-- The selected segments of a CROSS: first token and count. -/
def segmentsOf (raw tbl : List Byte) : List (Nat × Nat) :=
  ((List.range 16).filter fun i => bit (rIdx raw) i).map fun i => (leAt tbl (8 * i) 4, leAt tbl (8 * i + 4) 4)

def execAttnCross (c : Nat) (s : State) : Host.Outcome State Fault Refusal :=
  .next (match attending s c 3 with
    | none => s
    | some r =>
      let raw := r.post.raw
      let d := rCd raw
      let size := d * fmtBytes (byteAt raw 30)
      match attSram s (landBase c + rSeg raw) 128 with
      | (.error st, s) => finishAttend c (r.fail st, s)
      | (.ok tbl, s) =>
        let segs := segmentsOf raw tbl
        if segs.any fun g => decide (rTok raw < g.1 + g.2) then finishAttend c (r.fail 0x11, s)
        else
          let blocks := segs.flatMap fun g => (List.range (cdiv g.2 32)).map fun b =>
            (rangeFrom (g.1 + 32 * b) (min 32 (g.2 - 32 * b))).map fun t => rAddr raw + t * size
          if blocks.isEmpty then finishAttend c (attEmpty s r d)
          else match readBlocks c r.post.ctx (fmtOf (byteAt raw 30)) d blocks [] s with
            | (.error st, s) => finishAttend c (r.fail st, s)
            | (.ok rows, s) => finishAttend c (attCompute s c r d rows))

/-! ### Completion (R175, R181) -/

/-- Is an earlier command of the same core still in the other pipeline? -/
def earlierRuns (o : Option AttRun) (r : AttRun) : Bool :=
  match o with
  | some x => x.post.core == r.post.core && decide (x.post.order < r.post.order)
  | none => false

/-- A lease of cluster `c` has ended. -/
def leaseEnd (s : State) (c : Nat) : State :=
  { s with atts := s.atts.map fun e => (e.1, match e.2.app with
      | some r => { e.2 with app := some { r with waits := r.waits.filter fun x => !(x == c) } }
      | none => e.2) }

/-- A command whose status is decided completes: the lease ends, the completion word is written. -/
def execAttnComplete (c : Nat) (att : Bool) (s : State) : Host.Outcome State Fault Refusal :=
  let a := s.att c
  let r := if att then a.att else a.app
  let o := if att then a.app else a.att
  .next (match r with
    | none => s
    | some r =>
      match r.status with
      | none => s
      | some st =>
        if earlierRuns o r then s
        else
          let s := if att && st < 0x10 then s.faddWrap (attBase c) Fld.PAN_ATT_BLK_COUNT r.total else s
          let s := attDone s c r.post.core r.post.raw st (if st < 0x10 then r.total else 0)
          let s := if r.lease then leaseEnd s c else s
          let a := s.att c
          s.setAtt c (if att then { a with att := none } else { a with app := none }))

end Sys2Proof.Machine
end

