-- ==== Sys2Proof/Machine/Mover.lean ====
section
/-!
DEFINITION. Machine/Mover.lean: the stream movers: descriptors, their checks, copies, fills and stream-outs, and the
faults a mover records (R104 to R109, R124, R126).
-/
namespace Sys2Proof.Machine

open Sys2Proof

/-- A mover descriptor's fields (R105). -/
structure MovFields where
  kind : Nat
  ssp : Nat
  dsp : Nat
  mask : Nat
  rows : Nat
  len : Nat
  sstr : Nat
  dstr : Nat
  src : Nat
  dst : Nat
  rsv : Bool
  deriving DecidableEq, Repr

def movFields (r : List Byte) : MovFields :=
  let b1 := byteAt r 1
  ⟨byteAt r 0 % 16, b1 % 4, b1 / 4 % 4, b1 / 16, leAt r 2 2, leAt r 4 4 % 2 ^ 21, leAt r 8 4, leAt r 12 4,
   leAt r 16 8 % 2 ^ 48, leAt r 24 8 % 2 ^ 48,
   -- every bit outside the fields counts as reserved, bits 63:48 of the SRC and DST words among them (assumption 19)
   !(byteAt r 0 / 16 == 0) || !(leAt r 4 4 / 2 ^ 21 == 0) || !(leAt r 22 2 == 0) || !(leAt r 30 2 == 0)⟩

/-- How many engines a mask names. -/
def maskCount (m : Nat) : Nat := b2n (bit m 0) + b2n (bit m 1) + b2n (bit m 2) + b2n (bit m 3)

/-- A space's address granule, and its size where it is bounded: 0 package, 1 core memory, 2 scratch. -/
def spGrain (sp : Nat) : Nat := if sp = 2 then 64 else 32
def spFits (sp a rows len str : Nat) : Bool :=
  let e := a + (rows - 1) * str + len
  if sp = 1 then decide (e ≤ cmSize) else if sp = 2 then decide (e ≤ scrSize) else true

/-- Does the descriptor keep every rule of R106? `slot` is the stream's slot size where it is a stream-out. -/
def movOk (v : MovFields) (slot : Nat) : Bool :=
  let al := fun x g => decide (x % g = 0)
  let gs := spGrain v.ssp
  let gd := spGrain v.dsp
  let reads := v.kind == 0 || v.kind == 2
  decide (v.kind < 3) && !v.rsv && decide (1 ≤ v.rows) && decide (32 ≤ v.len) && decide (v.len ≤ 1048576)
    && al v.len 32 && al v.sstr 32 && al v.dstr 32
    && (!reads || (decide (v.ssp < 3) && al v.src gs && al v.sstr gs && al v.len gs
        && (!(v.ssp == 2) || maskCount v.mask == 1) && spFits v.ssp v.src v.rows v.len v.sstr))
    && (if v.kind = 2 then v.dsp == 3 && decide (0 < slot) && al (v.rows * v.len) slot
        else decide (v.dsp < 3) && al v.dst gd && al v.dstr gd && al v.len gd
          && (!(v.dsp == 2) || decide (1 ≤ maskCount v.mask)) && spFits v.dsp v.dst v.rows v.len v.dstr)

/-- How a mover ends with its descriptor. -/
inductive MovEnd where
  | ok
  | access
  | poison (sram : Bool) (die : Nat)
  deriving DecidableEq, Repr

/-- The engine of a one-engine mask. -/
def maskEng (m : Nat) : Nat := if bit m 0 then 0 else if bit m 1 then 1 else if bit m 2 then 2 else 3

/-- A fenced core with no golden step reaches only its own core memory and scratch (CORE_CTL.FENCE). -/
def fencedOut (s : State) (k : Nat) : Bool := s.fb (coreBase k) Fld.CORE_CTL_FENCE && (s.core k).golden.isNone

def coreCtx (s : State) (k : Nat) : Nat := s.fg (coreBase k) Fld.CORE_CTXT_CTX

/-- Read one part of a row for the mover. -/
def movRead (s : State) (k m sp mask a n : Nat) : AccRes × State :=
  if sp = 0 then
    if fencedOut s k then (.err 1, s) else memRead s (coreIni k (m + 1)) (coreCtx s k) a n
  else
    let key := if sp = 1 then cmBase k + a else scrBase (4 * k + maskEng mask) + a
    let r := sramRead s key n
    (if r.1 then .poison true (k / 64) else .data (r.2.mrd key n), r.2)

/-- Write one part of a row; a scratch destination takes it in every named engine (R106). -/
def movWrite (s : State) (k m sp mask a : Nat) (bs : List Byte) : AccRes × State :=
  if sp = 0 then
    if fencedOut s k then (.err 1, s) else busWrite s (coreIni k (m + 1)) (coreCtx s k) a bs
  else if sp = 1 then (.ack, sramWrite s (cmBase k + a) bs)
  else (.ack, (List.range 4).foldl (fun t i => if bit mask i then sramWrite t (scrBase (4 * k + i) + a) bs else t) s)

/-- Parts of a row that no `g`-byte boundary of the source and no 4 KiB boundary of the destination divides (R26). -/
def rowParts (g : Nat) : (fuel : Nat) → (a d n : Nat) → List (Nat × Nat × Nat)
  | 0, _, _, _ => []
  | f + 1, a, d, n =>
    if n = 0 then []
    else
      let m := min n (min (g - a % g) (4096 - d % 4096))
      (a, d, m) :: rowParts g f (a + m) (d + m) (n - m)

/-- The 4 KiB parts of a copy or fill, in order; a fill has no source. -/
def movParts (v : MovFields) : List (Nat × Nat × Nat) :=
  let w := if v.kind = 1 then { v with src := 0, sstr := 0 } else v
  (List.range v.rows).flatMap fun r =>
    rowParts 4096 (2 * (v.len / 4096 + 2)) (w.src + r * w.sstr) (w.dst + r * w.dstr) w.len

/-- The 64-byte beats of parts. -/
def movBeats (ps : List (Nat × Nat × Nat)) : List (Nat × Nat × Nat) :=
  ps.flatMap fun p => rowParts 64 (p.2.2 / 32 + 2) p.1 p.2.1 p.2.2

/-- Move the beats until one fails; what was written before it stays (R108). -/
def copyRun (k m : Nat) (v : MovFields) : List (Nat × Nat × Nat) → State → MovEnd × State
  | [], s => (.ok, s)
  | (a, d, n) :: ps, s =>
    match movRead s k m v.ssp v.mask a n with
    | (.data bs, s) =>
      match movWrite s k m v.dsp v.mask d bs with
      | (.ack, s) => copyRun k m v ps s
      | (_, s) => (.access, s)
    | (.poison sr die, s) => (.poison sr die, s)
    | (_, s) => (.access, s)

/-- Fill the beats until one fails; the pattern repeats over the destination. -/
def fillRun (k m : Nat) (v : MovFields) : List (Nat × Nat × Nat) → State → MovEnd × State
  | [], s => (.ok, s)
  | (_, d, n) :: ps, s =>
    match movWrite s k m v.dsp v.mask d ((List.range (n / 4)).flatMap fun _ => leBytes 4 (v.src % 2 ^ 32)) with
    | (.ack, s) => fillRun k m v ps s
    | (_, s) => (.access, s)

/-- The mover stops with a fault: HALT, its descriptors dropped, the fault bit, and the step's end (R108, R285). -/
def movFault (s : State) (k m : Nat) (f : Fld) (status : Nat) (hw : Option Nat) : State :=
  let c := s.core k
  let pc := match (getMover c m).queue with | d :: _ => d.pc | [] => seqPc s k
  let s := s.setCore k (setMover c m { getMover c m with queue := [] })
  let s := (syncCore s k).fs (coreBase k + 4 * m) Fld.CORE_SM_STS_HALT 1
  let s := recordFault s k f 0 pc
  match hw with
  | some d => hwError s k d
  | none => failStep s k status (bits (s.rd (coreBase k + Reg.CORE_FAULT)) 15 0)

/-- The head descriptor has had all its writes accepted. -/
def movFinish (s : State) (k m : Nat) : State :=
  let c := s.core k
  let v := getMover c m
  match v.queue with
  | [] => s
  | d :: ds => s.setCore k (setMover c m { v with queue := { d with finished := true } :: ds })

/-- How a copy or fill ends. -/
def movEnd (r : MovEnd × State) (k m : Nat) : State :=
  match r.1 with
  | .ok => movFinish r.2 k m
  | .access => movFault r.2 k m Fld.CORE_FAULT_SM_ACCESS 0x44 none
  | .poison true d => movFault r.2 k m Fld.CORE_FAULT_SM_POISON 0x46 (some d)
  | .poison false _ => movFault r.2 k m Fld.CORE_FAULT_SM_POISON 0x45 none

/-- The head descriptor of a mover that may act. -/
def movHead (s : State) (k m : Nat) : Option MovFields :=
  match (getMover (s.core k) m).queue with
  | [] => none
  | d :: _ =>
    if d.finished || s.fb (coreBase k + 4 * m) Fld.CORE_SM_STS_HALT || s.fb (coreBase k) Fld.CORE_STS_PREEMPT_PEND then none
    else some (movFields d.raw)

/-- An invalid descriptor sets SM_DESC before any transfer (R106). -/
def movInvalid (s : State) (k m : Nat) : State := movFault s k m Fld.CORE_FAULT_SM_DESC 0x44 none

/-- The parts of the head descriptor that are still to move. -/
def movLeft (s : State) (k m : Nat) (v : MovFields) : List (Nat × Nat × Nat) :=
  (movParts v).drop (match (getMover (s.core k) m).queue with | d :: _ => d.moved | [] => 0)

/-- Move or fill some parts, beat by beat. -/
def movRun (k m : Nat) (v : MovFields) (ps : List (Nat × Nat × Nat)) (s : State) : MovEnd × State :=
  if v.kind = 1 then fillRun k m v (movBeats ps) s else copyRun k m v (movBeats ps) s

/-- A copy, or a descriptor of no listed kind (R105, R106). -/
def execSmCopy (k m : Nat) (s : State) : Host.Outcome State Fault Refusal :=
  .next (match movHead s k m with
    | none => s
    | some v =>
      if v.kind = 1 ∨ v.kind = 2 then s
      else if !movOk v 0 then movInvalid s k m
      else movEnd (movRun k m v (movLeft s k m v) s) k m)

def execSmFill (k m : Nat) (s : State) : Host.Outcome State Fault Refusal :=
  .next (match movHead s k m with
    | none => s
    | some v =>
      if v.kind ≠ 1 then s
      else if !movOk v 0 then movInvalid s k m
      else movEnd (movRun k m v (movLeft s k m v) s) k m)

/-- A copy or fill stops for a pre-emption at a 4 KiB part, which the spec leaves to its timing, and the mover records
what remains (R128; assumption 18). -/
def movStop (s : State) (k m : Nat) : State :=
  let v := getMover (s.core k) m
  match v.queue with
  | [] => s
  | d :: ds =>
    let w := movFields d.raw
    let left := movLeft s k m w
    if d.finished || s.fb (coreBase k + 4 * m) Fld.CORE_SM_STS_HALT || w.kind == 2 || !movOk w 0 || left.isEmpty then s
    else
      let r := s.free
      let n := r.1.toNat % (left.length + 1)
      let x := movRun k m w (left.take n) r.2
      match x.1 with
      | .ok =>
        let c := x.2.core k
        x.2.setCore k (setMover c m { getMover c m with
          queue := { d with moved := d.moved + n, finished := n == left.length } :: ds })
      | _ => movEnd x k m

/-! ### Stream-out (R124) -/

/-- The bytes of a slot: `n` bytes of the row sequence from byte `off` on. -/
def slotRead (k m : Nat) (v : MovFields) : (fuel : Nat) → (off n : Nat) → List Byte → State → (MovEnd × List Byte) × State
  | 0, _, _, acc, s => ((.ok, acc), s)
  | f + 1, off, n, acc, s =>
    if n = 0 then ((.ok, acc), s)
    else
      let a := v.src + off / v.len * v.sstr + off % v.len
      let len := min n (min (v.len - off % v.len) (64 - a % 64))
      match movRead s k m v.ssp v.mask a len with
      | (.data bs, s) => slotRead k m v f (off + len) (n - len) (acc ++ bs) s
      | (.poison sr d, s) => ((.poison sr d, acc), s)
      | (_, s) => ((.access, acc), s)

/-- Send slots while credits last; the descriptor keeps the bytes it has moved. -/
def slotsRun (k m : Nat) (v : MovFields) (st slot : Nat) : (fuel : Nat) → (moved : Nat) → State → (MovEnd × Nat) × State
  | 0, moved, s => ((.ok, moved), s)
  | f + 1, moved, s =>
    if v.rows * v.len ≤ moved then ((.ok, moved), s)
    else match prodCredits s st with
      | none => ((.ok, moved), s)
      | some 0 => ((.ok, moved), s)
      | some (cr + 1) =>
        match slotRead k m v (2 * (slot / 32 + 2)) moved slot [] s with
        | ((.ok, bs), s) =>
          let c := s.core k
          let mv := getMover c m
          let s := s.setCore k (setMover c m { mv with ctxs := mv.ctxs.map fun x => if x.stream = st then { x with credits := cr } else x })
          slotsRun k m v st slot f (moved + slot) { s with strSegs := s.strSegs ++ [⟨st, bs, 0⟩] }
        | ((e, _), s) => ((e, moved), s)

/-- A stream-out: one slot for each credit it spends; it waits for more credits, or for a free context. The stream is
judged before the rest of the descriptor: one that is open and not the mover's own sets STREAM whatever else is wrong, and
one that is not open sets STREAM unless a rule is broken that needs no slot size, which sets SM_DESC (R106, R126;
assumption 19). A fenced core reaches no other core (CORE_CTL.FENCE). -/
def execSmStreamOut (k m : Nat) (s : State) : Host.Outcome State Fault Refusal :=
  .next (match movHead s k m, (getMover (s.core k) m).queue with
    | some v, d :: ds =>
      if v.kind ≠ 2 then s
      else
        let st := v.dst % 4096
        if !strmOpen s st || !(strmProd s st == endpoint k m) then
          (if movOk v 256 || strmOpen s st then movFault s k m Fld.CORE_FAULT_STREAM 0x44 none else movInvalid s k m)
        else if !movOk v (slotBytes s st) then movInvalid s k m
        else if fencedOut s k && !(strmConsCore s st == k) then movEnd (.access, s) k m
        else
          let slot := slotBytes s st
          let r := slotsRun k m v st slot (v.rows * v.len / max 1 slot + 1) d.moved s
          let t := r.2
          let c := t.core k
          let t := t.setCore k (setMover c m { getMover c m with
            queue := { d with moved := r.1.2, finished := decide (v.rows * v.len ≤ r.1.2) } :: ds })
          match r.1.1 with
          | .ok => t
          | e => movEnd (e, t) k m
    | _, _ => s)

/-- A finished descriptor leaves its mover, which moves on (R104). -/
def execSmDescriptorComplete (k m : Nat) (s : State) : Host.Outcome State Fault Refusal :=
  let c := s.core k
  let v := getMover c m
  .next (match v.queue with
    | [] => s
    | d :: ds =>
      if d.finished then
        (syncCore (s.setCore k (setMover c m { v with queue := ds })) k).faddWrap (coreBase k + 4 * m) Fld.CORE_SM_STS_DONE 1
      else s)

end Sys2Proof.Machine
end

