-- ==== Sys2Proof/Machine/Vector.lean ====
section
/-!
DEFINITION. Machine/Vector.lean: the vector unit: descriptors, their checks, and the operations (R88 to R94).
-/
namespace Sys2Proof.Machine

open Sys2Proof

/-- A vector descriptor's fields (R89). -/
structure VecFields where
  op : Nat
  ifmt : Nat
  ofmt : Nat
  rnd : Nat
  sat : Bool
  ftz : Bool
  bimm : Bool
  cimm : Bool
  n : Nat
  a : Nat
  b : Nat
  c : Nat
  d : Nat
  imm : Nat
  l : Nat
  deriving DecidableEq, Repr

def vecFields (r : List Byte) : VecFields :=
  let b2 := byteAt r 2
  ⟨byteAt r 0, byteAt r 1 % 16, byteAt r 1 / 16, b2 % 4, bit b2 2, bit b2 3, bit b2 4, bit b2 5,
   leAt r 4 4 % 2 ^ 18, leAt r 8 4 % 2 ^ 20, leAt r 12 4 % 2 ^ 20, leAt r 16 4 % 2 ^ 20, leAt r 20 4 % 2 ^ 20,
   leAt r 24 4, leAt r 28 4 % 2 ^ 18⟩

/-- Input and output formats a descriptor may name (R89). -/
def vecIn (c : Nat) : Option Fmt :=
  match Fmt.ofCode c with
  | some f => match f with | .int8 | .e4m3 | .e5m2 | .fp16 | .bf16 | .fp32 | .int32 => some f | _ => none
  | none => none
def vecOut (c : Nat) : Option Fmt :=
  match Fmt.ofCode c with
  | some f => match f with | .int8 | .e4m3 | .e5m2 | .fp16 | .bf16 | .fp32 => some f | _ => none
  | none => none

/-- Is the operation code listed (R90)? -/
def vecOpOk (op : Nat) : Bool := (decide (1 ≤ op) && decide (op ≤ 0x0D)) || (decide (0x10 ≤ op) && decide (op ≤ 0x12))
/-- Does the operation take B, and does it take C? -/
def usesB (op : Nat) : Bool := decide (1 ≤ op ∧ op ≤ 6) || op == 0x12
def usesC (op : Nat) : Bool := op == 4
/-- Is it a row operation, and does it give one result per row? -/
def isRow (op : Nat) : Bool := decide (0x10 ≤ op)
def perRow (op : Nat) : Bool := op == 0x10 || op == 0x11

/-- The operand ranges in core memory: inputs, then D. -/
def vecRanges (v : VecFields) (wi wo : Nat) : List (Nat × Nat) × (Nat × Nat) :=
  let rows := if v.l = 0 then 0 else v.n / v.l
  let bn := if v.op = 0x12 then rows else v.n
  ((v.a, v.n * wi) :: (if usesB v.op && !v.bimm then [(v.b, bn * wi)] else [])
      ++ (if usesC v.op && !v.cimm then [(v.c, v.n * wi)] else []),
   (v.d, (if perRow v.op then rows else v.n) * wo))

/-- A range in core memory, aligned to 64 (R94, which asks the alignment of A, B, C and D alike). -/
def vecRangeOk (r : Nat × Nat) : Bool := decide (r.1 % 64 = 0) && decide (r.1 + r.2 ≤ cmSize)

/-- What stops a descriptor: 0 nothing, 1 VEC_FMT (R90, R91), 2 VEC_ADDR (R94). An element count of 0, and a row length
that R89 does not admit, count as format errors; a descriptor that breaks rules of both kinds sets VEC_FMT alone, since
its byte ranges depend on its fields (assumption 19). -/
def vecCheck (v : VecFields) : Nat :=
  match vecIn v.ifmt, vecOut v.ofmt with
  | some fi, some fo =>
    if !vecOpOk v.op || decide (2 ≤ v.rnd) || v.n == 0 then 1
    else if isRow v.op && (v.l == 0 || decide (v.n < v.l) || !(v.n % v.l == 0)) then 1
    else
      let r := vecRanges v (fi.width / 8) (fo.width / 8)
      if v.a % 64 = 0 ∧ v.b % 64 = 0 ∧ v.c % 64 = 0 ∧ (r.2 :: r.1).all vecRangeOk = true then 0 else 2
  | _, _ => 1

/-- The next descriptor starts when none is executing: its checks, and the read of its operands' check words (R197). -/
def execVecDescriptorStart (k : Nat) (s : State) : Host.Outcome State Fault Refusal :=
  let c := s.core k
  match c.vq with
  | [] => .next s
  | d :: ds =>
    if d.started || s.fb (coreBase k) Fld.CORE_STS_PREEMPT_PEND || !clocked s k then .next s
    else
      let v := vecFields d.raw
      let drop := fun (t : State) => syncCore (t.setCore k { c with vq := ds }) k
      let bad := vecCheck v
      .next (if bad = 1 then faultAt (drop s) k Fld.CORE_FAULT_VEC_FMT 0x43 d.pc
        else if bad = 2 then faultAt (drop s) k Fld.CORE_FAULT_VEC_ADDR 0x43 d.pc
        else
          let wi := match vecIn v.ifmt with | some f => f.width / 8 | none => 1
          let wo := match vecOut v.ofmt with | some f => f.width / 8 | none => 1
          let rd := (vecRanges v wi wo).1.foldl (fun (acc : Bool × State) r =>
            let x := sramRead acc.2 (cmBase k + r.1) r.2
            (acc.1 || x.1, x.2)) (false, s)
          if rd.1 then hwError (drop rd.2) k (k / 64)
          else rd.2.setCore k { c with vq := { d with started := true } :: ds })

/-- The executing descriptor leaves the unit once it has done its elements. -/
def execVecDescriptorComplete (k : Nat) (s : State) : Host.Outcome State Fault Refusal :=
  let c := s.core k
  match c.vq with
  | [] => .next s
  | d :: ds => .next (if d.finished && clocked s k then syncCore (s.setCore k { c with vq := ds }) k else s)

/-! ### Elements -/

/-- An input element as a binary32 pattern: exact but for INT32 beyond 2^24 (R91). -/
def vecLoad (s : State) (k : Nat) (f : Fmt) (base i : Nat) : Nat :=
  let w := f.width / 8
  enc32 (f.decode (s.mnat (cmBase k + base + i * w) w))

/-- Maximum or minimum; a NaN gives NaN; two zeros of unlike sign give a zero whose sign the spec leaves open. -/
def maxMin (op x y : Nat) : Nat :=
  let a := dec32 x
  let b := dec32 y
  if a.isNan || b.isNan then 0x7FC00000
  else if a.isZero && b.isZero then (if x = y then x else b2n (Config.zeroSign op x y) * 2 ^ 31)
  else if op = 5 ∨ op = 0x11 then (if a.lt b then y else x) else (if b.lt a then y else x)

/-- A binary32 operation on patterns, one rounding (R88, R90). -/
def vecOp (op a b c : Nat) : Nat :=
  match op with
  | 1 => enc32 ((dec32 a).add (dec32 b))
  | 2 => enc32 ((dec32 a).sub (dec32 b))
  | 3 => enc32 ((dec32 a).mul (dec32 b))
  | 4 => enc32 (((dec32 a).mul (dec32 b)).add (dec32 c))
  | 5 => maxMin 5 a b
  | 6 => maxMin 6 a b
  | 7 => enc32 (dec32 a).abs
  | 8 => enc32 (dec32 a)
  | 0x12 => enc32 ((dec32 a).mul (dec32 b))
  | op => fnApply op a

/-- Add two binary32 patterns. -/
def add32 (a b : Nat) : Nat := enc32 ((dec32 a).add (dec32 b))

/-- One level of the pairwise tree over the lanes. -/
def treeLevel (near : Bool) (xs : List Nat) : List Nat :=
  let h := xs.length / 2
  (List.range h).map fun i =>
    if near then add32 (xs.getD (2 * i) 0) (xs.getD (2 * i + 1) 0) else add32 (xs.getD i 0) (xs.getD (i + h) 0)

def treeSum : (levels : Nat) → List Nat → Nat
  | 0, xs => xs.headD 0
  | n + 1, xs => treeSum n (treeLevel Config.treeNeighbours xs)

/-- The sum of a row: 64 lanes in ascending order, then the six-level tree (R93). -/
def rowSum (xs : List Nat) : Nat :=
  let lane := fun j =>
    match (rangeFrom 0 (cdiv (xs.length - j) 64)).map fun t => xs.getD (64 * t + j) 0 with
    | [] => 0
    | y :: ys => ys.foldl add32 y
  treeSum 6 ((List.range 64).map fun j => if j < xs.length then lane j else 0)

/-- A binary32 result to an output element (R91). -/
def vecStore (v : VecFields) (f : Fmt) (w : Nat) : Nat := (wbConvert f v.rnd v.sat v.ftz (dec32 w) 1).1

/-- The results of a descriptor, one binary32 pattern per output element. -/
def vecResults (s : State) (k : Nat) (v : VecFields) (f : Fmt) : List Nat :=
  let A := fun i => vecLoad s k f v.a i
  if v.op = 0x10 then (List.range (v.n / v.l)).map fun r => rowSum ((List.range v.l).map fun j => A (r * v.l + j))
  else if v.op = 0x11 then
    (List.range (v.n / v.l)).map fun r =>
      match (List.range v.l).map fun j => A (r * v.l + j) with
      | [] => 0
      | x :: xs => xs.foldl (maxMin 0x11) (enc32 (dec32 x))
  else (List.range v.n).map fun i =>
    let bi := if v.op = 0x12 then i / max 1 v.l else i
    vecOp v.op (A i) (if v.bimm then v.imm else if usesB v.op then vecLoad s k f v.b bi else 0)
      (if v.cimm then v.imm else if usesC v.op then vecLoad s k f v.c i else 0)

/-- Does output element `i` lie where D and an input overlap in part (R94)? -/
def inOverlap (ins : List (Nat × Nat)) (d : Nat × Nat) (w i : Nat) : Bool :=
  ins.any fun r => !decide (r = d) && meets r.1 r.2 d.1 d.2 && meets (d.1 + i * w) w r.1 r.2

/-- Results `lo` up to `hi` of a descriptor, rounded to OFMT and written to D; elements in a partial overlap are
undefined. -/
def vecWrite (s : State) (k : Nat) (v : VecFields) (fi fo : Fmt) (lo hi : Nat) : State :=
  let w := fo.width / 8
  let rg := vecRanges v (fi.width / 8) w
  let rs := vecResults s k v fi
  let out := ((((List.range rs.length).zip rs).take hi).drop lo).foldl (fun (acc : List Byte × State) p =>
    if inOverlap rg.1 rg.2 w p.1 then
      let r := acc.2.free
      (acc.1 ++ leBytes w r.1.toNat, r.2)
    else (acc.1 ++ leBytes w (vecStore v fo p.2), acc.2)) ([], s)
  sramWrite out.2 (cmBase k + v.d + lo * w) out.1

/-- How many results a descriptor has. -/
def vecCount (v : VecFields) : Nat := if perRow v.op then v.n / max 1 v.l else v.n

/-- Execute the started descriptor if its operation is `op`: the results that a pre-emption has not found done. -/
def vecDo (k op : Nat) (s : State) : Host.Outcome State Fault Refusal :=
  let c := s.core k
  match c.vq with
  | [] => .next s
  | d :: ds =>
    let v := vecFields d.raw
    match vecIn v.ifmt, vecOut v.ofmt with
    | some fi, some fo =>
      if d.started && !d.finished && v.op == op then
        .next ((vecWrite s k v fi fo d.done (vecCount v)).setCore k { c with vq := { d with finished := true } :: ds })
      else .next s
    | _, _ => .next s

/-- The vector unit stops for a pre-emption at a multiple of 64 results, which the spec leaves to its timing, and records
the results done (R128; assumption 18). -/
def vecStop (s : State) (k : Nat) : State :=
  let c := s.core k
  match c.vq with
  | [] => s
  | d :: ds =>
    let v := vecFields d.raw
    match vecIn v.ifmt, vecOut v.ofmt with
    | some fi, some fo =>
      if d.started && !d.finished then
        let r := s.free
        let hi := min (vecCount v) (d.done + 64 * (r.1.toNat % (vecCount v / 64 + 1)))
        (vecWrite r.2 k v fi fo d.done hi).setCore k { c with vq := { d with done := hi, started := false } :: ds }
      else s
    | _, _ => s

def execVecAdd (k : Nat) (s : State) : Host.Outcome State Fault Refusal := vecDo k 0x01 s
def execVecSub (k : Nat) (s : State) : Host.Outcome State Fault Refusal := vecDo k 0x02 s
def execVecMul (k : Nat) (s : State) : Host.Outcome State Fault Refusal := vecDo k 0x03 s
def execVecFma (k : Nat) (s : State) : Host.Outcome State Fault Refusal := vecDo k 0x04 s
def execVecMax (k : Nat) (s : State) : Host.Outcome State Fault Refusal := vecDo k 0x05 s
def execVecMin (k : Nat) (s : State) : Host.Outcome State Fault Refusal := vecDo k 0x06 s
def execVecAbs (k : Nat) (s : State) : Host.Outcome State Fault Refusal := vecDo k 0x07 s
def execVecCvt (k : Nat) (s : State) : Host.Outcome State Fault Refusal := vecDo k 0x08 s
def execVecExp (k : Nat) (s : State) : Host.Outcome State Fault Refusal := vecDo k 0x09 s
def execVecRcp (k : Nat) (s : State) : Host.Outcome State Fault Refusal := vecDo k 0x0A s
def execVecRsqrt (k : Nat) (s : State) : Host.Outcome State Fault Refusal := vecDo k 0x0B s
def execVecTanh (k : Nat) (s : State) : Host.Outcome State Fault Refusal := vecDo k 0x0C s
def execVecErf (k : Nat) (s : State) : Host.Outcome State Fault Refusal := vecDo k 0x0D s
def execVecRsum (k : Nat) (s : State) : Host.Outcome State Fault Refusal := vecDo k 0x10 s
def execVecRmax (k : Nat) (s : State) : Host.Outcome State Fault Refusal := vecDo k 0x11 s
def execVecRscale (k : Nat) (s : State) : Host.Outcome State Fault Refusal := vecDo k 0x12 s

end Sys2Proof.Machine
end

