-- ==== Sys2Proof/Machine/StepRun.lean ====
section
/-!
DEFINITION. Machine/StepRun.lean: a step on its cores: loading, CORE_CMD, the save and the restore of a core, the end of
a microprogram, the write-back's last step, the watchdog (R97, R122, R127 to R131, R141 to R147, R322 to R324, R421,
R446, R492, R581).
-/
namespace Sys2Proof.Machine

open Sys2Proof

/-! ### Relocation (R144) -/

structure Reloc where
  off : Nat
  index : Nat
  kind : Nat
  deriving DecidableEq, Repr

def imgRelocs (s : State) (a : Nat) : List Reloc :=
  let x := imgFind s a 3
  (List.range x.count).map fun i => let o := x.off + 8 * i; ⟨imf s a o 4, imf s a (o + 4) 2, imf s a (o + 6) 1⟩

/-- Alignment and bytes of the field a record patches. -/
def relocAlign (k : Nat) : Nat := if k = 0 then 8 else 4
def relocWidth (k : Nat) : Nat := if k = 0 then 6 else 4

/-- Does a record keep its rules? `vals` are the values of its kind, `limit` the largest stored offset, by index. -/
def relocOk (img : List Byte) (n : Nat) (limit : Nat → Nat) (r : Reloc) : Bool :=
  decide (r.kind < 3) && decide (r.off % relocAlign r.kind = 0) && decide (r.off + relocWidth r.kind ≤ img.length)
    && decide (r.index < n) && (!(r.kind == 0) || decide (leAt img r.off 6 < limit r.index))

/-- Bytes replaced at an offset. -/
def patch (bs : List Byte) (off : Nat) (p : List Byte) : List Byte := bs.take off ++ p ++ bs.drop (off + p.length)

/-- Apply a record: a base is added to the 48-bit value, a number replaces low bits of the word. -/
def relocApply (img : List Byte) (r : Reloc) (v : Nat) : List Byte :=
  match r.kind with
  | 0 => patch img r.off (leBytes 6 ((leAt img r.off 6 + v) % 2 ^ 48))
  | 1 => patch img r.off (leBytes 4 (setBits (leAt img r.off 4) 11 0 v))
  | _ => patch img r.off (leBytes 4 (setBits (leAt img r.off 4) 13 0 v))

/-- The image with every record applied, or the number of the first record that breaks a rule. -/
def relocAll (bases sizes strs sems : List Nat) : (i : Nat) → List Reloc → List Byte → Except Nat (List Byte)
  | _, [], img => .ok img
  | i, r :: rs, img =>
    let vs := match r.kind with | 0 => bases | 1 => strs | _ => sems
    if relocOk img vs.length (fun j => sizes.getD j 0) r then
      relocAll bases sizes strs sems (i + 1) rs (relocApply img r (vs.getD r.index 0))
    else .error i

/-! ### Streams of a step (R122, R123, R146) -/

/-- The other end of a declaration: the core and mover of the placed step that declares the same key in the other
role, with its tag and generation; a step's own image may hold both ends. -/
def partnerEnd (s : State) (tag : Nat) (c : Cmd) (r : StepRec) (d : StrDecl) : Option (Nat × StrDecl × Nat × Nat) :=
  ((steps s).filter fun e => e.2.1.ctx == c.ctx && e.2.1.ctxGen == c.ctxGen && !(e.2.1.phase == .reply)
      && (e.1 == tag || (decide (0 < r.link) && e.2.2.link == r.link))).findSome? fun e =>
    match (imgStrDecls s (stepImg s e.2.2)).find? fun x => x.key == d.key && !(x.role == d.role) with
    | some x => if x.member < e.2.2.cores.length then some (endpoint (e.2.2.cores.getD x.member 0) x.mover, x, e.1, e.2.1.gen) else none
    | none => none

/-- Does the consumer's ring lie within its destination? -/
def ringOk (d : StrDecl) : Bool :=
  let n := d.base + d.slots * d.slotsz * 256
  if bit d.ring 4 then decide (n ≤ cmSize) else decide (n ≤ scrSize)

/-- The consumer die's controller opens a stream: the table entry, the producer's credits, ledger 1 rebased. -/
def openStream (s : State) (c : Cmd) (r : StepRec) (tags : List (Nat × Nat)) (key prod cons : Nat) (d : StrDecl) : Option Nat × State :=
  let die := cons / 256
  match (List.range 1024).find? fun i => !s.fb (strmBase (1024 * die + i)) Fld.CLU_STRM_W0_VALID with
  | none => (none, s)
  | some i =>
    let st := 1024 * die + i
    let b := strmBase st + 0x8000
    let s := s.wr b (3 + b2n (bit d.ring 4) * 8 + d.ring % 16 * 16 + d.slots * 256 + d.slotsz * 65536)
    let s := (s.wr (b + 4) (prod + cons * 65536)).wr (b + 8) (c.ctx + c.ctxGen * 65536 + r.effClass * 2 ^ 24)
    let s := ((s.wr (b + 12) d.base).wr (b + 16) (d.slots * 2 ^ 24)).wr (b + 20) 0
    let s := ledgerRebase (s.wr (b + 24) 0) die 1 st
    (some st, giveContext { s with strKeys := s.strKeys ++ [⟨st, c.ctx, c.ctxGen, r.link, key, tags⟩] } (prod / 4) (prod / 2 % 2))

/-- The stream of a declaration, opened at the first load of its two steps; none where it cannot be. The step joins those
that use it. -/
def streamFor (s : State) (tag : Nat) (c : Cmd) (r : StepRec) (d : StrDecl) : Option Nat × State :=
  match s.strKeys.find? fun x => x.ctx == c.ctx && x.ctxGen == c.ctxGen && x.link == r.link && x.key == d.key with
  | some x =>
    let one := fun (y : StrKey) => if y = x then { x with tags := (tag, c.gen) :: x.tags.filter fun p => !(p == (tag, c.gen)) } else y
    -- a step that was unloaded before it started may be placed elsewhere now
    let own := endpoint (r.cores.getD d.member 0) d.mover
    let s : State := { s with strKeys := s.strKeys.map one }
    let s := s.fs (strmBase x.stream) (if d.role = 1 then Fld.CLU_STRM_W1_CONS else Fld.CLU_STRM_W1_PROD) own
    (some x.stream, if d.role = 1 then s else giveContext s (own / 4) (own / 2 % 2))
  | none =>
    match partnerEnd s tag c r d with
    | none => (none, s)
    | some (e, x, far) =>
      let own := endpoint (r.cores.getD d.member 0) d.mover
      let cd := if d.role = 1 then d else x
      if !ringOk cd then (none, s.toMp 0x19 (unitOfCore ((if d.role = 1 then own else e) / 4)))
      else if d.role = 1 then openStream s c r [(tag, c.gen), far] d.key e own cd else openStream s c r [(tag, c.gen), far] d.key own e cd

/-- The streams of every declaration, in order. -/
def streamsFor (tag : Nat) (c : Cmd) (r : StepRec) : List StrDecl → List Nat → State → Option (List Nat) × State
  | [], acc, s => (some acc, s)
  | d :: ds, acc, s =>
    match streamFor s tag c r d with
    | (some st, s) => streamsFor tag c r ds (acc ++ [st]) s
    | (none, s) => (none, s)

/-! ### Loading (R141, R173, R358) -/

/-- The contents of a step's WORK ranges are undefined at its start (R142). -/
def workUndef (s : State) (im : Nat) (bases : List Nat) : State :=
  ((imgBindings s im).zip bases).foldl (fun t b =>
    if b.1.kind = 4 then (rawRanges t b.2 b.1.size).foldl (fun u x => u.mundef x.1 x.2) t else t) s

/-- Is a declaration both waited on and signalled, with a hold declared? Its waits carry HOLD (R331). -/
def semHolds (d : SemDecl) : Bool := bit d.use 0 && bit d.use 1 && decide (0 < d.hold)

/-- A step's semaphore map: one entry for each number, the USE bits of its slots together (R331). -/
def semMap (decls : List SemDecl) (nums : List Nat) : List SemUse :=
  decls.foldl (fun acc d =>
    let n := nums.getD d.slot 0
    match acc.find? fun u => u.sem == n with
    | some u => acc.map fun v => if v.sem = n then { v with use := Nat.lor u.use d.use, hold := u.hold || semHolds d } else v
    | none => acc ++ [⟨n, d.use, semHolds d⟩]) []

/-- One core's memories and registers for a step: core image, arguments, undefined tails, entry, semaphore map. -/
def loadCore (s : State) (k : Nat) (img : List Byte) (args : List Byte) (im : Nat) (sems : List SemUse) : State :=
  let s := sramWrite s (cmBase k) img
  let s := if args.isEmpty then s else sramWrite s (cmBase k + imgArgOff s im) args
  let s := s.mundef (cmBase k + imgCmUse s im) (cmSize - imgCmUse s im)
  let s := (List.range 4).foldl (fun t i => t.mundef (scrBase (4 * k + i) + imgScrUse s im) (scrSize - imgScrUse s im)) s
  let s := s.wr (coreBase k + Reg.CORE_SEQ_ENTRY) (imgEntry s im)
  s.setCore k { s.core k with sems := sems }

/-- SEQ_RST of a cluster's attention unit (R173). -/
def seqReset (s : State) (c : Nat) : State :=
  (s.wr (attBase c + Reg.PAN_ATT_SEQ0) 0x01010101).wr (attBase c + Reg.PAN_ATT_SEQ1) 0x01010101

/-- The group's entry in BWR_GRP (R358). -/
def registerGroup (s : State) (r : StepRec) : State :=
  match r.cores with
  | [] => s
  | k :: _ =>
    let im := stepImg s r
    let far := (s.strKeys.filter fun x => r.cores.contains (strmProd s x.stream / 4)).any fun x =>
      !(strmConsCore s x.stream / 64 == k / 64)
    setGroup s (k / 64) (k % 64) r.cores.length r.effClass (regFloor s im 0 far) (regFloor s im 1 far) (regFloor s im 9 far)

/-- A step runs while guarantees are suspended, or on a die with a declared fault: it carries BREACH, and on such a die it
has no promise (R283, R312, R313). -/
def runsUnder (s : State) (tag : Nat) : State :=
  match s.cmd? tag with
  | none => s
  | some c =>
    match c.step with
    | none => s
    | some r =>
      let fault := r.cores.any fun k => dieFaulty s (k / 64)
      if fault || s.fb admBase Fld.ADM_STS_SUSPENDED then
        s.setCmd tag { c with breach := true, step := some { r with promised := if fault then 0 else r.promised } }
      else s

/-- Load and start a step whose cores are free: streams, relocation, every core, the group entry, START. An image that
reads poisoned ends it POISONED, and one that a firewall keeps from the die controller IMAGE_FAULT (assumption 40). -/
def loadStep (s : State) (tag : Nat) (c : Cmd) (r : StepRec) : State :=
  let im := stepImg s r
  let d := r.cores.headD 0 / 64
  let rd := readAll s (dcIni d) c.ctx (parts4k im (imgSize s r.image))
  match rd.1 with
  | .poison _ _ => endStep rd.2 tag 0x45 0
  | .err _ => endStep rd.2 tag 0x47 0
  | _ =>
    match streamsFor tag c r (imgStrDecls s im) [] rd.2 with
    | (none, s) => endStep s tag 0x47 0
    | (some strs, s) =>
      let x := imgFind s im 1
      match relocAll r.bases ((imgBindings s im).map (·.size)) strs r.sems 0 (imgRelocs s im) (pkgBytes s (im + x.off) x.size) with
      | .error i => endStep s tag 0x47 (min i 0xFFFF)
      | .ok img =>
        let map := semMap (imgSems s im) r.sems
        let s := r.cores.foldl (fun t k => setStepRegs (loadCore t k img r.args im map) k tag c.gen r.effClass c.ctx c.ctxGen) s
        let s := if imgAttn s im then (clustersOf r.cores).foldl seqReset s else s
        let s := registerGroup (workUndef s im r.bases) r
        let s := ((List.range r.cores.length).zip r.cores).foldl (fun t p =>
          startCore t p.2 (imgArgOff s im) p.1 r.cores.length) s
        let s := { s with hangLevel := s.hangLevel.filter fun h => !r.cores.contains h.1 }
        runsUnder (s.setCmd tag { c with phase := .running, step := some { r with begun := true } }) tag

def execStepLoad (tg : Nat) (s : State) : Host.Outcome State Fault Refusal :=
  .next (match s.cmd? tg with
    | none => s
    | some c =>
      match c.step with
      | none => s
      | some r => if c.phase = .loading ∧ r.victims = [] ∧ r.cores ≠ [] ∧ (r.cores.all fun k => !seqRun s k && dcRuns s (k / 64)) = true
          then loadStep s tg c r else s)

/-! ### The save of a core (R128, R150, R322, R323) -/

/-- The bytes a core's record takes, when its step is being cleared together with `tag`'s. -/
def recordSize (s : State) (tag j : Nat) : Nat :=
  sumN ((steps s).map fun e =>
    if (e.1 == tag || isVictim s e.1) && e.2.2.cores.contains j && e.2.1.phase == .running then imgSaveBytes s (stepImg s e.2.2) else 0)

/-- Does a range of Landing meet a record that lies there? -/
def meetsRecord (s : State) (a n : Nat) : Bool :=
  s.cores.any fun e => match e.2.saved with
    | some v => (match s.cmd? v.tag with
      | some c => (match c.step with | some r => meets a n v.place (imgSaveBytes s (stepImg s r)) | none => false)
      | none => false)
    | none => false

/-- Where a victim's records go (R323): in core order to Landing of the cluster, where every record that is saved for the
booking fits beside its holder and the records there, and the booking needs none of it; else to the save region. -/
def recordAddr (s : State) (tag : Nat) (r : StepRec) (k : Nat) : Nat :=
  let im := stepImg s r
  let c := k / 8
  let size := recordSize s tag
  let use := (steps s).foldl (fun m e =>
    if needsLnd s e.2.2 && (clustersOf e.2.2.cores).contains c && (onCores e.2.1 || e.2.1.phase == .preempted) then
      max m (imgLndUse s (stepImg s e.2.2)) else m) 0
  let need := (steps s).any fun e => e.2.2.victims.contains tag && needsLnd s e.2.2
  let at0 := roundUp use 4096
  let a := landBase c + at0 + sumN ((rangeFrom (8 * c) (k % 8)).map size)
  if !need && decide (at0 + sumN ((rangeFrom (8 * c) 8).map size) ≤ 0x3FE000) && !meetsRecord s a (imgSaveBytes s im) then a
  else saveBase s (k / 64) + k % 64 * 0x200000

/-- Live banks of an engine: those whose results are not written out, or that hold a word. -/
def liveBanks (s : State) (e : Nat) : List Nat :=
  (List.range 8).filter fun b => (engChk (s.eng e) b).unwritten || (s.eng e).banks.any fun w => w.1 / 512 == b

/-- The raw write-back of a live bank is checked like any other. -/
def saveBank (e : Nat) (s : State) (b : Nat) : State :=
  let int := bankInt s e b
  (wbChecked s e ⟨.wb, 0, 0, 0, 0, 0, 0, 0, 0, (if int then 11 else 10) + b * 1024, 0, 0, 0, true, seqPc s (e / 4)⟩).1

/-- The record of a core (R128 step 6). -/
def savedOf (s : State) (k tag gen im place : Nat) (live : List (List Nat)) : SavedCore :=
  let c := s.core k
  let es := (List.range 4).map (4 * k + ·)
  ⟨tag, gen, (List.range 32).map fun n => BitVec.ofNat 32 (sreg s k n), seqPc s k,
   es.map fun e => ((s.eng e).held.map fun o => { o with started := false }),
   es.map fun e => (s.eng e).banks,
   live,
   es.map fun e => s.fg (engBase e) Fld.ENG_STS_BANK_INT,
   es.map fun e => (List.range 32).map fun i => BitVec.ofNat 32 (s.rd (engBase e + 4 * i)),
   c.vq, c.mov0, c.mov1, c.acquired, c.sems,
   s.mrd (cmBase k) (imgCmUse s im), es.map fun e => s.mrd (scrBase e) (imgScrUse s im), place⟩

/-- A cluster's Landing range is copied to the save region (R322 step 4). -/
def saveLanding (s : State) (r : StepRec) (c : Nat) : State :=
  let n := imgLndUse s (stepImg s r)
  dramWrite s (saveBase s (c / 8) + 0x8000000 + c % 8 * 0x400000) (s.mrd (landBase c) n) ⟨dcIni (c / 8), 0, false⟩

/-- Every core of a pre-empted group has ended or is saved: it is PREEMPTED (R298, R322 steps 4 and 5). -/
def settlePreempt (s : State) (tag : Nat) : State :=
  match s.cmd? tag with
  | none => s
  | some c =>
    match c.step with
    | none => s
    | some r =>
      if c.phase ≠ .running ∨ r.saved = [] ∨ !(r.cores.all fun k => r.ended.contains k || r.saved.contains k) then s
      else
        let need := needsLnd s r && (steps s).any fun e => e.2.2.victims.contains tag && needsLnd s e.2.2
        let s := if need then (clustersOf r.cores).foldl (fun t c => saveLanding t r c) s else s
        let s := clearGroup s r.cores
        let s := mapHolds s tag c.gen fun d j t => t.fs (synBase d + 8 * j) Fld.SYN_HOLD_W0_SAVED 1
        let s := s.setCmd tag { c with phase := .preempted, step := some { r with lndSaved := if need then clustersOf r.cores else r.lndSaved } }
        syncDsp (victimGone s tag)

/-- The core's own state is gone from it once it is saved. -/
def emptyCore (s : State) (k : Nat) : State :=
  let s := (List.range 4).foldl (fun t i => syncEng (t.setEng (4 * k + i) { t.eng (4 * k + i) with held := [], stalledGo := noSeqGo k (t.eng (4 * k + i)).stalledGo }) (4 * k + i)) s
  let s := s.setCore k { s.core k with vq := [], mov0 := { (s.core k).mov0 with queue := [] }, mov1 := { (s.core k).mov1 with queue := [] }, acquired := [] }
  syncCore (stopSeq s k) k

/-- May a core with a pending pre-emption finish: nothing executes in its engines, no SEM request is open, the slots its
streams have sent are delivered (R127), and the attention unit has completed what its step posted (R128, R322)? -/
def saveReady (s : State) (k tag : Nat) : Bool :=
  s.fb (coreBase k) Fld.CORE_STS_PREEMPT_PEND
    && ((List.range 4).all fun i => !(s.eng (4 * k + i)).held.any (·.started))
    && (match (s.core k).wait with | .sem _ _ _ => false | _ => true)
    && ((coreStreams s k).all fun st => inFlight s st == 0)
    && postedBy (s.att (k / 8)) (fun p => p.tag == tag) == 0

def execCorePreemptComplete (k : Nat) (s : State) : Host.Outcome State Fault Refusal :=
  let tag := s.fg (coreBase k) Fld.CORE_STEP_TAG
  .next (if !saveReady s k tag then s
    else match stepOfCore s k with
      | none => emptyCore s k
      | some (_, c, r) =>
        let im := stepImg s r
        let s := movStop (movStop (vecStop s k) k 0) k 1
        if !seqRun s k then s else
        let live := (List.range 4).map fun i => liveBanks s (4 * k + i)
        let s := (List.range 4).foldl (fun t i => (live.getD i []).foldl (saveBank (4 * k + i)) t) s
        let a := recordAddr s tag r k
        let v := savedOf s k tag c.gen im a live
        let s := s.mwrUndef a (imgSaveBytes s im)
        let s := emptyCore s k
        -- step 7: the die controller is notified
        let s := (s.setCore k { s.core k with saved := some v }).emit "CORE_SAVED" (unitOfCore k) []
        match s.cmd? tag with
        | none => s
        | some c =>
          match c.step with
          | none => s
          | some r => settlePreempt (s.setCmd tag { c with step := some { r with saved := r.saved ++ [k] } }) tag)

/-! ### Resume (R127, R128, R324, R358) -/

/-- One engine of a restored core: banks by the LOAD rule, types, generators, configuration, held operations. -/
def restoreEng (s : State) (e : Nat) (v : SavedCore) : State :=
  let i := e % 4
  let bw := v.banks.getD i []
  let ints := v.bankInt.getD i 0
  let s := (v.live.getD i []).foldl (fun t b =>
    bankLoad t e b (bit ints b) ((List.range 512).map fun n => (getD 0 bw (512 * b + n)).toNat)) s
  let s := s.fs (engBase e) Fld.ENG_STS_BANK_INT ints
  let ws := v.engRegs.getD i []
  let s := ((List.range 32).filter fun j => 0x14 ≤ 4 * j).foldl (fun t j =>
    match locate t.part (engBase e + 4 * j) with
    | some l => match regAt t.part l with
      | some q => if q.1.fields.any fun f => f.acc == .rw then t.wr (engBase e + 4 * j) (ws.getD j 0).toNat else t
      | none => t
    | none => t) s
  -- the generators are not saved: what they hold after a resume is undefined (R76; assumption 23)
  let f := freeWords 32 s
  let s := f.2.setEng e { f.2.eng e with held := v.engines.getD i [], lfsr := f.1 }
  let s := sramWrite s (scrBase e) (v.scr.getD i [])
  syncEng s e

/-- Was the record of a saved core damaged where it lies? -/
def recordBad (s : State) (v : SavedCore) (r : StepRec) (k : Nat) : Bool × State :=
  let a := v.place
  let n := imgSaveBytes s (stepImg s r)
  if a < 0x002000000000 then dramRead s a n ⟨dcIni (k / 64), 0, false⟩ else sramRead s a n

/-- The group runs again once every saved core is restored. -/
def settleResume (s : State) (tag : Nat) : State :=
  match s.cmd? tag with
  | none => s
  | some c =>
    match c.step with
    | none => s
    | some r =>
      if c.phase ≠ .preempted ∨ r.saved ≠ [] then s
      else
        let s := r.lndSaved.foldl (fun t c =>
          let a := saveBase t (c / 8) + 0x8000000 + c % 8 * 0x400000
          let n := imgLndUse t (stepImg t r)
          let x := dramRead t a n ⟨dcIni (c / 8), 0, false⟩
          sramWrite x.2 (landBase c) (x.2.mrd a n)) s
        let s := mapHolds s tag c.gen fun d j t => t.fs (synBase d + 8 * j) Fld.SYN_HOLD_W0_SAVED 0
        let r := { r with lndSaved := [] }
        let s := runsUnder (s.setCmd tag { c with phase := .running, step := some r }) tag
        syncDsp (registerGroup s r)

/-- RESUME of one core: the saved step goes on where it stood; its operations are reissued first. A record that reads
poisoned sets SAVE_FAULT and ends the step (assumption 25). -/
def resumeCore (s : State) (k : Nat) : State :=
  match (s.core k).saved with
  | none => s
  | some v =>
    if seqRun s k then s
    else match s.cmd? v.tag with
      | none => s
      | some c =>
        match c.step with
        | none => s
        | some r =>
          let bad := recordBad s v r k
          let s := bad.2
          if bad.1 then endStep (s.fs dspBase Fld.DSP_ERR_SAVE_FAULT 1) v.tag 0x45 0
          else
            let b := coreBase k
            let s := setStepRegs s k v.tag v.gen r.effClass c.ctx c.ctxGen
            let s := startCore s k 0 0 0
            let s := ((List.range 32).zip v.sregs).foldl (fun t p => setSreg t k p.1 p.2.toNat) s
            let s := (s.retired k).wr (b + Reg.CORE_SEQ_PC) v.pc
            let s := sramWrite s (cmBase k) v.cm
            let s := (List.range 4).foldl (fun t i => restoreEng t (4 * k + i) v) s
            let m := fun (old new : Mover) => ({ new with ctxs := old.ctxs } : Mover)
            let s := s.setCore k { s.core k with wait := .none, vq := v.vq, mov0 := m (s.core k).mov0 v.mov0, mov1 := m (s.core k).mov1 v.mov1, acquired := v.acquired, sems := v.sems, saved := none }
            let s := (coreStreams s k).foldl restoreStream (syncCore s k)
            let s := { s with hangLevel := s.hangLevel.filter fun h => !(h.1 == k) }
            match s.cmd? v.tag with
            | none => s
            | some c =>
              match c.step with
              | none => s
              | some r => settleResume (s.setCmd v.tag { c with step := some { r with saved := r.saved.filter fun j => !(j == k) } }) v.tag

/-! ### CORE_CMD (R97, R128, R130, R581) -/

/-- What S1 to S3 hold at START: argument offset, index, group size of the step the core's registers name; with no step
named, no arguments and a group of one (assumption 20). -/
def startArgs (s : State) (k : Nat) : Nat × Nat × Nat :=
  match (s.core k).golden with
  | some g => (imgArgOff s (imgAddr s (policyField s 0 4 g.entry 40 4)), 0, 1)
  | none =>
    match stepOfCore s k with
    | some (_, _, r) => (imgArgOff s (stepImg s r), r.cores.findIdx fun j => j == k, r.cores.length)
    | none => (0, 0, 1)

/-- A write of CORE_CMD by the die controller: the lowest command whose bit is set. -/
def coreCmd (s : State) (k v : Nat) : State :=
  if bit v 0 then
    (if seqRun s k || !dcRuns s (k / 64) then s else let a := startArgs s k; startCore s k a.1 a.2.1 a.2.2)
  else if bit v 1 then preemptCore s k
  else if bit v 2 then resumeCore s k
  else if bit v 3 then abortCore s k
  else s

/-- The write through the register port. -/
def coreCmdWrite (ini k v : Nat) (s : State) : State :=
  viaPort s ini (coreBase k + Reg.CORE_CMD) fun t _ => coreCmd t k v

def execCoreCmdStart (ini k : Nat) (s : State) : Host.Outcome State Fault Refusal := .next (coreCmdWrite ini k 1 s)
def execCoreCmdPreempt (ini k : Nat) (s : State) : Host.Outcome State Fault Refusal := .next (coreCmdWrite ini k 2 s)
def execCoreCmdResume (ini k : Nat) (s : State) : Host.Outcome State Fault Refusal := .next (coreCmdWrite ini k 4 s)
def execCoreCmdAbort (ini k : Nat) (s : State) : Host.Outcome State Fault Refusal := .next (coreCmdWrite ini k 8 s)

/-! ### END and the end of a write-back -/

/-- END: the step ends on this core with success (R96). -/
def execSeqEnd (k : Nat) (s : State) : Host.Outcome State Fault Refusal := seqDo s k 0x01 fun _ s => coreEnded s k

/-- A core whose checker failed its self-test leaves service (R446). -/
def checkerFailed (s : State) (k : Nat) : State :=
  let u := unitOfCore k
  let s := s.fs (chkBase k) Fld.CHK_QSTS_STATE 3
  let s := s.setCore k { s.core k with afterReset := false, series := .idle }
  (loseSaved (coreOut s k u) k u).reportA 0x0C u

/-- A checker test completed: island B's watch counts it (R448). -/
def testDone (s : State) (k : Nat) : State :=
  let s := { s with stGo := adel s.stGo k, stDone := s.stDone + 1 }
  if islRuns s 1 then
    settleIsland (s.setIsl 1 { s.isl 1 with counted := s.stDone, countAt := s.fg (acnBase 1) Fld.ACN_US_COUNT, stalled := false }) 1
  else s

/-- After a self-test: a failure withdraws the core; a pass of a test by island A on a core in state 3 that was reset opens
its series (R447). -/
def afterSelfTest (s : State) (k : Nat) (failed : Bool) : State :=
  let s := testDone s k
  if failed then checkerFailed s k
  else if s.fg (chkBase k) Fld.CHK_QSTS_STATE = 3 ∧ (s.core k).afterReset = true ∧ (s.core k).testByA = true ∧ s.fb (chkBase k) Fld.CHK_ST_DONE ∧ s.fb (chkBase k) Fld.CHK_ST_PASS then
    (s.setCore k { s.core k with series := .running, afterReset := false }).fs (chkBase k) Fld.CHK_QSTS_SERIES 0
  else s

/-- The executing write-back finishes: check, conversion, rows (R68, R435). -/
def execWbComplete (e : Nat) (s : State) : Host.Outcome State Fault Refusal :=
  .next (match (s.eng e).held.find? fun o => o.kind == .wb && o.started && clocked s (e / 4) with
    | none => s
    | some o =>
      let k := e / 4
      let tested := (s.core k).selfTest
      let s := syncEng (s.setEng e { s.eng e with held := dropOp .wb (s.eng e).held }) e
      let r := wbDone s e o
      if tested && !(r.1.core k).selfTest then afterSelfTest r.1 k r.2 else r.1)

/-! ### Watchdog, Landing, die controller -/

/-- Has the count of a core's watchdog reached its limit? A limit of 0 disables it. -/
def wdogDue (s : State) (k : Nat) : Bool :=
  let lim := s.fg (coreBase k) Fld.CORE_WDOG_LIMIT
  decide (0 < lim) && decide (lim ≤ (aget s.stallUs k).getD 0)

/-- The watchdog of a core expires (R492): WDOG, ABORT on the group, the reply HANG, and the CORE_HANG notice (R497). -/
def execCoreWatchdogExpiry (k : Nat) (s : State) : Host.Outcome State Fault Refusal :=
  .next (if !(wdogDue s k && wdogCounts s k) then s
    else
      let s := recordFault s k Fld.CORE_FAULT_WDOG 0 (seqPc s k)
      let det := bits (s.rd (coreBase k + Reg.CORE_FAULT)) 15 0
      let s := ({ s with hangLevel := setD 0 s.hangLevel k 1 } : State).notice 0x01 (unitOfCore k) 0 0
      if (s.core k).golden.isSome then goldenEnd (abortCore s k) k false
      else match stepOfCore s k with
        | none => abortCore s k
        | some (tag, _, r) => endStep (r.cores.foldl abortCore s) tag 0x48 det)

/-- CLU_LND.INIT: Landing is zero-filled; accesses made meanwhile wait, so they see zeros. -/
def landingInit (s : State) (c : Nat) : State :=
  (s.mzero (landBase c) landSize).fs (cluBase c) Fld.CLU_STS_LND_INIT_BUSY 1

/-- A write of a cluster's CLU_ register that its port has admitted. -/
def cluRegWrite (s : State) (c a v : Nat) (spec : Option (RegSpec × Nat × Nat)) : State :=
  let s := regStore s a v spec
  if a = cluBase c + Reg.CLU_LND ∧ bit v 0 then landingInit s c else s

def execLandingInit (ini c : Nat) (s : State) : Host.Outcome State Fault Refusal :=
  let a := cluBase c + Reg.CLU_LND
  .next (viaPort s ini a fun t spec => cluRegWrite t c a 1 spec)

def execLandingInitDone (c : Nat) (s : State) : Host.Outcome State Fault Refusal :=
  .next (s.fs (cluBase c) Fld.CLU_STS_LND_INIT_BUSY 0)

/-- A port of the cluster network held a request beyond 65,536 cycles. -/
def execClusterNetStall (c : Nat) (s : State) : Host.Outcome State Fault Refusal :=
  .next (s.fs (cluBase c) Fld.CLU_ERR_NET_STALL 1)

end Sys2Proof.Machine
end

