-- ==== Sys2Proof/Machine/Threshold.lean ====
section
/-!
DEFINITION. Machine/Threshold.lean: admission and reservations (R303 to R310), bookings and their victims, placement,
resumes (R312 to R325, R348 to R350), golden steps (R439 to R444) and the decision after a mismatch (R451).
-/
namespace Sys2Proof.Machine

open Sys2Proof

/-! ### The checks of R303 -/

/-- Dies a step may be placed on: its home die, its reservation's, or every die in service. -/
def placeDies (s : State) (r : StepRec) : List Nat :=
  match homeDie s r with
  | some d => [d]
  | none =>
    match (if r.rsv = 0 then none else aget s.resvs (r.rsv % 1024)) with
    | some v => [v.die]
    | none => (List.range s.part.dies).filter (dieInService s)

/-- Check 4: the clock, and every floor within the class floor on every die the step may take (R361). -/
def floorsOk (s : State) (c : Cmd) (r : StepRec) : Bool :=
  let im := stepImg s r
  decide (imgMinClk s im ≤ s.fg admBase Fld.ADM_CLK_GUAR_MHZ) && corePortOk s im
    && (placeDies s r).all fun d => (List.range 10).all fun p => (imgPhases s im).all fun ph =>
      !aboveFloor s d p c.cls (phaseFloor s ph p true)

/-- Check 5: the slot of the first SEM relocation without a use, or of the first number on a die that is not fitted. -/
def semSlotBad (s : State) (r : StepRec) : Option Nat :=
  let im := stepImg s r
  let ds := imgSems s im
  match (imgRelocs s im).find? fun x => x.kind == 2 && !(ds.any fun d => d.slot == x.index && !(d.use == 0)) with
  | some x => some x.index
  | none => ((List.range r.sems.length).zip r.sems).findSome? fun p => if s.part.fitted (p.2 / 4096) then none else some p.1

/-- Check 6: may the step draw on its reservation (R307)? -/
def rsvUsable (s : State) (c : Cmd) (r : StepRec) : Bool :=
  match aget s.resvs (r.rsv % 1024) with
  | none => false
  | some v =>
    decide (r.rsv / 1024 = v.die) && !v.closing && v.image == r.image && v.ctx == c.ctx && v.ctxGen == c.ctxGen
      && decide (v.budget ≤ r.budget) && (match homeDie s r with | some d => d == v.die | none => true)

/-- The status and detail of the first of checks 1 to 6 that fails. -/
def admitFirst (s : State) (c : Cmd) (r : StepRec) : Option (Nat × Nat) :=
  let im := stepImg s r
  let promise := decide (0 < r.budget)
  let cx := s.ctx c.ctx
  if !s.fb admBase Fld.ADM_CTL_EN || cx.teardown || !(cx.gen == c.ctxGen) || (promise && s.fb admBase Fld.ADM_STS_SUSPENDED) then
    some (0x26, 0)
  else if (imgBwd s im && !(c.cls == 0)) || (decide (c.cls ≤ 3) && promise) then some (0x25, 0)
  else if !promise && (decide (s.fg admBase Fld.ADM_QMAX_NS < (match aget s.images r.image with | some i => i.q | none => 0))
      || (imgSems s im).any fun d => decide (s.fg admBase Fld.ADM_HOLD_NS < d.hold)) then some (0x25, 0)
  else if promise && !floorsOk s c r then some (0x25, 0)
  else match semSlotBad s r with
    | some n => some (0x23, n)
    | none =>
      if r.rsv ≠ 0 ∧ !rsvUsable s c r then some (0x22, 0) else none

/-- The status and detail of the first of checks 1 to 8 that fails; check 7 is made for the group. -/
def admitCheck (s : State) (c : Cmd) (r : StepRec) : Option (Nat × Nat) :=
  match admitFirst s c r with
  | some f => some f
  | none =>
    if ((candidates s (imgGroup s (stepImg s r)) (homeDie s r) []).filter fun ks =>
        !decide (0 < r.budget) || !ks.any fun k => dieFaulty s (k / 64)).isEmpty then some (0x27, 0)
    else none

/-! ### Decisions -/

/-- Threshold refuses a step. -/
def admRefuse (s : State) (tag status detail : Nat) : State :=
  refuse (s.faddWrap admBase Fld.ADM_REFUSE_CNT_COUNT 1) tag status (min detail 0xFFFF)

/-- A step is admitted without a promise. -/
def admQueue (s : State) (tag : Nat) : State :=
  match s.cmd? tag with
  | some c =>
    match c.step with
    | some r => syncDsp ((s.faddWrap admBase Fld.ADM_ACCEPT_CNT_COUNT 1).setCmd tag
        { c with phase := .queued, step := some { r with decided := s.nowUs, effClass := c.cls } })
    | none => s
  | none => s

/-- A step is booked for [a, a + E) on `ks`. -/
def admBook (s : State) (tag a : Nat) (ks : List Nat) : State :=
  match s.cmd? tag with
  | some c =>
    match c.step with
    | some r =>
      let e := chargeUs s (stepImg s r)
      (s.faddWrap admBase Fld.ADM_ACCEPT_CNT_COUNT 1).setCmd tag
        { c with phase := .booked, step := some { r with decided := s.nowUs, start := a, charge := e, promised := a + e,
                                                         booking := true, cores := ks, effClass := c.cls } }
    | none => s
  | none => s

/-- Would a core of the fit hold more than 16 bookings that have not ended (check 9)? -/
def fitFull (s : State) (gs : List (List Nat)) : Bool := let cal := calendar s; gs.any fun ks => ks.any (coreFull cal s.nowUs)

/-- The members of a step's link group that are in ADMITTING, in arrival order; the step alone without a LINK. -/
def linkGroup (s : State) (tag : Nat) (c : Cmd) (r : StepRec) : List (Nat × Cmd × StepRec) :=
  if r.link = 0 then [(tag, c, r)]
  else ((steps s).filter fun e => e.2.1.phase == .admitting && e.2.1.ctx == c.ctx && e.2.1.ctxGen == c.ctxGen
    && e.2.2.link == r.link).mergeSort fun x y => decide (x.2.1.order ≤ y.2.1.order)

/-- The first KEY that lacks an end among the members, if any (R309). -/
def unpairedKey (s : State) (ms : List (Nat × Cmd × StepRec)) : Option Nat :=
  let ds := ms.flatMap fun m => imgStrDecls s (stepImg s m.2.2)
  (ds.find? fun d => !(ds.any fun x => x.key == d.key && x.role == 0) || !(ds.any fun x => x.key == d.key && x.role == 1)).map (·.key)

/-- The KEY that a member refused for its group reports: its first declaration's. -/
def memberKey (s : State) (r : StepRec) : Nat := ((imgStrDecls s (stepImg s r)).map (·.key)).headD 0

/-- Refuse every member: with its own failure, or STREAM_UNPAIRED. -/
def refuseGroup (s : State) (own : Nat → Option (Nat × Nat)) (key : StepRec → Nat) (ms : List (Nat × Cmd × StepRec)) : State :=
  ms.foldl (fun t m =>
    match own m.1 with
    | some f => admRefuse t m.1 f.1 f.2
    | none => admRefuse t m.1 0x24 (key m.2.2)) s

/-- Decide a group, or one step, at this moment (R303, R304, R309). -/
def decideGroup (s : State) (ms : List (Nat × Cmd × StepRec)) : State :=
  let fails := ms.map fun m => (m.1, admitCheck s m.2.1 m.2.2)
  let own := fun tag => ((fails.find? fun f => f.1 == tag).bind (·.2))
  let promised := ms.filter fun m => decide (0 < m.2.2.budget)
  if fails.any (·.2.isSome) || (!promised.isEmpty && decide (promised.length < ms.length)) then refuseGroup s own (memberKey s) ms
  else if promised.isEmpty then ms.foldl (fun t m => admQueue t m.1) s
  else
    let t := s.nowUs
    let ns := ms.map fun m => needOf s m.2.2 []
    match fit s t ns with
    | none => ms.foldl (fun u m => admRefuse u m.1 0x21 0) s
    | some (a, gs) =>
      if fitFull s gs then ms.foldl (fun u m => admRefuse u m.1 0x21 0) (s.fs admBase Fld.ADM_ERR_CAL_FULL 1) else
      let short := fun (m : Nat × Cmd × StepRec) => a + chargeUs s (stepImg s m.2.2) - t - m.2.2.budget
      if ms.any fun m => decide (0 < short m) then
        refuseGroup s (fun tag => (ms.find? fun m => m.1 == tag).bind fun m => if 0 < short m then some (0x20, short m) else none)
          (memberKey s) ms
      else (ms.zip gs).foldl (fun u p => admBook u p.1.1 a p.2) s

/-- Is a step in ADMITTING held for its incomplete group? -/
def heldForLink (s : State) (tag : Nat) (c : Cmd) (r : StepRec) : Bool :=
  !(r.link == 0) && (unpairedKey s (linkGroup s tag c r)).isSome

/-- Threshold decides in arrival order: no earlier STEP, RESERVE or UNRESERVE that it could decide waits (R306). -/
def inTurn (s : State) (order : Nat) : Bool :=
  !(s.cmds.any fun e => decide (e.2.order < order) && e.2.phase == .parsed && [0x18, 0x19, 0x1A].contains e.2.opcode)
    && !(steps s).any fun e => e.2.1.phase == .admitting && decide (e.2.1.order < order) && !heldForLink s e.1 e.2.1 e.2.2

def execAdmissionDecision (tg : Nat) (s : State) : Host.Outcome State Fault Refusal :=
  .next (match s.cmd? tg with
    | none => s
    | some c =>
      match c.step with
      | none => s
      | some r =>
        if c.phase = .admitting ∧ !heldForLink s tg c r ∧ inTurn s c.order then decideGroup s (linkGroup s tg c r) else s)

/-- The hold limit of a link group has passed since its first member arrived: a member that fails one of checks 1 to 6
is refused with that check's status, the others with STREAM_UNPAIRED. -/
def execLinkGroupTimeout (tg : Nat) (s : State) : Host.Outcome State Fault Refusal :=
  .next (match s.cmd? tg with
    | none => s
    | some c =>
      match c.step with
      | none => s
      | some r =>
        let ms := linkGroup s tg c r
        let first := ms.foldl (fun m x => min m x.2.1.parsedUs) c.parsedUs
        if c.phase = .admitting ∧ heldForLink s tg c r ∧ s.fg admBase Fld.ADM_PAIR_US ≤ s.nowUs - first then
          let own := ms.map fun m => (m.1, admitFirst s m.2.1 m.2.2)
          refuseGroup s (fun tag => (own.find? fun f => f.1 == tag).bind (·.2)) (fun _ => (unpairedKey s ms).getD 0) ms
        else s)

/-! ### Reservations (R307, R308) -/

/-- The first `n` groups of a list whose cores do not meet. -/
def takeApart : (n : Nat) → List (List Nat) → List (List Nat) → List (List Nat)
  | 0, _, acc => acc
  | _, [], acc => acc
  | n + 1, g :: gs, acc => if g.any fun k => acc.any (·.contains k) then takeApart (n + 1) gs acc else takeApart n gs (acc ++ [g])

/-- Dies in scan order. -/
def scanDies (s : State) : List Nat := ((scanOrder s).map (· / 8)).eraseDups

/-- The groups of a new reservation: the first die that gives COUNT of them. -/
def rsvGroups (s : State) (g count : Nat) : Option (Nat × List (List Nat)) :=
  let taken := reserved s ++ (calendar s).flatMap (·.cores)
  (scanDies s).findSome? fun d =>
    let gs := takeApart count ((candidates s g (some d) []).filter fun ks => !ks.any taken.contains) []
    if gs.length = count then some (d, gs) else none

/-- RESERVE: 16–19 IMAGE, 20–23 PERIOD_US, 24–27 BUDGET_US, 28 COUNT. -/
def execReserve (tg : Nat) (s : State) : Host.Outcome State Fault Refusal :=
  .next (match s.cmd? tg with
    | none => s
    | some c =>
      if c.phase ≠ .parsed ∨ c.opcode ≠ 0x19 ∨ !s.fb cmdBase Fld.CMD_STS_FW_READY ∨ !inTurn s c.order then s
      else
        let p := fun o n => leAt c.packet o n
        let im := imgAddr s (p 16 4)
        let win := goldWin s
        if p 28 1 = 0 then refuse s tg 0x13 28
        else if p 20 4 = 0 then refuse s tg 0x13 20
        else if (aget s.images (p 16 4)).isNone then refuse s tg 0x16 16
        else if !s.fb admBase Fld.ADM_CTL_EN || (s.ctx c.ctx).teardown then refuse s tg 0x26 0
        else
          let e := chargeUs s im
          if p 24 4 < e then refuse s tg 0x20 (min 0xFFFF (e - p 24 4))
          else match (rangeFrom 1 1023).find? fun i => (aget s.resvs i).isNone with
            | none => refuse s tg 0x1B 0
            | some slot =>
              match rsvGroups s (imgGroup s im) (p 28 1) with
              | none => refuse s tg 0x21 0
              | some (d, gs) =>
                if win - s.fg admBase Fld.ADM_GOLD_US < (cdiv win (p 20 4) + 1) * e then refuse s tg 0x21 0
                else finishCmd (syncResv { s with resvs := aput s.resvs slot ⟨c.ctx, c.ctxGen, p 16 4, p 24 4, d, gs, false⟩ })
                  tg 0 0 (slot + 1024 * d))

/-- UNRESERVE: new draws stop at once; the cores are released when no draw is booked or runs. -/
def execUnreserve (tg : Nat) (s : State) : Host.Outcome State Fault Refusal :=
  .next (match s.cmd? tg with
    | none => s
    | some c =>
      if c.phase ≠ .parsed ∨ c.opcode ≠ 0x1A ∨ !s.fb cmdBase Fld.CMD_STS_FW_READY ∨ !inTurn s c.order then s
      else
        let id := leAt c.packet 16 4
        match aget s.resvs (id % 1024) with
        | none => refuse s tg 0x16 16
        | some v =>
          if v.ctx = c.ctx ∧ v.ctxGen = c.ctxGen ∧ id / 1024 = v.die ∧ v.closing = false then
            settleResvs (finishCmd { s with resvs := aput s.resvs (id % 1024) { v with closing := true } } tg 0 0 0)
          else refuse s tg 0x16 16)

/-! ### Bookings and their victims (R321, R322, R348, R350) -/

/-- Was the step placed without a promise? Only such a step can be a victim. -/
def queuedOrigin (r : StepRec) : Bool := !r.booking && r.promised == 0

/-- Step groups that a booking takes as victims. -/
def victimsOf (s : State) (tag : Nat) (r : StepRec) : List (Nat × Cmd × StepRec) :=
  (steps s).filter fun e => !(e.1 == tag) && onCores e.2.1 && queuedOrigin e.2.2
    && (e.2.2.cores.any r.cores.contains
      || ((needsLnd s r && needsLnd s e.2.2 || needsAttn s r && needsAttn s e.2.2)
          && (clustersOf e.2.2.cores).any (clustersOf r.cores).contains))

/-- Is a core of the booking held by a step that is no victim, or by a golden step? -/
def heldByBooked (s : State) (tag : Nat) (r : StepRec) : Bool :=
  r.cores.any (fun k => (s.core k).golden.isSome)
    || (steps s).any fun e => !(e.1 == tag) && onCores e.2.1 && !queuedOrigin e.2.2
      && (e.2.2.cores.any r.cores.contains
        || ((needsLnd s r && needsLnd s e.2.2 || needsAttn s r && needsAttn s e.2.2)
            && (clustersOf e.2.2.cores).any (clustersOf r.cores).contains))

/-- The semaphores the booked image waits on (R348). -/
def conflictSet (s : State) (r : StepRec) : List Nat :=
  ((imgSems s (stepImg s r)).filter fun d => bit d.use 0).map fun d => r.sems.getD d.slot 0

/-- A victim that is LOADING returns to QUEUED with nothing saved; its streams close with its group, and its tag is
released (R321, R338). -/
def unload (s : State) (tag : Nat) : State :=
  match s.cmd? tag with
  | some c =>
    match c.step with
    | some r => syncDsp ((leaveRun s tag c r).setCmd tag { c with phase := .queued, step := some { r with cores := [], begun := false } })
    | none => s
  | none => s

/-- A victim is pre-empted, makes its inheritance run, or returns to QUEUED. -/
def takeVictim (conflict : List Nat) (cls : Nat) (s : State) (v : Nat × Cmd × StepRec) : State :=
  if v.2.1.phase = .loading then unload s v.1
  else if 0 < heldOf s v.1 v.2.1.gen conflict then beginRun s v.1 cls conflict
  else preemptGroup s v.1

/-- Steps already PREEMPTED that hold a semaphore of the conflict set (R350). -/
def savedHolders (s : State) (conflict : List Nat) : List (Nat × Cmd × StepRec) :=
  (steps s).filter fun e => e.2.1.phase == .preempted && decide (0 < heldOf s e.1 e.2.1.gen conflict)

/-- A saved holder resumes for its inheritance run, or keeps the booked step's class for its next resume. -/
def takeHolder (tag cls : Nat) (cores conflict : List Nat) (s : State) (h : Nat × Cmd × StepRec) : State :=
  if (h.2.2.cores.all fun k => coreFreeFor s h.1 k || cores.contains k) && h.2.2.saved.all fun k => !occupied s k then
    let s := h.2.2.saved.foldl resumeCore s
    let s := beginRun s h.1 cls conflict
    if h.2.2.saved.any cores.contains then
      match s.cmd? tag with
      | some c =>
        match c.step with
        | some r => s.setCmd tag { c with step := some { r with victims := r.victims ++ [h.1] } }
        | none => s
      | none => s
    else s
  else
    let s := setStepClass s h.1 (max cls h.2.2.effClass)
    match s.cmd? h.1 with
    | some c =>
      match c.step with
      | some r => s.setCmd h.1 { c with step := some { r with inheritFor := conflict } }
      | none => s
    | none => s

/-- A saved victim's Landing, left in place until now, is saved before a booking that needs it (R323). -/
def saveLeft (s : State) (tag : Nat) (r : StepRec) : State :=
  if !needsLnd s r then s
  else (steps s).foldl (fun t e =>
    let cl := (clustersOf e.2.2.cores).filter fun c => (clustersOf r.cores).contains c && !e.2.2.lndSaved.contains c
    if e.1 = tag ∨ !(e.2.1.phase == .preempted) ∨ !needsLnd t e.2.2 ∨ cl.isEmpty then t
    else
      let t := cl.foldl (fun u c => saveLanding u e.2.2 c) t
      t.setCmd e.1 { e.2.1 with step := some { e.2.2 with lndSaved := e.2.2.lndSaved ++ cl } }) s

/-- The booking begins: victims are taken, and the step loads when none is left. -/
def beginBooking (s : State) (tag : Nat) (c : Cmd) (r : StepRec) : State :=
  let vs := victimsOf s tag r
  let conflict := conflictSet s r
  let holders := if conflict.isEmpty then [] else savedHolders s conflict
  let waits := (vs.filter fun v => !(v.2.1.phase == .loading)).map (·.1)
  let s := saveLeft (s.faddWrap dspBase Fld.DSP_PLACE_CNT_COUNT 1) tag r
  let s := s.setCmd tag { c with step := some { r with begun := true, victims := waits, conflict := conflict } }
  let s := vs.foldl (takeVictim conflict c.cls) s
  let s := holders.foldl (takeHolder tag c.cls r.cores conflict) s
  match s.cmd? tag with
  | some c =>
    match c.step with
    | some r => if r.victims = [] then s.setCmd tag { c with phase := .loading } else s
    | none => s
  | none => s

/-- The start of a booking. -/
def execBookingStart (tg : Nat) (s : State) : Host.Outcome State Fault Refusal :=
  .next (match s.cmd? tg with
    | none => s
    | some c =>
      match c.step with
      | none => s
      | some r =>
        if c.phase = .booked ∧ r.booking ∧ !r.begun ∧ r.start ≤ s.nowUs ∧ !heldByBooked s tg r ∧ s.fb dspBase Fld.DSP_CTL_EN then
          beginBooking s tg c r
        else s)

/-- Does a core or a resource of the step's booking lie in another booking before `stop`? -/
def otherBefore (s : State) (tag : Nat) (r : StepRec) (stop : Nat) : Bool :=
  !gapFor ((calendar s).filter fun b => !(b.tag == some tag)) r.cores (needsLnd s r) (needsAttn s r) s.nowUs stop

/-- A booked step loads before `s` once its cores and resources are free and in no other booking before `s` (R319). -/
def execBookedEarlyStart (tg : Nat) (s : State) : Host.Outcome State Fault Refusal :=
  .next (match s.cmd? tg with
    | none => s
    | some c =>
      match c.step with
      | none => s
      | some r =>
        if c.phase = .booked ∧ r.booking ∧ !r.begun ∧ s.nowUs < r.start ∧ (r.cores.all fun k => coreFree s tg k)
            ∧ resourcesFree s tg r r.cores ∧ !otherBefore s tg r r.start ∧ s.fb dspBase Fld.DSP_CTL_EN then
          (s.faddWrap dspBase Fld.DSP_PLACE_CNT_COUNT 1).setCmd tg { c with phase := .loading, step := some { r with begun := true } }
        else s)

/-- A booked step still runs at s + E (R314). -/
def execBookingOverrun (tg : Nat) (s : State) : Host.Outcome State Fault Refusal :=
  .next (match s.cmd? tg with
    | none => s
    | some c =>
      match c.step with
      | none => s
      | some r =>
        if c.phase = .running ∧ r.booking ∧ r.start + r.charge ≤ s.nowUs then
          (s.fs admBase Fld.ADM_ERR_OVERRUN 1).fs dspBase Fld.DSP_ERR_OVERRUN 1
        else s)

/-! ### Resumes and placements (R318, R324) -/

/-- May a saved victim resume now? -/
def resumable (s : State) (e : Nat × Cmd × StepRec) : Bool :=
  e.2.1.phase == .preempted && s.fb dspBase Fld.DSP_CTL_EN && e.2.2.cores.all (fun k => coreFreeFor s e.1 k && dieInService s (k / 64))
    && resourcesFree s e.1 e.2.2 e.2.2.cores

/-- The resume that comes first: the highest class, then the oldest. -/
def bestResume (s : State) : Option (Nat × Cmd × StepRec) :=
  ((steps s).filter (resumable s)).foldl (fun acc e =>
    match acc with
    | none => some e
    | some b => if b.2.2.effClass < e.2.2.effClass ∨ (b.2.2.effClass = e.2.2.effClass ∧ e.2.1.order < b.2.1.order) then some e else some b) none

def execVictimResume (tg : Nat) (s : State) : Host.Outcome State Fault Refusal :=
  .next (match bestResume s with
    | none => s
    | some e => if e.1 = tg then e.2.2.saved.foldl resumeCore s else s)

/-- Is a group apart from one already chosen: no core of it, and no cluster resource that both need (R317)? -/
def apart (s : State) (r : StepRec) (ks : List Nat) (x : StepRec × List Nat) : Bool :=
  !(ks.any x.2.contains)
    && !((needsLnd s r && needsLnd s x.1 || needsAttn s r && needsAttn s x.1) && (clustersOf ks).any (clustersOf x.2).contains)

/-- Groups for the members of a placement, each free and apart from the others: the first choice that fits them all. -/
def placeAll (s : State) : List (Nat × Cmd × StepRec) → List (StepRec × List Nat) → Option (List (List Nat))
  | [], _ => some []
  | m :: ms, taken =>
    let r := m.2.2
    (candidates s (imgGroup s (stepImg s r)) (homeDie s r) (if r.reexec = .running then r.mmCores else [])).findSome? fun ks =>
      if ks.all (coreFree s m.1) && resourcesFree s m.1 r ks && taken.all (apart s r ks) then
        (placeAll s ms (taken ++ [(r, ks)])).map (ks :: ·)
      else none

/-- The QUEUED steps that are placed with a step: its link group's, or itself. -/
def queuedWith (s : State) (e : Nat × Cmd × StepRec) : List (Nat × Cmd × StepRec) :=
  if e.2.2.link = 0 then [e]
  else (steps s).filter fun x => x.2.1.phase == .queued && x.2.1.ctx == e.2.1.ctx && x.2.1.ctxGen == e.2.1.ctxGen && x.2.2.link == e.2.2.link

/-- The oldest QUEUED step of a class. -/
def oldestQueued (s : State) (cls : Nat) : Option (Nat × Cmd × StepRec) :=
  ((steps s).filter fun e => e.2.1.phase == .queued && e.2.1.cls == cls).foldl (fun acc e =>
    match acc with
    | none => some e
    | some b => if e.2.1.order < b.2.1.order then some e else some b) none

/-- The first placement in descending class: members and their groups. -/
def nextPlacement (s : State) : Option (List ((Nat × Cmd × StepRec) × List Nat)) :=
  [6, 5, 4, 3, 2, 1, 0].findSome? fun cls =>
    match oldestQueued s cls with
    | none => none
    | some e => (placeAll s (queuedWith s e) []).map fun gs => (queuedWith s e).zip gs

/-- A placed step starts loading. -/
def startLoading (s : State) (p : (Nat × Cmd × StepRec) × List Nat) : State :=
  (s.faddWrap dspBase Fld.DSP_PLACE_CNT_COUNT 1).setCmd p.1.1
    { p.1.2.1 with phase := .loading, step := some { p.1.2.2 with cores := p.2, ended := [], saved := [], begun := true } }

/-- The dispatcher places the oldest QUEUED step of the highest class that fits; a resume that could be made comes
first. -/
def execQueuedPlace (s : State) : Host.Outcome State Fault Refusal :=
  .next (if (bestResume s).isSome || !s.fb dspBase Fld.DSP_CTL_EN then s
    else match nextPlacement s with
      | none => s
      | some ps => syncDsp (ps.foldl startLoading s))

/-- The scan start advances (R316). -/
def execScanRotate (s : State) : Host.Outcome State Fault Refusal :=
  let period := 1000 * max 1 (s.fg dspBase Fld.DSP_ROT_PERIOD_MS)
  .next (if s.fb dspBase Fld.DSP_CTL_ROT_EN && decide (s.rotAt + period ≤ s.nowUs) then
      { s.fs dspBase Fld.DSP_ROT_START ((s.fg dspBase Fld.DSP_ROT_START + 1) % (8 * s.part.dies)) with rotAt := s.nowUs }
    else s)

/-- Does a die's save region keep R323: within its usable DRAM, apart from every range it names, all by raw address? -/
def saveBaseOk (s : State) (d : Nat) : Bool :=
  let rs := rawRanges s (saveAddr s d) saveSize
  let others := ((List.range s.part.dies).filter fun x => !(x == d)).flatMap fun x => rawRanges s (saveAddr s x) saveSize
  decide (sumN (rs.map (·.2)) = saveSize) && rs.all fun r => rawDie r.1 == d && inUsable s r.1 r.2
    && !meetsAny r.1 r.2 (dcRanges s ++ tableRanges s ++ others ++ dumpRanges s ++ pantryRanges s)

/-- A write of the DSP_ block that its port has admitted: the save bases are locked while EN = 1, and one that breaks R323
leaves EN at 0 (R327). -/
def dspRegWrite (s : State) (off v : Nat) (spec : Option (RegSpec × Nat × Nat)) : State :=
  let on := s.fb dspBase Fld.DSP_CTL_EN
  if Reg.DSP_SAVE_BASE ≤ off ∧ off < Reg.DSP_SAVE_BASE + 16 ∧ on then s
  else
    let t := regStore s (dspBase + off) v spec
    if off = Reg.DSP_CTL ∧ bit v 0 ∧ !on ∧ !((List.range s.part.dies).all (saveBaseOk t)) then
      (t.fs dspBase Fld.DSP_CTL_EN 0).fs dspBase Fld.DSP_ERR_CFG 1
    else t

/-! ### Suspension and declared faults (R312, R313) -/

/-- Is a cause of suspension in force: ADM_CTL.SUSPEND or an island's clamp line? -/
def suspendCause (s : State) : Bool :=
  s.fb admBase Fld.ADM_CTL_SUSPEND || s.fb (acnBase 0) Fld.ACN_STS_CLAMP || s.fb (acnBase 1) Fld.ACN_STS_CLAMP

/-- What suspension does to one step. -/
def suspendStep (s : State) (e : Nat × Cmd × StepRec) : State :=
  let c := e.2.1
  let r := e.2.2
  match c.phase with
  | .booked =>
    if r.begun then s.setCmd e.1 { c with breach := true, step := some { r with booking := false, promised := 0, reexec := if r.reexec = .booked then .refused else r.reexec } }
    else s.setCmd e.1 { c with breach := true, phase := .queued, step := some { r with booking := false, promised := 0, cores := [] } }
  | .loading => if r.booking then s.setCmd e.1 { c with breach := true, step := some { r with booking := false, promised := 0 } } else s
  | .running => s.setCmd e.1 { c with breach := true }
  | _ => s

/-- Guarantees follow their causes: suspended, or resumed with an empty calendar. -/
def settleGuarantee (s : State) : State :=
  let on := suspendCause s
  let was := s.fb admBase Fld.ADM_STS_SUSPENDED
  if on && !was then syncDsp ((steps s).foldl suspendStep (s.fs admBase Fld.ADM_STS_SUSPENDED 1))
  else if !on && was then
    let s := (steps s).foldl (fun t e => t.setCmd e.1 { e.2.1 with step := some { e.2.2 with booking := false } }) s
    ({ s with pastBooked := [] }.fs admBase Fld.ADM_STS_SUSPENDED 0).event 0x72 0 0
  else s

def execGuaranteeSuspend (s : State) : Host.Outcome State Fault Refusal := .next (if suspendCause s then settleGuarantee s else s)
def execGuaranteeResume (s : State) : Host.Outcome State Fault Refusal := .next (if suspendCause s then s else settleGuarantee s)

/-- A write of ADM_FAULT that its port has admitted. -/
def admFaultWrite (s : State) (v : Nat) : State :=
  let old := s.rd (admBase + Reg.ADM_FAULT)
  declareFaults (s.wr (admBase + Reg.ADM_FAULT) (v % 64)) (Nat.land (v % 64) (Nat.xor 63 (old % 64)))

/-- A write of the ADM_ block that its port has admitted. -/
def admRegWrite (s : State) (off v : Nat) (spec : Option (RegSpec × Nat × Nat)) : State :=
  if off = Reg.ADM_FAULT then admFaultWrite s v
  else if off = Reg.ADM_CTL then settleGuarantee (regStore s (admBase + off) v spec)
  else regStore s (admBase + off) v spec

def execAdmFaultWrite (ini : Nat) (v : Word) (s : State) : Host.Outcome State Fault Refusal :=
  .next (viaPort s ini (admBase + Reg.ADM_FAULT) fun t spec => admRegWrite t Reg.ADM_FAULT v.toNat spec)

/-! ### Golden steps (R439 to R444, R452) -/

def goldEvery (s : State) : Nat := policyField s 0 3 0 43 1
def goldDefer (s : State) : Nat := policyField s 0 3 0 44 1
def goldImg (s : State) (e : Nat) : Nat := imgAddr s (policyField s 0 4 e 40 4)

/-- E_g of an entry. -/
def goldInterval (s : State) (e : Nat) : Nat := chargeUs s (goldImg s e) + 3

/-- The entry a core's next golden step uses: the next enabled one after the last it used. -/
def nextGold (s : State) (k : Nat) : Option Nat :=
  let es := goldEntries s
  let last := s.fg (chkBase k) Fld.CHK_GOLD_ENTRY
  if s.fg (chkBase k) Fld.CHK_GOLD_RUNS = 0 then es.head?
  else match es.find? fun e => decide (last < e) with
    | some e => some e
    | none => es.head?

/-- The golden step placed on a core is loaded and started; a bad relocation does not pass. -/
def goldLoad (s : State) (k : Nat) (g : GoldenRun) : State :=
  let im := goldImg s g.entry
  let n := policyField s 0 4 g.entry 45 1
  let bases := (List.range n).map fun i => policyField s 0 4 g.entry (72 + 8 * i) 6
  let s := s.setCore k { s.core k with golden := some { g with loaded := true } }
  let rd := readAll s (dcIni (k / 64)) 0 (parts4k im (imgSize s (policyField s 0 4 g.entry 40 4)))
  let s := rd.2
  let x := imgFind s im 1
  if rd.1 ≠ .ack then goldenEnd s k false
  else match relocAll bases ((imgBindings s im).map (·.size)) [] [] 0 (imgRelocs s im) (pkgBytes s (im + x.off) x.size) with
    | .error _ => goldenEnd s k false
    | .ok img =>
      let s := setStepRegs (loadCore (workUndef s im bases) k img [] im []) k 0 0 7 0 0
      startCore s k (imgArgOff s im) 0 1

/-- May a golden step take the core now (R442)? -/
def goldPlaceable (s : State) (k eg : Nat) : Bool :=
  let st := s.fg (chkBase k) Fld.CHK_QSTS_STATE
  let series := (s.core k).series == .running
  dieInService s (k / 64) && s.fb dspBase Fld.DSP_CTL_EN && (series || st == 0 || st == 2) && (series || (s.core k).goldDue.isSome)
    && (s.core k).golden.isNone && !holdsSaved s k
    && !((steps s).any fun e => onCores e.2.1 && e.2.2.cores.contains k && !queuedOrigin e.2.2)
    && !((calendar s).any fun b => b.cores.contains k && overlap b.start b.stop s.nowUs (s.nowUs + eg + 1))

/-- A due golden step is placed; a QUEUED-origin step on the core is pre-empted first. -/
def goldPlace (s : State) (k e : Nat) : State :=
  let vs := (steps s).filter fun x => onCores x.2.1 && x.2.2.cores.contains k
  let waits := (vs.find? fun v => !(v.2.1.phase == .loading)).map (·.1)
  let g : GoldenRun := ⟨e, s.nowUs, s.nowUs + goldInterval s e, waits, false⟩
  let s := s.setCore k { s.core k with golden := some g }
  let s := vs.foldl (takeVictim [] 0) s
  match (s.core k).golden with
  | some g => if g.waits.isNone then goldLoad s k g else s
  | none => s

/-- A golden step is placed on the core, or, once its victim is saved, loaded. -/
def execGoldenPlace (k : Nat) (s : State) : Host.Outcome State Fault Refusal :=
  .next (match (s.core k).golden with
    | some g => if g.waits.isNone && !g.loaded then goldLoad s k g else s
    | none =>
      match nextGold s k with
      | none => s
      | some e => if goldPlaceable s k (goldInterval s e) then goldPlace s k e else s)

/-- The core becomes untested (R444). -/
def untested (s : State) (k : Nat) : State :=
  let u := unitOfCore k
  let s := coreOut (s.fs (chkBase k) Fld.CHK_QSTS_STATE 2) k u
  (s.reportA 0x0E u).event 0x73 u 0

/-- One core at the start of window `w`: a golden step falls due, or one that is due is deferred once more. -/
def goldWindow (w : Nat) (s : State) (k : Nat) : State :=
  let st := s.fg (chkBase k) Fld.CHK_QSTS_STATE
  let due := (w + k) % max 1 (goldEvery s) == 0
  match (s.core k).goldDue with
  | none => if due && (s.core k).golden.isNone then s.setCore k { s.core k with goldDue := some w } else s
  | some d =>
    let s := s.fs (chkBase k) Fld.CHK_QSTS_DEFER (min 7 (w - d))
    if d + goldDefer s < w ∧ st = 0 ∧ (s.core k).golden.isNone then untested s k else s

/-- A golden window ends and the next begins. -/
def execGoldenWindowEnd (s : State) : Host.Outcome State Fault Refusal :=
  .next (if s.goldNext ≤ s.nowUs / goldWin s then
      let w := s.goldNext
      let s := { s with goldNext := w + 1 }
      if (goldEntries s).isEmpty then s else (List.range (64 * s.part.dies)).foldl (goldWindow w) s
    else s)

/-! ### The decision after a mismatch (R450, R451) -/

/-- May the step be re-executed? -/
def reexecOk (s : State) (r : StepRec) : Bool :=
  let im := stepImg s r
  (imgBindings s im).all (fun b => !(b.kind == 2) && !(b.kind == 5)) && !imgStreams s im
    && (imgSems s im).all (fun d => !bit d.use 1) && !imgAttn s im
    && bit (policyField s 0 3 0 45 1) (if r.booking then 0 else 1)

/-- The search for a re-execution of a booked step. -/
def reexecFit (s : State) (r : StepRec) : Option (Nat × List Nat) :=
  let n := { needOf s r r.mmCores with charge := r.charge }
  let lo := max s.nowUs (r.start + r.charge)
  match fitFrom s [n] (calendar s) (r.decided + r.budget + 1 - r.charge - lo) lo with
  | some (a, g :: _) => some (a, g)
  | _ => none

/-- Quarantine a core that mismatched twice within QUAR_WIN windows; its last mismatch is now. -/
def quarCheck (s : State) (k : Nat) : State :=
  let b := chkBase k
  let now := s.nowUs % 2 ^ 32
  let age := (2 ^ 32 + now - s.rd (b + Reg.CHK_LAST_MM)) % 2 ^ 32
  let again := s.fb b Fld.CHK_LAST_VALID_VALID && decide (age < policyField s 0 3 0 41 1 * goldWin s)
  let s := stampMismatch s k
  if again && !(s.fg b Fld.CHK_QSTS_STATE == 1) then quarantine s k else s

/-- The dispatcher decides for a step whose checker disagreed. -/
def execMismatchDecision (tg : Nat) (s : State) : Host.Outcome State Fault Refusal :=
  .next (match s.cmd? tg with
    | none => s
    | some c =>
      match c.step with
      | none => s
      | some r =>
        match r.reexec, r.mmCores with
        | .undecided, k :: _ =>
          let r' := if !reexecOk s r then { r with reexec := .refused }
            else if r.booking then
              (match reexecFit s r with
               | some (a, g) => { r with reexec := .booked, reStart := a, rerun := g }
               | none => { r with reexec := .refused })
            else { r with reexec := .booked, rerun := [] }
          settleStep (quarCheck (s.setCmd tg { c with step := some r' }) k) tg
        | _, _ => s)

end Sys2Proof.Machine
end

