-- ==== Sys2Proof/Machine/QueueMgr.lean ====
section
/-!
DEFINITION. Machine/QueueMgr.lean: the queue manager and the command processor: descriptors and their cache, doorbells,
packets and the checks of their headers, replies, notifications, events (R271 to R299, R326).
-/
namespace Sys2Proof.Machine

open Sys2Proof

/-! ### Descriptors and completion-ring records in DRAM (R290 to R292) -/

def cmdIni : Nat := 0x801
def qmIni : Nat := 0x802

/-- The 64 bytes of a queue descriptor. -/
def descBytes (d : QDesc) : List Byte :=
  leBytes 1 (b2n d.valid + d.state * 2 + b2n d.pinned * 8 + d.cls * 16 + b2n d.fenceWait * 128) ++ leBytes 1 d.log2
    ++ leBytes 2 d.ctx ++ leBytes 1 d.ctxGen ++ leBytes 3 0 ++ leBytes 8 d.base ++ leBytes 4 d.producer ++ leBytes 4 d.consumer
    ++ leBytes 2 d.cq ++ leBytes 2 0 ++ leBytes 2 d.inflight ++ leBytes 2 0 ++ leBytes 4 d.self ++ leBytes 4 d.parsed
    ++ leBytes 24 0

/-- The descriptor that 64 bytes hold. A descriptor that is fetched is not pinned: a pinned one never leaves the cache. -/
def descOf (b : List Byte) : QDesc :=
  let w := byteAt b 0
  { valid := bit w 0, state := bits w 2 1, pinned := false, cls := bits w 6 4, fenceWait := bit w 7,
    log2 := byteAt b 1 % 32, ctx := leAt b 2 2, ctxGen := byteAt b 4, base := leAt b 8 6, producer := leAt b 16 4,
    consumer := leAt b 20 4, cq := leAt b 24 2, inflight := leAt b 28 2, self := leAt b 32 4 % 2 ^ 20, parsed := leAt b 36 4 }

/-- The raw address of a queue's descriptor in the table, which either view of DRAM may hold. -/
def descAddr (s : State) (q : Nat) : Nat := physOf s (descBase s + 64 * q)

/-- The records of a table that lie in memory as listed and have VALID set in their first byte, by number: `base` and
`count` of the table, `size` of a record. -/
def tableListed (s : State) (base count size : Nat) : List Nat :=
  s.mem.filterMap fun e =>
    match (if base < 0x002000000000 then some e.1 else ilPkg s e.1) with
    | some a =>
      if base ≤ a ∧ a < base + count * size ∧ (a - base) % size = 0 ∧ e.2.toNat % 2 = 1 then some ((a - base) / size) else none
    | none => none

/-- Write a whole descriptor to the table. -/
def descPut (s : State) (q : Nat) (d : QDesc) : State := dramWrite s (descAddr s q) (descBytes d) ⟨qmIni, 0, false⟩

/-- The distance from `b` to `a` modulo 2^32. -/
def ahead (a b : Nat) : Nat := (a % 2 ^ 32 + 2 ^ 32 - b % 2 ^ 32) % 2 ^ 32

/-- Write PRODUCER and CONSUMER through (R291); ledger 7 is checked (R342). -/
def descIndex (s : State) (q : Nat) (d : QDesc) : State :=
  let s := ringUpdate s 7 q (ahead d.producer d.consumer) (2 ^ d.log2)
  dramWrite s (descAddr s q + 16) (leBytes 4 d.producer ++ leBytes 4 d.consumer) ⟨qmIni, 0, false⟩

/-! ### Completion-ring records (R292) -/

/-- The 32 bytes of a completion-ring record. -/
def cqBytes (r : CqRec) : List Byte :=
  leBytes 1 (b2n r.valid + b2n r.events * 2) ++ leBytes 1 r.log2 ++ leBytes 2 r.ctx ++ leBytes 2 r.vector
    ++ leBytes 2 r.coalCnt ++ leBytes 8 r.base ++ leBytes 4 r.coalUs ++ leBytes 4 r.tail ++ leBytes 4 r.head ++ leBytes 4 0

/-- The record that 32 bytes hold, without the notification bookkeeping. -/
def cqOf (b : List Byte) : CqRec :=
  ⟨bit (byteAt b 0) 0, bit (byteAt b 0) 1, byteAt b 1, leAt b 2 2, leAt b 4 2, byteAt b 6, leAt b 8 6, leAt b 16 4, leAt b 20 4,
   leAt b 24 4, 0, 0⟩

def cqAddr (s : State) (c : Nat) : Nat := physOf s (cqBase s + 32 * c)

/-- A ring's record as the table holds it; there is no table before QM_CQ_BASE names one. -/
def cqTable (s : State) (c : Nat) : CqRec :=
  let r := cqOf (s.mrd (cqAddr s c) 32)
  let n := getD (0, 0) s.cqNotes c
  if cqBase s = 0 ∨ !r.valid ∨ (dramRead s (cqAddr s c) 32 ⟨qmIni, 0, false⟩).1 then CqRec.absent
  else { r with unnotified := n.1, oldest := n.2 }

/-- A ring's record: the cached one, else the table's. -/
def cqRec (s : State) (c : Nat) : CqRec :=
  let r := getD CqRec.absent s.cqs c
  if r.valid then r else cqTable s c

/-- Make room for one record: the least recently used one leaves the cache; its copy in the table is current. What the
queue manager still has to notify for it is kept (assumption 45). -/
def cqEvict (s : State) : State :=
  if s.cqUsed.length < 1024 then s
  else match s.cqUsed.getLast? with
    | none => s
    | some c =>
      let r := getD CqRec.absent s.cqs c
      ({ s with cqUsed := s.cqUsed.filter fun x => !(x == c), cqs := setD CqRec.absent s.cqs c CqRec.absent,
                cqNotes := setD (0, 0) s.cqNotes c (if r.unnotified = 0 then (0, 0) else (r.unnotified, r.oldest)) } : State).faddWrap
        qmBase Fld.QM_EVICT_CNT_COUNT 1

/-- A ring's record is used: fetched where it is not cached, and the most recently used. -/
def cqTouch (s : State) (c : Nat) : State :=
  if (getD CqRec.absent s.cqs c).valid then { s with cqUsed := c :: s.cqUsed.filter fun x => !(x == c) }
  else
    let r := cqTable s c
    let s := s.faddWrap qmBase Fld.QM_MISS_CNT_COUNT 1
    let x := dramRead s (cqAddr s c) 32 ⟨qmIni, 0, false⟩
    let s := if x.1 then (x.2.fs qmBase Fld.QM_ERR_DESC_POISON 1).notice 0x0C 0 0 0 else x.2
    if r.valid then
      let s := cqEvict s
      { s with cqs := setD CqRec.absent s.cqs c r, cqNotes := setD (0, 0) s.cqNotes c (0, 0), cqUsed := c :: s.cqUsed.filter fun x => !(x == c) }
    else s

/-- Set a completion-ring record and its copy in the table, and check ledger 8; a record that is absent leaves the cache. -/
def cqPut (s : State) (c : Nat) (r : CqRec) : State :=
  let s := if r.valid then ringUpdate s 8 c (ahead r.tail r.head) (2 ^ r.log2) else s
  let s := if (getD CqRec.absent s.cqs c).valid then s else cqEvict s
  dramWrite { s with cqs := setD CqRec.absent s.cqs c r,
                     cqUsed := if r.valid then c :: s.cqUsed.filter fun x => !(x == c) else s.cqUsed.filter fun x => !(x == c) }
    (cqAddr s c) (cqBytes r) ⟨qmIni, 0, false⟩

/-- Every completion ring that exists, with its record. -/
def ringsOf (s : State) : List (Nat × CqRec) :=
  (s.cqs.filter fun e => e.2.valid) ++ ((tableListed s (cqBase s) 65536 32).filter fun c =>
    !(getD CqRec.absent s.cqs c).valid && (cqTable s c).valid).map fun c => (c, cqTable s c)

/-! ### The context cache (R293, R294, R296) -/

def qHit (s : State) (q : Nat) : Option QDesc := aget s.qcache q

/-- QM_STS follows the cache. -/
def syncQm (s : State) : State :=
  (s.fs qmBase Fld.QM_STS_CACHED s.qcache.length).fs qmBase Fld.QM_STS_PINNED (s.qcache.filter fun e => e.2.pinned).length

/-- Put a descriptor at the front of the cache: the most recently used. -/
def qFront (s : State) (q : Nat) (d : QDesc) : State :=
  syncQm { s with qcache := (q, d) :: s.qcache.filter fun e => !(e.1 == q) }

/-- Change a cached descriptor in place. -/
def qSet (s : State) (q : Nat) (d : QDesc) : State :=
  syncQm { s with qcache := s.qcache.map fun e => if e.1 = q then (q, d) else e }

/-- Make room for one descriptor: the least recently used entry that is not pinned is written back. -/
def qEvict (s : State) : State :=
  if s.qcache.length < 4096 then s
  else match (s.qcache.filter fun e => !e.2.pinned).getLast? with
    | none => s
    | some e =>
      let s := descPut s e.1 e.2
      syncQm ({ s with qcache := s.qcache.filter fun x => !(x.1 == e.1) }.faddWrap qmBase Fld.QM_EVICT_CNT_COUNT 1)

/-- Commands of a queue whose reply is not yet written. -/
def queueInflight (s : State) (q : Nat) : Nat := (s.cmds.filter fun e => e.2.queue == q).length

/-- A fetched descriptor that cannot be used takes STATE 3 and raises a notice. -/
def descError (s : State) (f : Fld) : State := (s.fs qmBase f 1).notice 0x0C 0 0 0

/-- The descriptor of a queue, fetched if it is not cached; none where the queue does not exist. -/
def fetchQ (s : State) (q : Nat) : Option QDesc × State :=
  match qHit s q with
  | some d => (some d, qFront s q d)
  | none =>
    let s := s.faddWrap qmBase Fld.QM_MISS_CNT_COUNT 1
    let r := dramRead s (descAddr s q) 64 ⟨qmIni, 0, false⟩
    let s := r.2
    if r.1 then
      let f := freeWords 16 (descError (qEvict s) Fld.QM_ERR_DESC_POISON)
      let d := { descOf (wordsBytes f.1) with valid := true, state := 3, inflight := queueInflight s q }
      (some d, qFront f.2 q d)
    else
      let d := descOf (s.mrd (descAddr s q) 64)
      let d := { d with inflight := queueInflight s q }
      if !d.valid then (none, s)
      else if d.self = q then (some d, qFront (qEvict s) q d)
      else (some { d with state := 3 }, qFront (descError (qEvict s) Fld.QM_ERR_DESC_BAD) q { d with state := 3 })

/-- A queue's descriptor as it stands, without a fetch. -/
def peekQ (s : State) (q : Nat) : Option QDesc :=
  match qHit s q with
  | some d => some d
  | none =>
    let d := descOf (s.mrd (descAddr s q) 64)
    if d.valid then some d else none

/-- Every queue that exists, with its descriptor: the cached ones and those whose bytes are listed. -/
def queuesOf (s : State) : List (Nat × QDesc) :=
  s.qcache ++ ((tableListed s (descBase s) 0x100000 64).filter fun q => (qHit s q).isNone).map fun q =>
    (q, descOf (s.mrd (descAddr s q) 64))

/-! ### Doorbells (R272, R295) -/

/-- A doorbell that is rejected. -/
def dbBad (s : State) : State := s.fs hpBase Fld.HP_ERR_DB_BAD 1

/-- Apply a doorbell to a queue whose descriptor is cached. -/
def applyDbell (s : State) (q i : Nat) (d : QDesc) : State :=
  let adv := ahead i d.producer
  if d.state ≠ 0 then dbBad s
  else if adv = 0 then s
  else if adv < 2 ^ 31 ∧ ahead i d.consumer ≤ 2 ^ d.log2 then
    let d := { d with producer := i % 2 ^ 32 }
    let s := descIndex (qSet s q d) q d
    if s.qready.contains q then s else { s with qready := s.qready ++ [q] }
  else dbBad s

/-- Does the queue manager take doorbells: enabled, and the command processor ready for them (R259, R511)? -/
def qmTakes (s : State) : Bool := s.fb qmBase Fld.QM_CTL_EN && s.fb cmdBase Fld.CMD_STS_FW_READY

/-- A doorbell reaches the queue manager. -/
def takeDbell (s : State) (q i : Nat) : State :=
  if !qmTakes s then dbBad s
  else match (if s.pendDb.any fun p => p.queue == q then none else qHit s q) with
    | some d => applyDbell (qFront s q d) q i d
    | none =>
      let s := poolUpdate { s with pendDb := s.pendDb ++ [⟨q, i⟩] } 4 10 0
      if s.pendDb.length = 512 then s.fs qmBase Fld.QM_ERR_DB_STALL 1 else s

/-- A completion ring's new head. -/
def takeHead (s : State) (c i : Nat) : State :=
  let s := if qmTakes s then cqTouch s c else s
  let r := cqRec s c
  let adv := ahead i r.head
  if !r.valid || !qmTakes s then dbBad s
  else if adv = 0 then s
  else if adv < 2 ^ 31 ∧ adv ≤ ahead r.tail r.head then cqPut s c { r with head := i % 2 ^ 32 }
  else dbBad s

/-- The first waiting doorbell's descriptor arrives. -/
def applyPending (s : State) : State :=
  match s.pendDb with
  | [] => s
  | p :: ps =>
    match fetchQ (poolUpdate { s with pendDb := ps } 4 10 0) p.queue with
    | (none, s) => dbBad s
    | (some d, s) => applyDbell s p.queue p.index d

/-! ### Packets (R273 to R279) -/

/-- Address of ring entry `e`. -/
def entryAddr (d : QDesc) (e : Nat) : Nat := d.base + 64 * (e % 2 ^ d.log2)

/-- The entry at the consumer index as it would be read. -/
def peekEntry (s : State) (d : QDesc) : Option (List Byte) :=
  match (memRead s cmdIni d.ctx (entryAddr d d.consumer) 64).1 with
  | .data b => some b
  | _ => none

/-- Is the LEN of a first entry impossible? -/
def badLen (d : QDesc) (len : Nat) : Bool := len == 0 || decide (128 < len) || decide (2 ^ d.log2 < len)

/-- Is an earlier command of the queue incomplete? -/
def cmdEarlier (s : State) (q order : Nat) : Bool :=
  s.cmds.any fun e => e.2.queue == q && decide (e.2.order < order) && !(e.2.phase == .reply)

/-- May the queue be parsed: active, no FENCE packet waits, and a whole packet (or one that is refused, or an entry that
cannot be read) before the producer index? -/
def parsable (s : State) (d : QDesc) : Bool :=
  let avail := ahead d.producer d.consumer
  d.state == 0 && decide (0 < avail)
    && match peekEntry s d with
      | none => true
      | some b => !(byteAt b 3 == 1) || badLen d (byteAt b 2) || decide (byteAt b 2 ≤ avail)

/-- The next queue to parse: the highest class, then doorbell order. -/
def pickQueue (s : State) : Option Nat :=
  ((s.qready.filterMap fun q => (peekQ s q).map fun d => (q, d)).filter fun e =>
      parsable s e.2 && !(e.2.fenceWait && cmdEarlier s e.1 s.orderNext)).foldl (fun (acc : Option (Nat × QDesc)) e =>
    match acc with
    | none => some e
    | some b => if b.2.cls < e.2.cls then some e else some b) none |>.map (·.1)

/-- The lowest free tag. -/
def freeTag (s : State) : Option Nat :=
  ((List.range (s.cmds.length + 1)).find? fun t => (aget s.cmds t).isNone).bind fun t => if t < 32768 then some t else none

/-- The privilege an opcode needs (bits of R278), the end of its fixed parameters, and the reserved bits among them:
byte offset and mask. -/
def opSpec (op : Nat) : Option (Nat × Nat × List (Nat × Nat)) :=
  let z := fun (os : List Nat) => os.map fun o => (o, 0xFF)
  match op with
  | 0x01 => some (0, 16, [])
  | 0x02 => some (0, 16, [])
  | 0x03 => some (0, 32, [])
  | 0x04 => some (1, 20, [(18, 0xF0)])
  | 0x05 => some (1, 18, [])
  | 0x06 => some (1, 34, (18, 0xF0) :: z [19, 30, 31])
  | 0x07 => some (1, 20, (18, 0xF0) :: z [19])
  | 0x08 => some (1, 21, (18, 0xF0) :: z [19] ++ [(20, 0xFE)])
  | 0x09 => some (1, 36, (19, 0xFE) :: z [26, 27, 31])
  | 0x0A => some (1, 18, [])
  | 0x0B => some (1, 36, (17, 0xFC) :: z [18, 19, 26, 27])
  | 0x0C => some (1, 17, [])
  | 0x0D => some (0, 16, [])
  | 0x10 => some (0, 28, z [22, 23])
  | 0x11 => some (0, 20, [])
  | 0x18 => some (0, 40, z [30, 31, 36, 37, 38, 39])
  | 0x19 => some (0, 29, [])
  | 0x1A => some (0, 20, [])
  | 0x20 => some (0, 24, (17, 0xC0) :: z [18, 19])
  | 0x21 => some (0, 24, (17, 0xC0) :: z [18, 19])
  | 0x22 => some (0, 18, [(17, 0xC0)])
  | 0x28 => some (0, 24, [])
  | 0x29 => some (0, 19, [])
  | 0x2A => some (0, 19, [])
  | 0x2B => some (0, 19, [])
  | 0x2C => some (1, 32, z [18, 19, 30, 31])
  | 0x2D => some (1, 32, (17, 0xFE) :: z [18, 19, 20, 21, 22, 23, 30, 31])
  | 0x30 => some (8, 32, z [18, 19, 24, 25, 26, 27, 28, 29, 30, 31])
  | 0x31 => some (8, 17, [])
  | 0x32 => some (8, 32, z [16, 17, 18, 19, 24, 25, 26, 27, 28, 29, 30, 31])
  | 0x33 => some (8, 32, z [16, 17, 18, 19, 24, 25, 26, 27, 28, 29, 30, 31])
  | 0x38 => some (2, 32, z [24, 25, 26, 27, 28, 29, 30, 31])
  | 0x39 => some (0, 36, z [20, 21, 22, 23, 30, 31])
  | 0x3A => some (2, 24, z [17, 18, 19])
  | 0x40 => some (1, 24, z [17, 18, 19])
  | 0x41 => some (1, 20, [])
  | 0x48 => some (1, 18, [(16, 0x3F)])
  | 0x49 => some (1, 18, [(16, 0x3F)])
  | 0x4A => some (1, 18, [(16, 0x3F)])
  | 0x4B => some (1, 16, [])
  | 0x50 => some (0, 60, z [54, 55])
  | 0x51 => some (4, 24, [])
  | 0x52 => some (4, 32, [])
  | 0x53 => some (4, 20, [])
  | 0x54 => some (4, 20, [])
  | 0x58 => some (1, 25, (17, 0xF0) :: [(24, 0xFE)])
  | 0x59 => some (1, 32, [(17, 0xF8), (19, 0xE0)] ++ z [26, 27])
  | 0x60 => some (0, 29, z [22, 23])
  | _ => none

/-- Where the arguments of a STEP start (R280). -/
def stepArgsAt (p : List Byte) : Nat := roundUp (40 + 8 * byteAt p 24 + 4 * byteAt p 25) 8

/-- The end of a packet's parameters: fixed, or with its record, its data or its step. -/
def paramEnd (p : List Byte) (fixed : Nat) : Nat :=
  match byteAt p 0 with
  | 0x18 => stepArgsAt p + leAt p 26 2
  | 0x30 | 0x32 | 0x33 | 0x38 => 32 + leAt p 20 4
  | 0x52 => 32 + leAt p 20 4
  | _ => fixed

/-- Reserved bits beyond the fixed parameters of a STEP: the high parts of bases and semaphore numbers, and the padding
before the arguments. -/
def stepReserved (p : List Byte) : List (Nat × Nat) :=
  let nb := byteAt p 24
  let ns := byteAt p 25
  let sm := 40 + 8 * nb
  ((List.range nb).flatMap fun b => [(46 + 8 * b, 0xFF), (47 + 8 * b, 0xFF)])
    ++ ((List.range ns).flatMap fun i => [(sm + 4 * i + 1, 0xC0), (sm + 4 * i + 2, 0xFF), (sm + 4 * i + 3, 0xFF)])
    ++ (rangeFrom (sm + 4 * ns) (stepArgsAt p - (sm + 4 * ns))).map fun o => (o, 0xFF)

/-- The first reserved byte that is not zero, in packet order. -/
def reservedBad (p : List Byte) (fixedEnd : Nat) (rs : List (Nat × Nat)) : Option Nat :=
  let all := [(1, 0xFC), (4, 0xFF), (5, 0xFF), (6, 0xFF), (7, 0xFF)] ++ rs
    ++ (if byteAt p 0 = 0x18 then stepReserved p else [])
    ++ (rangeFrom (paramEnd p fixedEnd) (p.length - paramEnd p fixedEnd)).map fun o => (o, 0xFF)
  (all.find? fun r => !(Nat.land (byteAt p r.1) r.2 == 0)).map (·.1)

/-- The opcodes that the Doorstep loader serves in service state: NOP, BARRIER, DEVICE_INFO, ATTEST and the updates
(R540). -/
def serviceOps : List Nat := [0x01, 0x02, 0x0D, 0x50, 0x51, 0x52, 0x53, 0x54]

/-- The checks made at parsing beyond VERSION and the bounds of LEN (R276 to R279): status and detail of the first that
fails. -/
def packetCheck (s : State) (ctx : Nat) (p : List Byte) : Option (Nat × Nat) :=
  if s.fg secBase Fld.SEC_STS_STAGE = 2 ∧ !serviceOps.contains (byteAt p 0) then some (0x1A, 0)
  else match opSpec (byteAt p 0) with
  | none => some (0x10, byteAt p 0)
  | some (priv, fin, rs) =>
    if p.length < fin ∨ p.length < paramEnd p fin then some (0x11, byteAt p 2)
    else if Nat.land priv (s.ctx ctx).priv ≠ priv then some (0x15, 0)
    else if byteAt p 0 = 0x18 ∧ (byteAt p 24 = 0 ∨ 64 < byteAt p 24) then some (0x13, 24)
    else if byteAt p 0 = 0x18 ∧ 64 < byteAt p 25 then some (0x13, 25)
    else match reservedBad p fin rs with
      | some o => some (0x13, o)
      | none => none

/-- CMD_STS.TAGS_USED follows the tags; ledger 9 sees the update. -/
def syncTags (s : State) : State := poolUpdate (s.fs cmdBase Fld.CMD_STS_TAGS_USED (min 0xFFFF s.cmds.length)) 4 9 0

/-- A packet of `n` entries is taken from a queue: its tag, the consumer index, the counts (R273 to R275). -/
def takePacket (s : State) (q : Nat) (d : QDesc) (p : List Byte) (n tag : Nat) : State :=
  let gen := (getD 0 s.tagGens tag + 1) % 256
  let c : Cmd :=
    { gen := gen, queue := q, ctx := d.ctx, ctxGen := d.ctxGen, cls := d.cls, opcode := byteAt p 0,
      notify := bit (byteAt p 1) 0, fence := bit (byteAt p 1) 1, cookie := leAt p 8 8, packet := p, order := s.orderNext,
      parsedUs := s.nowUs, phase := .parsed, status := 0, detail := 0, result := 0, suspect := false, reexecd := false,
      breach := false, late := false, cq := d.cq, held := none, doneUs := 0, step := none }
  let d := { d with consumer := (d.consumer + n) % 2 ^ 32, inflight := (d.inflight + 1) % 2 ^ 16,
                    parsed := (d.parsed + 1) % 2 ^ 32, fenceWait := false }
  let s := { s with tagGens := setD 0 s.tagGens tag gen, orderNext := s.orderNext + 1,
                    qready := if d.consumer = d.producer then s.qready.filter (fun x => !(x == q)) else s.qready }
  syncTags ((descIndex (qSet s q d) q d).setCmd tag c |>.faddWrap cmdBase Fld.CMD_PARSED_COUNT 1)

/-- An entry could not be read: the queue stops (R273). -/
def ringError (s : State) (q : Nat) (d : QDesc) : State :=
  descError { qSet s q { d with state := 3 } with qready := s.qready.filter fun x => !(x == q) } Fld.QM_ERR_RING_ERR

/-- Read `n` entries from index `e` on. -/
def readEntries (d : QDesc) : (n : Nat) → (e : Nat) → State → Option (List Byte) × State
  | 0, _, s => (some [], s)
  | n + 1, e, s =>
    match memRead s cmdIni d.ctx (entryAddr d e) 64 with
    | (.data b, s) =>
      (match readEntries d n (e + 1) s with
       | (some bs, s) => (some (b ++ bs), s)
       | (none, s) => (none, s))
    | (_, s) => (none, s)

/-- Parse one packet of a queue. -/
def parseQueue (s : State) (q tag : Nat) : State :=
  match fetchQ s q with
  | (none, s) => { s with qready := s.qready.filter fun x => !(x == q) }
  | (some d, s) =>
    if d.state ≠ 0 then s
    else match readEntries d 1 d.consumer s with
    | (none, s) => ringError s q d
    | (some b, s) =>
      let len := byteAt b 2
      if byteAt b 3 ≠ 1 then refuse (takePacket s q d b 1 tag) tag 0x12 (byteAt b 3)
      else if badLen d len then refuse (takePacket s q d b 1 tag) tag 0x11 len
      else if bit (byteAt b 1) 1 && cmdEarlier s q s.orderNext then qSet s q { d with fenceWait := true }
      else match readEntries d (len - 1) (d.consumer + 1) s with
        | (none, s) => ringError s q d
        | (some bs, s) =>
          let p := b ++ bs
          let s := takePacket s q d p len tag
          match packetCheck s d.ctx p with
          | some f => refuse s tag f.1 f.2
          | none => s

def execPacketParse (s : State) : Host.Outcome State Fault Refusal :=
  .next (if s.fb cmdBase Fld.CMD_CTL_EN && !s.fb cmdBase Fld.CMD_CTL_PAUSE && s.fb qmBase Fld.QM_CTL_EN then
      match freeTag s, pickQueue s with
      | some tag, some q => parseQueue s q tag
      | _, _ => s
    else s)

/-! ### Acting on a parsed command -/

/-- Serve the parsed command `tg` when it has this opcode; firmware commands wait for the handlers (CMD_STS.FW_READY). -/
def cmdDo (s : State) (tg op : Nat) (fw : Bool) (f : Cmd → State → State) : Host.Outcome State Fault Refusal :=
  .next (match s.cmd? tg with
    | none => s
    | some c => if c.phase = .parsed ∧ c.opcode = op ∧ (fw = false ∨ s.fb cmdBase Fld.CMD_STS_FW_READY = true) then f c s else s)

/-- Has a command not started (R299)? -/
def unstarted (c : Cmd) : Bool := c.phase == .parsed || c.phase == .admitting || c.phase == .booked || c.phase == .queued

/-- Cancel one command that has not started. -/
def cancelCmd (s : State) (tag : Nat) : State :=
  match s.cmd? tag with
  | none => s
  | some c => if c.step.isSome then endStep s tag 2 0 else finishCmd s tag 2 0 0

/-- Cancel every unstarted command that `p` picks; the number cancelled. -/
def cancelAll (s : State) (p : Nat → Cmd → Bool) : Nat × State :=
  let ts := (s.cmds.filter fun e => unstarted e.2 && p e.1 e.2).map (·.1)
  (ts.length, ts.foldl cancelCmd s)

/-! ### Replies and notifications (R283, R284) -/

/-- The lowest host module that is up. -/
def hostModule (s : State) : Option Nat := (List.range 4).find? fun m => bit (s.fg hpBase Fld.HP_STS_MOD_UP) m

/-- The NOTIFY of a ring's vector (R263). -/
def notifyMsg (vector c : Nat) : List Byte :=
  msgBytes ⟨15, 0, 0, false, false, 0, 0, 0, 0⟩ [vector % 2 ^ 16 + c % 2 ^ 16 * 2 ^ 16] []

/-- NOTIFYs leave on VC3 of the lowest module that is up, while it has credits (R261, R264). -/
def drainNotify : (fuel : Nat) → State → State
  | 0, s => s
  | f + 1, s =>
    match hostModule s, s.notifyQ with
    | some m, x :: xs =>
      if canSend s (26 + m) 3 1 then
        drainNotify f ((sendFlit { s with notifyQ := xs } (26 + m) 3 1 (notifyMsg x.1 x.2)).emit "NOTIFY" m [x.1, x.2])
      else s
    | _, _ => s

/-- Send NOTIFY for a completion ring. -/
def sendNotify (s : State) (c : Nat) : State :=
  let r := cqRec s c
  if (hostModule s).isNone then s
  else
    let s := cqTouch s c
    let s := { s with cqs := setD CqRec.absent s.cqs c { r with unnotified := 0 }, notifyQ := s.notifyQ ++ [(r.vector, c)] }
    drainNotify s.notifyQ.length s

/-- One entry was written to a ring: its tail, and the notification rule. -/
def entryWritten (s : State) (c : Nat) (now : Bool) : State :=
  let r := cqRec s c
  let r := { r with tail := (r.tail + 1) % 2 ^ 32, oldest := if r.unnotified = 0 then s.nowUs else r.oldest,
                    unnotified := r.unnotified + 1 }
  let s := cqPut s c r
  if now || decide (r.coalCnt ≤ r.unnotified) then sendNotify s c else s

/-- Has the ring room? -/
def cqRoom (r : CqRec) : Bool := decide (ahead r.tail r.head < 2 ^ r.log2)

/-- Write a 32-byte entry at the tail. -/
def cqWrite (s : State) (c : Nat) (bs : List Byte) (now : Bool) : State :=
  let s := cqTouch s c
  let r := cqRec s c
  entryWritten (memWrite s cmdIni r.ctx (r.base + 32 * (r.tail % 2 ^ r.log2)) bs).2 c now

/-- The PHASE bit of the entry at the tail. -/
def cqPhase (r : CqRec) : Nat := 1 - r.tail / 2 ^ r.log2 % 2

/-- ELAPSED_US (R283). -/
def elapsed (s : State) (c : Cmd) : Nat :=
  min 0xFFFFFFFF (match c.step with
    | some r => if c.opcode = 0x18 ∧ 0 < r.decided then c.doneUs - r.decided else s.nowUs - c.parsedUs
    | none => s.nowUs - c.parsedUs)

/-- The 32 bytes of a reply. -/
def replyBytes (s : State) (tag : Nat) (c : Cmd) : List Byte :=
  leBytes 2 (tag + cqPhase (cqRec s c.cq) * 2 ^ 15) ++ leBytes 1 c.gen ++ leBytes 1 c.opcode ++ leBytes 1 c.status
    ++ leBytes 1 (b2n c.suspect + b2n c.reexecd * 2 + b2n c.breach * 4 + b2n c.late * 8) ++ leBytes 2 c.detail
    ++ leBytes 8 c.cookie ++ leBytes 8 c.result ++ leBytes 4 (elapsed s c) ++ leBytes 4 c.queue

/-- CMD_HELD counts the replies that wait for full rings. -/
def syncHeld (s : State) : State := s.wr (cmdBase + Reg.CMD_HELD) (s.cmds.filter fun e => e.2.held.isSome).length

/-- The command's tag is freed and its queue's INFLIGHT falls; a destroyed queue's descriptor is made invalid. -/
def freeCmd (s : State) (tag : Nat) (c : Cmd) : State :=
  let s := syncHeld (syncTags { s with cmds := adel s.cmds tag })
  let s := match qHit s c.queue with
    | some d => qSet s c.queue { d with inflight := d.inflight - 1 }
    | none => s
  if c.opcode = 0x07 ∧ c.status = 0 then
    let q := leAt c.packet 16 4 % 2 ^ 20
    match fetchQ s q with
    | (some d, s) =>
      let s := descPut s q { d with valid := false, pinned := false }
      syncQm { s with qcache := s.qcache.filter fun e => !(e.1 == q) }
    | (none, s) => s
  else s

/-- Does a reply of the ring wait since before this one? -/
def heldBefore (s : State) (c : Cmd) : Bool :=
  s.cmds.any fun e => e.2.cq == c.cq && match e.2.held, c.held with
    | some a, some b => decide (a < b)
    | some _, none => true
    | none, _ => false

/-- A reply that must wait takes its place in the ring's order. -/
def holdReply (s : State) (tag : Nat) (c : Cmd) : State :=
  match c.held with
  | some _ => s
  | none =>
    let n := s.cmds.foldl (fun m e => match e.2.held with | some h => max m (h + 1) | none => m) 0
    syncHeld ((s.setCmd tag { c with held := some n }).fs cmdBase Fld.CMD_ERR_CQ_HELD 1)

/-- Write a finished command's reply, or hold it for its full ring; a ring that exists no longer takes none. -/
def replyNow (s : State) (tag : Nat) (c : Cmd) : State :=
  let r := cqRec s c.cq
  if !r.valid then freeCmd s tag c
  else if heldBefore s c || !cqRoom r then holdReply s tag c
  else freeCmd (cqWrite s c.cq (replyBytes s tag c) c.notify) tag c

/-- The reply of a finished command is written; a QUEUE_DESTROY is finished once no command of its queue runs (R282). -/
def execReplyWrite (tg : Nat) (s : State) : Host.Outcome State Fault Refusal :=
  .next (match s.cmd? tg with
    | none => s
    | some c =>
      if c.phase = .reply then replyNow s tg c
      else if c.phase = .waiting ∧ c.opcode = 0x07 ∧ !queueRuns s (leAt c.packet 16 4 % 2 ^ 20) tg then
        replyNow s tg { c with phase := .reply, status := 0, detail := 0, doneUs := s.nowUs }
      else s)

/-- COAL_US has passed since the oldest entry not yet notified. -/
def execNotifyCoalTimeout (cq : Nat) (s : State) : Host.Outcome State Fault Refusal :=
  let r := cqRec s cq
  .next (if r.valid && decide (0 < r.unnotified) && decide (0 < r.coalUs) && decide (r.oldest + r.coalUs ≤ s.nowUs) then
      sendNotify s cq else s)

/-! ### Events (R286) -/

/-- The 32 bytes of an event entry. -/
def eventBytes (s : State) (r : CqRec) (status detail result : Nat) : List Byte :=
  leBytes 2 (cqPhase r * 2 ^ 15) ++ leBytes 2 0 ++ leBytes 1 status ++ leBytes 1 0 ++ leBytes 2 detail
    ++ leBytes 8 s.eventSeq ++ leBytes 8 result ++ leBytes 8 0

/-- Write one event entry with the next sequence number. -/
def eventPut (s : State) (c status detail result : Nat) : State :=
  let s := cqWrite s c (eventBytes s (cqRec s c) status detail result) false
  { s with eventSeq := (s.eventSeq + 1) % 2 ^ 64 }

/-- The next event entry, EVT_LOST first, once the event ring exists and has room. -/
def execEventWrite (s : State) : Host.Outcome State Fault Refusal :=
  let c := s.fg cmdBase Fld.CMD_EVT_CQ_CQ
  .next (if !s.fb cmdBase Fld.CMD_EVT_CQ_VALID || !cqRoom (cqRec s c) then s
    else if 0 < s.eventsLost then { eventPut s c 0x77 (min 0xFFFF s.eventsLost) 0 with eventsLost := 0 }
    else match s.events with
      | [] => s
      | e :: es => eventPut { s with events := es } c e.status e.detail e.result)

/-! ### Register writes (R289, R326) -/

/-- A write of the CMD_ block that its port has admitted: PAUSED follows PAUSE at once, no packet being parsed. -/
def cmdRegWrite (s : State) (off v : Nat) (spec : Option (RegSpec × Nat × Nat)) : State :=
  let s := regStore s (cmdBase + off) v spec
  s.fs cmdBase Fld.CMD_STS_PAUSED (s.fg cmdBase Fld.CMD_CTL_PAUSE)

/-- A write of the QM_ block that its port has admitted: the bases ignore writes while EN = 1. -/
def qmRegWrite (s : State) (off v : Nat) (spec : Option (RegSpec × Nat × Nat)) : State :=
  if (off = Reg.QM_DESC_BASE ∨ off = Reg.QM_CQ_BASE) ∧ s.fb qmBase Fld.QM_CTL_EN then s
  else regStore s (qmBase + off) v spec

/-- A write of CMD_CTL through the register port. -/
def execCmdPause (ini : Nat) (v : Word) (s : State) : Host.Outcome State Fault Refusal :=
  .next (viaPort s ini (cmdBase + Reg.CMD_CTL) fun t spec => cmdRegWrite t Reg.CMD_CTL v.toNat spec)

end Sys2Proof.Machine
end

