-- ==== Sys2Proof/Machine/CmdOps.lean ====
section
/-!
DEFINITION. Machine/CmdOps.lean: the Pahal commands of queues, contexts, rings, windows, images, steps, semaphores and
tracks (R135, R136, R143, R157, R162, R163, R170, R269, R277 to R282, R286, R294, R299, R330).
-/
namespace Sys2Proof.Machine

open Sys2Proof

/-- A parameter of a command's packet. -/
def Cmd.par (c : Cmd) (off n : Nat) : Nat := leAt c.packet off n

/-- Does [a, a + n) lie wholly within window 0 (R269)? -/
def inWin0 (s : State) (a n : Nat) : Bool :=
  let b := s.fg hpBase Fld.HP_WIN_W0_BASE * 2 ^ 20
  decide (b ≤ a) && decide (a + n ≤ b + s.fg hpBase Fld.HP_WIN_W1_SIZE_MB * 2 ^ 20)

/-- Is a context live, and not in teardown? -/
def ctxOpen (s : State) (x : Nat) : Bool := (s.ctx x).live && !(s.ctx x).teardown

/-! ### NOP, BARRIER, CANCEL -/

def execNop (tg : Nat) (s : State) : Host.Outcome State Fault Refusal := cmdDo s tg 0x01 false fun _ s => finishCmd s tg 0 0 0

def execBarrier (tg : Nat) (s : State) : Host.Outcome State Fault Refusal :=
  cmdDo s tg 0x02 false fun c s => if cmdEarlier s c.queue c.order then s else finishCmd s tg 0 0 0

/-- CANCEL: unstarted commands of the queue whose cookie agrees under the mask. -/
def execCancel (tg : Nat) (s : State) : Host.Outcome State Fault Refusal :=
  cmdDo s tg 0x03 false fun c s =>
    let m := c.par 24 8
    let r := cancelAll s fun t x => !(t == tg) && x.queue == c.queue && Nat.land x.cookie m == Nat.land (c.par 16 8) m
    finishCmd r.2 tg 0 0 r.1

/-! ### Contexts and queues -/

def execCtxCreate (tg : Nat) (s : State) : Host.Outcome State Fault Refusal :=
  cmdDo s tg 0x04 true fun c s =>
    let x := c.par 16 2
    if x = 0 then refuse s tg 0x13 16
    else if 6 < c.par 19 1 then refuse s tg 0x13 19
    else if (s.ctx x).live then refuse s tg 0x1C 0
    else
      let v := s.ctx x
      finishCmd (s.setCtx x { v with live := true, priv := c.par 18 1 % 16, maxClass := c.par 19 1, teardown := false }) tg 0 0 v.gen

/-- A new queue's descriptor. -/
def newQueue (s : State) (c : Cmd) : QDesc :=
  { valid := true, state := 0, pinned := false, cls := c.par 22 1, fenceWait := false, log2 := c.par 23 1,
    ctx := c.par 20 2, ctxGen := (s.ctx (c.par 20 2)).gen, base := c.par 24 6, producer := 0, consumer := 0,
    cq := c.par 32 2, inflight := 0, self := c.par 16 4, parsed := 0 }

/-- The checks of QUEUE_CREATE on its packet and on the objects it names. -/
def queueCreateCheck (s : State) (c : Cmd) : Option (Nat × Nat) :=
  let x := c.par 20 2
  let l := c.par 23 1
  if !(s.ctx x).live then some (0x16, 20)
  else if (s.ctx x).teardown then some (0x1A, 0)
  else if (s.ctx x).maxClass < c.par 22 1 then some (0x13, 22)
  else if l < 4 ∨ 16 < l then some (0x13, 23)
  else if c.par 24 6 % 4096 ≠ 0 ∨ inWin0 s (c.par 24 6) (64 * 2 ^ l) = false then some (0x14, 24)
  else if !(cqRec s (c.par 32 2)).valid then some (0x16, 32)
  else none

def execQueueCreate (tg : Nat) (s : State) : Host.Outcome State Fault Refusal :=
  cmdDo s tg 0x06 true fun c s =>
    if !s.fb qmBase Fld.QM_CTL_EN then s
    else match queueCreateCheck s c with
      | some f => refuse s tg f.1 f.2
      | none =>
        match fetchQ s (c.par 16 4) with
        | (some _, s) => refuse s tg 0x1C 0
        | (none, s) =>
          let d := newQueue s c
          finishCmd (ledgerRebase (descPut (qFront (qEvict s) (c.par 16 4) d) (c.par 16 4) d) 4 7 (c.par 16 4)) tg 0 0 0

/-- QUEUE_DESTROY: STATE 1, unstarted commands cancelled; the reply waits for those that run. -/
def execQueueDestroy (tg : Nat) (s : State) : Host.Outcome State Fault Refusal :=
  cmdDo s tg 0x07 true fun c s =>
    if !s.fb qmBase Fld.QM_CTL_EN then s
    else
      let q := c.par 16 4
      match fetchQ s q with
      | (none, s) => refuse s tg 0x16 16
      | (some d, s) =>
        if d.state = 1 ∨ d.state = 2 then refuse s tg 0x1A 0
        else
          let d := { d with state := 1 }
          let s := descPut (qSet s q d) q d
          let s := { s with qready := s.qready.filter fun x => !(x == q) }
          let r := cancelAll s fun t x => !(t == tg) && x.queue == q
          let s := r.2
          match s.cmd? tg with
          | some c => settleWaiting (s.setCmd tg { c with phase := .waiting, result := r.1 })
          | none => s

/-- QUEUE_PIN with bit 1: the descriptor is held in the cache; at most 512 are. -/
def execQueuePin (tg : Nat) (s : State) : Host.Outcome State Fault Refusal :=
  cmdDo s tg 0x08 true fun c s =>
    if !bit (c.par 20 1) 0 || !s.fb qmBase Fld.QM_CTL_EN then s
    else
      let q := c.par 16 4
      match fetchQ s q with
      | (none, s) => refuse s tg 0x16 16
      | (some d, s) =>
        if d.pinned then finishCmd s tg 0 0 0
        else if 512 ≤ s.fg qmBase Fld.QM_STS_PINNED then refuse s tg 0x1B 0
        else finishCmd (descPut (qSet s q { d with pinned := true }) q { d with pinned := true }) tg 0 0 0

/-- QUEUE_PIN with bit 0. -/
def execQueueUnpin (tg : Nat) (s : State) : Host.Outcome State Fault Refusal :=
  cmdDo s tg 0x08 true fun c s =>
    if bit (c.par 20 1) 0 || !s.fb qmBase Fld.QM_CTL_EN then s
    else
      let q := c.par 16 4
      match fetchQ s q with
      | (none, s) => refuse s tg 0x16 16
      | (some d, s) =>
        if d.pinned then finishCmd (descPut (qSet s q { d with pinned := false }) q { d with pinned := false }) tg 0 0 0
        else finishCmd s tg 0 0 0

/-! ### Completion rings -/

/-- The checks of CQ_CREATE. -/
def cqCreateCheck (s : State) (c : Cmd) : Option (Nat × Nat) :=
  let ev := bit (c.par 19 1) 0
  let l := c.par 18 1
  if ev ∧ c.ctx ≠ 0 then some (0x15, 0)
  else if l < 6 ∨ 20 < l then some (0x13, 18)
  else if c.par 20 6 % 4096 ≠ 0 ∨ inWin0 s (c.par 20 6) (32 * 2 ^ l) = false then some (0x14, 20)
  else if (cqRec s (c.par 16 2)).valid then some (0x1C, 0)
  else if ev ∧ s.fb cmdBase Fld.CMD_EVT_CQ_VALID then some (0x1C, 0)
  else none

def execCqCreate (tg : Nat) (s : State) : Host.Outcome State Fault Refusal :=
  cmdDo s tg 0x09 true fun c s =>
    if !s.fb qmBase Fld.QM_CTL_EN then s
    else match cqCreateCheck s c with
      | some f => refuse s tg f.1 f.2
      | none =>
        let ev := bit (c.par 19 1) 0
        let r : CqRec := ⟨true, ev, c.par 18 1, c.ctx, c.par 28 2, c.par 30 1, c.par 20 6, c.par 32 4, 0, 0, 0, 0⟩
        let s := ledgerRebase (cqPut s (c.par 16 2) r) 4 8 (c.par 16 2)
        let s := if ev then (s.fs cmdBase Fld.CMD_EVT_CQ_CQ (c.par 16 2)).fs cmdBase Fld.CMD_EVT_CQ_VALID 1 else s
        finishCmd s tg 0 0 0

/-- A ring exists no longer. -/
def dropCq (s : State) (q : Nat) : State :=
  let ev := (cqRec s q).events
  let s := cqPut s q CqRec.absent
  if ev then (s.fs cmdBase Fld.CMD_EVT_CQ_VALID 0).fs cmdBase Fld.CMD_EVT_CQ_CQ 0 else s

def execCqDestroy (tg : Nat) (s : State) : Host.Outcome State Fault Refusal :=
  cmdDo s tg 0x0A true fun c s =>
    let q := c.par 16 2
    if !s.fb qmBase Fld.QM_CTL_EN then s
    else if !(cqRec s q).valid then refuse s tg 0x16 16
    else if ((queuesOf s).any fun e => e.2.cq == q) || (s.cmds.any fun e => e.2.cq == q && e.2.phase == .reply) then
      refuse s tg 0x1A 0
    else finishCmd (dropCq s q) tg 0 0 0

/-! ### Windows, device -/

/-- Would a host window admit writes over the tables or the save regions (R291)? -/
def windowForbidden (s : State) (a n : Nat) (wr : Bool) : Bool :=
  (match secBaseRaw s with | some b => rangeMeets s a n b 0xA000000 | none => false)
    || wr && pkgMeetsAny s a n (tableRanges s ++ saveRanges s)

/-- Base of the fields of window `i`. -/
def winBase (i : Nat) : Nat := hpBase + 16 * i

def execWindowSet (tg : Nat) (s : State) : Host.Outcome State Fault Refusal :=
  cmdDo s tg 0x0B true fun c s =>
    let i := c.par 16 1
    let rd := bit (c.par 17 1) 0
    let wr := bit (c.par 17 1) 1
    let a := c.par 20 6
    let mb := c.par 28 4
    if i = 0 ∨ 15 < i then refuse s tg 0x13 16
    else if a % 2 ^ 20 ≠ 0 then refuse s tg 0x13 20
    else if 2 ^ 18 ≤ mb then refuse s tg 0x13 28
    else if 0x1FF < c.par 32 2 then refuse s tg 0x13 32
    else if 0x1FF < c.par 34 2 then refuse s tg 0x13 34
    else if windowForbidden s a (mb * 2 ^ 20) wr then refuse s tg 0x13 20
    else
      let b := winBase i
      let s := (s.wr (b + Reg.HP_WIN_W0) (a / 2 ^ 20)).wr (b + Reg.HP_WIN_W1) mb
      let s := s.wr (b + Reg.HP_WIN_W2) (c.par 32 2 + c.par 34 2 * 2 ^ 16)
      finishCmd (s.wr (b + Reg.HP_WIN_W3) (b2n rd + 2 * b2n wr + 4)) tg 0 0 0

def execWindowClear (tg : Nat) (s : State) : Host.Outcome State Fault Refusal :=
  cmdDo s tg 0x0C true fun c s =>
    let i := c.par 16 1
    if i = 0 ∨ 15 < i then refuse s tg 0x13 16
    else finishCmd (s.fs (winBase i) Fld.HP_WIN_W3_EN 0) tg 0 0 0

/-- Usable DRAM of the package in MiB, the secure region's 160 MiB taken off (R27, R527). -/
def usableMib (s : State) : Nat :=
  sumN ((List.range s.part.dies).map fun d => (usableEnd s d - d * 0x800000000) / 2 ^ 20) - 160

/-- DEVICE_INFO: part, stepping B0, mask of fitted compute dies, package ID, usable DRAM. -/
def execDeviceInfo (tg : Nat) (s : State) : Host.Outcome State Fault Refusal :=
  cmdDo s tg 0x0D true fun _ s =>
    let part := match s.part with | .dvx2300 => 0 | .dvx1150 => 1
    finishCmd s tg 0 0 (part + 0xB0 * 2 ^ 8 + (2 ^ s.part.dies - 1) * 2 ^ 16 + s.pkgId * 2 ^ 20 + usableMib s * 2 ^ 32)

/-! ### Images (R135, R136) -/

/-- The command processor reads the bytes of a package range, under every firewall (R161): is a part poisoned or
refused? -/
def cpReads (s : State) (ctx a n : Nat) : Bool × State :=
  let r := readAll s cmdIni ctx (parts4k a n)
  (match r.1 with | .ack => false | _ => true, r.2)

/-- The command processor writes bytes to a package range, part by part. -/
def cpWrites (s : State) (ctx a : Nat) (bs : List Byte) : State :=
  (parts4k a bs.length).foldl (fun t p => (memWrite t cmdIni ctx p.1 ((bs.drop (p.1 - a)).take p.2)).2) s

/-- IMAGE_REGISTER. An image that reads poisoned, or that a firewall keeps from the command processor, cannot pass its
CRC (assumption 40). -/
def execImageRegister (tg : Nat) (s : State) : Host.Outcome State Fault Refusal :=
  cmdDo s tg 0x10 true fun c s =>
    let a := c.par 16 6
    let n := c.par 24 4
    if n < 4096 then refuse s tg 0x17 1
    else if !pkgUsable s a n then refuse s tg 0x14 16
    else
      let r := cpReads s c.ctx a n
      let s := r.2
      let e := imageCheck s a n
      if e ≠ 0 then refuse s tg 0x17 e
      else if r.1 then refuse s tg 0x17 4
      else match (rangeFrom 1 4096).find? fun h => (aget s.images h).isNone with
        | none => refuse s tg 0x1B 0
        | some h => finishCmd { s with images := aput s.images h ⟨a, n, preemptNs s a⟩ } tg 0 0 h

/-- Does a STEP command that has not replied, or a golden step, name the image (R136)? -/
def imageNamed (s : State) (h : Nat) : Bool :=
  (s.cmds.any fun e => e.2.opcode == 0x18 && !(e.2.phase == .reply) && e.2.par 16 4 == h)
    || s.cores.any fun e => match e.2.golden with | some g => policyField s 0 4 g.entry 40 4 == h | none => false

def execImageUnregister (tg : Nat) (s : State) : Host.Outcome State Fault Refusal :=
  cmdDo s tg 0x11 true fun c s =>
    let h := c.par 16 4
    if (aget s.images h).isNone then refuse s tg 0x16 16
    else if imageNamed s h then refuse s tg 0x1A 0
    else finishCmd { s with images := adel s.images h } tg 0 0 0

/-! ### STEP (R280, R281) -/

/-- The step that a STEP packet asks for. -/
def stepOfPacket (c : Cmd) : StepRec :=
  let nb := c.par 24 1
  let ns := c.par 25 1
  let bases := (List.range nb).map fun i => c.par (40 + 8 * i) 6
  let sems := (List.range ns).map fun i => c.par (40 + 8 * nb + 4 * i) 4
  { image := c.par 16 4, budget := c.par 20 4, bases := bases, sems := sems,
    args := (c.packet.drop (stepArgsAt c.packet)).take (c.par 26 2), link := c.par 28 2, rsv := c.par 32 4,
    decided := 0, start := 0, charge := 0, promised := 0, booking := false, begun := false, cores := [], ended := [],
    saved := [], effClass := c.cls, victims := [], conflict := [], inheritSince := none, inheritFor := [], mmCores := [],
    rerun := [], reStart := 0, reexec := .none, lndSaved := [] }

/-- The bindings of a step with their bases. -/
def bound (s : State) (r : StepRec) : List (Binding × Nat) := (imgBindings s (stepImg s r)).zip r.bases

/-- Does a binding lie where its HOME says (R143)? -/
def homeOk (s : State) (b : Binding) (a : Nat) : Bool :=
  decide (a % 2 ^ b.align = 0)
    && (if b.home = 2 then decide (0x004000000000 ≤ a) && pkgUsable s a b.size
        else decide (a < 0x002000000000) && inUsable s a b.size)

/-- Kinds whose range no other binding may overlap. -/
def writesKind (k : Nat) : Bool := k == 1 || k == 2 || k == 4

/-- Do two bindings share a raw byte (R582)? -/
def boundMeet (s : State) (x y : Binding × Nat) : Bool :=
  (rawRanges s y.2 y.1.size).any fun r => rangeMeets s x.2 x.1.size r.1 r.2

/-- The first binding that breaks R143: its own place, another die than the first HOME 0 binding's, or an overlap. -/
def bindingBad (s : State) (bs : List (Binding × Nat)) : Option Nat :=
  let home0 := (bs.find? fun b => b.1.home == 0).map fun b => rawDie b.2
  let at? := fun i => bs[i]?
  (List.range bs.length).find? fun i =>
    match at? i with
    | none => false
    | some b => !homeOk s b.1 b.2 || (b.1.home == 0 && !(home0 == some (rawDie b.2)))
        || (List.range bs.length).any fun j => !(i == j) && match at? j with
            | some y => (writesKind b.1.kind || writesKind y.1.kind) && boundMeet s b y
            | none => false

/-- The first binding that overlaps a registered image, a die-controller range, an enabled pool or metadata region. -/
def bindingOverlap (s : State) (bs : List (Binding × Nat)) : Option Nat :=
  let rs := imageRanges s ++ dcRanges s ++ pantryRanges s
  (List.range bs.length).find? fun i => match bs[i]? with | some b => pkgMeetsAny s b.2 b.1.size rs | none => false

/-- May the step use a listed track (R162)? -/
def trackUsable (s : State) (d ctx gen w : Nat) : Bool × State :=
  if !s.fb (panBase d) Fld.PAN_STS_READY ∨ 65536 ≤ w then (false, s)
  else
    let e := entryRead s d w
    (e.1.state == 1 && e.1.ctx == ctx && e.1.gen == gen, e.2)

/-- The first entry of a track-set list that fails, from entry `i` on. -/
def listBad (d ctx gen : Nat) : List Nat → (i : Nat) → State → Option Nat × State
  | [], _, s => (none, s)
  | w :: ws, i, s =>
    match trackUsable s d ctx gen w with
    | (true, s) => listBad d ctx gen ws (i + 1) s
    | (false, s) => (some i, s)

/-- Check every KV binding's list. A list that reads poisoned fails at its first entry. -/
def kvBad (ctx gen : Nat) : List (Binding × Nat) → State → Option Nat × State
  | [], s => (none, s)
  | b :: bs, s =>
    if b.1.kind = 5 then
      let r := cpReads s ctx b.2 b.1.size
      if r.1 then (some 0, r.2)
      else match listBad (rawDie b.2) ctx gen ((List.range (b.1.size / 4)).map fun i => pkgNat r.2 (b.2 + 4 * i) 4) 0 r.2 with
        | (some i, s) => (some i, s)
        | (none, s) => kvBad ctx gen bs s
    else kvBad ctx gen bs s

/-- STEP: the checks of R281, then to Threshold. -/
def execStep (tg : Nat) (s : State) : Host.Outcome State Fault Refusal :=
  cmdDo s tg 0x18 false fun c s =>
    let r := stepOfPacket c
    match aget s.images r.image with
    | none => refuse s tg 0x16 16
    | some im =>
      let a := im.addr
      if imgGolden s a then refuse s tg 0x1F 0
      else if r.bases.length ≠ (imgFind s a 2).count ∨ r.sems.length ≠ (imgFind s a 6).count ∨ c.par 26 2 ≠ imgArgSize s a then
        refuse s tg 0x18 0xFFFF
      else
        let bs := bound s r
        match bindingBad s bs with
        | some i => refuse s tg 0x18 i
        | none =>
          match bindingOverlap s bs with
          | some i => refuse s tg 0x19 i
          | none =>
            match kvBad c.ctx c.ctxGen bs s with
            | (some i, s) => refuse s tg 0x1D i
            | (none, s) => s.setCmd tg { c with phase := .admitting, step := some r }

/-! ### Semaphores (R330) -/

/-- The checks every semaphore command makes of its number: the die, and its unit. -/
def semReach (s : State) (n : Nat) : Option (Nat × Nat) :=
  if !s.part.fitted (n / 4096) then some (0x13, 16)
  else if !semServes s (n / 4096) then some (0x1A, 1)
  else none

/-- Does the semaphore have waiters or hold records? -/
def semHeld (s : State) (n : Nat) : Bool :=
  !(s.fg (semBase n) Fld.SYN_SEM_W6_WAITERS == 0) || !(s.fg (semBase n) Fld.SYN_SEM_W6_HOLDERS == 0)

def execSemInit (tg : Nat) (s : State) : Host.Outcome State Fault Refusal :=
  cmdDo s tg 0x20 false fun c s =>
    let n := c.par 16 2
    match semReach s n with
    | some f => refuse s tg f.1 f.2
    | none =>
      if 2 ^ 31 ≤ c.par 20 4 then refuse s tg 0x13 20
      else if semOwned s n && (!semOwner s n c.ctx c.ctxGen || semHeld s n) then refuse s tg 0x1A 0
      else
        let s := semRebase s n (c.par 20 4)
        let s := (s.fs (semBase n) Fld.SYN_SEM_W1_CTX c.ctx).fs (semBase n) Fld.SYN_SEM_W1_CTX_GEN c.ctxGen
        finishCmd (syncOwned (s.fs (semBase n) Fld.SYN_SEM_W1_OWNED 1) (n / 4096)) tg 0 0 0

/-- The checks of SEM_SIGNAL and SEM_QUERY on the owner. -/
def semUsable (s : State) (c : Cmd) (n : Nat) : Option (Nat × Nat) :=
  match semReach s n with
  | some f => some f
  | none => if !semOwned s n then some (0x13, 16) else if semOwner s n c.ctx c.ctxGen then none else some (0x1A, 0)

/-- SEM_SIGNAL: a signal-n goes to the unit, whose answer completes the command. -/
def execSemSignal (tg : Nat) (s : State) : Host.Outcome State Fault Refusal :=
  cmdDo s tg 0x21 false fun c s =>
    let n := c.par 16 2
    if c.par 20 4 = 0 then refuse s tg 0x13 20
    else match semUsable s c n with
      | some f => refuse s tg f.1 f.2
      | none =>
        { s.setCmd tg { c with phase := .waiting } with
          semMsgs := s.semMsgs ++ [⟨.cmd tg, n, 3, false, 0, 0, c.cls, 0, c.par 20 4, c.ctx, c.ctxGen⟩] }

def execSemQuery (tg : Nat) (s : State) : Host.Outcome State Fault Refusal :=
  cmdDo s tg 0x22 false fun c s =>
    let n := c.par 16 2
    match semUsable s c n with
    | some f => refuse s tg f.1 f.2
    | none => finishCmd s tg 0 0 (semValue s n + s.fg (semBase n) Fld.SYN_SEM_W6_WAITERS % 2 ^ 16 * 2 ^ 32)

/-! ### Tracks and pools (R157, R158, R163, R170) -/

/-- Can the command reach the Pantry of die `d`, named at byte `off`? -/
def panReach (s : State) (d off : Nat) : Option (Nat × Nat) :=
  if !s.part.fitted d then some (0x13, off) else if dieHeld s d then some (0x1A, 1) else none

/-- Start a track command for a Pahal command: its arguments and its queue's context, then GO. -/
def trackCmd (s : State) (tg : Nat) (c : Cmd) (op d arg1 : Nat) : State :=
  let b := panBase d
  let s := s.setCmd tg { c with phase := .waiting }
  let s := (s.wr (b + Reg.PAN_TCMD_ARG0) (c.par 16 2 + c.ctx * 2 ^ 16)).wr (b + Reg.PAN_TCMD_ARG1) arg1
  tcmdGo (s.wr (b + Reg.PAN_TCMD_ARG2) c.ctxGen) d op (some tg)

/-- TRACK_OPEN. -/
def execTrackOpen (tg : Nat) (s : State) : Host.Outcome State Fault Refusal :=
  cmdDo s tg 0x28 true fun c s =>
    let d := c.par 18 1
    match panReach s d 18 with
    | some f => refuse s tg f.1 f.2
    | none =>
      if 3 < c.par 19 1 then refuse s tg 0x13 19
      else if 63 < c.par 20 1 then refuse s tg 0x13 20
      else if 0x1FFF < c.par 22 2 then refuse s tg 0x13 22
      else trackCmd s tg c 1 d (c.par 19 1 + c.par 20 1 * 4 + c.par 21 1 * 2 ^ 8 + c.par 22 2 * 2 ^ 16)

/-- TRACK_RESET, TRACK_CLOSE and TRACK_QUERY. -/
def trackDo (tg pahal op : Nat) (s : State) : Host.Outcome State Fault Refusal :=
  cmdDo s tg pahal true fun c s =>
    match panReach s (c.par 18 1) 18 with
    | some f => refuse s tg f.1 f.2
    | none => trackCmd s tg c op (c.par 18 1) 0

def execTrackReset (tg : Nat) (s : State) : Host.Outcome State Fault Refusal := trackDo tg 0x29 2 s
def execTrackClose (tg : Nat) (s : State) : Host.Outcome State Fault Refusal := trackDo tg 0x2A 3 s
def execTrackQuery (tg : Nat) (s : State) : Host.Outcome State Fault Refusal := trackDo tg 0x2B 4 s

/-- POOL_SET: a pool's base and configuration, while the Pantry is disabled. -/
def execPoolSet (tg : Nat) (s : State) : Host.Outcome State Fault Refusal :=
  cmdDo s tg 0x2C true fun c s =>
    let d := c.par 16 1
    match panReach s d 16 with
    | some f => refuse s tg f.1 f.2
    | none =>
      if 3 < c.par 17 1 then refuse s tg 0x13 17
      else if bit (c.par 20 1) 3 then refuse s tg 0x13 20
      else if c.par 24 6 % 2 ^ 21 ≠ 0 then refuse s tg 0x13 24
      else if s.fb (panBase d) Fld.PAN_CTL_EN then refuse s tg 0x1A 0
      else
        let b := poolReg d (c.par 17 1)
        finishCmd ((s.wr (b + Reg.PAN_POOL_BASE) (c.par 24 6 / 2 ^ 21)).wr (b + Reg.PAN_POOL_CFG) (c.par 20 4)) tg 0 0 0

/-- PANTRY_SET: the metadata base, then EN. A Pantry that stays disabled because a placement rule is broken gives
BAD_ADDR. -/
def execPantrySet (tg : Nat) (s : State) : Host.Outcome State Fault Refusal :=
  cmdDo s tg 0x2D true fun c s =>
    let d := c.par 16 1
    let b := panBase d
    match panReach s d 16 with
    | some f => refuse s tg f.1 f.2
    | none =>
      if !bit (c.par 17 1) 0 then finishCmd (panCtlWrite s d 0) tg 0 0 0
      else if c.par 24 6 % 2 ^ 21 ≠ 0 then refuse s tg 0x13 24
      else if s.fb b Fld.PAN_CTL_EN then refuse s tg 0x1A 0
      else
        let s := panCtlWrite (s.wr (b + Reg.PAN_META_BASE) (c.par 24 6 / 2 ^ 21)) d 1
        if s.fb b Fld.PAN_CTL_EN then finishCmd s tg 0 0 0 else refuse s tg 0x14 24

end Sys2Proof.Machine
end

