-- ==== Sys2Proof/Machine/Acina.lean ====
section
/-!
DEFINITION. Machine/Acina.lean: the islands' commands: heartbeats, the evaluation of events and its actions, clamps and
their readback, the start of an island, the self-tests of the checkers, and the policy commands (chapter 14; R24, R279,
R461).
-/
namespace Sys2Proof.Machine

open Sys2Proof

/-! ### Core clocks and the core rails (R470, R471) -/

def tgtMhz (s : State) (c : Nat) : Nat := s.fg (cluBase c) Fld.CLU_CLK_TGT_MHZ

/-- Core rail of an operating point, in mV. -/
def pointMv (mhz : Nat) : Nat :=
  if mhz ≤ 800 then 600 else if mhz ≤ 1000 then 630 else if mhz ≤ 1200 then 660 else if mhz ≤ 1400 then 690
  else if mhz ≤ 1600 then 720 else if mhz ≤ 1800 then 760 else if mhz ≤ 2000 then 800 else 850

/-- Voltage that a compute die's core rail needs: that of its highest cluster point, requested or still in effect. A cluster
in Doze or Nap asks for no more than the lowest. -/
def railWant (s : State) (d : Nat) : Nat :=
  (rangeFrom (8 * d) 8).foldl (fun m c =>
    if s.fg (cluBase c) Fld.CLU_STS_PWR = 0 then max m (pointMv (max (tgtMhz s c) (s.fg (cluBase c) Fld.CLU_CLK_CUR_MHZ))) else m) 600

/-- A new voltage target goes out on AVSBus port `d` (R475); the ports of dies that are not fitted stay undriven (R562). -/
def syncRail (s : State) (d : Nat) : State :=
  let v := railWant s d
  if !s.part.fitted d || getD 800 s.railMv d == v then s
  else ({ s with railMv := setD 800 s.railMv d v } : State).drive "AVS_VOUT" d [v]

def setTgt (s : State) (c v : Nat) : State := syncRail (s.fs (cluBase c) Fld.CLU_CLK_TGT_MHZ v) (c / 8)

/-- Does either island drive its clamp line? -/
def clamped (s : State) : Bool := s.fb (acnBase 0) Fld.ACN_STS_CLAMP || s.fb (acnBase 1) Fld.ACN_STS_CLAMP

/-- A cluster whose clock register returned to its reset value is at 800 MHz again under a clamp (R426). -/
def syncClk (s : State) (c : Nat) : State := if clamped s then setTgt s c 800 else syncRail s (c / 8)

/-! ### Actions of an event (R422, R423, R426, R427) -/

/-- The clamp line of an island follows its clamps: guarantees suspend or resume, and every core island above 800 MHz is
asked down (R426, R471). -/
def settleClamp (s : State) (i : Nat) : State :=
  let v := s.isl i
  let was := s.fb (acnBase i) Fld.ACN_STS_CLAMP
  let on := !v.clamps.isEmpty
  let s := s.fs (acnBase i) Fld.ACN_STS_CLAMP (b2n on)
  let s := if on && !was then s.setIsl i { v with clampAt := s.fg (acnBase i) Fld.ACN_US_COUNT, readDone := false } else s
  let s := settleGuarantee s
  if on then
    (List.range (8 * s.part.dies)).foldl (fun t c => if !dieHeld t (c / 8) && decide (800 < tgtMhz t c) then setTgt t c 800 else t) s
  else s

/-- The log entry of an event: the oldest of the 256 is overwritten (R427). -/
def islLog (s : State) (i seq ev level unit : Nat) : State :=
  let a := acnBase i + Reg.ACN_EVTLOG_W0 + 16 * ((seq + 255) % 256)
  let s := s.wr a seq
  let s := s.wr (a + 4) (ev + level * 2 ^ 8 + unit * 2 ^ 16)
  s.wr (a + 8) (s.fg (acnBase i) Fld.ACN_US_COUNT)

/-- An island acts on an event at a level: each level includes the lower ones (R423). -/
def islAct (s : State) (i ev unit level : Nat) (read : Bool) : State :=
  let seq := (s.fg (acnBase i) Fld.ACN_EVT_SEQ_VALUE + 1) % 2 ^ 32
  let s := islLog (s.wr (acnBase i + Reg.ACN_EVT_SEQ) seq) i seq ev level unit
  let s := if 1 ≤ level then s.event 0x76 (if i = 0 then 0xA0 else 0xB0) (ev + level * 2 ^ 8 + unit * 2 ^ 16 + seq * 2 ^ 32) else s
  let s := if 2 ≤ level then
      let v := s.isl i
      settleClamp (s.setIsl i { v with clamps := v.clamps ++ [⟨ev, unit, s.fg (acnBase i) Fld.ACN_US_COUNT, policyField s i 1 ev 42 2, read⟩] }) i
    else s
  if 3 ≤ level then
    let v := s.isl i
    let l := v.latch ++ [⟨seq, ev, unit, false, read⟩]
    let s := s.setIsl i { v with latch := l }
    ((s.fs (acnBase i) Fld.ACN_STS_LATCHED (min 255 l.length)).fs (acnBase i) Fld.ACN_STS_SAFE_OUT 1).fs (acnBase i) Fld.ACN_STS_STATE 3
  else s

/-- Remove the oldest report for an island. -/
def takeReport (i : Nat) : List Report → List Report
  | [] => []
  | r :: rs => if r.island = i then rs else r :: takeReport i rs

/-- An island evaluates the oldest event reported to it; one that it does not evaluate, or that finds it not running,
has no effect (R418). -/
def execIslandEvent (isl : Nat) (s : State) : Host.Outcome State Fault Refusal :=
  .next (match s.reports.find? fun r => r.island == isl with
    | none => s
    | some r =>
      let s := { s with reports := takeReport isl s.reports }
      if islRuns s isl && evaluates isl r.event then islAct s isl r.event r.unit (islLevel s isl r.event) false else s)

/-- A lockstep mismatch or an uncorrectable word of island SRAM: the comparator halts the island without firmware
(R417). -/
def execLockstepMismatch (isl : Nat) (s : State) : Host.Outcome State Fault Refusal :=
  .next (if !(s.isl isl).powered || islState s isl == 4 then s
    else ((s.fs (acnBase isl) Fld.ACN_STS_STATE 4).fs (acnBase isl) Fld.ACN_STS_SAFE_OUT 1).setIsl isl { s.isl isl with prep := none })

/-! ### Heartbeats (R421) -/

/-- A running die controller beats: BEAT counts and its heartbeat wire toggles. -/
def execDcHeartbeat (d : Nat) (s : State) : Host.Outcome State Fault Refusal :=
  .next (if s.fb (dieBase d) Fld.CLU_DC_STS_DC_RUN then
      let s := { s.faddWrap (dieBase d) Fld.CLU_DC_STS_BEAT 1 with
        dcWire := setD false s.dcWire d (!getD false s.dcWire d), beatAt := aput s.beatAt d s.nowUs }
      hbToggle (hbToggle s 0 d) 1 d
    else s)

/-- The wire of the MP firmware (4), the IOD (5), the Porch (6), island A (7) or island B (8) toggles. -/
def execHeartbeatToggle (src : Nat) (s : State) : Host.Outcome State Fault Refusal :=
  .next (if src = 4 then (if s.fg secBase Fld.SEC_STS_STAGE = 1 ∧ dieHeld s 4 = false then hbToggle (hbToggle s 0 4) 1 4 else s)
    else if src = 5 then (if dieHeld s 4 then s else hbToggle (hbToggle s 0 5) 1 5)
    else if src = 6 then (if dieHeld s 5 then s else hbToggle (hbToggle s 0 6) 1 6)
    else if src = 7 then (if islRuns s 0 then hbToggle s 1 7 else s)
    else (if islRuns s 1 then hbToggle s 0 7 else s))

/-- A live source has not toggled for its timeout. -/
def execHeartbeatLost (isl src : Nat) (s : State) : Host.Outcome State Fault Refusal :=
  .next (if islRuns s isl && hbLive s isl src && decide (hbTimeout s isl src ≤ acnSince s isl ((aget (s.isl isl).beats src).getD 0)) then
      (hbSet s isl src false).report isl (hbEvent src).1 (hbEvent src).2
    else s)

/-! ### Clocks and rails (R24, R422) -/

/-- REFCLK_MAIN leaves its range, or a PLL other than the trigger PLL loses lock. -/
def execClockFault (pll : Bool) (s : State) : Host.Outcome State Fault Refusal :=
  .next (if (if pll then s.pllBad else s.mainBad) then s
    else
      let s : State := if pll then { s with pllBad := true } else { s with mainBad := true }
      (clockMonitors s).reportBoth 0x02 0)

/-- REFCLK_MAIN (0), the PLLs (1), or REFCLK_TRIG with the trigger PLL (2) are good again. -/
def execClockFaultCleared (which : Nat) (s : State) : Host.Outcome State Fault Refusal :=
  let s : State := if which = 0 then { s with mainBad := false } else if which = 1 then { s with pllBad := false }
    else { s with trigBad := false }
  .next (settleIslands (clockMonitors s))

def execRailOutOfRange (rail : Nat) (s : State) : Host.Outcome State Fault Refusal :=
  .next (if s.railsBad.contains rail then s else ({ s with railsBad := s.railsBad ++ [rail] } : State).reportBoth 0x11 0)

def execRailBackInRange (rail : Nat) (s : State) : Host.Outcome State Fault Refusal :=
  .next (settleIslands { s with railsBad := s.railsBad.filter fun r => !(r == rail) })

/-! ### Clamps (R424, R426, R461) -/

/-- Clamps whose condition has cleared and whose HOLD_MS has passed end. -/
def execClampHoldExpiry (isl : Nat) (s : State) : Host.Outcome State Fault Refusal :=
  .next (if !islRuns s isl then s
    else
      let v := s.isl isl
      let keep := v.clamps.filter fun c => occurs s isl c.event c.unit c.read || decide (acnSince s isl c.since < 1000 * c.hold)
      settleIsland (settleClamp (s.setIsl isl { v with clamps := keep }) isl) isl)

/-- The island reads back a clamp: guarantees not suspended 5 µs after it, or a core island above 800 MHz at 40 µs, is
event 0x10 at level SAFE. -/
def execClampReadback (isl : Nat) (s : State) : Host.Outcome State Fault Refusal :=
  .next (if !islRuns s isl || !s.fb (acnBase isl) Fld.ACN_STS_CLAMP || (s.isl isl).readDone then s
    else
      let t := acnSince s isl (s.isl isl).clampAt
      let fast := (List.range (8 * s.part.dies)).any fun c => !dieHeld s (c / 8) && decide (800 < s.fg (cluBase c) Fld.CLU_CLK_CUR_MHZ)
      let done := s.setIsl isl { s.isl isl with readDone := true }
      if (5 ≤ t ∧ s.fb admBase Fld.ADM_STS_SUSPENDED = false) ∨ (40 ≤ t ∧ fast = true) then islAct done isl 0x10 0 3 true
      else if 40 ≤ t then done else s)

/-! ### Start of an island (R420, R429, R433, R528 stage 9) -/

/-- The MP delivers the image it holds for the island; the island's ROM verifies it against its own keys and runs it. The
clock monitors have run since the reset, so a clock fault that lasts is an event of its own. -/
def execIslandBoot (isl : Nat) (s : State) : Host.Outcome State Fault Refusal :=
  .next (if !(s.isl isl).powered || islState s isl != 1 || s.fg secBase Fld.SEC_STS_STAGE != 1 then s
    else match aget s.unitImgs (4 + isl) with
      | none => s
      | some u =>
        if Config.authentic 4 (u.message ++ u.signature) then
          let s := s.fs (acnBase isl) Fld.ACN_STS_STATE 2
          let s := s.setIsl isl { s.isl isl with countAt := s.fg (acnBase isl) Fld.ACN_US_COUNT, counted := s.stDone }
          let s := unitStarted s (4 + isl)
          let s := raiseCounter (4 + isl) (u.svn - svnCounter s (4 + isl)) s
          let s := if isl = 0 then (List.range 4).foldl tolWrite s else s
          let s := if s.mainBad || s.pllBad then s.report isl 0x02 0 else s
          let s := if s.trigBad then s.report isl 0x14 (unitOfDie 5) else s
          settleIsland (clockMonitor s isl) isl
        else unitDead s (4 + isl))

/-! ### Self-tests of the checkers (R445 to R448) -/

/-- A write of a core's CHK_ block that its port has admitted: GO starts a self-test. -/
def chkRegWrite (s : State) (ini k off v : Nat) (spec : Option (RegSpec × Nat × Nat)) : State :=
  let s := regStore s (chkBase k + off) v spec
  if off = Reg.CHK_ST then
    let s := s.fs (chkBase k) Fld.CHK_ST_GO 0
    if bit v 0 then
      let s := ((s.fs (chkBase k) Fld.CHK_ST_DONE 0).fs (chkBase k) Fld.CHK_ST_PASS 0).fs (chkBase k) Fld.CHK_ST_PATTERN 0
      { s.setCore k { s.core k with selfTest := true, testByA := ini / 0x100 == 0xC } with stGo := aput s.stGo k s.nowUs }
    else s
  else s

/-- The write through the register port. -/
def chkStWrite (ini k v : Nat) (s : State) : State :=
  viaPort s ini (chkBase k + Reg.CHK_ST) fun t spec => chkRegWrite t ini k Reg.CHK_ST v spec

def execCheckerSelfTest (ini k : Nat) (v : Word) (s : State) : Host.Outcome State Fault Refusal := .next (chkStWrite ini k v.toNat s)

/-- Every millisecond island A tests the checker of the next fitted core; AXIS and INDEX advance. -/
def execSelfTestSelect (s : State) : Host.Outcome State Fault Refusal :=
  .next (let v := s.isl 0
    let due := match v.testAt with | none => true | some t => decide (1000 ≤ acnSince s 0 t)
    if !islRuns s 0 || !due then s
    else
      let k := v.testCore % (64 * s.part.dies)
      let s := s.setIsl 0 { v with tests := v.tests + 1, testCore := (k + 1) % (64 * s.part.dies),
                                   testAt := some (s.fg (acnBase 0) Fld.ACN_US_COUNT) }
      chkStWrite 0xC00 k (1 + v.tests % 64 * 2) s)

/-- No write-back check within 100 µs of GO: the built-in pattern goes through the comparators; `ok` says whether they
answered as they should. -/
def execSelfTestPattern (k : Nat) (ok : Bool) (s : State) : Host.Outcome State Fault Refusal :=
  .next (match aget s.stGo k with
    | none => s
    | some t =>
      if !(s.core k).selfTest || decide (s.nowUs < t + 100) then s
      else
        let s := s.setCore k { s.core k with selfTest := false }
        let s := ((s.fs (chkBase k) Fld.CHK_ST_DONE 1).fs (chkBase k) Fld.CHK_ST_PASS (b2n ok)).fs (chkBase k) Fld.CHK_ST_PATTERN 1
        afterSelfTest s k !ok)

/-- Island B has seen no test complete for ST_STALL_US. -/
def execSelfTestStall (s : State) : Host.Outcome State Fault Refusal :=
  .next (let v := s.isl 1
    if islRuns s 1 && !v.stalled && decide (policyField s 1 2 0 48 4 ≤ acnSince s 1 v.countAt) then
      (s.setIsl 1 { v with stalled := true }).report 1 0x0D 0
    else s)

/-! ### Policy records (R430 to R433, R441) -/

/-- Minimum level of an event (R422). -/
def minLevel (ev : Nat) : Nat :=
  if ev = 0x00 then 3
  else if ev ∈ [0x01, 0x02, 0x03, 0x05, 0x0F, 0x10, 0x11] then 2
  else if ev ∈ [0x04, 0x0B, 0x0C, 0x0D, 0x13] then 1
  else 0

/-- RECLEN of a table. -/
def policyLen (table : Nat) : Nat := match table with | 0 => 16 | 1 => 16 | 2 => 24 | 3 => 24 | _ => 72

/-- Does an entry of table 4 name an image that a golden step may run (R441)? `f` reads the record. -/
def goldenOk (s : State) (f : Nat → Nat → Nat) : Bool :=
  let a := imgAddr s (f 40 4)
  let bs := imgBindings s a
  let dry : FVal → Bool := fun x => !x.isNan && !(decide (x.lt (.fin false 0 0)))
  decide (f 44 1 < 2) && decide (f 46 2 = 0) && decide (f 68 4 = 0) && decide (1 ≤ f 45 1) && decide (f 45 1 ≤ 4)
    && decide (f 48 4 % 64 = 0) && decide (f 56 4 % 4 = 0) && decide (4 ≤ f 56 4) && decide (f 56 4 ≤ 65536)
    && dry (dec32 (f 60 4)) && dry (dec32 (f 64 4)) && ((List.range 4).all fun i => decide (f (78 + 8 * i) 2 = 0))
    && (aget s.images (f 40 4)).isSome && imgGolden s a && decide (imgGroup s a = 1) && decide (imgArgSize s a = 0)
    && !imgStreams s a && ((imgSects s a).all fun x => !(x.type == 5) && !(x.type == 6)) && !imgAttn s a && !imgBwd s a
    && bs.all (fun b => (b.kind == 0 || b.kind == 3) && (b.home == 1 || b.home == 2)) && decide (f 45 1 = bs.length)
    && decide (f 52 4 + f 56 4 ≤ imgCmUse s a) && decide (chargeUs s a + 3 ≤ s.fg admBase Fld.ADM_GOLD_US)

/-- Does every field of a record lie within its range and minimum (R432)? `f` reads the record by packet byte. -/
def fieldsOk (s : State) (table entry : Nat) (f : Nat → Nat → Nat) : Bool :=
  let within := fun (off len lo hi : Nat) => decide (lo ≤ f off len) && decide (f off len ≤ hi)
  match table with
  | 0 => within 43 1 0 3 && within 44 4 0 0
  | 1 => within 40 1 (minLevel entry) 3 && within 41 1 0 0 && within 42 2 0 60000 && within 44 4 0 0
  | 2 => within 40 2 200 10000 && within 42 2 2000 50000 && within 44 2 20 1000 && within 46 2 200 10000
      && within 48 4 2000 100000 && within 52 4 0 0
  | 3 => within 40 1 8 255 && within 41 1 1 255 && within 42 1 1 32 && within 43 1 1 64 && within 44 1 1 4 && within 45 1 0 3
      && within 46 8 0 0 && within 54 2 0 0
  | _ => goldenOk s f

/-- Is a context authorised by an enabled entry of table 0? -/
def authorised (s : State) (i ctx gen : Nat) : Bool :=
  (List.range 8).any fun e =>
    bit (policyField s i 0 e 43 1) 0 && policyField s i 0 e 40 2 == ctx
      && (bit (policyField s i 0 e 43 1) 1 || policyField s i 0 e 42 1 == gen)

/-- Does an island accept a record: the checks of R430, in their order? An island that does not run its image accepts
nothing. -/
def policyAccepts (s : State) (i : Nat) (c : Cmd) : Bool :=
  let table := c.par 17 1
  let n := c.par 20 4
  islRuns s i && authorised s i c.ctx c.ctxGen
    && decide (c.par 32 4 = crc32c ((c.packet.drop 16).take 4 ++ (c.packet.drop 36).take (n - 4)))
    && decide (c.par 36 4 ≠ 0) && decide (s.fg (acnBase i) Fld.ACN_POLICY_SEQ_VALUE < c.par 36 4)
    && decide (table ≤ 4) && decide (n = policyLen table) && decide (c.par 18 2 < policyEntries table)
    && fieldsOk s table (c.par 18 2) c.par

/-- The 128-byte image of a record: CRC, SEQNO and body, zeros beyond (R432). -/
def recordImage (c : Cmd) : List Byte :=
  let b := (c.packet.drop 32).take (c.par 20 4)
  b ++ List.replicate (128 - b.length) 0

/-- The change is logged (R430); R422 names no event for it, so the entry's EVENT is a free value, its level LOG. -/
def islLogPolicy (s : State) (i : Nat) : State :=
  let seq := (s.fg (acnBase i) Fld.ACN_EVT_SEQ_VALUE + 1) % 2 ^ 32
  let ev := s.free
  islLog (ev.2.wr (acnBase i + Reg.ACN_EVT_SEQ) seq) i seq (ev.1.toNat % 256) 0 0

/-- An island applies an accepted entry. -/
def policyApply (s : State) (i table entry seqno : Nat) (img : List Byte) : State :=
  let s := { s with policy := aput s.policy (2 ^ 16 * i + 2 ^ 8 * table + entry) img }
  let s := (s.wr (acnBase i + Reg.ACN_POLICY_SEQ) seqno).fs (acnBase i) Fld.ACN_STS_POLICY_DEFAULT 0
  let s := islLogPolicy s i
  let s := if i = 0 ∧ table = 3 then (List.range 4).foldl tolWrite s else s
  settleIsland s i

/-- The islands a command names. -/
def named (isl : Nat) : List Nat := if isl = 2 then [0, 1] else [isl]

/-- DETAIL of a refusal: the island, or 2 for both. -/
def rejectDetail (no : List Nat) : Nat := if no.length = 2 then 2 else no.headD 0

/-- POLICY_WRITE to one island, or the prepare and then the commit of R431. The islands hold an accepted prepare; the
next occurrence of the row sends the commit, or the abort when an island no longer holds it. -/
def execPolicyWrite (tg : Nat) (s : State) : Host.Outcome State Fault Refusal :=
  match s.cmd? tg with
  | some c =>
    if c.phase = .waiting ∧ c.opcode = 0x38 then
      let held := fun i => (s.isl i).prep.any fun p => p.tag == tg
      let drop := fun (t : State) (i : Nat) => if (t.isl i).prep.any fun p => p.tag == tg then t.setIsl i { t.isl i with prep := none } else t
      .next (if held 0 && held 1 then
          let apply := fun (t : State) (i : Nat) =>
            match (t.isl i).prep with
            | some p => policyApply (t.setIsl i { t.isl i with prep := none }) i p.table p.entry p.seqno p.image
            | none => t
          finishCmd (apply (apply s 0) 1) tg 0 0 0
        else finishCmd (drop (drop s 0) 1) tg 0x4C (rejectDetail ([0, 1].filter fun i => !held i)) 0)
    else policyFirst s tg
  | none => .next s
where
  policyFirst (s : State) (tg : Nat) : Host.Outcome State Fault Refusal :=
    cmdDo s tg 0x38 true fun c s =>
      let isl := c.par 16 1
      if 2 < isl then refuse s tg 0x13 16
      else
        let no := (named isl).filter fun i => !policyAccepts s i c
        if !no.isEmpty then finishCmd s tg 0x4C (rejectDetail no) 0
        else if isl = 2 then
          let prep := fun (t : State) (i : Nat) => t.setIsl i { t.isl i with
            prep := some ⟨c.par 17 1, c.par 18 2, recordImage c, c.par 36 4, t.fg (acnBase i) Fld.ACN_US_COUNT, tg⟩ }
          (prep (prep s 0) 1).setCmd tg { c with phase := .waiting }
        else finishCmd (policyApply s isl (c.par 17 1) (c.par 18 2) (c.par 36 4) (recordImage c)) tg 0 0 0

/-- An island discards a prepare it has held for 10 ms. -/
def execPolicyPrepareTimeout (isl : Nat) (s : State) : Host.Outcome State Fault Refusal :=
  .next (match (s.isl isl).prep with
    | none => s
    | some p => if islRuns s isl && decide (10000 ≤ acnSince s isl p.since) then s.setIsl isl { s.isl isl with prep := none } else s)

/-- POLICY_READ copies the 128-byte image of an entry to DEST. -/
def execPolicyRead (tg : Nat) (s : State) : Host.Outcome State Fault Refusal :=
  cmdDo s tg 0x39 true fun c s =>
    let isl := c.par 16 1
    let dest := c.par 24 6
    let n := min (c.par 32 4) 128
    if 1 < isl then refuse s tg 0x13 16
    else if 4 < c.par 17 1 then refuse s tg 0x13 17
    else if policyEntries (c.par 17 1) ≤ c.par 18 2 then refuse s tg 0x13 18
    else if !inWin0 s dest (c.par 32 4) then refuse s tg 0x14 24
    else if !(s.isl isl).powered then finishCmd s tg 0x4C isl 0
    else
      let r := cpWrites s c.ctx dest ((policyImage s isl (c.par 17 1) (c.par 18 2)).take n)
      finishCmd r tg 0 0 n

/-- SAFE_ACK acknowledges one latched event. -/
def execSafeAck (tg : Nat) (s : State) : Host.Outcome State Fault Refusal :=
  cmdDo s tg 0x3A true fun c s =>
    let isl := c.par 16 1
    let q := c.par 20 4
    if 1 < isl then refuse s tg 0x13 16
    else
      let v := s.isl isl
      if !(islRuns s isl && authorised s isl c.ctx c.ctxGen && v.latch.any fun e => e.seq == q && !e.acked) then
        finishCmd s tg 0x4C isl 0
      else
        let s := s.setIsl isl { v with latch := v.latch.map fun e => if e.seq = q then { e with acked := true } else e }
        let a := acnBase isl + Reg.ACN_EVTLOG_W0 + 16 * ((q + 255) % 256)
        let s := if s.rd a = q then s.wr (a + 4) (setBits (s.rd (a + 4)) 11 11 1) else s
        finishCmd (settleIsland s isl) tg 0 0 0

end Sys2Proof.Machine
end

