-- ==== Sys2Proof/Machine/Memory.lean ====
section
/-!
DEFINITION. Machine/Memory.lean: requests at the system cache and the memory ports, rows and patrol, training, the
error log's clear, the interleaved window, the cache's invalidation (R194 to R225).
-/
namespace Sys2Proof.Machine

open Sys2Proof

/-! ### Requests on their way (R195, R196, R204, R205) -/

/-- The response to a request: it goes back over the links the request passed (R241). -/
def Req.resp (s : State) (r : Req) (kind : RespKind) (code : Nat) (data : List Byte) : Resp :=
  ⟨r.ini, r.txid, kind, code, data, r.ctx, r.cgen, r.dgen, r.mod, r.cls, r.urg, r.len, backEnds s r.path⟩

/-- A response to a request, which leaves the list of open requests; the response to one that has timed out is dropped
(R493). -/
def answer (s : State) (r : Req) (kind : RespKind) (code : Nat) (data : List Byte) : State :=
  let t := { s with reqs := s.reqs.erase r }
  if r.dead then t else { t with resps := t.resps ++ [r.resp s kind code data] }

/-- The request's record changes. -/
def setReq (s : State) (r r' : Req) : State := { s with reqs := s.reqs.map fun x => if x = r then r' else x }

/-- The request moves to another stage. -/
def restage (s : State) (r : Req) (st : ReqStage) : State := setReq s r { r with stage := st }

/-- The die whose memory port a request goes to. -/
def reqDie (s : State) (r : Req) : Nat := rawDie (physOf s r.addr)

def reqWho (r : Req) : Who := ⟨r.ini, r.ctx, false⟩

/-- The first request at a stage, of one die's memory port or of any. -/
def firstReq (s : State) (st : ReqStage) (d : Option Nat) : Option Req :=
  s.reqs.find? fun r => r.stage == st && (match d with | some d => reqDie s r == d | none => true)

def reqLines (s : State) (r : Req) : List Nat := linesOf (physOf s r.addr) r.len

/-- The request goes on to the memory port, every line of it still to be served. -/
def toPort (s : State) (r : Req) : State := setReq s r { r with stage := .mem, todo := reqLines s r }

/-! ### The system cache (R194 to R197) -/

/-- Look a line up: was it held, with its error corrected or the line dropped, and the counts. -/
def scLook (s : State) (l : Nat) : Bool × State :=
  match scFind s l with
  | none => (false, s.faddWrap memIBase Fld.MEM_SC_MISS_COUNT 1)
  | some x =>
    if x.mark = 2 then
      (false, (scDrop (s.fs memIBase Fld.MEM_SC_ERR_UE 1) fun y => y == l).faddWrap memIBase Fld.MEM_SC_MISS_COUNT 1)
    else
      let s := if x.mark = 1 then scMend (s.fs memIBase Fld.MEM_SC_ERR_CE 1) l else s
      (true, s.faddWrap memIBase Fld.MEM_SC_HIT_COUNT 1)

/-- The bytes of `bs`, which lie from address `a` on, with `ds` written at address `b`. -/
def overlay (bs : List Byte) (a : Nat) (ds : List Byte) (b : Nat) : List Byte :=
  bs.zipIdx.map fun p => if b ≤ a + p.2 ∧ a + p.2 < b + ds.length then ds.getD (a + p.2 - b) 0 else p.1

/-- The bytes that the cache holds: DRAM's, updated by the writes that have passed the cache and wait for their memory
port (R116, R195). -/
def cachedBytes (s : State) (raw n : Nat) : List Byte :=
  (s.reqs.filter fun x => x.write && x.stage == .mem && (scGroup x.ini).isSome).foldl
    (fun bs x => overlay bs raw x.data (physOf s x.addr)) (s.mrd raw n)

/-- A read at the system cache: answered when every line hits, else it goes on to the memory port. -/
def scReadReq (s : State) (r : Req) : State :=
  if !scOn s then toPort s r
  else
    let x := (reqLines s r).foldl (fun (acc : Bool × State) l => let y := scLook acc.2 l; (acc.1 && y.1, y.2)) (true, s)
    if x.1 then answer x.2 r .data 0 (cachedBytes x.2 (physOf s r.addr) r.len) else toPort x.2 r

def execScRead (s : State) : Host.Outcome State Fault Refusal :=
  .next (match firstReq s .iod none with
    | some r => if r.write then s else scReadReq s r
    | none => s)

/-- A write at the system cache updates a cached copy and goes on to the memory port. -/
def scWriteReq (s : State) (r : Req) : State :=
  let a := physOf s r.addr
  toPort ((reqLines s r).foldl (fun t l =>
    if decide (a ≤ 64 * l) && decide (64 * l + 64 ≤ a + r.len) then scMend t l else t) s) r

def execScWrite (s : State) : Host.Outcome State Fault Refusal :=
  .next (match firstReq s .iod none with
    | some r => if r.write then scWriteReq s r else s
    | none => s)

/-! ### The memory port: grants (R207, R353, R362) -/

/-- What a request asks of its memory port. -/
def portCharge (d : Nat) (r : Req) : Charge := ⟨r.ini, r.cls, r.urg, chargeBytes d 0 r.len r.write⟩

/-- The first request of each initiator that waits for a grant of die `d`'s memory ports. -/
def portWaits (s : State) (d : Nat) : List Req :=
  (s.reqs.filter fun r => r.stage == .mem && r.grant == 0 && reqDie s r == d).foldl
    (fun acc r => if acc.any fun x => x.ini == r.ini then acc else acc ++ [r]) []

/-- The number of the next grant. -/
def nextGrant (s : State) : Nat := s.reqs.foldl (fun n r => max n r.grant) 0 + 1

/-- Do the bank queues of 16 and the staging buffer of 64 of every channel hold what is granted? -/
def queuesHold (s : State) (d : Nat) : Bool := (List.range 16).all fun ch => decide (stagedOf (chLines s d ch) ≤ 64)

/-- The port grants requests in the order its regulator picks them, while the controller has room. -/
def grantAll (d : Nat) : (fuel : Nat) → State → State
  | 0, s => s
  | f + 1, s =>
    let ws := portWaits s d
    match (pathPick s d 0 (ws.map (portCharge d))).bind fun i => ws[i]? with
    | none => s
    | some r =>
      let t := setReq s r { r with grant := nextGrant s }
      if queuesHold t d then grantAll d f (pathServe t d 0 (portCharge d r)) else s

/-! ### The channel's scheduler (R207 to R209) -/

def schedOf (s : State) (d ch : Nat) : ChanSched := getD ⟨0, false, 0⟩ s.scheds (16 * d + ch)
def setSched (s : State) (d ch : Nat) (c : ChanSched) : State := { s with scheds := setD ⟨0, false, 0⟩ s.scheds (16 * d + ch) c }

/-- The head request of each bank queue. -/
def bankHeads (xs : List (Req × Nat)) : List (Req × Nat) :=
  (List.range 16).filterMap fun b => xs.find? fun x => lineBank x == b

/-- Is the line's row open in its bank? -/
def rowIsOpen (s : State) (l : Nat) : Bool := getD 0 s.openRows (bankKey (64 * l)) == dramRow (rawOff (64 * l)) + 1

/-- The column commands of the highest rank: those in the direction of the last burst, and the others where there is
none or one waits after 16 bursts. -/
def columnRank (c : ChanSched) (xs : List (Req × Nat)) : List (Req × Nat) :=
  let same := xs.filter fun x => x.1.write == c.dir
  let other := xs.filter fun x => !(x.1.write == c.dir)
  if same.isEmpty || (decide (16 ≤ c.run) && !other.isEmpty) then other else same

/-- Without a row open for any head, the scan from P: the first waiting bank's row opens, and P advances. -/
def activate (s : State) (d ch : Nat) (xs : List (Req × Nat)) : State :=
  let c := schedOf s d ch
  match firstFrom 16 c.ptr fun b => xs.any fun x => lineBank x == b with
  | none => s
  | some b =>
    match xs.find? fun x => lineBank x == b with
    | some x => setSched (openRow s (64 * x.2)) d ch { c with ptr := (c.ptr + 1) % 16 }
    | none => s

/-- The line whose burst the channel issues next, with the row command it takes before. -/
def schedule (s : State) (d ch : Nat) : Option (Req × Nat) × State :=
  let heads := bankHeads (chLines s d ch)
  let s := if heads.any fun x => rowIsOpen s x.2 then s else activate s d ch heads
  match columnRank (schedOf s d ch) (heads.filter fun x => rowIsOpen s x.2) with
  | [] => (none, s)
  | [x] => (some x, s)
  | xs => (xs[Config.schedPick s.fresh % xs.length]?, { s with fresh := s.fresh + 1 })

/-- A burst has been issued: its direction counts, and it carries auto-precharge when the next request in its bank's
queue is for another row. -/
def burstDone (s : State) (d ch : Nat) (write : Bool) (l : Nat) : State :=
  let c := schedOf s d ch
  let s := setSched s d ch { c with dir := write, run := if c.dir = write then c.run + 1 else 1 }
  match (chLines s d ch).find? fun x => lineBank x == dramBank (rawOff (64 * l)) with
  | some x => if rowIsOpen s x.2 then s else closeBank s (bankKey (64 * l))
  | none => s

/-! ### Lines served (R204, R205, R215) -/

/-- The bytes of a request's range that line `l` holds: address and length. -/
def lineSpan (s : State) (r : Req) (l : Nat) : Nat × Nat :=
  let a := physOf s r.addr
  let lo := max a (64 * l)
  (lo, min (a + r.len) (64 * l + 64) - lo)

/-- Does the cache hold a good copy of a line for a requester of the IOD network? -/
def scServes (s : State) (ini l : Nat) : Bool :=
  (scGroup ini).isSome && scOn s && (match scFind s l with | some x => !(x.mark == 2) | none => false)

/-- A read's line at the memory controller: one the cache took meanwhile needs no burst; a good line is allocated. A
parity error in the queue poisons the response and is counted and logged as an address error (R215). -/
def portLine (s : State) (r : Req) (l : Nat) (parity : Bool) : Bool × State :=
  if scServes s r.ini l then (false, s)
  else
    let x := dramLineRead s l (reqWho r)
    let x := if parity && !x.1 then (true, dramError x.2 (64 * l) 3 (reqWho r)) else x
    (x.1, if x.1 || !scOn s then x.2 else scFill x.2 l r.ini)

/-- A line of a read is served; the last one answers the request. -/
def readLine (s : State) (r : Req) (l : Nat) (parity : Bool) : State :=
  let x := portLine s r l parity
  let p := lineSpan s r l
  let old := if r.data.isEmpty then leBytes r.len 0 else r.data
  let r' := { r with todo := r.todo.erase l, bad := r.bad || x.1, data := overlay old (physOf s r.addr) (s.mrd p.1 p.2) p.1 }
  let t := setReq x.2 r r'
  if r'.todo.isEmpty then (if r'.bad then answer t r' .poison 0 [] else answer t r' .data 0 r'.data) else t

/-- The bytes and check bytes of one line of a write. -/
def lineBytes (s : State) (r : Req) (l : Nat) : State :=
  let p := lineSpan s r l
  (dramLineWrite s l (decide (p.2 = 64)) (reqWho r)).mwr p.1 ((r.data.drop (p.1 - physOf s r.addr)).take p.2)

/-- Every line of a write that its memory port has still to serve. -/
def portWrite (s : State) (r : Req) : State := r.todo.foldl (fun t l => lineBytes t r l) s

/-- A line of a write is served. The last one completes the write, unless its sector is in the directory and it did not
come through the IOD: then an invalidate goes to the system cache first (R196). -/
def writeLine (s : State) (r : Req) (l : Nat) : State :=
  let r' := { r with todo := r.todo.erase l }
  let t := setReq (lineBytes s r l) r r'
  if !r'.todo.isEmpty then t
  else if (scGroup r.ini).isNone && (reqLines s r).any fun x => s.scSects.contains (x / 64) then restage t r' .inv
  else answer t r' .ack 0 []

/-- The channel serves the line its scheduler picks, if that is a read. -/
def execDramRead (b : ReadBurst) (s : State) : Host.Outcome State Fault Refusal :=
  let x := schedule (grantAll b.d s.reqs.length s) b.d b.ch
  .next (match x.1 with
    | some (r, l) => if r.write then s else burstDone (readLine x.2 r l b.parity) b.d b.ch false l
    | none => s)

/-- The channel serves the line its scheduler picks, if that is a write. -/
def execDramWrite (c : MemChannel) (s : State) : Host.Outcome State Fault Refusal :=
  let x := schedule (grantAll c.d s.reqs.length s) c.d c.ch
  .next (match x.1 with
    | some (r, l) => if r.write then burstDone (writeLine x.2 r l) c.d c.ch true l else s
    | none => s)

/-! ### Invalidates (R196, R234) -/

/-- INV or INVACK, one for each line of a write: only the type differs. -/
def invMsgs (s : State) (mtype : Nat) (r : Req) : Nat × List Byte :=
  packed ((reqLines s r).map fun l =>
    msgBytes ⟨mtype, 0, r.cls, false, r.urg, r.ini, r.ctx, r.cgen, r.txid⟩
      (if mtype = 4 then [64 * l % 2 ^ 48 + r.dgen % 2 ^ 8 * 2 ^ 48] else []) [])

/-- The invalidate crosses to the IOD, charged 32 bytes (R353), and drops the line there. -/
def execInv (s : State) : Host.Outcome State Fault Refusal :=
  .next (match firstReq s .inv none with
    | none => s
    | some r =>
      let es := [5 * reqDie s r + 4]
      let m := invMsgs s 4 r
      if !canPass s es 0 m.1 then s
      else
        let s := passAll (chargeAll s es ⟨dcIni (reqDie s r), r.cls, false, 32⟩) es 0 m
        restage (scDrop s fun l => (reqLines s r).contains l) r .ack)

/-- The acknowledgement crosses back and lets the port of die `d` complete the write. -/
def execInvack (d : Nat) (s : State) : Host.Outcome State Fault Refusal :=
  .next (match firstReq s .ack (some d) with
    | none => s
    | some r =>
      let m := invMsgs s 9 r
      if !canPass s [20 + d] 1 m.1 then s else answer (passAll s [20 + d] 1 m) r .ack 0 [])

/-! ### Rows and patrol (R209, R218) -/

/-- Does a line wait for the bank? -/
def bankWaits (s : State) (d ch bank : Nat) : Bool := (chLines s d ch).any fun x => lineBank x == bank

/-- A row whose queue is empty closes. -/
def execRowIdleClose (d ch bank : Nat) (s : State) : Host.Outcome State Fault Refusal :=
  .next (if bankWaits s d ch bank then s else closeBank s (256 * d + 16 * ch + bank))

/-- Lines of the data groups that one channel holds. -/
def patrolLines (s : State) (d : Nat) : Nat := (usableEnd s d - d * 0x800000000) / 1024

/-- The line at place `p` of a channel's sweep, in address order. -/
def patrolLine (d ch p : Nat) : Nat := (d * 0x800000000 + p / 4 * 4096 + ch * 256 + p % 4 * 64) / 64

def refCnt (s : State) (d ch : Nat) : Nat := s.fg (memBase d + 0x100 * ch) Fld.MEM_CH_REFCNT_COUNT

/-- The patrol of a channel reads its next line and rewrites what it corrects. -/
def patrolRead (s : State) (d ch : Nat) : State :=
  let i := 16 * d + ch
  let p := getD 0 s.patrolPos i
  let l := patrolLine d ch p
  let mend := eccOn s d && getD 0 s.dram l == 1
  let s := (dramLineRead s l ⟨0, 0, true⟩).2
  let s := if mend then { chCount s (64 * l) Fld.MEM_CH_WRCNT_COUNT with dram := setD 0 s.dram l 0 } else s
  { s with patrolPos := setD 0 s.patrolPos i ((p + 1) % max 1 (patrolLines s d)),
           patrolRef := setD 0 s.patrolRef i (refCnt s d ch) }

def execPatrolRead (d ch : Nat) (s : State) : Host.Outcome State Fault Refusal :=
  let gap := max 1 (s.fg (memBase d) Fld.MEM_PATROL_INTERVAL)
  let since := (2 ^ 32 + refCnt s d ch - getD 0 s.patrolRef (16 * d + ch)) % 2 ^ 32
  .next (if s.fb (memBase d) Fld.MEM_DIE_CTL_PATROL_EN && s.fb (memBase d) Fld.MEM_DIE_STS_INIT_DONE && decide (gap ≤ since) then
      patrolRead s d ch else s)

/-! ### Training and initialisation (R219, R220) -/

/-- A write of MEM_DIE_CTL: ECC_EN is ignored once INIT_DONE is 1; INIT starts the training. -/
def memCtlWrite (s : State) (d v : Nat) (spec : Option (RegSpec × Nat × Nat)) : State :=
  let b := memBase d
  let done := s.fb b Fld.MEM_DIE_STS_INIT_DONE
  let v' := if done then setBits v 0 0 (s.fg b Fld.MEM_DIE_CTL_ECC_EN) else v
  let s := regStore s (b + Reg.MEM_DIE_CTL) v' spec
  if bit v 1 && !done && !(s.training.any fun x => x.1 == d) then
    { s with training := s.training ++ [(d, s.fb b Fld.MEM_DIE_CTL_ECC_EN)] } else s

/-- One channel's result: its status and trained values, which the spec gives no value. -/
def channelTrained (d fail : Nat) (s : State) (c : Nat) : State :=
  let b := memBase d + 0x100 * c
  if bit fail c then s.fs b Fld.MEM_CH_STS_FAIL 1
  else
    let f := s.free
    (f.2.wr (b + Reg.MEM_CH_TRN) f.1.toNat).fs b Fld.MEM_CH_STS_TRAINED 1

/-- Training of die `d` ends; `fail` names the channels that failed a step, `ecc` is ECC_EN as it was at INIT. -/
def memTrained (s : State) (d fail : Nat) (ecc : Bool) : State :=
  let b := memBase d
  let lo := d * 0x800000000
  let s := (List.range 16).foldl (channelTrained d fail) { s with training := s.training.filter fun x => !(x.1 == d) }
  if fail % 65536 = 0 then
    let s := { s with dram := kdrop (fun l => decide (lo ≤ 64 * l) && decide (64 * l < lo + 0x800000000)) s.dram }
    let s := if ecc then s.mzero lo 0x800000000 else s
    let s := setCapacity s d 0 (if ecc then 124800 else 218400)
    ((s.fs b Fld.MEM_DIE_STS_ECC_ACTIVE (b2n ecc)).fs b Fld.MEM_DIE_STS_TRAINED 1).fs b Fld.MEM_DIE_STS_INIT_DONE 1
  else
    ((s.fs b Fld.MEM_DIE_STS_CH_FAIL fail).fs b Fld.MEM_DIE_ERR_TRAIN_FAIL 1).emit "DIE_FAILED" d []

def execMemInitDone (d fail : Nat) (s : State) : Host.Outcome State Fault Refusal :=
  .next (match s.training.find? fun x => x.1 == d with
    | some x => memTrained s d fail x.2
    | none => s)

/-! ### Register writes (R223 to R225) -/

/-- REF2X and REF4X of a channel, by REF_FORCE2X and the rate its last MR4 field calls for; before the first MR4 read, at
the eighth window, it runs at the base rate (R211, R214). -/
def syncRefresh (s : State) (b : Nat) : State :=
  let r := if s.fg b Fld.MEM_CH_REFCNT_COUNT < 8 then 1 else Config.mr4Rate (s.fg b Fld.MEM_CH_STS_MR4_RATE)
  (s.fs b Fld.MEM_CH_STS_REF4X (b2n (decide (4 ≤ r)))).fs b Fld.MEM_CH_STS_REF2X
    (b2n ((decide (2 ≤ r) || s.fb b Fld.MEM_CH_CTL_REF_FORCE2X) && decide (r < 4)))

/-- A write of a die's MEM_ block that its port has admitted. -/
def memRegWrite (s : State) (d off v : Nat) (spec : Option (RegSpec × Nat × Nat)) : State :=
  let b := memBase d
  if off = Reg.MEM_DIE_CTL then memCtlWrite s d v spec
  else if 0x1000 ≤ off ∧ off < 0x2000 ∧ off % 0x100 = 0 then
    syncRefresh (regStore s (b + off) v spec) (b + 0x100 * ((off - 0x1000) / 0x100))
  else if off = Reg.MEM_ELOG_CLR then
    (if bit v 0 then (s.fs b Fld.MEM_ELOG_STS_COUNT 0).fs b Fld.MEM_ELOG_STS_OVF 0 else s)
  else regStore s (b + off) v spec

/-- A write of MEM_IL_CTL (R29, R225): SYNC falls until every translator holds the new fields. -/
def ilWrite (s : State) (v : Nat) : State :=
  let b := memIBase
  let old := s.rd (b + Reg.MEM_IL_CTL)
  let sg := bits v 6 1
  let bg := bits v 12 8
  let keep := sg + 128 * bg = bits old 6 1 + 128 * bits old 12 8
  if bit old 0 ∧ !keep then s.fs b Fld.MEM_IL_STS_CFG_ERR 1
  else
    let bad := bit v 0 && !ilValid s sg bg
    let s := (s.wr (b + Reg.MEM_IL_CTL) (b2n (bit v 0 && !bad) + 2 * sg + 2 ^ 8 * bg)).fs b Fld.MEM_IL_STS_SYNC 0
    if bad then s.fs b Fld.MEM_IL_STS_CFG_ERR 1 else s

/-- A write of MEM_SC_CTL: INV, or EN falling, invalidates every line. -/
def scCtlWrite (s : State) (v : Nat) : State :=
  let s := s.fs memIBase Fld.MEM_SC_CTL_EN (bits v 0 0)
  if bit v 1 || !bit v 0 then { s with sc := [], scSects := [] }.fs memIBase Fld.MEM_SC_CTL_INV_BUSY 1 else s

/-- A write of the IOD MEM_ block that its port has admitted. -/
def memIRegWrite (s : State) (off v : Nat) (spec : Option (RegSpec × Nat × Nat)) : State :=
  if off = Reg.MEM_IL_CTL then ilWrite s v
  else if off = Reg.MEM_SC_CTL then scCtlWrite s v
  else regStore s (memIBase + off) v spec

/-- A write of MEM_DIE_CTL.INIT, its other fields kept. -/
def execMemInit (ini d : Nat) (s : State) : Host.Outcome State Fault Refusal :=
  let a := memBase d + Reg.MEM_DIE_CTL
  .next (viaPort s ini a fun t spec => memRegWrite t d Reg.MEM_DIE_CTL (setBits (t.rd a) 1 1 1) spec)

def execElogClear (ini d : Nat) (s : State) : Host.Outcome State Fault Refusal :=
  .next (viaPort s ini (memBase d + Reg.MEM_ELOG_CLR) fun t spec => memRegWrite t d Reg.MEM_ELOG_CLR 1 spec)

def execIlWindowWrite (ini : Nat) (v : Word) (s : State) : Host.Outcome State Fault Refusal :=
  .next (viaPort s ini (memIBase + Reg.MEM_IL_CTL) fun t spec => memIRegWrite t Reg.MEM_IL_CTL v.toNat spec)

/-- Every translator holds the fields of MEM_IL_CTL. -/
def execIlSync (s : State) : Host.Outcome State Fault Refusal := .next (s.fs memIBase Fld.MEM_IL_STS_SYNC 1)

def execScInvalidateAll (ini : Nat) (v : Word) (s : State) : Host.Outcome State Fault Refusal :=
  .next (viaPort s ini (memIBase + Reg.MEM_SC_CTL) fun t spec => memIRegWrite t Reg.MEM_SC_CTL v.toNat spec)

def execScInvalidateDone (s : State) : Host.Outcome State Fault Refusal :=
  .next (s.fs memIBase Fld.MEM_SC_CTL_INV_BUSY 0)

end Sys2Proof.Machine
end

