-- ==== Sys2Proof/Machine/Link.lean ====
section
/-!
DEFINITION. Machine/Link.lean: die links, host-port modules and span links: training and width, flits with CRC and
go-back-N retry, credits and their ledger, routes over the ring, span training and discovery (R226 to R260, R343).
-/
namespace Sys2Proof.Machine

open Sys2Proof

/-! ### Capacity and routes (R241, R242, R354, R355) -/

def moduleCap (s : State) (e : Nat) : Nat :=
  match s.fg (portBase e) Fld.DDL_STS_STATE with | 2 => 192000 | 3 => 96000 | _ => 0

/-- Capacity of a span port's links. -/
def spanCap (s : State) (p : Nat) : Nat :=
  sumN ([2 * p, 2 * p + 1].map fun x =>
    if s.fg (subBase x) Fld.SPN_S_STS_STATE = 2 then
      (match s.fg (subBase x) Fld.SPN_S_STS_WIDTH with | 4 => 34200 | 2 => 17100 | 1 => 8550 | _ => 0)
    else 0)

/-- The regulated path an end feeds, with its capacity now. -/
def endPath (s : State) (e : Nat) : Option (Nat × Nat × Nat) :=
  if e < 20 then
    (if e % 5 = 4 then some (e / 5, 10, moduleCap s e)
     else some (e / 5, 9, sumN ((List.range 4).map fun p => moduleCap s (e / 5 * 5 + p))))
  else if e < 24 then some (4, e - 20, moduleCap s e)
  else if e = 24 then none
  else if e = 25 then some (5, 0, moduleCap s e)
  else if e < 30 then none
  else some (4, 4 + (e - 30) / 2, spanCap s ((e - 30) / 2))

/-- The regulator follows a change of an end. -/
def syncCap (s : State) (e : Nat) : State :=
  match endPath s e with
  | some (d, p, c) => if pathCap s d p = c then s else setCapacity s d p c
  | none => s

/-- Is a request of die `d` to the die diagonal to it under way on its route? -/
def diagonalOpen (s : State) (d : Nat) : Bool :=
  (s.reqs.any fun r => iniDie r.ini == d && !(r.stage == .port) && spaceDie s r.addr == (d + 2) % 4 && decide (d < 4))
    || s.resps.any fun r => iniDie r.ini == d && r.path.length == 2 && r.path.all fun e => decide (e < 20 ∧ e % 5 < 4)

/-- A route through a die that has become unavailable changes to the other one, if that is available; new requests to
the diagonal die wait until those on the old route have completed (R242). -/
def divert (s : State) (d : Nat) : State :=
  (List.range 2).foldl (fun t i =>
    let v := curVia t d i
    if !routeUp t d v && routeUp t d ((v + 2) % 4) then
      let t := { t with routes := aput t.routes (2 * d + i) ((v + 2) % 4) }
      if diagonalOpen t d then t.fs (ddlBase d) Fld.DDL_ROUTE_CHG_BUSY 1 else t
    else t) s

/-- AVAIL1 and AVAIL3 of every fitted compute die, and the routes they move. -/
def syncRoutes (s : State) : State :=
  (List.range s.part.dies).foldl (fun t d => divert
    ((t.fs (ddlBase d) Fld.DDL_ROUTE_AVAIL1 (b2n (routeUp t d ((d + 1) % 4)))).fs (ddlBase d)
      Fld.DDL_ROUTE_AVAIL3 (b2n (routeUp t d ((d + 3) % 4)))) d) s

/-- Both ends of a link take a state. -/
def setLinkState (s : State) (e st hi : Nat) : State :=
  let one := fun (t : State) (x : Nat) =>
    syncCap ((t.fs (portBase x) Fld.DDL_STS_STATE st).fs (portBase x) Fld.DDL_STS_HALF_HI hi) x
  let s := one s e
  syncRoutes (match farEnd s e with | some f => one s f | none => s)

/-! ### Lanes, repair and width (R227 to R229) -/

def goodSpares (m : Nat) : List Nat := (List.range 4).filter fun i => !bit m (64 + i)
def needLanes (m lo n : Nat) : List Nat := (rangeFrom lo n).filter fun l => bit m l
/-- Can the spares make these lanes whole? -/
def wholeDir (m lo n : Nat) : Bool := decide ((needLanes m lo n).length ≤ (goodSpares m).length)

/-- State, half and lanes in use for the failed lanes of both directions. -/
def chooseWidth (a b : Nat) : Nat × Nat × Nat × Nat :=
  if wholeDir a 0 64 && wholeDir b 0 64 then (2, 0, 0, 64)
  else if wholeDir a 0 32 && wholeDir b 0 32 then (3, 0, 0, 32)
  else if wholeDir a 32 32 && wholeDir b 32 32 then (3, 1, 32, 32)
  else (0, 0, 0, 0)

/-- Spares with the lanes they replace, in ascending lane order. -/
def repairs (m lo n : Nat) : List (Nat × Nat) := (goodSpares m).zip (needLanes m lo n)

def repairWord (rs : List (Nat × Nat)) : Nat := sumN (rs.map fun r => (r.2 + 128) * 2 ^ (8 * r.1))

/-- The lanes that are failed in the direction into an end: OTP's at either end, and the test's. -/
def failedInto (s : State) (e test : Nat) : Nat :=
  let far := match farEnd s e with | some f => getD 0 s.laneOtp (2 * f + 1) | none => 0
  Nat.lor test (Nat.lor (getD 0 s.laneOtp (2 * e)) far)

def failedFrom (s : State) (e test : Nat) : Nat :=
  let far := match farEnd s e with | some f => getD 0 s.laneOtp (2 * f) | none => 0
  Nat.lor test (Nat.lor (getD 0 s.laneOtp (2 * e + 1)) far)

/-- An end right after link up: SEQ 0, every credit of the other end's buffers, the repairs of its receive direction. What
it held for a mate's credits goes out first. -/
def openEnd (s : State) (e repair : Nat) : State :=
  let old := (linkEnd s e).unacked
  let s := ledgerRebase (setEnd s e { LinkEnd.down with creds := bufSizes e, repair := repair }) (endDie e) 0 e
  old.foldl (fun t f => sendOne t e f.vc f.units f.payload) s

/-- One end's registers after training. -/
def trainRegs (s : State) (e rx tx lo n : Nat) : State :=
  let b := portBase e
  let rr := repairs rx lo n
  let tr := repairs tx lo n
  let s := (s.wr (b + Reg.DDL_REPAIR_RX) (repairWord rr)).wr (b + Reg.DDL_REPAIR_TX) (repairWord tr)
  let s := ((s.wr (b + Reg.DDL_LANE_FAIL) rx).wr (b + Reg.DDL_LANE_FAIL + 4) (rx / 2 ^ 32)).wr (b + Reg.DDL_LANE_FAIL + 8) (rx / 2 ^ 64 % 16)
  (s.fs b Fld.DDL_STS_SPARES_RX rr.length).fs b Fld.DDL_STS_SPARES_TX tr.length

/-- Is the link free to train: both ends enabled, their dies out of reset? -/
def mayTrain (s : State) (e : Nat) : Bool :=
  let ok := fun x => s.fb (portBase x) Fld.DDL_CTL_EN && !dieHeld s (endDie x)
  ok e && (match farEnd s e with | some f => ok f | none => false)

/-- The PHY reset of both ends is released: the module trains. -/
def execLinkTraining (e : Nat) (s : State) : Host.Outcome State Fault Refusal :=
  .next (if decide (e < 26) && endFitted s e && mayTrain s e && s.fg (portBase e) Fld.DDL_STS_STATE == 0 then setLinkState s e 1 0 else s)

/-- The IOD module of a die that a reset has released does not come up: the die stays isolated (R500). -/
def stayIsolated (s : State) (d : Nat) : State :=
  let a := rstIBase + Reg.RST_DIE_STS
  if getD 0 s.dieRst d = 3 then { s.wr a (setBits (s.rd a) (8 + d) (8 + d) 1) with dieRst := aput s.dieRst d 4 } else s

/-- The die whose IOD (or Porch) module an end belongs to. -/
def iodDie (e : Nat) : Option Nat :=
  if e < 20 then (if e % 5 = 4 then some (e / 5) else none) else if e < 24 then some (e - 20) else if e < 26 then some 5 else none

/-- Training ends; `rx` and `tx` are the lanes that failed the test in the direction into the end and from it. -/
def linkTrained (s : State) (e f rx tx : Nat) : State :=
  let a := failedInto s e rx
  let b := failedFrom s e tx
  let w := chooseWidth a b
  let s := trainRegs (trainRegs s e a b w.2.2.1 w.2.2.2) f b a w.2.2.1 w.2.2.2
  let s := setLinkState s e w.1 w.2.1
  if w.1 = 0 then (match iodDie e with | some d => stayIsolated s d | none => s) else
    openEnd (openEnd s e (repairWord (repairs a w.2.2.1 w.2.2.2))) f (repairWord (repairs b w.2.2.1 w.2.2.2))

/-! ### Receiving (R234 to R238) -/

/-- What the receiver latches: occupied, owed and returned units. -/
def rxTerms (l : LinkEnd) : List Nat := mod32 (addLists (addLists l.used l.owed) l.gave)

/-- A message out of a receive buffer: channel, units and bytes. -/
structure RxMsg where
  vc : Option Nat
  units : Nat
  bytes : List Byte
  deriving DecidableEq, Repr

/-- The words of fill at the head of a buffer: on a span link a zero word is fill when a zero word or the end of the
payload follows it (assumption 77). -/
def isFill (k : LinkKind) (b : List Byte) : Bool := k == .span && leAt b 0 8 == 0 && leAt b 8 8 == 0

/-- The whole messages at the head of a buffer, and the bytes left of one that goes on in the next flit; none where a
message is malformed (R235). -/
def takeMsgs (k : LinkKind) : (fuel : Nat) → List Byte → List RxMsg → Option (List RxMsg × List Byte)
  | 0, b, acc => some (acc, b)
  | f + 1, b, acc =>
    if b.isEmpty then some (acc, [])
    else if isFill k b then takeMsgs k f (b.drop 8) acc
    else
      let sw := if k = .span then 8 else 0
      if b.length < sw + 8 then some (acc, b)
      else match msgInfo k (leAt b sw 8) with
        | none => none
        | some (vc, len) =>
          if b.length < sw + len then some (acc, b)
          else takeMsgs k f (b.drop (sw + len)) (acc ++ [⟨vc, cdiv (sw + len) 16, b.take (sw + len)⟩])

/-- Channel and units of the message that goes on, where its common word has come. -/
def restInfo (k : LinkKind) (b : List Byte) : Option (Nat × Nat) :=
  let sw := if k = .span then 8 else 0
  if b.length < sw + 8 then none
  else match msgInfo k (leAt b sw 8) with
    | some (some vc, len) => some (vc, cdiv (sw + len) 16)
    | _ => none

/-- A flit's payload at the receiver: whole messages are freed at once, one that goes on occupies its units until it
ends. -/
def parsePayload (k : LinkKind) (b : List Byte) (l : LinkEnd) : Option (List RxMsg × LinkEnd) :=
  match takeMsgs k 64 (l.recv ++ b) [] with
  | none => none
  | some (ms, rest) =>
    let free := fun (x : List Nat) (m : RxMsg) => match m.vc with | some v => addAt x v m.units | none => x
    let l := if ms.isEmpty then l else { l with used := subAt l.used l.leftVc l.leftUnits, leftUnits := 0 }
    let l := { l with owed := ms.foldl free l.owed, recv := rest }
    match restInfo k rest with
    | some (v, u) => if l.leftUnits = 0 then some (ms, { l with used := addAt l.used v u, leftVc := v, leftUnits := u }) else some (ms, l)
    | none => some (ms, l)

/-- A flit fails its CRC, or is treated so: the error, its count. -/
def crcError (s : State) (e : Nat) : State :=
  match linkKind e with
  | .die => (s.fs (portBase e) Fld.DDL_ERR_CRC 1).faddSat (portBase e) Fld.DDL_CRC_CNT_COUNT 1
  | .host => s.faddSat (hostBase (e - 26)) Fld.HP_MOD_CRC_COUNT 1
  | .span => s.fs (subBase (e - 30)) Fld.SPN_S_ERR_CRC 1

/-- A malformed message. -/
def protoError (s : State) (e : Nat) : State :=
  match linkKind e with
  | .die => s.fs (portBase e) Fld.DDL_ERR_PROTO 1
  | .host => s.fs hpBase Fld.HP_ERR_PROTO 1
  | .span => s

/-- A flit without messages leaves: FTYPE 1 acknowledges and returns credits, FTYPE 2 is a NAK; either carries the last
good SEQ, and the next SEQ in its own place (assumption 77). -/
def sendControl (s : State) (e ftype : Nat) : State :=
  let g := giveBack (holdsVc0 s e) (linkEnd s e)
  (setEnd s e g.2).emit "FLIT" e ((flitBytes { g.2 with heard := true } ftype g.2.txSeq g.1 [] false).map (·.toNat))

/-- One NAK with the last good SEQ; until the replay arrives no other. -/
def sendNak (s : State) (e : Nat) : State :=
  let l := linkEnd s e
  if l.nakSent then s else sendControl (setEnd s e { l with nakSent := true }) e 2

/-- Flits up to an acknowledged SEQ leave the replay buffer. -/
def ackUpTo (now : Nat) (l : LinkEnd) (seq : Nat) : LinkEnd :=
  if l.unacked.any fun f => f.seq == seq then
    { l with unacked := ((l.unacked.dropWhile fun f => !(f.seq == seq)).drop 1), since := now }
  else l

/-- A good flit's acknowledgement and credits. -/
def flitControl (s : State) (e : Nat) (b : List Byte) : State :=
  let l := linkEnd s e
  let l := if bit (byteAt b 3) 4 then ackUpTo s.nowUs l (leAt b 2 2 % 4096) else l
  let g := (List.range 4).map fun v => byteAt b (4 + v)
  setEnd s e { l with creds := addLists l.creds g, got := mod32 (addLists l.got g) }

/-- A flit that cannot be used. -/
def flitBad (s : State) (e : Nat) : State := sendNak (crcError s e) e

/-- The in-package sender's record of this SEQ was corrupted by an injection; its replay is good. -/
def injected (s : State) (e seq : Nat) : Bool × State :=
  match farEnd s e with
  | none => (false, s)
  | some f =>
    let l := linkEnd s f
    if l.unacked.any fun r => r.seq == seq && r.bad then
      let l := { l with unacked := l.unacked.map fun r => if r.seq = seq then { r with bad := false } else r }
      (true, { s with links := setD LinkEnd.down s.links f l })
    else (false, s)

/-- After credits arrive on an end, its down mates' messages go on; those of the host port on the lowest module that is
up (R265). -/
def takeMate (s : State) (e : Nat) : State :=
  if 26 ≤ e ∧ (rangeFrom 26 (e - 26)).any (linkUp s) then s
  else (mates e).foldl (fun t m => if linkUp t m then t else reissue m e 128 t) s

/-- Accepted flits after which an acknowledgement is sent (R238). -/
def ackEvery (e : Nat) : Nat := match linkKind e with | .span => 64 | _ => 16

/-- The receiver takes note of the lanes that its error monitors name in a CRC failure, for 100 µs (R230). -/
def nameLanes (s : State) (e : Nat) (lanes : List Nat) : State :=
  let l := linkEnd s e
  setEnd s e { l with laneErrs := (l.laneErrs.filter fun x => decide (s.nowUs < x.2 + 100)) ++ lanes.map fun n => (n, s.nowUs) }

/-- Corrected symbols and an uncorrectable codeword of a span link (R246, R255). -/
def fecCount (s : State) (e ce : Nat) (unc : Bool) : State :=
  if e < 30 then s
  else
    let b := subBase (e - 30)
    let s := s.faddSat b Fld.SPN_S_FEC_CE_VALUE ce
    if unc then s.fs b Fld.SPN_S_ERR_FEC_UNCORR 1 else s

/-- An accepted payload flit: its messages leave the receive buffer, decoded as they stand; an acknowledgement is forced
after so many. -/
def flitAccept (s : State) (e : Nat) (b : List Byte) (ms : List RxMsg) (p : LinkEnd) (old : LinkEnd) (seq : Nat) : State :=
  let p := if seq = 0 then { p with rxLatch := rxTerms old } else p
  let s := setEnd s e { p with rxSeq := (old.rxSeq + 1) % 4096, ackDue := old.ackDue + 1, nakSent := false, heard := true }
  let s := ms.foldl (fun (t : State) m => if m.vc.isNone then t else t.emit "MESSAGE" e (m.bytes.map (·.toNat))) s
  let s := takeMate (flitControl s e b) e
  if ackEvery e ≤ (linkEnd s e).ackDue then sendControl s e 1 else s

/-- A flit of 256 bytes arrives at an end; `lanes` are those the error monitors name if it fails, `ce` the symbols FEC
has corrected, `unc` whether its codeword is uncorrectable. -/
def flitReceive (s : State) (e : Nat) (b : List Byte) (lanes : List Nat) (ce : Nat) (unc : Bool) : State :=
  let seq := leAt b 0 2 % 4096
  let ft := bits (byteAt b 1) 7 4
  let s := fecCount s e ce unc
  let j := if ft = 0 then injected s e seq else (false, s)
  let s := j.2
  let load := (b.drop 8).take 240
  if j.1 || unc || !(crc64 (b.take 248) == leAt b 248 8) then flitBad (nameLanes s e lanes) e
  else match ft with
    | 0 =>
      let l := linkEnd s e
      if seq ≠ l.rxSeq then sendNak s e
      else match parsePayload (linkKind e) load l with
        | none => flitBad (protoError s e) e
        | some (ms, p) => flitAccept s e b ms p l seq
    | 1 | 2 =>
      if load.all fun x => x == 0 then takeMate (flitControl s e b) e else flitBad (protoError s e) e
    | _ => flitBad (protoError s e) e

/-- Replays are counted. -/
def replayCount (s : State) (e : Nat) : State :=
  match linkKind e with
  | .die => s.faddSat (portBase e) Fld.DDL_RETRY_CNT_COUNT 1
  | .host => s.faddSat (hostBase (e - 26)) Fld.HP_MOD_RETRY_COUNT 1
  | .span => s.faddSat (subBase (e - 30)) Fld.SPN_S_RETRY_CNT_VALUE 1

/-- Every flit not yet acknowledged is sent again, in order; no credits are consumed. -/
def replay (s : State) (e : Nat) : State :=
  let l := linkEnd s e
  if l.unacked.isEmpty then s
  else
    let l' := { l with unacked := l.unacked.map fun f => { f with bad := false }, since := s.nowUs,
                       retries := (l.retries.filter fun t => decide (s.nowUs < t + 1000)) ++ [s.nowUs] }
    l.unacked.foldl (fun (t : State) f => t.emit "FLIT" e ((flitBytes l 0 f.seq [0, 0, 0, 0] f.payload false).map (·.toNat)))
      (replayCount (setEnd s e l') e)

def execNakReceive (e seq : Nat) (s : State) : Host.Outcome State Fault Refusal :=
  .next (if linkUp s e then replay (setEnd s e (ackUpTo s.nowUs (linkEnd s e) seq)) e else s)

/-- Microseconds without an acknowledgement's advance after which the transmitter replays (R238). -/
def replayAfter (e : Nat) : Nat := match linkKind e with | .span => 10 | _ => 1

def execReplayTimeout (e : Nat) (s : State) : Host.Outcome State Fault Refusal :=
  let l := linkEnd s e
  .next (if linkUp s e && !l.unacked.isEmpty && decide (l.since + replayAfter e ≤ s.nowUs) then
      replay (if e < 26 then s.fs (portBase e) Fld.DDL_ERR_REPLAY_TO 1 else s) e else s)

/-- A cumulative acknowledgement and the units owed leave in a flit of FTYPE 1. -/
def execAckSend (e : Nat) (s : State) : Host.Outcome State Fault Refusal :=
  .next (if linkUp s e then sendControl s e 1 else s)

/-! ### Ledger 0 (R342, R343) -/

/-- Compare one direction's latched terms for every channel. -/
def compareTerms (s : State) (e : Nat) (tx rx : List Nat) : State :=
  if tx.isEmpty || rx.isEmpty then s
  else (List.range 4).foldl (fun t v =>
    ledgerCheck t (endDie e) 0 e ((tx.getD v 0 + rx.getD v 0) % 2 ^ 32) ((bufSizes e).getD v 0)) s

/-- The ends of a link exchange the terms they latched; `terms` are the latched values of an end outside the package, its
four receiver sums and then its four transmitter sums. -/
def execLedgerSidebandExchange (e : Nat) (terms : List Nat) (s : State) : Host.Outcome State Fault Refusal :=
  let l := linkEnd s e
  .next (match farEnd s e with
    | some f =>
      let m := linkEnd s f
      let s := compareTerms (compareTerms s e l.txLatch m.rxLatch) f m.txLatch l.rxLatch
      let clear := fun (t : State) (x : Nat) => { t with links := setD LinkEnd.down t.links x { linkEnd t x with txLatch := [], rxLatch := [] } }
      clear (clear s e) f
    | none =>
      let s := compareTerms (compareTerms s e l.txLatch (terms.take 4)) e (terms.drop 4) l.rxLatch
      { s with links := setD LinkEnd.down s.links e { linkEnd s e with txLatch := [], rxLatch := [] } })

/-! ### A link goes down or narrows (R230, R231, R243, R496) -/

/-- The fault of a link event: both end dies, and its notice. -/
def linkFault (s : State) (e : Nat) : State :=
  let s := linkEvent s (endDie e)
  let s := match farEnd s e with | some f => linkEvent s (endDie f) | none => s
  s.notice 0x07 (unitOfDie (endDie e)) 0 0

/-- Does a link that a message passed or has to pass carry nothing any more, on either module of its pair? -/
def pathDead (s : State) (es : List Nat) : Bool := es.any fun e => !linkUp s (liveEnd s e)

/-- What was on its way over a link pair that is down completes with ERRRSP 0x02 (R243): requests under way, those that
wait for a route, responses, and SEM waits at a unit that has no route. -/
def dropUnrouted (s : State) : State :=
  let dead := fun (r : Req) => pathDead s r.path || (r.stage == .port && !routed s (min (iniDie r.ini) 5) (spaceDie s r.addr) r.addr)
  let s := (s.reqs.filter dead).foldl (fun t r => answer t { r with path := [] } .err 2 []) { s with reqs := s.reqs.filter fun r => !dead r }
  let s := { s with resps := s.resps.map fun (r : Resp) => if pathDead s r.path then { r with kind := .err, code := 2, data := [], path := [] } else r }
  let ws := s.waiters.filter fun w => !routed s (w.core / 64) (w.sem / 4096) 0
  ws.foldl (fun t w => syncWaiters
    { t with waiters := t.waiters.erase w, semRsps := t.semRsps ++ [⟨w.sem / 4096, w.core, w.tag, w.gen, w.dgen, semResult 0x13 0⟩] } w.sem) s

/-- A die link's module goes down. Its pair-mate takes its messages; without one the requests end. -/
def linkDown (s : State) (e : Nat) : State :=
  let down := fun (t : State) (x : Nat) =>
    ledgerRebase (setEnd (t.fs (portBase x) Fld.DDL_ERR_DOWN 1) x { LinkEnd.down with unacked := (linkEnd t x).unacked }) (endDie x) 0 x
  let s := setLinkState s e 0 0
  let s := down s e
  let s := match farEnd s e with | some f => down s f | none => s
  let move := fun (t : State) (x : Nat) => match pairMate x with
    | some m => if linkUp t m then reissue x m 128 t else setEnd t x LinkEnd.down
    | none => setEnd t x LinkEnd.down
  let s := move s e
  let s := match farEnd s e with | some f => move s f | none => s
  linkFault (((dropUnrouted s).reportBoth 9 (unitOfDie (endDie e))).toMp 9 (unitOfDie (endDie e))) e

/-- The data lane that lane `l` of the receive direction stands for: none for a spare not in use, and for a lane that a
spare has replaced. -/
def laneFor (s : State) (e l : Nat) : Option Nat :=
  let w := fun i => (linkEnd s e).repair / 2 ^ (8 * i) % 256
  if l < 64 then (if (List.range 4).any fun i => w i == 128 + l then none else some l)
  else if 128 ≤ w (l - 64) then some (w (l - 64) % 128) else none

/-- Failures of one lane in 100 µs beyond which it is hard-failed; the host port, which has no such field, uses its
reset value (assumption 77). -/
def hardThr (s : State) (e : Nat) : Nat := if e < 26 then s.fg (portBase e) Fld.DDL_CTL_HARD_THR else 8

/-- Is the lane named in more CRC failures within 100 µs than the threshold? -/
def laneNamed (s : State) (e l : Nat) : Bool :=
  decide (hardThr s e < ((linkEnd s e).laneErrs.filter fun x => x.1 == l && decide (s.nowUs < x.2 + 100)).length)

/-- A lane of the receive direction hard-fails: does the module go down, and the state after the drop to the half that
does not hold it. -/
def laneFail (s : State) (e l : Nat) : Bool × State :=
  let b := portBase e
  let a := b + Reg.DDL_LANE_FAIL + 4 * (l / 32)
  let s := s.wr a (Nat.lor (s.rd a) (2 ^ (l % 32)))
  let s := setEnd s e { linkEnd s e with hard := true }
  match laneFor s e l with
  | none => (false, s)
  | some d =>
    let hi := b2n (decide (d < 32))
    let st := s.fg b Fld.DDL_STS_STATE
    let hit := fun (t : State) => ((t.fs b Fld.DDL_ERR_LANE_HARD 1).reportBoth 9 (unitOfDie (endDie e))).toMp 9 (unitOfDie (endDie e))
    if st = 2 then (false, linkFault (hit (setLinkState (sendNak s e) e 3 hi)) e)
    else if st = 3 ∧ hi ≠ s.fg b Fld.DDL_STS_HALF_HI then (true, hit s)
    else (false, s)

/-- The same on a host-port module (R257), which has no error bit of its own: does it go down? -/
def hostLaneFail (s : State) (e l : Nat) : Bool × State :=
  let b := hostBase (e - 26)
  match laneFor s e l with
  | none => (false, s)
  | some d =>
    let hi := b2n (decide (d < 32))
    let st := s.fg b Fld.HP_MOD_STS_STATE
    let hit := fun (t : State) => (t.reportBoth 9 (unitOfDie 4)).toMp 9 (unitOfDie 4)
    if st = 2 then (false, hit (((sendNak s e).fs b Fld.HP_MOD_STS_STATE 3).fs b Fld.HP_MOD_STS_HALF_HI hi))
    else if st = 3 ∧ hi ≠ s.fg b Fld.HP_MOD_STS_HALF_HI then (true, hit s)
    else (false, s)

/-- May a module retrain in place: DDL_CTL.RETRAIN was written, or an end counts more retries in 1 ms than RETRY_LIM
and no lane is hard-failed (R239)? -/
def mayRetrain (s : State) (e : Nat) : Bool :=
  let one := fun x =>
    let l := linkEnd s x
    l.retrain || (!l.hard && decide (s.fg (portBase x) Fld.DDL_CTL_RETRY_LIM < (l.retries.filter fun t => decide (s.nowUs < t + 1000)).length))
  one e || (match farEnd s e with | some f => one f | none => false)

/-! ### Routes (R242) -/

/-- A write of a die's DDL_ROUTE: new requests to the diagonal die wait until those on the old route have completed. -/
def routeWrite (s : State) (d v : Nat) : State :=
  let b := ddlBase d
  let old := (List.range 2).map fun i => curVia s d i
  let s := { s with routes := s.routes.filter fun x => !(x.1 / 2 == d) }.fs b Fld.DDL_ROUTE_MODE (v % 4)
  let s := divert s d
  if (List.range 2).map (fun i => curVia s d i) = old then s else s.fs b Fld.DDL_ROUTE_CHG_BUSY (b2n (diagonalOpen s d))

/-- The end of a DDL_ block's port area. -/
def ddlEnd (d off : Nat) : Nat := if d < 4 then 5 * d + (off / 0x1000 - 1) else if d = 4 then 20 + (off / 0x1000 - 1) else 25

/-- A write of a DDL_ block that its port has admitted; ports toward absent dies ignore writes. RETRAIN asks for a
retrain of a module that is up. EN = 0 holds a module down: `ddlWrite` takes it down. -/
def ddlRegWrite (s : State) (d off v : Nat) (spec : Option (RegSpec × Nat × Nat)) : State :=
  if off = Reg.DDL_ROUTE ∧ d < 4 then routeWrite s d v
  else
    let e := ddlEnd d off
    if 0x1000 ≤ off ∧ endFitted s e then
      let s := regStore s (ddlBase d + off) v spec
      if off % 0x1000 = Reg.DDL_CTL % 0x1000 ∧ bit v 1 ∧ linkUp s e then setEnd s e { linkEnd s e with retrain := true } else s
    else s

def execRouteChange (ini d : Nat) (v : Word) (s : State) : Host.Outcome State Fault Refusal :=
  .next (viaPort s ini (ddlBase d + Reg.DDL_ROUTE) fun t spec => ddlRegWrite t d Reg.DDL_ROUTE v.toNat spec)

end Sys2Proof.Machine
end

