-- ==== Sys2Proof/Machine/Domains.lean ====
section
/-!
DEFINITION. Machine/Domains.lean: what a reset or a power-down of a core, a cluster, a die's links takes away: register
words (R512), records, memory contents (R198), generations (R490), and the steps on the unit (R320, R497, R499).
-/
namespace Sys2Proof.Machine

open Sys2Proof

/-! ### Generations (R490) -/

/-- The next value of an 8-bit generation held in byte `i` of the register at `a`. -/
def bumpByte (s : State) (a i : Nat) : State :=
  s.wr a (setBits (s.rd a) (8 * i + 7) (8 * i) (bits (s.rd a) (8 * i + 7) (8 * i) + 1))

def bumpCore (s : State) (k : Nat) : State := bumpByte s (rstBase (k / 64) + Reg.RST_GEN_CO + 4 * (k % 64 / 4)) (k % 4)
def bumpClu (s : State) (c : Nat) : State := bumpByte s (rstBase (c / 8) + Reg.RST_GEN_CL + 4 * (c % 8 / 4)) (c % 4)
def bumpDie (s : State) (d : Nat) : State :=
  if d < 4 then bumpByte s (rstIBase + Reg.RST_DIE_GEN) d else bumpByte s (rstIBase + Reg.RST_PCH_GEN) 0
def bumpPkg (s : State) : State := bumpByte s (rstIBase + Reg.RST_PKG_STS) 1

/-- A cluster's generation and its cores'. -/
def bumpCluster (s : State) (c : Nat) : State := (rangeFrom (8 * c) 8).foldl bumpCore (bumpClu s c)

/-! ### Steps on a unit (R499 step 3, R507, R508) -/

/-- Fence cores and take them out of placement (R507). -/
def fenceCores (s : State) (ks : List Nat) (unit : Nat) : State :=
  let s := ks.foldl (fun t k => t.fs (coreBase k) Fld.CORE_CTL_FENCE 1) s
  ks.foldl (fun t k => coreOut t k unit) s

/-- Steps running, loading, saved or clearing their victims on some of the cores end with UNIT_LOST. -/
def loseSteps (s : State) (ks : List Nat) (unit : Nat) : State :=
  (steps s).foldl (fun t e =>
    match t.cmd? e.1 with
    | none => t
    | some c =>
      match c.step with
      | none => t
      | some r =>
        if (onCores c || c.phase == .preempted || (c.phase == .booked && r.begun)) && r.cores.any ks.contains then
          let t := if onCores c then r.cores.foldl (fun u k => if seqRun u k then abortCore u k else u) t else t
          endStep t e.1 0x49 unit
        else t) s

/-! ### Memories (R198) -/

def zeroCore (s : State) (k : Nat) : State :=
  (List.range 4).foldl (fun t i => t.mzero (scrBase (4 * k + i)) scrSize) (s.mzero (cmBase k) cmSize)

/-- Scratch, core memory and Landing of a cluster. -/
def zeroCluster (s : State) (c : Nat) : State := (rangeFrom (8 * c) 8).foldl zeroCore (s.mzero (landBase c) landSize)

/-! ### Core and cluster (R489, R512) -/

/-- Waiters that a predicate picks leave the semaphore units' lists. -/
def dropWaiters (s : State) (p : Waiter → Bool) : State :=
  let hit := (s.waiters.filter p).map (·.sem)
  hit.foldl syncWaiters { s with waiters := s.waiters.filter fun w => !p w }

/-- The records of a core outside its registers; a series that failed stays so until a UNIT_RESET (R452). -/
def dropCoreState (s : State) (k : Nat) : State :=
  let s := { s with engs := s.engs.filter fun e => !(e.1 / 4 == k) }
  let s := s.setCore k { CoreSt.reset with
    goldDue := (s.core k).goldDue, afterReset := (s.core k).afterReset,
    series := if (s.core k).series = .failed then .failed else .idle }
  let s := dropWaiters s fun w => w.core == k
  let s := { s with stGo := adel s.stGo k, hangLevel := adel s.hangLevel k, stallUs := adel s.stallUs k }
  { s with semRsps := s.semRsps.filter fun r => !(r.core == k) }

/-- A core has had its UNIT_RESET, which R447 and R452 ask for before its return. -/
def unitWasReset (s : State) (k : Nat) : State :=
  s.setCore k { s.core k with series := .idle, afterReset := s.fg (chkBase k) Fld.CHK_QSTS_STATE == 3 }

/-- Is an address one of CHK_CTL and CHK_QSTS, which die reset governs (R455)? -/
def chkKept (a : Nat) : Bool :=
  let k := (a - coreBase 0) % 0x10000
  k == 0x4000 + Reg.CHK_CTL || k == 0x4000 + Reg.CHK_QSTS

/-- A core reset rebases ledger 2 of its movers (R342). -/
def ctxRebase (s : State) (k : Nat) : State := ledgerRebase (ledgerRebase s (k / 64) 2 (2 * k)) (k / 64) 2 (2 * k + 1)

/-- Registers of a core return to their reset values, CHK_CTL and CHK_QSTS apart. -/
def dropCoreRegs (s : State) (k : Nat) : State :=
  let b := coreBase k
  let s := s.dropRegs fun a => decide (b ≤ a) && decide (a < b + 0x10000) && !chkKept a
  { s with latched := kdrop (fun a => decide (b ≤ a) && decide (a < b + 0x10000)) s.latched }

/-- Core reset: everything of the core but its memories; its generation advances (R490). -/
def resetCore (s : State) (k : Nat) : State :=
  let s := dropCoreRegs (dropCoreState (clearGroup s [k]) k) k
  bumpCore (syncCore (ctxRebase s k) k) k

/-- The cluster's own registers and its attention unit's, and the unit's records. -/
def dropClusterOwn (s : State) (c : Nat) : State :=
  let s := leaseEnd (s.setAtt c AttSt.reset) c
  syncClk (s.dropRegs fun a => decide (cluBase c ≤ a) && decide (a < cluBase c + 0x20000)) c

/-- A cluster without its power or in its reset: cores, cluster registers, attention unit, memories. -/
def dropCluster (s : State) (c : Nat) : State :=
  let s := (rangeFrom (8 * c) 8).foldl (fun t k => ctxRebase (dropCoreRegs (dropCoreState (clearGroup t [k]) k) k) k) s
  zeroCluster (dropClusterOwn s c) c

/-- Cluster reset. -/
def resetCluster (s : State) (c : Nat) : State := bumpCluster (dropCluster s c) c

/-! ### Links of a die -/

/-- The ends on a die. -/
def endsOf (d : Nat) : List Nat := if d < 4 then rangeFrom (5 * d) 5 else if d = 5 then [25] else rangeFrom 20 5

/-- A link whose end enters reset: both ends go down without a link event. -/
def quietDown (s : State) (e : Nat) : State :=
  let s := setLinkState (setEnd s e LinkEnd.down) e 0 0
  match farEnd s e with
  | some f => setEnd s f LinkEnd.down
  | none => s

end Sys2Proof.Machine
end

