-- ==== Sys2Proof/Machine/Boot.lean ====
section
/-!
DEFINITION. Machine/Boot.lean: OTP, flash, image containers, the lifecycle token, and the start of the management
processor with every unit it loads (R515 to R530, R538 to R541, R543, R545).
-/
namespace Sys2Proof.Machine

open Sys2Proof

/-! ### Cryptography (R518 to R520) -/

/-- `n` bytes of a cryptographic result; purposes: 1 AES-GCM decryption under K_IMG, 3 SHAKE256, 5 the SLH-DSA signature
under the identity key. -/
def cryptBytes (purpose : Nat) (input : List Nat) (n : Nat) : List Nat :=
  (List.range n).map fun i => (Config.crypt purpose input n).getD i 0 % 256

/-! ### Containers (R521 to R523, R525) -/

/-- Slot offset and size of a unit in flash. -/
def slotOf (u : Nat) : Nat × Nat :=
  match u with
  | 0 => (0, 0x1000000)
  | 1 => (0x1000000, 0x100000)
  | 2 => (0x1100000, 0x400000)
  | 3 => (0x1500000, 0x100000)
  | 4 => (0x1600000, 0x200000)
  | 5 => (0x1800000, 0x200000)
  | 6 => (0x1A00000, 0x2000000)
  | _ => (0, 0)

def sigSize : Nat := 29792

/-- Length of a container with `n` bytes of plaintext. -/
def containerLen (n : Nat) : Nat := 128 + 64 * cdiv n 64 + sigSize

/-- Read `n` bytes of a container as a number, or as a list. -/
def cbytes (f : Nat → Nat) (o n : Nat) : List Nat := (List.range n).map fun i => f (o + i)
def cnat (f : Nat → Nat) (o n : Nat) : Nat := bytesNat (cbytes f o n)

/-- The checks of R523 before the GCM tag, for the unit expected; `f` gives the container's bytes. -/
def headerAccepts (s : State) (u : Nat) (f : Nat → Nat) : Bool :=
  let n := cnat f 20 4
  let zero := fun (o k : Nat) => (cbytes f o k).all (· == 0)
  decide (cnat f 0 4 = 0x474D494C) && decide (cnat f 4 2 = 1) && zero 36 4 && zero 64 64
    && decide (64 ≤ n) && decide (containerLen n ≤ (slotOf u).2) && zero (128 + n) (64 * cdiv n 64 - n)
    && decide (f 6 = u) && (cbytes f 8 8 == deviceId s)
    && decide (f 7 < 2) && !keyRevoked s (f 7)
    && decide (cnat f 16 4 ≤ 128) && decide (svnCounter s u ≤ cnat f 16 4)

/-- Accept a container (R523): the image, or none. -/
def acceptContainer (s : State) (u : Nat) (f : Nat → Nat) : Option UnitImg :=
  if !headerAccepts s u f then none
  else
    let n := cnat f 20 4
    let head := cbytes f 0 128
    let cipher := cbytes f 128 n
    let sig := cbytes f (128 + 64 * cdiv n 64) sigSize
    if !Config.authentic 1 (uds s ++ head ++ cipher) then none
    else
      let plain := cryptBytes 1 (uds s ++ head ++ cipher) n
      let msg := f 6 :: (cbytes f 16 8 ++ cbytes f 40 8 ++ plain)
      if Config.authentic 2 (vendorKey s (f 7) ++ msg ++ sig) then
        some ⟨cnat f 16 4, cnat f 40 8, msg, sig, cryptBytes 3 msg 64⟩
      else none

/-- The plaintext of an accepted image: its message without UNIT, SVN, PLAIN_LEN and BUILD. -/
def UnitImg.plain (i : UnitImg) : List Nat := i.message.drop 17

/-- A byte of a unit's slot in flash. -/
def slotByte (s : State) (u i : Nat) : Nat := (getD 0xFF s.flash ((slotOf u).1 + i)).toNat

/-- Accept the container in a unit's slot; a slot damaged by an update holds none (R534, R535). -/
def acceptSlot (s : State) (u : Nat) : Option UnitImg :=
  if s.damaged.contains u then none else acceptContainer s u (slotByte s u)

/-! ### The secure region (R527) -/

def secureBase (s : State) : Nat := s.fg secBase Fld.SEC_SECURE_BASE_BASE * 2 ^ 20
def bytesOf (bs : List Nat) : List Byte := bs.map (BitVec.ofNat 8)

/-! ### Units (R525, R530, R539) -/

/-- A container failed R523: the unit is dead. -/
def unitRefused (s : State) (u : Nat) : State :=
  unitBit (unitBit (s.fs secBase Fld.SEC_ERR_AUTH 1) Fld.SEC_UNITS_DEAD u true) Fld.SEC_UNITS_RUNNING u false

/-- Record an accepted image and its measurement. -/
def recordImg (s : State) (u : Nat) (i : UnitImg) : State :=
  let s := { s with unitImgs := aput s.unitImgs u i }
  (List.range 16).foldl (fun t w => t.wr (secBase + Reg.SEC_MEAS + 0x40 * u + 4 * w) (bytesNat ((i.meas.drop (4 * w)).take 4))) s

/-- After a start in which a unit runs, its counter rises to the version in effect (R538). -/
def burnCounters (s : State) : State :=
  (List.range 7).foldl (fun t u =>
    if bit (t.fg secBase Fld.SEC_UNITS_RUNNING) u then
      match aget t.unitImgs u with
      | some i => raiseCounter u (i.svn - svnCounter t u) t
      | none => t
    else t) s

/-! ### Stage 2: OTP and the lifecycle token (R516, R518, R543 to R545) -/

/-- Bytes of the mailbox. -/
def mailByte (s : State) (i : Nat) : Nat := byteAt s.mailbox i

/-- Is the token in the mailbox valid for this device? -/
def tokenOk (s : State) : Bool :=
  let f := mailByte s
  decide (cnat f 0 4 = 0x4E4B4F54) && decide (f 5 < 2) && !keyRevoked s (f 5) && (cbytes f 8 8 == deviceId s)
    && (cbytes f 6 2).all (· == 0) && (cbytes f 16 48).all (· == 0)
    && Config.authentic 6 (vendorKey s (f 5) ++ cbytes f 0 64 ++ cbytes f 64 sigSize)

/-- The ROM checks the mailbox's token and clears the mailbox; a BLANK part is always unlocked. -/
def tokenCheck (s : State) : State :=
  let t : State := { s with mailbox := [] }
  let t := if s.mailbox.isEmpty then t
    else if tokenOk s && mailByte s 4 == 1 && lifecycle s == 1 then otpBurn t 0x800 1
    else if tokenOk s && mailByte s 4 == 2 && lifecycle s == 2 then t.fs secBase Fld.SEC_STS_TEST_UNLOCKED 1
    else t.fs secBase Fld.SEC_ERR_AUTH 1
  if lifecycle t = 0 then t.fs secBase Fld.SEC_STS_TEST_UNLOCKED 1 else t

/-- The ROM reads the OTP: a word with an error sets OTP_ECC. -/
def otpRead (s : State) : State := if s.otpBad.isEmpty then s else s.fs secBase Fld.SEC_ERR_OTP_ECC 1

/-- Does the start stop at stage 2: an uncorrectable word below row 0x0500, a derived identity key other than IDPK, or a
SCRAPPED part? -/
def otpStops (s : State) : Bool :=
  (s.otpBad.any fun w => w.2 == 2 && decide (w.1 < 0xA0)) || lifecycle s == 3 || !Config.authentic 5 (uds s ++ idpk s)

/-! ### Stage 3: the boot die -/

/-- Train and initialise a die's memory with a choice of ECC; `fails` gives each die's mask of failing channels. -/
def initDie (fails : List Nat) (ecc : Bool) (s : State) (d : Nat) : State :=
  memTrained (s.fs (memBase d) Fld.MEM_DIE_CTL_ECC_EN (b2n ecc)) d (fails.getD d 0) ecc

/-- After POR the lowest die whose memory initialises; the dies below it have failed. -/
def trainBoot (fails : List Nat) : (dies : List Nat) → State → Option Nat × State
  | [], s => (none, s)
  | d :: ds, s =>
    let t := initDie fails true s d
    if t.fb (memBase d) Fld.MEM_DIE_STS_INIT_DONE then (some d, t) else trainBoot fails ds t

def bootDie (por : Bool) (fails : List Nat) (s : State) : Option Nat × State :=
  if por then trainBoot fails (List.range s.part.dies) s
  else ((List.range s.part.dies).find? fun d => s.fb (memBase d) Fld.MEM_DIE_STS_INIT_DONE, s)

/-! ### The update session at a start (R535) -/

/-- Bytes of the flash become what `f` gives. -/
def flashSet (s : State) (a n : Nat) (f : Nat → Byte) : State :=
  { s with flash := (List.range n).foldl (fun m i => setD 0xFF m (a + i) (f (a + i))) s.flash }

/-- `n` bytes of the flash whose writing failed or was cut: free values (assumption 68). -/
def flashSpoil (s : State) (a n : Nat) : State :=
  { flashSet s a n (Config.freeByte s.fresh) with fresh := s.fresh + 1 }

/-- A slot whose writing failed or was cut: the sectors that its container of `n` bytes covers are spoilt. -/
def spoilSlot (s : State) (u n : Nat) : State := flashSpoil s (slotOf u).1 (roundUp n 0x10000)

/-- Units that are dead at the next start. -/
def markDamaged (s : State) (us : List Nat) : State :=
  { s with damaged := s.damaged ++ us.filter fun x => !s.damaged.contains x }

/-- A session that had not been written is discarded, and the slot being written is damaged. -/
def dropSession (s : State) : State :=
  match s.upd with
  | none => s
  | some u =>
    let t : State := { s with upd := none }
    match u.slots with
    | (x, _, n) :: _ => if u.stage = 3 then spoilSlot (markDamaged t [x]) x n else t
    | [] => t

/-! ### Service state (R540) -/

/-- The command processor's readiness, and the host's notice of it (R259). -/
def ready (s : State) (v : Nat) : State := (s.fs cmdBase Fld.CMD_STS_FW_READY v).emit "P_READY" 0 [v]

/-- Queue 0 of context 0 in service state, and completion ring 0. -/
def serviceQueue (s : State) : QDesc :=
  { valid := true, state := 0, pinned := true, cls := 0, fenceWait := false, log2 := 8, ctx := 0, ctxGen := (s.ctx 0).gen,
    base := s.fg hpBase Fld.HP_WIN_W0_BASE * 2 ^ 20, producer := 0, consumer := 0, cq := 0, inflight := 0, self := 0, parsed := 0 }

def serviceRing (s : State) : CqRec :=
  { CqRec.absent with valid := true, log2 := 8, base := s.fg hpBase Fld.HP_WIN_W0_BASE * 2 ^ 20 + 0x4000 }

/-- The Doorstep loader holds the package in service state. -/
def serviceState (s : State) : State :=
  let s := (s.fs secBase Fld.SEC_STS_STAGE 2).fs qmBase Fld.QM_CTL_EN 1
  let s := s.fs cmdBase Fld.CMD_CTL_EN 1
  let s := syncQm { s with qcache := [(0, serviceQueue s)], cqs := setD CqRec.absent s.cqs 0 (serviceRing s), cqUsed := [0] }
  ready s 1

/-! ### MP firmware: stages 7 to 11 -/

/-- Stage 7 for one unit: accept it, record it, place unit 6 in the golden area. -/
def loadUnit (s : State) (u : Nat) : State :=
  match acceptSlot s u with
  | none => unitRefused s u
  | some i =>
    let s := recordImg s u i
    if u = 6 then s.mwr (secureBase s + 0x8000000) (bytesOf i.plain) else s

/-- Load the die controller of a fitted die whose memory is in service; the bytes of its range are the image's. -/
def loadDc (s : State) (d : Nat) : State :=
  if s.fb (memBase d) Fld.MEM_DIE_STS_INIT_DONE then
    let r := dcRange s d
    let s := ((s.mwrUndef r.1 r.2).fs (dieBase d) Fld.CLU_DC_STS_DC_LOADED 1).fs (dieBase d) Fld.CLU_DC_STS_DC_RUN 1
    { s with beatAt := aput s.beatAt d s.nowUs }
  else s

/-- The dies on which a unit runs: its start when the unit was accepted and is not among those that start too late. -/
def startUnit (late : List Nat) (s : State) (u : Nat) : State :=
  if (aget s.unitImgs u).isNone then (if u = 2 then s.wr (rstIBase + Reg.RST_DIE_STS) (setBits (s.rd (rstIBase + Reg.RST_DIE_STS)) 5 5 1) else s)
  else if late.contains u then
    (if u = 2 then (unitDead s u).wr (rstIBase + Reg.RST_DIE_STS) (setBits (s.rd (rstIBase + Reg.RST_DIE_STS)) 5 5 1) else unitDead s u)
  else
    let s := if u = 1 then (List.range s.part.dies).foldl loadDc s else s
    unitStarted s u

/-- The images of the golden set, as offset and size in the golden area: those that pass R135 are registered under the
lowest free handles (R441). -/
def registerGolden : (pairs : List Nat) → State → State
  | off :: size :: rest, s =>
    let a := secureBase s + 0x8000000 + off
    let ok := decide (off + size ≤ 0x2000000) && decide (4096 ≤ size) && imageCheck s a size == 0 && imgGolden s a
    registerGolden rest (if ok then
        match (rangeFrom 1 4096).find? fun h => (aget s.images h).isNone with
        | some h => { s with images := aput s.images h ⟨a, size, preemptNs s a⟩ }
        | none => s
      else s)
  | _, s => s

/-- Cores of the fitted dies that are in service. -/
def serviceCores (s : State) : List Nat := ((List.range s.part.dies).filter (dieInService s)).flatMap fun d => rangeFrom (64 * d) 64

/-- An island that runs its image through the start counts as started (R528). -/
def islandsRun (s : State) : State :=
  let s := if islRuns s 0 then unitStarted s 4 else s
  if islRuns s 1 then unitStarted s 5 else s

/-- MP firmware runs: `b` is the boot die, `i` the accepted unit 0. -/
def runFirmware (por : Bool) (fails late gold : List Nat) (b : Nat) (i : UnitImg) (s : State) : State :=
  let s := (recordImg s 0 i).mwrUndef (secureBase s) 0x4000000
  let s := (s.fs secBase Fld.SEC_OTP_LOCK_LOCK 1).fs secBase Fld.SEC_STS_OTP_LOCKED 1
  let s := unitStarted (s.fs secBase Fld.SEC_STS_STAGE 1) 0
  let s := if por then
      ((List.range s.part.dies).filter fun d => !(d == b)).foldl (initDie fails (!eccOptOut s)) s
    else s
  let s := (rangeFrom 1 6).foldl loadUnit s
  let s := [1, 2, 3, 6].foldl (startUnit late) s
  let s := registerGolden (if bit (s.fg secBase Fld.SEC_UNITS_RUNNING) 6 then gold else []) (islandsRun s)
  let s := (serviceCores s).foldl beginSeries s
  ready (burnCounters s) 1

/-! ### The start (R528) -/

/-- A start of the management processor after POR (`por`), package warm reset or Cellar. `fails` gives by die the
channels whose training fails, `late` the units that do not start in time, `gold` where unit 6 holds its images. -/
def mpStart (por : Bool) (fails late gold : List Nat) (s : State) : State :=
  let s := dropSession ((s.fs secBase Fld.SEC_OTP_LOCK_LOCK 0).fs secBase Fld.SEC_STS_OTP_LOCKED 0)
  let s := (s.faddWrap secBase Fld.SEC_BOOT_CNT_COUNT 1).fs secBase Fld.SEC_STS_STAGE 0
  let s := tokenCheck (otpRead { s with mpKick := s.nowUs })
  if otpStops s then s
  else
    match bootDie por fails s with
    | (none, s) => s
    | (some b, s) =>
      let s := s.fs secBase Fld.SEC_SECURE_BASE_BASE ((b * 0x800000000 + 0x6F0000000) / 2 ^ 20)
      let s := (s.fs secBase Fld.SEC_XSPI_OCTAL 1).fs secBase Fld.SEC_XSPI_SIZE_MB (min 511 s.flashMb)
      match acceptSlot s 0 with
      | none => serviceState (unitRefused s 0)
      | some i => runFirmware por fails late gold b i s

end Sys2Proof.Machine
end

