-- ==== Sys2Proof/Machine/Dump.lean ====
section
/-!
DEFINITION. Machine/Dump.lean: the dump engine: units, their records, a dump's start and end (R504 to R506); telemetry
(R504, R556).
-/
namespace Sys2Proof.Machine

open Sys2Proof

/-! ### Units and their registers (R505, R506) -/

/-- Units of a dump are named by KIND and number: 0 a core, 1 a cluster, 2 a compute die, 3 the IOD (number 0) or, under
the MP watchdog, the MP (number 1), 4 the Porch, 5 island A, 6 island B. -/
abbrev DumpUnit := Nat × Nat

/-- A die-level record, then each cluster and its cores. -/
def dieUnits (d : Nat) : List DumpUnit :=
  (2, d) :: (rangeFrom (8 * d) 8).flatMap fun c => (1, c) :: (rangeFrom (8 * c) 8).map fun k => (0, k)

/-- Every unit in reading order; `mp` puts the MP after the IOD. -/
def allUnits (mp : Bool) : List DumpUnit :=
  [(5, 0), (6, 1), (3, 0)] ++ (if mp then [(3, 1)] else []) ++ [(4, 0)] ++ (List.range 4).flatMap dieUnits

/-- Die, cluster and core of a unit's position. -/
def unitPlace (u : DumpUnit) : List Nat :=
  match u.1 with
  | 0 => [u.2 / 64, u.2 / 8 % 8, u.2 % 8]
  | 1 => [u.2 / 8, u.2 % 8, 0]
  | 2 => [u.2, 0, 0]
  | _ => [0, 0, 0]

/-- The die of a unit: 6 for an island. -/
def unitDie (u : DumpUnit) : Nat :=
  match u.1 with
  | 0 => u.2 / 64
  | 1 => u.2 / 8
  | 2 => u.2
  | 3 => 4
  | 4 => 5
  | _ => 6

/-- The register blocks of a unit, in offset order, each with its first address. -/
def unitBlocks (u : DumpUnit) : List (Blk × Nat) :=
  match u.1 with
  | 0 => [(.core, coreBase u.2), (.chk, chkBase u.2)] ++ (List.range 4).map fun i => (Blk.eng, engBase (4 * u.2 + i))
  | 1 => [(.clu, cluBase u.2), (.att, attBase u.2)]
  | 2 => [(.dieClu, dieBase u.2), (.memD, memBase u.2), (.ddlD, ddlBase u.2), (.pan, panBase u.2), (.bwrD, bwrBase u.2),
          (.hthD, hthABase u.2), (.rstD, rstBase u.2), (.tstD, tstBase u.2), (.syn, synBase u.2)]
  | 3 => [(.hp, hpBase), (.cmd, cmdBase), (.qm, qmBase), (.dsp, dspBase), (.adm, admBase), (.bwrI, bwrBase 4),
          (.memI, memIBase), (.ddlI, ddlBase 4), (.spn, spnBase), (.hthI, hthBase), (.rstI, rstIBase), (.sec, secBase),
          (.tstI, tstBase 4)]
  | 4 => [(.pch, pchBase), (.fus, fusBase), (.bwrP, bwrBase 5), (.hthP, hthABase 5), (.rstP, rstBase 5), (.tstP, tstBase 5),
          (.ddlP, ddlBase 5)]
  | _ => [(.acn, acnBase u.2)]

/-- Records that are no part of a dump: semaphores, hold records, stream contexts. -/
def dumpSkips (name : String) : Bool := name.startsWith "SYN_SEM" || name.startsWith "SYN_HOLD" || name.startsWith "CLU_STRM"

/-- Insert an offset in ascending order, once. -/
def insertOff : List Nat → Nat → List Nat
  | [], x => [x]
  | y :: ys, x => if x < y then x :: y :: ys else if x = y then y :: ys else y :: insertOff ys x

/-- The offsets of the registers of a block, ascending. -/
def blockOffs (s : State) (b : Blk) (base : Nat) : List Nat :=
  let offs := (regsOf b).flatMap fun r =>
    if dumpSkips r.name then []
    else (List.range r.n1).flatMap fun i => (List.range r.n2).map fun j => r.off + r.s1 * i + r.s2 * j
  (offs.foldl insertOff []).filter fun o => match locate s.part (base + o) with | some l => (regAt s.part l).isSome | none => false

/-- A register as the dump port reads it, without side effects. -/
def dumpWord (s : State) (a : Nat) : Nat :=
  match locate s.part a with
  | some l => (liveWord s l a).getD (s.rd a)
  | none => 0

/-- The body of a record. -/
def unitBody (s : State) (u : DumpUnit) : List Byte :=
  (unitBlocks u).flatMap fun b => (blockOffs s b.1 b.2).flatMap fun o => leBytes 4 (dumpWord s (b.2 + o))

/-- The generation of a unit's domain. -/
def unitGen (s : State) (u : DumpUnit) : Nat :=
  match u.1 with
  | 0 => s.coreGen u.2
  | 1 => s.cluGen u.2
  | 2 => s.dieGen u.2
  | 3 => s.fg rstIBase Fld.RST_PKG_STS_PKG_GEN
  | 4 => s.fg rstIBase Fld.RST_PCH_GEN_GEN
  | _ => 0

/-- Is the unit in reset, in Nap or without power? -/
def unitAsleep (s : State) (u : DumpUnit) : Bool :=
  let nap := fun (c : Nat) => decide (2 ≤ s.fg (cluBase c) Fld.CLU_STS_PWR)
  (decide (unitDie u < 6) && dieHeld s (unitDie u))
    || (match u.1 with
        | 0 => nap (u.2 / 8)
        | 1 => nap u.2
        | 5 | 6 => !(s.isl u.2).powered
        | _ => false)

/-- STATUS of a unit's record; `lost` when it has not delivered its record in time, as the MP under its watchdog. -/
def unitStatus (s : State) (u : DumpUnit) (lost : Bool) : Nat :=
  if unitDie u < 4 ∧ s.part.fitted (unitDie u) = false then 2
  else if unitAsleep s u then 3
  else if lost ∨ u = (3, 1) then 1
  else 0

/-- A unit's record. -/
def unitRecord (s : State) (u : DumpUnit) (lost : Bool) : List Byte :=
  let st := unitStatus s u lost
  let body := if st = 0 then unitBody s u else []
  BitVec.ofNat 8 u.1 :: (unitPlace u).map (BitVec.ofNat 8) ++ [BitVec.ofNat 8 st, 0, 0, 0] ++ leBytes 4 body.length
    ++ leBytes 4 (unitGen s u) ++ body

/-! ### A dump (R504, R505) -/

/-- The dump engine writes bytes of its region; with no region placed (a base of zero) nothing is written. -/
def dumpPut (s : State) (off : Nat) (bs : List Byte) : State :=
  if dumpBase s = 0 then s
  else
    let a := dumpBase s + off
    (parts4k a bs.length).foldl (fun t p => (memWrite t 0x804 0 p.1 ((bs.drop (p.1 - a)).take p.2)).2) s

/-- Start a dump of some units. -/
def dumpStart (s : State) (cause : Nat) (tag : Option Nat) (us : List DumpUnit) : State :=
  let s := s.fs rstIBase Fld.RST_DUMP_STS_BUSY 1
  { s with dump := some ⟨cause, tag, us, 0, 64, 0, s.nowUs, s.fg rstIBase Fld.RST_PKG_STS_PKG_GEN⟩ }

/-- The engine reads its next unit, or gives it up. -/
def dumpNext (lost : Bool) (s : State) : State :=
  match s.dump with
  | none => s
  | some r =>
    match r.left with
    | [] => s
    | u :: us =>
      let bs := unitRecord s u lost
      let t := dumpPut s r.bytes bs
      { t with dump := some { r with left := us, records := r.records + 1, bytes := r.bytes + bs.length,
                                     unreadable := r.unreadable + b2n (unitStatus s u lost == 1) } }

/-- Read the next `n` units. -/
def dumpMany : (n : Nat) → State → State
  | 0, s => s
  | n + 1, s => dumpMany n (dumpNext false s)

/-- The dump header. -/
def dumpHeader (r : DumpRun) : List Byte :=
  leBytes 4 0x504D5544 ++ leBytes 2 1 ++ leBytes 1 r.cause ++ leBytes 1 r.gen ++ leBytes 8 r.now ++ leBytes 4 r.records
    ++ leBytes 4 r.bytes ++ leBytes 4 r.unreadable ++ List.replicate 36 0

/-- The dump ends: header, status, DUMP_WRITTEN, the reply. -/
def dumpEnd (s : State) : State :=
  match s.dump with
  | none => s
  | some r =>
    let s := { dumpPut s 0 (dumpHeader r) with dump := none }
    let b := rstIBase
    let s := (s.wr (b + Reg.RST_DUMP_LEN) r.bytes).fs b Fld.RST_DUMP_STS_BUSY 0
    let s := ((s.fs b Fld.RST_DUMP_STS_FRESH 1).fs b Fld.RST_DUMP_STS_CAUSE r.cause).fs b Fld.RST_DUMP_STS_UNREADABLE (min 0xFFFF r.unreadable)
    let s := s.notice 0x0F 0 0 0
    match r.tag with
    | some t => finishCmd s t 0 0 r.bytes
    | none => s

/-- Has the dump engine still to read a unit of die `d`? -/
def dumpHolds (s : State) (d : Nat) : Bool := match s.dump with | some r => r.left.any fun u => unitDie u == d | none => false

/-! ### Telemetry (R556) -/

/-- Refuse a TELEMETRY that no row serves, or whose range lies outside window 0. -/
def telemetryCheck (s : State) (c : Cmd) : Option (Nat × Nat) :=
  if 2 < c.par 28 1 then some (0x13, 28)
  else if inWin0 s (c.par 16 6) (c.par 24 4) then none else some (0x14, 16)

/-- Write the header and as many whole entries as fit DEST_SIZE, and answer the bytes written. -/
def telemetryWrite (s : State) (tg : Nat) (c : Cmd) (entries : List (List Byte)) : Nat × State :=
  let head := leBytes 4 0x4D4C4554 ++ leBytes 1 (c.par 28 1) ++ leBytes 3 0 ++ leBytes 8 s.nowUs
  let room := c.par 24 4
  let bs := entries.foldl (fun (acc : Bool × List Byte) e =>
    if acc.1 && decide (acc.2.length + e.length ≤ room) then (true, acc.2 ++ e) else (false, acc.2)) (decide (16 ≤ room), if 16 ≤ room then head else [])
  (bs.2.length, finishCmd (cpWrites s c.ctx (c.par 16 6) bs.2) tg 0 0 bs.2.length)

/-- A TELEMETRY command of one SET. The checks are made by whichever row first takes the command. -/
def telemetryDo (tg set : Nat) (s : State) (f : Cmd → State → State) : Host.Outcome State Fault Refusal :=
  cmdDo s tg 0x60 true fun c s =>
    match telemetryCheck s c with
    | some e => refuse s tg e.1 e.2
    | none => if c.par 28 1 = set then f c s else s

/-- One TST_TEL slot's entry: the MP reads the register without side effects. -/
def telemetryEntry (s : State) (i : Nat) : List Byte :=
  let a := tstBase 4 + 0x400 + 8 * i
  let lo := s.rd a / 4 * 4
  let hi := s.rd (a + 4)
  let addr := lo + bits hi 15 0 * 2 ^ 32
  let ok := (accCheck s 0x800 addr 4 false).1.isNone && (locate s.part addr).isSome
  let v := match locate s.part addr with
    | some l => (policyWord s l).getD (if isLatchedHi l then (getD 0 s.latched addr).toNat else dumpWord s addr)
    | none => 0
  leBytes 6 addr ++ leBytes 1 (b2n !ok) ++ leBytes 1 0 ++ leBytes 4 (if ok then v else 0) ++ leBytes 4 0

def execTelemetryCounters (tg : Nat) (s : State) : Host.Outcome State Fault Refusal :=
  telemetryDo tg 0 s fun c s =>
    (telemetryWrite s tg c (((List.range 64).filter fun i => bit (s.rd (tstBase 4 + 0x404 + 8 * i)) 16).map (telemetryEntry s))).2

def execTelemetryPower (tg : Nat) (s : State) : Host.Outcome State Fault Refusal :=
  telemetryDo tg 1 s fun c s =>
    let offs := (List.range 18).map (4 * ·) ++ (List.range 12).map fun i => 0x100 + 4 * i
    (telemetryWrite s tg c (offs.map fun o => leBytes 4 (dumpWord s (hthBase + o)))).2

/-- The error logs of the fitted dies: every MEM_ELOG entry in order. -/
def errorLogs (s : State) : List (List Byte) :=
  (List.range s.part.dies).flatMap fun d => (List.range 16).map fun i =>
    (List.range 4).flatMap fun w => leBytes 4 (s.rd (memBase d + Reg.MEM_ELOG_W0 + 16 * i + 4 * w))

/-- The bytes of the last dump, word by word; none where no region is placed. -/
def dumpBytes (s : State) : List (List Byte) :=
  if dumpBase s = 0 then []
  else (List.range (s.rd (rstIBase + Reg.RST_DUMP_LEN) / 4)).map fun i => s.mrd (dumpBase s + 4 * i) 4

def execTelemetryErrorLogs (tg : Nat) (s : State) : Host.Outcome State Fault Refusal :=
  telemetryDo tg 2 s fun c s =>
    (telemetryWrite s tg c (errorLogs s ++ dumpBytes s)).2.fs rstIBase Fld.RST_DUMP_STS_FRESH 0

end Sys2Proof.Machine
end

