-- ==== Sys2Proof/Machine/Hearth.lean ====
section
/-!
DEFINITION. Machine/Hearth.lean: budgets, die agents, thermal sensors, the coolant interface, filler and refresh
(R211 to R214, R465 to R488). Powers are in 0.1 W, temperatures in 0.1 °C, flows in 0.01 L/min. What a sensor or a
regulator shows comes as an operand. Power states are in Machine/Power.lean.
-/
namespace Sys2Proof.Machine

open Sys2Proof

/-- Temperature as a signed 16-bit field. -/
def enc16 (t : Int) : Nat := (t % 65536).toNat

/-! ### Part values (R465, R466) -/

/-- A compute die's full-load maximum. -/
def dieFull (p : Part) : Nat := match p with | .dvx2300 => 880 | .dvx1150 => 870
/-- Survival budget of an agent's die: a compute die or the Porch. -/
def survival (p : Part) (d : Nat) : Nat := if d < 4 then (match p with | .dvx2300 => 90 | .dvx1150 => 195) else 40
/-- Full-load charge of a consumer: 0 memory, 1 IOD, 2 Porch, 3 islands. -/
def consumerFull (p : Part) (n : Nat) : Nat :=
  match n with | 0 => (match p with | .dvx2300 => 400 | .dvx1150 => 200) | 1 => 300 | 2 => 180 | _ => 30

/-- Agents: the fitted compute dies and the Porch. -/
def agents (s : State) : List Nat := List.range s.part.dies ++ [5]

/-- Is a coolant or thermal emergency in force? -/
def emergency (s : State) : Bool := s.fg hthBase Fld.HTH_STS_COOL == 2 || s.fb hthBase Fld.HTH_STS_THERMAL

/-! ### Clusters (R470, R472) -/

def agBase (d : Nat) : Nat := hthABase d
def setDuty (s : State) (c v : Nat) : State :=
  let a := agBase (c / 8) + Reg.HTH_AG_DUTY
  s.wr a (setBits (s.rd a) (4 * (c % 8) + 3) (4 * (c % 8)) v)

/-- Full-load power of a cluster at the lowest operating point not below a clock, in mW. -/
def pointPower (mhz : Nat) : Nat :=
  if mhz ≤ 800 then 1800 else if mhz ≤ 1000 then 2500 else if mhz ≤ 1200 then 3250 else if mhz ≤ 1400 then 4250
  else if mhz ≤ 1600 then 5250 else if mhz ≤ 1800 then 6500 else if mhz ≤ 2000 then 8000 else 10000

/-- Does a cluster hold a booking of a step? -/
def cluBooked (s : State) (c : Nat) : Bool := (calendar s).any fun b => !b.golden && b.cores.any fun k => k / 8 == c
/-- Does a cluster run a step? -/
def cluRuns (s : State) (c : Nat) : Bool := (rangeFrom (8 * c) 8).any fun k => occupied s k || seqRun s k
/-- Is a cluster in Nap? -/
def cluNaps (s : State) (c : Nat) : Bool := decide (2 ≤ s.fg (cluBase c) Fld.CLU_STS_PWR)

def clustersOn (d : Nat) : List Nat := rangeFrom (8 * d) 8

/-! ### Thermal sensors (R476, R477) -/

def snsAddr (d i : Nat) : Nat := if d = 4 then hthBase + 0x200 + 4 * i else agBase d + 0x100 + 4 * i
def snsCount (d : Nat) : Nat := if d < 4 then 24 else if d = 4 then 8 else 6
def pairCount (d : Nat) : Nat := if d < 4 then 8 else if d = 4 then 4 else 3
def pairSns (d p : Nat) : Nat × Nat := if d < 4 then (3 * p, 3 * p + 1) else (2 * p, 2 * p + 1)

/-- A sensor's reading; none when it is excluded or has not been read. -/
def snsTemp (s : State) (d i : Nat) : Option Int :=
  let w := s.rd (snsAddr d i)
  if bit w 16 && !s.snsExcl.contains (32 * d + i) then some (toSigned 16 (w % 65536)) else none

def maxTemp (a b : Option Int) : Option Int :=
  match a, b with
  | some x, some y => some (max x y)
  | some x, none => some x
  | none, y => y

/-- Both sensors of a pair excluded. -/
def pairGone (s : State) (d p : Nat) : Bool :=
  s.snsExcl.contains (32 * d + (pairSns d p).1) && s.snsExcl.contains (32 * d + (pairSns d p).2)

def tjTarget (s : State) : Int := 10 * (s.fg hthBase Fld.HTH_TEMP_TJ_TGT : Int)
def tjEmerg (s : State) : Int := 10 * (min 120 (s.fg hthBase Fld.HTH_TEMP_TJ_EMERG) : Nat)

/-- The governing reading of a pair's spot: the higher valid reading; TJ_TGT for an IOD or Porch pair without one. -/
def pairTemp (s : State) (d p : Nat) : Option Int :=
  match maxTemp (snsTemp s d (pairSns d p).1) (snsTemp s d (pairSns d p).2) with
  | some t => some t
  | none => if 4 ≤ d ∧ pairGone s d p = true then some (tjTarget s) else none

/-- The governing reading of a cluster: its engine spot and its Landing spot. -/
def cluTemp (s : State) (c : Nat) : Option Int :=
  maxTemp (pairTemp s (c / 8) (c % 8)) (snsTemp s (c / 8) (3 * (c % 8) + 2))

/-- Governing readings of a die. -/
def govern (s : State) (d : Nat) : List Int :=
  if d < 4 then (clustersOn d).filterMap (cluTemp s) else (List.range (pairCount d)).filterMap (pairTemp s d)

def hottest : List Int → Option Int := fun xs => xs.foldl (fun m x => maxTemp m (some x)) none

/-! ### Reducing and raising (R472) -/

/-- The best of a list under an order; the first among equals. -/
def bestBy (better : Nat → Nat → Bool) : List Nat → Option Nat
  | [] => none
  | x :: xs =>
    match bestBy better xs with
    | some y => some (if better y x then y else x)
    | none => some x

def hotter (s : State) (a b : Nat) : Bool :=
  match cluTemp s a, cluTemp s b with
  | some x, some y => decide (y < x)
  | some _, none => true
  | none, _ => false

/-- One reduction of a die, in the order of R472; none when nothing is left to reduce. -/
def reduceOnce (s : State) (d : Nat) : Option State :=
  let rot := getD true s.agRot d
  if s.filler.any fun c => c / 8 == d then some (s.noFill fun c => c / 8 == d)
  else
    let cs := (clustersOn d).filter fun c => !cluNaps s c
    let free := cs.filter fun c => !cluBooked s c
    let fast := free.filter fun c => decide (800 < tgtMhz s c)
    let slow := free.filter fun c => decide (0 < duty s c)
    let guar := s.fg admBase Fld.ADM_CLK_GUAR_MHZ
    let kept := cs.filter fun c => cluBooked s c && decide (max 800 guar < tgtMhz s c)
    let quick := fun x y => decide (tgtMhz s y < tgtMhz s x)
    match bestBy (if rot then quick else hotter s) fast with
    | some c => some (setTgt s c (max 800 (tgtMhz s c - 200)))
    | none =>
      match bestBy (if rot then fun x y => decide (duty s y < duty s x) else hotter s) slow with
      | some c => some (setDuty s c (duty s c - 1))
      | none =>
        match bestBy quick kept with
        | some c => some (setTgt s c (max (max 800 guar) (tgtMhz s c - 200)))
        | none => none

/-- Does a governing reading of a compute die stand at TJ_TGT or above (R478)? -/
def atTarget (s : State) (d : Nat) : Bool := (govern s d).any fun t => decide (tjTarget s ≤ t)

/-- One raise: the lowest cluster, in ascending index; none above 800 MHz under a clamp (R426), none while a reading stands
at TJ_TGT or above (R478). -/
def raiseOnce (s : State) (d : Nat) : State :=
  let top := if clamped s then 800 else 2200
  let cs := (clustersOn d).filter fun c => !cluNaps s c && !s.noBook.contains c && (decide (duty s c < 15) || decide (tgtMhz s c < top))
  if s.fb (agBase d) Fld.HTH_AG_STS_THERMAL || atTarget s d then s
  else match bestBy (fun x y => decide (16 * tgtMhz s x + duty s x < 16 * tgtMhz s y + duty s y)) cs with
    | none => s
    | some c => if duty s c < 15 then setDuty s c (duty s c + 1) else setTgt s c (min top (tgtMhz s c + 200))

/-- What makes BUDGET_SHORT holds or not (R473). -/
def setShort (s : State) (who : Nat) (on : Bool) : State :=
  let was := s.shortBy
  let now := if on then (if was.contains who then was else was ++ [who]) else was.filter fun x => !(x == who)
  let s := { s with shortBy := now, shortSince := if was.isEmpty && !now.isEmpty then s.nowUs else s.shortSince }
  s.fs hthBase Fld.HTH_STS_BUDGET_SHORT (b2n !now.isEmpty)

/-- At most `n` reductions, one after the other. -/
def reduceAll (d : Nat) : (n : Nat) → State → State
  | 0, s => s
  | n + 1, s => match reduceOnce s d with | some t => reduceAll d n t | none => s

/-- Reduce while the estimates stay above the limit: each is the agent's estimate after one more reduction. A die that
has used up its allowance makes every reduction that is left when no estimate says that it fits (assumption 81). -/
def reduceWhile (d limit : Nat) (spent : Bool) : List Nat → State → State
  | [], s => if spent then reduceAll d 256 s else s
  | e :: es, s =>
    if e ≤ limit then setShort s d false
    else match reduceOnce s d with
      | some t => reduceWhile d limit spent es t
      | none => setShort s d true

/-! ### Above the budget (R469) -/

/-- How far a compute die may draw above its budget. -/
def burst (p : Part) : Nat := match p with | .dvx2300 => 200 | .dvx1150 => 220

/-- Is a die's average over the last 100 ms above a budget? -/
def averageOver (s : State) (d budget : Nat) : Bool :=
  let xs := s.draws.filter fun x => x.1 == d && decide (s.nowUs ≤ x.2.1 + 100000)
  decide (budget * xs.length < sumN (xs.map (·.2.2)))

/-- The agent's record of a sample: the average, since when the die is above its budget, and whether it has to make up for
that. -/
def noteDraw (s : State) (d budget e : Nat) : State :=
  let keep := s.draws.filter fun x => !(x.1 == d) || decide (s.nowUs ≤ x.2.1 + 100000)
  let s := { s with draws := keep ++ [(d, s.nowUs, e)] }
  if budget < e then
    { s with overAt := if (aget s.overAt d).isSome then s.overAt else aput s.overAt d s.nowUs,
             owing := if s.owing.contains d then s.owing else s.owing ++ [d] }
  else
    { s with overAt := adel s.overAt d,
             owing := if averageOver s d budget then s.owing else s.owing.filter fun x => !(x == d) }

/-- Has the die used up its allowance: more than 20 W (22 W), or 2 ms, above its budget? -/
def burstSpent (s : State) (d budget e : Nat) : Bool :=
  decide (budget + burst s.part < e) || (match aget s.overAt d with | some t => decide (t + 2000 ≤ s.nowUs) | none => false)

/-- Must the die draw below its budget: it was above, and its average still is? -/
def paysBack (s : State) (d budget : Nat) : Bool := s.owing.contains d && averageOver s d budget

/-- Filler starts on a cluster. -/
def startFill (s : State) (c : Nat) : State :=
  let s := wakeCluster s c
  { s with filler := s.filler ++ [c] }

/-! ### The ramp (R486) -/

/-- Clusters whose filler can hold a die's power: they hold no booking, run no step, and filler is allowed there. -/
def rampFree (s : State) (d : Nat) : List Nat :=
  if s.fb hthBase Fld.HTH_CTL_WARM_EN && !emergency s then
    (clustersOn d).filter fun c => !cluBooked s c && !cluRuns s c && !cluNaps s c && !s.dozeHold.contains c && !s.rampFill.contains c
  else []

/-- The average power of the clusters without a booking falls faster than RAMP: one more cluster holds it with filler. Once
it does not, one of them stops. -/
def rampStep (s : State) (d : Nat) (fall : Bool) : State :=
  if fall then
    match rampFree s d with
    | [] => s
    | c :: _ => let t := startFill s c
      { t with rampFill := t.rampFill ++ [c] }
  else match s.rampFill.find? fun c => c / 8 == d with
    | none => s
    | some c => { s with rampFill := s.rampFill.filter fun x => !(x == c) }

/-- The agent's sample: `ests` are its estimates, first as sampled; `room` says that a raise would keep the budget and
the ramp of R486, `fall` that the average falls faster than the ramp. A die that makes up for what it drew above its budget
reduces until it is below, and raises nothing. -/
def execAgentPowerSample (d : Nat) (ests : List Nat) (room : Headroom) (s : State) : Host.Outcome State Fault Refusal :=
  let budget := s.fg (agBase d) Fld.HTH_AG_STS_BUDGET_DW
  .next (if !s.part.fitted d || dieHeld s d then s
    else match ests with
      | [] => s
      | e :: _ =>
        let s := noteDraw s d budget e
        let limit := if paysBack s d budget then budget - 1 else budget
        if limit < e then reduceWhile d limit (burstSpent s d budget e) ests s
        else
          let s := rampStep (setShort s d false) d room.fall
          if room.room && !paysBack s d budget then raiseOnce s d else s)

/-- The rail and the clock of a cluster reach the requested point (R471). -/
def execClockChangeDone (c : Nat) (s : State) : Host.Outcome State Fault Refusal :=
  .next (syncRail (s.fs (cluBase c) Fld.CLU_CLK_CUR_MHZ (tgtMhz s c)) (c / 8))

/-! ### Emergencies (R478, R482, R483) -/

/-- Every cluster of a die at 800 MHz and duty 1/16. -/
def holdDie (s : State) (d : Nat) : State :=
  let s := s.fs (agBase d) Fld.HTH_AG_STS_THERMAL 1
  if d < 4 then (clustersOn d).foldl (fun t c => setDuty (if 800 < tgtMhz t c then setTgt t c 800 else t) c 0) s else s

/-- Guarantees are suspended by the MP for Hearth. -/
def hearthSuspend (s : State) : State := settleGuarantee (s.fs admBase Fld.ADM_CTL_SUSPEND 1)

/-- The MP clears SUSPEND once no emergency of Hearth is in force. -/
def hearthResume (s : State) : State :=
  settleIslands (if emergency s then s else settleGuarantee (s.fs admBase Fld.ADM_CTL_SUSPEND 0))

/-- A thermal emergency on some dies. -/
def thermalEmergency (s : State) (ds : List Nat) : State :=
  let s := { s with thermDies := (s.thermDies ++ ds).eraseDups }
  let s := (ds.filter fun d => !(d == 4)).foldl holdDie s
  let s := if s.fb hthBase Fld.HTH_STS_THERMAL then s
    else ((s.fs hthBase Fld.HTH_STS_THERMAL 1).faddSat hthBase Fld.HTH_EMERG_CNT_COUNT 1).reportBoth 0x10 0
  hearthSuspend (s.noFill fun _ => true)

/-- The coolant monitor's reaction (R482). -/
def coolantEmergency (s : State) (f : Fld) : State :=
  let s := s.fs hthBase f 1
  if s.fg hthBase Fld.HTH_STS_COOL = 2 then s
  else
    let s := ((s.fs hthBase Fld.HTH_STS_COOL 2).faddSat hthBase Fld.HTH_EMERG_CNT_COUNT 1).fs hthBase Fld.HTH_COOL_FLOW_DUTY 100
    let s := { s with clampMsgs := agents s, coolBadAt := s.nowUs }
    (hearthSuspend (s.reportBoth 0x0F 0)).event 0x71 0 0

/-- Is a channel of some fitted die refreshing at the fourfold rate? -/
def anyRef4 (s : State) : Bool :=
  (List.range s.part.dies).any fun d => (List.range 16).any fun c => s.fb (memBase d + 0x100 * c) Fld.MEM_CH_STS_REF4X

/-- The readings have stayed at or below TJ_TGT − 5 K for 1 s and no channel refreshes at the fourfold rate. -/
def execThermalEmergencyEnd (s : State) : Host.Outcome State Fault Refusal :=
  let cool := (List.range 6).all fun d => decide ((aget s.hotAt d).getD 0 + 1000000 ≤ s.nowUs)
  .next (if !s.fb hthBase Fld.HTH_STS_THERMAL || !cool || anyRef4 s then s
    else
      let s := (agents s).foldl (fun t d => t.fs (agBase d) Fld.HTH_AG_STS_THERMAL 0) (s.fs hthBase Fld.HTH_STS_THERMAL 0)
      hearthResume { s with thermDies := [] })

/-- BUDGET_SHORT has lasted for more than GRACE_MS (R473): the dies that cannot meet their budgets are affected, and all
of them when the FLOORs do not fit. -/
def execBudgetGraceExpiry (s : State) : Host.Outcome State Fault Refusal :=
  .next (if s.fb hthBase Fld.HTH_STS_BUDGET_SHORT && decide (s.shortSince + 1000 * s.fg hthBase Fld.HTH_MISC_GRACE_MS < s.nowUs) then
      thermalEmergency (s.fs hthBase Fld.HTH_ERR_GRACE 1)
        (if s.shortBy.contains 4 then List.range s.part.dies else s.shortBy.filter fun d => decide (d < 4))
    else s)

/-! ### The flow and temperature that govern (R480) -/

def flowK (s : State) (i : Nat) : Nat := s.fg hthBase (if i = 0 then Fld.HTH_FLOW_K_K0 else Fld.HTH_FLOW_K_K1)
def flowRead (s : State) (i : Nat) : Nat := s.fg hthBase (if i = 0 then Fld.HTH_COOL_FLOW_FLOW0 else Fld.HTH_COOL_FLOW_FLOW1)
def flowFloor (s : State) : Nat := s.fg hthBase Fld.HTH_FLOW_THRESH_FLOOR
/-- Enabled flow inputs. -/
def flowOn (s : State) : List Nat := [0, 1].filter fun i => decide (0 < flowK s i)

/-- The governing flow: the lower of the enabled inputs that are not excluded. -/
def governFlow (s : State) : Nat :=
  match (flowOn s).filter fun i => !s.flowExcl.contains i with
  | [] => Config.noFlow
  | i :: is => is.foldl (fun m j => min m (flowRead s j)) (flowRead s i)

/-- Thermistor inputs: 0, 1 the inlets, 2, 3 the outlets; 0x8000 is excluded. -/
def coolWord (s : State) (i : Nat) : Nat :=
  match i with
  | 0 => s.fg hthBase Fld.HTH_COOL_IN_T0
  | 1 => s.fg hthBase Fld.HTH_COOL_IN_T1
  | 2 => s.fg hthBase Fld.HTH_COOL_OUT_T0
  | _ => s.fg hthBase Fld.HTH_COOL_OUT_T1

def coolTemp (s : State) (i : Nat) : Option Int := if coolWord s i = 0x8000 then none else some (toSigned 16 (coolWord s i))

/-- ΔT and T_in; the assumed ones where both inputs of a pair are excluded. -/
def coolDelta (s : State) : Int × Int :=
  let lo := match coolTemp s 0, coolTemp s 1 with | some a, some b => some (min a b) | some a, none => some a | none, b => b
  let hi := maxTemp (coolTemp s 2) (coolTemp s 3)
  match lo, maxTemp (coolTemp s 0) (coolTemp s 1), hi with
  | some a, some t, some b => (b - a, t)
  | _, _, _ => (10 * (s.fg hthBase Fld.HTH_DERATE_RISE_THR + 2 : Nat), 10 * (s.fg hthBase Fld.HTH_TEMP_INLET_MAX + 2 : Nat))

/-! ### The package budget (R465, R484) -/

/-- B_flow, B_rise and D_inlet. -/
def budgetTerms (s : State) : Int × Int × Int :=
  let pc : Int := 10 * s.part.pCont
  let f := governFlow s
  let full := s.fg hthBase Fld.HTH_FLOW_THRESH_FULL
  let fl := flowFloor s
  let fw : Int := 10 * (s.fg hthBase Fld.HTH_DERATE_FLOOR_W : Int)
  let d := coolDelta s
  let thr : Int := 10 * (s.fg hthBase Fld.HTH_DERATE_RISE_THR : Int)
  let top : Int := 10 * (s.fg hthBase Fld.HTH_TEMP_INLET_MAX : Int)
  let bFlow := if full ≤ f then pc else if fl ≤ f then fw + ((f - fl : Nat) : Int) * (pc - fw) / ((full - fl : Nat) : Int) else fw
  let bRise := if thr < d.1 then pc - (s.fg hthBase Fld.HTH_DERATE_RISE_SLOPE : Int) * (d.1 - thr) else pc
  let dIn := if top < d.2 then (s.fg hthBase Fld.HTH_DERATE_INLET_SLOPE : Int) * (d.2 - top) else 0
  (bFlow, bRise, dIn)

/-- B in 0.1 W: the survival budget during an emergency. -/
def pkgBudget (s : State) : Nat :=
  if emergency s then 600
  else
    let t := budgetTerms s
    let lim : Int := 10 * (s.fg hthBase Fld.HTH_LIMIT_LIMIT_W : Int)
    (max 600 (min lim (min t.1 t.2.1) - t.2.2)).toNat

/-- The pump request (R484): `p` is the package power in W. -/
def pumpDuty (s : State) (p : Nat) : Nat :=
  let d := coolDelta s
  let any := (List.range 4).any (fun i => coolWord s i == 0x8000) || !s.flowExcl.isEmpty
  if emergency s || any || decide (governFlow s < s.fg hthBase Fld.HTH_FLOW_THRESH_FULL)
      || decide (10 * (s.fg hthBase Fld.HTH_DERATE_RISE_THR : Int) < d.1) then 100
  else
    let lo := s.fg hthBase Fld.HTH_PUMP_DUTY_MIN
    let hi := s.fg hthBase Fld.HTH_PUMP_DUTY_MAX
    min 100 (lo + (hi - lo) * p / s.part.pCont)

/-! ### Floors, demands and the shares (R466 to R468, R473) -/

/-- FLOOR of a compute die at a guaranteed clock. -/
def dieFloor (s : State) (d mhz : Nat) : Nat :=
  let n := ((clustersOn d).filter (cluBooked s)).length
  cdiv (8000 + n * pointPower mhz + (8 - n) * 750) 100

/-- DEMAND of a compute die. -/
def dieDemand (s : State) (d : Nat) : Nat :=
  let n := ((clustersOn d).filter (cluRuns s)).length
  let idle := ((clustersOn d).filter fun c => !cluRuns s c && !cluNaps s c).length
  min (dieFull s.part) (80 + 100 * n + 6 * idle)

/-- The most Hearth grants a die: its full load, lowered by its cap but not below FLOOR. -/
def dieMost (s : State) (d floor : Nat) : Nat := max floor (dieFull s.part - getD 0 s.dieCap d)

/-- The compute share of B, as last recomputed; a die that sends no report is charged its full load (R467). -/
def computeShare (s : State) : Int :=
  let mute := fun (d : Nat) => !s.fb (hthBase + 8 * d) Fld.HTH_DIE_W1_REPORT_OK
  let charge := fun n =>
    if s.busBad.contains n || (n == 2 && mute 5) then consumerFull s.part n else (aget s.charges n).getD (consumerFull s.part n)
  let silent := (List.range s.part.dies).filter mute
  ((if s.hthBudget = 0 then pkgBudget s else s.hthBudget : Nat) : Int) - (sumN ((List.range 4).map charge) + 10 * s.fg hthBase Fld.HTH_MISC_HOST_W + dieFull s.part * silent.length : Nat)

/-- Insert into an ascending list. -/
def insertAsc (x : Nat) : List Nat → List Nat
  | [] => [x]
  | y :: ys => if x ≤ y then x :: y :: ys else y :: insertAsc x ys

/-- The level λ of R468 in whole 0.1 W over ascending slacks; none when every slack is met. -/
def fillLevel (rem : Nat) : List Nat → Option Nat
  | [] => none
  | x :: xs => if x * (xs.length + 1) ≤ rem then fillLevel (rem - x) xs else some (rem / (xs.length + 1))

/-- Dies whose reports Hearth holds. -/
def reporting (s : State) : List (Nat × DieRep) :=
  s.dieReps.filter fun e => s.part.fitted e.1 && s.fb (hthBase + 8 * e.1) Fld.HTH_DIE_W1_REPORT_OK

/-- What a reporting die may take beyond its FLOOR. -/
def dieSlack (s : State) (e : Nat × DieRep) : Nat := min e.2.demand (dieMost s e.1 e.2.floor) - e.2.floor

/-- A reporting die's budget: its FLOOR, and its part of what remains. -/
def dieGrant (s : State) (e : Nat × DieRep) : Nat :=
  let rs := reporting s
  let rem := computeShare s - (sumN (rs.map fun r => r.2.floor) : Nat)
  if rem < 0 then e.2.floor
  else match fillLevel rem.toNat ((rs.map (dieSlack s)).foldl (fun l x => insertAsc x l) []) with
    | none => e.2.floor + dieSlack s e
    | some l => e.2.floor + min (dieSlack s e) l

/-- The answer to an agent's report. -/
def budgetFor (s : State) (d : Nat) : BudgetMsg :=
  let rot := b2n (s.fb dspBase Fld.DSP_CTL_ROT_EN) * 4
  let therm := b2n (s.thermDies.contains d) * 2
  if emergency s then ⟨d, survival s.part d, 1 + therm + rot⟩
  else if d < 4 then
    match aget s.dieReps d with
    | some r => ⟨d, dieGrant s (d, r), therm + rot⟩
    | none => ⟨d, dieFull s.part, therm + rot⟩
  else ⟨d, consumerFull s.part 2, therm + rot⟩

/-- Do the FLOORs exceed the compute share (R473)? -/
def floorsShort (s : State) : Bool :=
  decide (computeShare s < ((sumN ((reporting s).map fun r => r.2.floor) : Nat) : Int))

/-- With GUAR_AUTO, ADM_CLK_GUAR falls to the highest point at which the FLOORs fit, once no booking's image assumes a
higher clock (R328, R473). -/
def lowerGuar (s : State) : State :=
  let cur := s.fg admBase Fld.ADM_CLK_GUAR_MHZ
  let fits := fun mhz => decide (((sumN ((reporting s).map fun r => dieFloor s r.1 mhz) : Nat) : Int) ≤ computeShare s)
  let free := fun mhz => (steps s).all fun e => !e.2.2.booking || decide (imgMinClk s (stepImg s e.2.2) ≤ mhz)
  if s.fb hthBase Fld.HTH_CTL_GUAR_AUTO && s.fb hthBase Fld.HTH_STS_BUDGET_SHORT then
    match [2200, 2000, 1800, 1600, 1400, 1200, 1000, 800].find? fun m => decide (m < cur) && fits m with
    | some m => if free m then s.fs admBase Fld.ADM_CLK_GUAR_MHZ m else s
    | none => s
  else s

/-- One pass of Hearth's main loop, which runs every 100 µs (R465, R472, R473, R482). -/
def hearthPass (p : Nat) (s : State) : State :=
  let b := pkgBudget s
  let t := budgetTerms s
  let full : Int := 10 * (s.part.pCont : Int)
  let derated : Bool := decide (t.1 < full) || decide (t.2.1 < full) || decide (0 < t.2.2)
  let s1 : State := { s with hthBudget := b }
  let s2 : State := s1.fs hthBase Fld.HTH_STS_BUDGET_W (min 1023 (b / 10))
  let s3 : State := s2.fs hthBase Fld.HTH_LIMIT_POWER_W p
  let s4 : State := if s3.fg hthBase Fld.HTH_STS_COOL = 2 then s3 else s3.fs hthBase Fld.HTH_STS_COOL (b2n derated)
  let s5 : State := s4.fs hthBase Fld.HTH_COOL_FLOW_DUTY (pumpDuty s4 p)
  lowerGuar (setShort s5 4 (floorsShort s5))

/-- Hearth's main loop, every 100 µs; `p` is the package power of the last 100 ms in W. -/
def execBudgetRecompute (p : Nat) (s : State) : Host.Outcome State Fault Refusal :=
  .next (if !s.fb hthBase Fld.HTH_CTL_EN || dieHeld s 4 then s else hearthPass p s)

/-! ### Messages with the agents (R467) -/

/-- Body of a report MSG from byte 8 on. -/
def reportWords (d seq pw demand floor : Nat) (tmax : Int) (flags : Nat) : List Nat :=
  [1 + d * 2 ^ 8 + seq % 2 ^ 16 * 2 ^ 16 + pw % 2 ^ 16 * 2 ^ 32 + demand % 2 ^ 16 * 2 ^ 48,
   floor % 2 ^ 16 + enc16 tmax * 2 ^ 16 + flags % 2 ^ 8 * 2 ^ 32]

/-- Body of a budget MSG. -/
def budgetWords (m : BudgetMsg) : List Nat := [2 + m.budget % 2 ^ 16 * 2 ^ 32 + m.flags % 2 ^ 8 * 2 ^ 48]

/-- Flags of a report: a tripped cluster, an excluded pair, a suspect pair. -/
def reportFlags (s : State) (d : Nat) : Nat :=
  let ps := List.range (pairCount d)
  b2n (s.fb (agBase d) Fld.HTH_AG_STS_TRIPPED) + 2 * b2n (ps.any (pairGone s d))
    + 4 * b2n (ps.any fun p => bit (s.rd (snsAddr d (pairSns d p).1)) 19)

/-- Hearth takes a report and answers it. -/
def hearthTakes (s : State) (d pw demand floor : Nat) (tmax : Int) : State :=
  let b := hthBase + 8 * d
  let s := ((s.fs b Fld.HTH_DIE_W0_POWER_DW pw).fs b Fld.HTH_DIE_W1_TMAX (enc16 tmax)).fs b Fld.HTH_DIE_W1_REPORT_OK 1
  let s := { s with dieReps := aput s.dieReps d ⟨s.nowUs, pw, demand, floor⟩ }
  let m := budgetFor s d
  let s := setShort (s.fs b Fld.HTH_DIE_W0_BUDGET_DW m.budget) 4 (floorsShort s)
  { s with budgetMsgs := s.budgetMsgs ++ [m] }

/-- An agent's report: `pw` is its power of the last 100 µs. It reaches Hearth when its MSG can pass. -/
def execAgentReport (d pw : Nat) (s : State) : Host.Outcome State Fault Refusal :=
  .next (if dieHeld s d || (decide (d < 4) && !s.part.fitted d) then s
    else
      let b := agBase d
      let floor := if d < 4 then dieFloor s d (s.fg admBase Fld.ADM_CLK_GUAR_MHZ) else 0
      let demand := if d < 4 then dieDemand s d else 0
      let s := ((s.fs b Fld.HTH_AG_STS_POWER_DW pw).fs b Fld.HTH_AG_FLOOR_FLOOR_DW floor).fs b Fld.HTH_AG_FLOOR_DEMAND_DW demand
      let s := { s with agSeq := setD 0 s.agSeq d ((getD 0 s.agSeq d + 1) % 65536) }
      let tmax := (hottest (govern s d)).getD 0
      if !dieHeld s 4 && dieMsgCan s d 4 then
        let s := sendDieMsg s d 4 (reportWords d (getD 0 s.agSeq d) pw demand floor tmax (reportFlags s d))
        if s.fb hthBase Fld.HTH_CTL_EN then hearthTakes s d pw demand floor tmax else s
      else s)

/-- Remove the first budget MSG for a die. -/
def takeBudget (d : Nat) : List BudgetMsg → List BudgetMsg
  | [] => []
  | m :: ms => if m.die = d then ms else m :: takeBudget d ms

/-- An agent receives its budget, once the MSG can pass; one for a die in reset is lost. -/
def execBudgetMsg (d : Nat) (s : State) : Host.Outcome State Fault Refusal :=
  .next (match s.budgetMsgs.find? fun m => m.die == d with
    | none => s
    | some m =>
      let t := { s with budgetMsgs := takeBudget d s.budgetMsgs }
      if dieHeld s d then t
      else if !dieMsgCan s 4 d then s
      else
        let s := sendDieMsg t 4 d (budgetWords m)
        let b := agBase d
        let s := { s with agBudgetAt := setD 0 s.agBudgetAt d s.nowUs, agRot := setD true s.agRot d (bit m.flags 2) }
        let s := (s.fs b Fld.HTH_AG_STS_BUDGET_DW m.budget).fs b Fld.HTH_AG_STS_SURVIVAL (b2n (bit m.flags 0))
        if bit m.flags 1 then holdDie s d else s.fs b Fld.HTH_AG_STS_THERMAL 0)

/-- An agent applies its survival budget. -/
def applySurvival (s : State) (d : Nat) : State :=
  (s.fs (agBase d) Fld.HTH_AG_STS_BUDGET_DW (survival s.part d)).fs (agBase d) Fld.HTH_AG_STS_SURVIVAL 1

/-- No budget MSG for 1 ms. -/
def execBudgetStale (d : Nat) (s : State) : Host.Outcome State Fault Refusal :=
  .next (if !dieHeld s d && !s.fb (agBase d) Fld.HTH_AG_STS_SURVIVAL && decide (getD 0 s.agBudgetAt d + 1000 ≤ s.nowUs) then
      applySurvival s d
    else s)

/-- No report for 300 µs: Hearth charges the die its full load. -/
def execReportMiss (d : Nat) (s : State) : Host.Outcome State Fault Refusal :=
  let last := match aget s.dieReps d with | some r => r.since | none => 0
  .next (if s.fb hthBase Fld.HTH_CTL_EN && !dieHeld s 4 && (agents s).contains d && decide (last + 300 ≤ s.nowUs) then
      (s.fs (hthBase + 8 * d) Fld.HTH_DIE_W1_REPORT_OK 0).fs hthBase Fld.HTH_ERR_REPORT_MISS 1
    else s)

/-- The coolant monitor's clamp MSG reaches an agent: the survival budget, and no filler. -/
def execClampMsg (d : Nat) (s : State) : Host.Outcome State Fault Refusal :=
  .next (if !s.clampMsgs.contains d || (!dieHeld s d && !dieMsgCan s 4 d) then s
    else
      let s := State.noFill { s with clampMsgs := s.clampMsgs.filter fun x => !(x == d) } fun c => c / 8 == d
      if dieHeld s d then s else applySurvival (sendDieMsg s 4 d [3]) d)

/-! ### The sensors' sample (R477, R478, R485) -/

/-- Store one reading; a faulty sensor is excluded until the next die reset. -/
def snsStore (d : Nat) (s : State) (x : Nat × Int × Nat) : State :=
  let i := x.1
  let key := 32 * d + i
  let bad := decide (1600 < x.2.1) || decide (x.2.1 < -600) || !(x.2.2 % 4 == 0)
  let new := bad && !s.snsExcl.contains key
  let s := if new then ({ s with snsExcl := s.snsExcl ++ [key] } : State).fs hthBase Fld.HTH_ERR_JUNC_EXCL 1 else s
  let ok := !s.snsExcl.contains key
  let a := snsAddr d i
  s.wr a (setBits (enc16 x.2.1 + b2n ok * 2 ^ 16 + x.2.2 % 4 * 2 ^ 17) 19 19 (bits (s.rd a) 19 19))

/-- A pair becomes SUSPECT after 10 ms of differing by more than 6 K, and leaves it after 100 ms within 4 K. -/
def pairCheck (d : Nat) (s : State) (p : Nat) : State :=
  let key := 16 * d + p
  let x := pairSns d p
  let sus := bit (s.rd (snsAddr d x.1)) 19
  let mark := fun (t : State) (v : Nat) =>
    let t := t.wr (snsAddr d x.1) (setBits (t.rd (snsAddr d x.1)) 19 19 v)
    t.wr (snsAddr d x.2) (setBits (t.rd (snsAddr d x.2)) 19 19 v)
  match snsTemp s d x.1, snsTemp s d x.2 with
  | some a, some b =>
    let gap := (a - b).natAbs
    if (if sus then gap ≤ 40 else 60 < gap) then
      match aget s.pairT key with
      | none => { s with pairT := aput s.pairT key s.nowUs }
      | some t =>
        if sus = false ∧ t + 10000 < s.nowUs then
          (mark { s with pairT := adel s.pairT key } 1).fs hthBase Fld.HTH_ERR_JUNC_SUSPECT 1
        else if sus = true ∧ t + 100000 ≤ s.nowUs then mark { s with pairT := adel s.pairT key } 0
        else s
    else { s with pairT := adel s.pairT key }
  | _, _ => { s with pairT := adel s.pairT key }

/-- A cluster without a valid engine sensor: 800 MHz, duty 1/16, and no booked work (R477). -/
def cluBlind (s : State) (c : Nat) : State :=
  if s.noBook.contains c then s
  else
    let s := { s with noBook := s.noBook ++ [c] }
    let s := setDuty (if 800 < tgtMhz s c then setTgt s c 800 else s) c 0
    let s := (steps s).foldl (fun t e =>
      if onCores e.2.1 && decide (0 < e.2.2.promised) && e.2.2.cores.any fun k => k / 8 == c then
        t.setCmd e.1 { e.2.1 with breach := true, step := some { e.2.2 with promised := 0 } }
      else t) s
    (rangeFrom (8 * c) 8).foldl (fun t k => coreOut t k (unitOfClu c)) s

/-- The gate at 125 °C: it closes without firmware and opens at 115 °C. -/
def tripCheck (s : State) (c : Nat) : State :=
  match cluTemp s c with
  | none => s
  | some t =>
    let on := s.tripped.contains c
    let s : State := if !on && decide (1250 ≤ t) then ({ s with tripped := s.tripped ++ [c] } : State).fs hthBase Fld.HTH_ERR_TRIP 1
      else if on && decide (t ≤ 1150) then { s with tripped := s.tripped.filter fun x => !(x == c) } else s
    s.fs (agBase (c / 8)) Fld.HTH_AG_STS_TRIPPED (b2n (s.tripped.any fun x => x / 8 == c / 8))

/-- Hottest governing reading of the dies that run a step. -/
def hottestRunning (s : State) : Option Int :=
  hottest (((List.range s.part.dies).filter fun d => (clustersOn d).any (cluRuns s)).flatMap (govern s))

/-- Filler starts or stops on a cluster by its distance from the hottest reading (R485); what holds the die's power under
R486 stays. -/
def fillerCheck (s : State) (c : Nat) : State :=
  let delta : Int := 10 * (s.fg hthBase Fld.HTH_TEMP_WARM_DELTA : Int)
  let allowed := s.fb hthBase Fld.HTH_CTL_WARM_EN && !cluRuns s c && !cluNaps s c && !emergency s && !s.dozeHold.contains c
  let off := s.noFill fun x => x == c
  match hottestRunning s, cluTemp s c with
  | some h, some t =>
    if !allowed then off
    else if s.filler.contains c then (if h - t ≤ delta - 50 ∧ s.rampFill.contains c = false then off else s)
    else if delta < h - t then startFill s c else s
  | _, _ => if allowed && s.rampFill.contains c then s else off

/-- An agent's sample of its sensors: readings and their open and short flags, in sensor order. -/
def execThermalSample (d : Nat) (ts : List Int) (fl : List Nat) (s : State) : Host.Outcome State Fault Refusal :=
  .next (if dieHeld s d || (decide (d < 4) && !s.part.fitted d) then s
    else
      let n := min (snsCount d) ts.length
      let s := ((List.range n).map fun i => (i, ts.getD i 0, fl.getD i 0)).foldl (snsStore d) s
      let s := (List.range (pairCount d)).foldl (pairCheck d) s
      let s := if d < 4 then ((List.range 8).filter (pairGone s d)).foldl (fun t p => cluBlind t (8 * d + p)) s else s
      let g := govern s d
      let s := if g.any fun t => decide (tjTarget s - 50 < t) then { s with hotAt := aput s.hotAt d s.nowUs } else s
      let s := if d < 4 then (clustersOn d).foldl tripCheck s else s
      let s := if d < 4 ∧ atTarget s d = true then (reduceOnce s d).getD s else s
      let s := if g.any fun t => decide (tjEmerg s ≤ t) then thermalEmergency s [d] else s
      if d < 4 then (clustersOn d).foldl fillerCheck s else s)

/-- A cluster that has run no step and no filler for 10 µs enters Doze (R474). -/
def execDozeEntry (c : Nat) (s : State) : Host.Outcome State Fault Refusal :=
  .next (if decide (10 ≤ (aget s.cluIdle c).getD 0) && !cluRuns s c && !s.filler.contains c && s.fg (cluBase c) Fld.CLU_STS_PWR == 0
      && !dieHeld s (c / 8) then s.fs (cluBase c) Fld.CLU_STS_PWR 1 else s)

/-! ### Hot memory (R211 to R214, R479) -/

/-- Is a channel of the die at the doubled rate without being forced there? -/
def hotChannel (s : State) (d : Nat) : Bool :=
  (List.range 16).any fun c => s.fb (memBase d + 0x100 * c) Fld.MEM_CH_STS_REF2X && !s.fb (memBase d + 0x100 * c) Fld.MEM_CH_CTL_REF_FORCE2X

/-- The die's cap falls by 4 W, down to its FLOOR. -/
def execDramHotDerate (d : Nat) (s : State) : Host.Outcome State Fault Refusal :=
  .next (if hotChannel s d && decide (getD 0 s.capAt d + 10000 ≤ s.nowUs) then
      let most := dieFull s.part - dieFloor s d (s.fg admBase Fld.ADM_CLK_GUAR_MHZ)
      let s := { s with dieCap := setD 0 s.dieCap d (min most (getD 0 s.dieCap d + 40)), capAt := setD 0 s.capAt d s.nowUs }
      s.fs hthBase Fld.HTH_ERR_DRAM_HOT 1
    else s)

/-- The cap rises by 4 W every 100 ms once no channel refreshes at the doubled rate. -/
def execDramHotCapRaise (d : Nat) (s : State) : Host.Outcome State Fault Refusal :=
  .next (if !((List.range 16).any fun c => s.fb (memBase d + 0x100 * c) Fld.MEM_CH_STS_REF2X) && decide (getD 0 s.capAt d + 100000 ≤ s.nowUs)
      && decide (0 < getD 0 s.dieCap d) then
      { s with dieCap := setD 0 s.dieCap d (getD 0 s.dieCap d - 40), capAt := setD 0 s.capAt d s.nowUs }
    else s)

/-- A refresh window of a channel: every bank closes; every eighth window reads MR4. -/
def execRefreshWindow (d ch mr4 : Nat) (s : State) : Host.Outcome State Fault Refusal :=
  let b := memBase d + 0x100 * ch
  .next (if dieHeld s d || !s.fb b Fld.MEM_CH_STS_TRAINED || s.fb b Fld.MEM_CH_STS_SR then s
    else
      let s := s.faddWrap b Fld.MEM_CH_REFCNT_COUNT 1
      let s := { s with openRows := kdrop (fun k => k / 16 == 16 * d + ch) s.openRows,
                        checkBurst := kdrop (fun k => k / 16 == 16 * d + ch) s.checkBurst }
      if s.fg b Fld.MEM_CH_REFCNT_COUNT % 8 ≠ 0 then s
      else
        let s := syncRefresh (s.fs b Fld.MEM_CH_STS_MR4_RATE mr4) b
        if s.fb b Fld.MEM_CH_STS_REF4X then thermalEmergency (s.fs (memBase d) Fld.MEM_DIE_ERR_HOT4X 1) [d] else s)

/-! ### Coolant (R480 to R483) -/

/-- A pulse on a flow input: its period is kept, and the no-pulse timer starts again. -/
def execFlowPulse (i : Nat) (s : State) : Host.Outcome State Fault Refusal :=
  .next (let now := s.nowUs
    let old := s.flowPeriods.filter fun p => decide (now ≤ p.ended + 500000)
    { s with flowPeriods := (match aget s.flowLast i with | some t => old ++ [⟨i, now, now - t⟩] | none => old),
             flowLast := aput s.flowLast i now })

/-- Has an input had no pulse for NOPULSE_MS? -/
def flowSilent (s : State) (i : Nat) : Bool :=
  decide ((aget s.flowLast i).getD 0 + 1000 * s.fg hthBase Fld.HTH_LOSS_NOPULSE_MS ≤ s.nowUs)

/-- Flow of an input: from the mean pulse period of the last 500 ms; 0 when it is silent, the last reading when no period
ended in that time. -/
def flowOf (s : State) (i : Nat) : Nat :=
  let ps := s.flowPeriods.filter fun p => p.input == i && decide (s.nowUs ≤ p.ended + 500000)
  let total := sumN (ps.map (·.span))
  if flowK s i = 0 ∨ flowSilent s i = true then 0
  else if total = 0 then flowRead s i
  else min 1023 (6000000000 * ps.length / (flowK s i * total))

/-- Is the least-squares slope of the outlet samples above `rate` in 0.01 K/s? -/
def slopeAbove (xs : List (Nat × Int)) (rate : Nat) : Bool :=
  match xs with
  | [] => false
  | x :: _ =>
    let ps := xs.map fun p => (((p.1 - x.1 : Nat) : Int), p.2)
    let n : Int := ps.length
    let st := ps.foldl (fun a p => a + p.1) 0
    let sy := ps.foldl (fun a p => a + p.2) 0
    let stt := ps.foldl (fun a p => a + p.1 * p.1) 0
    let sty := ps.foldl (fun a p => a + p.1 * p.2) 0
    let den := n * stt - st * st
    decide (0 < den) && decide ((rate : Int) * den < (n * sty - st * sy) * 10000000)

/-- One advisory: written when its condition appears, rearmed after 10 s without it. -/
def advise (s : State) (kind : Nat) (on : Bool) : State :=
  if on then
    let new := (aget s.advs kind).isNone
    let s := { s with advs := aput s.advs kind s.nowUs }
    if new then (s.faddSat hthBase Fld.HTH_ADV_CNT_COUNT 1).event 0x70 (governFlow s) 0 else s
  else match aget s.advs kind with
    | some t => if t + 10000000 ≤ s.nowUs then { s with advs := adel s.advs kind } else s
    | none => s

/-- Store a thermistor's reading; open above 50 × RNOM, short below RNOM / 50. -/
def thermStore (s : State) (x : Nat × Nat) : State :=
  let rn := s.fg hthBase Fld.HTH_THERM_RNOM
  let bad := decide (50 * rn < x.2) || decide (50 * x.2 < rn)
  let w := if bad then 0x8000 else enc16 (Config.ntcTemp x.2 rn (s.fg hthBase Fld.HTH_THERM_BETA))
  let f := match x.1 with
    | 0 => Fld.HTH_COOL_IN_T0 | 1 => Fld.HTH_COOL_IN_T1 | 2 => Fld.HTH_COOL_OUT_T0 | _ => Fld.HTH_COOL_OUT_T1
  let s := s.fs hthBase f w
  if bad then s.fs hthBase Fld.HTH_ERR_THERM_EXCL 1 else s

/-- The flow inputs' readings and exclusions. -/
def flowStore (s : State) : State :=
  let s := (s.fs hthBase Fld.HTH_COOL_FLOW_FLOW0 (flowOf s 0)).fs hthBase Fld.HTH_COOL_FLOW_FLOW1 (flowOf s 1)
  let ex := (flowOn s).filter fun i => flowRead s i == 0 && (flowOn s).any fun j => !(j == i) && decide (flowFloor s ≤ flowRead s j)
  let s := { s with flowExcl := ex }
  if ex.isEmpty then s else s.fs hthBase Fld.HTH_ERR_FLOW_SENSOR 1

/-- The 10 ms sample: `rs` are the resistances of the two inlet and two outlet thermistors in ohms. -/
def execCoolantSample (rs : List Nat) (s : State) : Host.Outcome State Fault Refusal :=
  .next (if dieHeld s 4 then s
    else
      let s := flowStore (((List.range 4).map fun i => (i, rs.getD i 0)).foldl thermStore s)
      let keep := s.outSamples.filter fun x => decide (s.nowUs ≤ x.1 + 500000)
      let s := { s with outSamples := match maxTemp (coolTemp s 2) (coolTemp s 3) with | some t => keep ++ [(s.nowUs, t)] | none => keep }
      let low := (flowOn s).any fun i => decide (flowRead s i < flowFloor s)
      let s := if low || slopeAbove s.outSamples 50 then { s with coolBadAt := s.nowUs } else s
      let thr : Int := 10 * (s.fg hthBase Fld.HTH_DERATE_RISE_THR : Int)
      let conds := [(0, decide (governFlow s < s.fg hthBase Fld.HTH_FLOW_THRESH_ADVISE)), (1, decide (thr < (coolDelta s).1)),
        (2, s.flowExcl.contains 0), (3, s.flowExcl.contains 1)] ++ (List.range 4).map fun i => (4 + i, coolWord s i == 0x8000)
      let s := conds.foldl (fun t x => advise t x.1 x.2) s
      let s := s.fs hthBase Fld.HTH_STS_ADVISORY (b2n (conds.any (·.2)))
      if slopeAbove s.outSamples (s.fg hthBase Fld.HTH_LOSS_RATE) then coolantEmergency s Fld.HTH_ERR_RISE_RATE else s)

/-- No enabled flow input has delivered a pulse for NOPULSE_MS. -/
def execCoolantNoFlow (s : State) : Host.Outcome State Fault Refusal :=
  .next (if dieHeld s 4 || (flowOn s).isEmpty || !(flowOn s).all (flowSilent s) then s else coolantEmergency s Fld.HTH_ERR_NO_FLOW)

/-- Flow and slope have been good for 2 s. -/
def execCoolantEmergencyEnd (s : State) : Host.Outcome State Fault Refusal :=
  .next (if s.fg hthBase Fld.HTH_STS_COOL = 2 ∧ s.coolBadAt + 2000000 ≤ s.nowUs then
      hearthResume (s.fs hthBase Fld.HTH_STS_COOL 0)
    else s)

/-! ### Regulators and the limit (R465, R475) -/

/-- A regulator's telemetry, after up to three tries: `iout` in 0.1 A, and the consumer's average power in 0.1 W. -/
def execPmbusTelemetry (i : Nat) (ok : Bool) (iout con dw : Nat) (s : State) : Host.Outcome State Fault Refusal :=
  let b := hthBase + 4 * i
  .next (if !s.fb hthBase Fld.HTH_CTL_EN || !s.fb b Fld.HTH_REG_EN || s.fb b Fld.HTH_REG_AVS then s
    else if ok then
      { s.fs b Fld.HTH_REG_IOUT_DA iout with charges := aput s.charges con dw, busBad := s.busBad.filter fun x => !(x == con) }
    else ({ s with busBad := if s.busBad.contains con then s.busBad else s.busBad ++ [con] } : State).fs hthBase Fld.HTH_ERR_BUS_FAULT 1)

def execPowerLimit (tg : Nat) (s : State) : Host.Outcome State Fault Refusal :=
  cmdDo s tg 0x41 true fun c s =>
    let w := max 60 (min s.part.pCont (c.par 16 4))
    finishCmd (s.fs hthBase Fld.HTH_LIMIT_LIMIT_W w) tg 0 0 w

end Sys2Proof.Machine
end

