-- ==== Sys2Proof/Machine/HostPort.lean ====
section
/-!
DEFINITION. Machine/HostPort.lean: requests to DRAM and their responses, the host port's modules, sideband parameters,
firewall and doorbells (R244, R256 to R268, R295).
-/
namespace Sys2Proof.Machine

open Sys2Proof

/-! ### Requests and responses -/

/-- A response to a request that is not among the open ones. -/
def respond (s : State) (r : Req) (kind : RespKind) (code : Nat) (data : List Byte) : State :=
  { s with resps := s.resps ++ [r.resp s kind code data] }

/-- A request passes the links to its destination, metered where it enters each path (R353). -/
def passReq (s : State) (r : Req) : Req × State :=
  let es := reqPath s r.ini r.addr
  ({ r with path := es }, passAll (meterLinks s r) es 0 (packed (reqMsgs r)))

/-- Must a request wait at its port: behind an earlier one of its initiator, for its route's change (R242), or for
credits? -/
def reqWaits (s : State) (r : Req) : Bool :=
  let f := iniDie r.ini
  (s.reqs.any fun x => x.stage == .port && x.ini == r.ini)
    || decide (f < 4) && spaceDie s r.addr == (f + 2) % 4 && s.fb (ddlBase f) Fld.DDL_ROUTE_CHG_BUSY
    || !canPass s (reqPath s r.ini r.addr) 0 (packed (reqMsgs r)).1

/-- A request to DRAM that has passed its links waits at the system cache or at its memory port. -/
def queueReq (s : State) (r : Req) : State :=
  if (scGroup r.ini).isSome then { s with reqs := s.reqs ++ [{ r with stage := .iod }] }
  else { s with reqs := s.reqs ++ [{ r with stage := .mem, todo := reqLines s r }] }

/-- A request to DRAM from a host or span port: refused, held at the port, or queued. -/
def portReq (s : State) (r : Req) : State :=
  let c := accCheck s r.ini r.addr r.len r.write
  match c.1 with
  | some e => respond c.2 r .err e []
  | none =>
    if reqWaits c.2 r then { c.2 with reqs := c.2.reqs ++ [r] }
    else let p := passReq c.2 r; queueReq p.2 p.1

/-- Is the response stale (R244): its request was issued before the requester's domain took a new generation, or its
context has taken one? -/
def staleResp (s : State) (r : Resp) : Bool :=
  !(r.dgen == iniGen s r.ini)
    || ((r.kind == .data || r.kind == .poison) && !(r.ctx == 0) && !(r.cgen == (s.ctx r.ctx).gen))

def respKindName (k : RespKind) : String := match k with | .data => "RDRSP" | .poison => "RDRSP_POISON" | .ack => "WRACK" | .err => "ERRRSP" | .sem => "SEMRSP"

/-- The end a response leaves the package on, if it does. -/
def respEnd (r : Resp) : Option Nat :=
  if 0xE00 ≤ r.ini then some (26 + r.mod % 4) else if r.ini = 0x806 ∨ r.ini = 0x807 then some (30 + r.mod % 4) else none

/-- The data bytes a response carries: nobody uses a poisoned one's, which the spec leaves undefined (R215). -/
def respBytes (s : State) (r : Resp) : List Byte :=
  if r.kind = .poison then (List.range r.len).map fun i => Config.freeByte s.fresh i else r.data

/-- The messages of a response inside the package, where data goes in parts of 64 bytes. -/
def dieResp (s : State) (r : Resp) : Nat × List Byte := packed (respMsgs r 64 (respBytes s r))

/-- The messages of a response that leaves the package: on a span link each goes after its span word, with the hops to
the source package as TTL (R247, R252). -/
def outResp (s : State) (r : Resp) : Nat × List Byte :=
  let ms := respMsgs r 256 (respBytes s r)
  if 0xE00 ≤ r.ini then packed ms
  else
    let dst := r.mod / 4
    let hops := bits (s.rd (spnBase + Reg.SPN_ROUTE + 4 * dst)) 9 4
    packed (ms.map fun m => spanWord dst (s.fg spnBase Fld.SPN_PKG_ID_ID) hops ++ m)

/-- May the response pass the way back of its request, and leave the package where it does? -/
def respGoes (s : State) (r : Resp) : Bool :=
  canPass s r.path 1 (dieResp s r).1 && (match respEnd r with
    | some e => staleResp s r || canSend s e 1 (outResp s r).1
    | none => true)

/-- A response reaches its requester, or is dropped there; the links' units are freed in either case. -/
def deliver (s : State) (r : Resp) : State :=
  let t := passAll { s with resps := s.resps.erase r } r.path 1 (dieResp s r)
  let t := if r.kind = .poison then { t with fresh := t.fresh + 1 } else t
  if staleResp s r then t
  else
    let t := if 0xE00 ≤ r.ini ∧ r.kind = .poison then t.fs hpBase Fld.HP_ERR_POISON_OUT 1 else t
    let ws := r.txid :: r.code :: r.data.map (·.toNat)
    match respEnd r with
    | some e => (sendFlit t e 1 (outResp s r).1 (outResp s r).2).emit (respKindName r.kind) r.ini (r.mod :: ws)
    | none => t.emit (respKindName r.kind) r.ini ws

/-- The first response of an initiator with this TXID and kind, if its links can take it. -/
def takeResp (s : State) (ini txid : Nat) (p : RespKind → Bool) : State :=
  match s.resps.find? fun r => r.ini == ini && r.txid == txid && p r.kind with
  | none => s
  | some r => if respGoes s r then deliver s r else s

def execRdrsp (ini txid : Nat) (s : State) : Host.Outcome State Fault Refusal :=
  .next (takeResp s ini txid fun k => k == .data || k == .poison || k == .sem)
def execWrack (ini txid : Nat) (s : State) : Host.Outcome State Fault Refusal := .next (takeResp s ini txid fun k => k == .ack)
def execErrrsp (ini txid : Nat) (s : State) : Host.Outcome State Fault Refusal := .next (takeResp s ini txid fun k => k == .err)

/-! ### Sideband and modules (R257, R259, R265) -/

/-- HP_STS.MOD_UP follows the modules. -/
def syncHost (s : State) : State :=
  s.fs hpBase Fld.HP_STS_MOD_UP (sumN ((List.range 4).map fun m => if linkUp s (26 + m) then 2 ^ m else 0))

/-- What the package says of itself (R259). -/
def hostParams (s : State) : List Nat :=
  [1, (match s.part with | .dvx2300 => 0 | .dvx1150 => 1), 0xB0,
   s.fg hpBase Fld.HP_WIN_W0_BASE * 2 ^ 20 + s.fg hpBase Fld.HP_WIN_W1_SIZE_MB / 1024 * 2 ^ 48, s.fg cmdBase Fld.CMD_STS_FW_READY]

/-- A sideband parameter of the host die: 0 H_PROTO, 1 H_REQ_BITS, 2 H_VECTORS. The package answers H_PROTO with its
own parameters. -/
def execSidebandParam (p v : Nat) (s : State) : Host.Outcome State Fault Refusal :=
  .next (match p with
    | 0 => ({ s with hostProto := some v }.fs hpBase Fld.HP_STS_PROTO_MISMATCH (b2n !(v == 1))).emit "SIDEBAND" 0 (hostParams s)
    | 1 => s.fs hpBase Fld.HP_STS_REQ_BITS v
    | 2 => s.fs hpBase Fld.HP_STS_VECTORS v
    | _ => s)

/-- A module trains; `rx` and `tx` are the lanes that fail. Without version 1 on both sides it stays in training. -/
def execHostModuleTrain (m rx tx : Nat) (s : State) : Host.Outcome State Fault Refusal :=
  let b := hostBase m
  let e := 26 + m
  .next (if !bit (s.fg hpBase Fld.HP_CTL_MOD_EN) m || linkUp s e then s
    else if !(s.hostProto == some 1) then s.fs b Fld.HP_MOD_STS_STATE 1
    else
      let a := failedInto s e rx
      let c := failedFrom s e tx
      let w := chooseWidth a c
      let s := (s.fs b Fld.HP_MOD_STS_STATE w.1).fs b Fld.HP_MOD_STS_HALF_HI w.2.1
      let s := (s.fs b Fld.HP_MOD_STS_SPARES_RX (repairs a w.2.2.1 w.2.2.2).length).fs b Fld.HP_MOD_STS_SPARES_TX
        (repairs c w.2.2.1 w.2.2.2).length
      settleIslands (syncHost (if w.1 = 0 then s else openEnd s e (repairWord (repairs a w.2.2.1 w.2.2.2)))))

def isHost (ini : Nat) : Bool := decide (0xE00 ≤ ini)

/-- No module is up: every open host request is dropped, and the islands hear of it. -/
def hostLost (s : State) : State :=
  let s := { s with vc0 := [], notifyQ := [] }
  let s := { s with reqs := s.reqs.filter fun (r : Req) => !isHost r.ini }
  let s := { s with resps := s.resps.filter fun (r : Resp) => !isHost r.ini }
  (s.reportBoth 0x13 0).toMp 0x13 0

/-- A host module goes down: the messages of its unacknowledged flits go out on the lowest module that is up, and wait
there for credits; what came on it is answered there. -/
def hostDown (s : State) (m : Nat) : State :=
  let e := 26 + m
  let s := syncHost ((s.fs (hostBase m) Fld.HP_MOD_STS_STATE 0).fs hpBase Fld.HP_ERR_MOD_DOWN 1)
  let s := ledgerRebase s 4 0 e
  match hostModule s with
  | none => hostLost ((rangeFrom 26 4).foldl (fun t x => setEnd t x LinkEnd.down) s)
  | some n =>
    let s := reissue e (26 + n) 128 (setEnd s e { LinkEnd.down with unacked := (linkEnd s e).unacked })
    let s := { s with reqs := s.reqs.map fun (r : Req) => if isHost r.ini && r.mod % 4 == m then { r with mod := n } else r }
    let s := { s with resps := s.resps.map fun (r : Resp) => if isHost r.ini && r.mod % 4 == m then { r with mod := n } else r }
    { s with vc0 := s.vc0.map fun x => match x with
        | .host r => if r.mod = m then .host { r with mod := n } else x
        | .dbell k q o i => if k = m then .dbell n q o i else x
        | .head k q o i => if k = m then .head n q o i else x }

def execHostModuleDown (m : Nat) (s : State) : Host.Outcome State Fault Refusal :=
  .next (if linkUp s (26 + m) then hostDown s m else s)

/-! ### Firewall (R267, R268) -/

/-- Does window `i` admit the request? A window that covers anything but DRAM views passes nothing. -/
def winAdmits (s : State) (r : HostReq) (i : Nat) : Bool :=
  let b := winBase i
  let lo := s.fg b Fld.HP_WIN_W0_BASE * 2 ^ 20
  let n := s.fg b Fld.HP_WIN_W1_SIZE_MB * 2 ^ 20
  s.fb b Fld.HP_WIN_W3_EN && decide (lo ≤ r.addr) && decide (r.addr + r.len ≤ lo + n)
    && s.fb b (if r.write then Fld.HP_WIN_W3_WR else Fld.HP_WIN_W3_RD)
    && decide (s.fg b Fld.HP_WIN_W2_REQ_LO ≤ r.req) && decide (r.req ≤ s.fg b Fld.HP_WIN_W2_REQ_HI)
    && (decide (lo + n ≤ 0x002000000000) || (decide (0x004000000000 ≤ lo) && decide (lo + n ≤ 0x004800000000)))

/-- The fixed denials, judged on raw addresses. -/
def hostDenied (s : State) (r : HostReq) : Bool :=
  (rawRanges s r.addr r.len).any fun x =>
    (r.write && meetsAny x.1 x.2 (imageRanges s)) || meetsAny x.1 x.2 (pantryRanges s ++ dcRanges s ++ dumpRanges s)
      || !s.fb (memBase (rawDie x.1)) Fld.MEM_DIE_STS_INIT_DONE || decide (usableEnd s (rawDie x.1) < x.1 + x.2)

/-- A rejected request: the error bit and the first record. -/
def hostReject (s : State) (r : HostReq) : State :=
  let s := s.fs hpBase Fld.HP_ERR_FW_REJECT 1
  if s.fb hpBase Fld.HP_FW_LOG1_VALID then s
  else (s.wr (hpBase + Reg.HP_FW_LOG0) r.addr).wr (hpBase + Reg.HP_FW_LOG1)
    (r.addr / 2 ^ 32 % 2 ^ 16 + r.req * 2 ^ 16 + b2n r.write * 2 ^ 25 + 2 ^ 26)

/-- Is the message's length one of the SIZE codes, and a 256-byte access inside its 256 bytes (R262)? -/
def hostSizeOk (r : HostReq) : Bool :=
  (r.len == 4 || r.len == 32 || r.len == 64 || r.len == 256) && (!r.write || r.data.length == r.len)
    && (!(r.len == 256) || r.addr % 256 == 0)

/-- The request of a host message, under the initiator ID of its requester field (R41, R261). -/
def hostRequest (s : State) (r : HostReq) : Req :=
  { newReq s (0xE00 + r.req) r.txid r.write r.addr r.len r.data with mod := r.mod }

/-- Does the firewall pass the request (R267)? -/
def hostAdmits (s : State) (r : HostReq) : Bool := ((List.range 16).any (winAdmits s r)) && !hostDenied s r

/-- A host RD or WR at the port. -/
def takeHost (s : State) (r : HostReq) : State :=
  if !hostSizeOk r then respond (s.fs hpBase Fld.HP_ERR_PROTO 1) (hostRequest s r) .err 5 []
  else if hostAdmits s r then portReq s (hostRequest s r)
  else respond (hostReject s r) (hostRequest s r) .err 1 []

/-- May a WR of the requester that came on the module still be on its way to its memory (R264)? -/
def hostWrites (s : State) (m req : Nat) : Bool :=
  s.reqs.any fun r => r.write && r.ini == 0xE00 + req && r.mod == m && (r.stage == .port || r.stage == .iod || r.stage == .mem)

/-- May the queue manager or the port take a message: the doorbell buffer has room (R295), and a doorbell's earlier WRs
have been accepted and no activation still owes its reply (R537)? -/
def vc0Goes (s : State) (x : Vc0Msg) : Bool :=
  decide (s.pendDb.length < 512) && (match x with
    | .dbell m req _ _ | .head m req _ _ => !hostWrites s m req && s.act.isNone
    | .host _ => true)

def vc0Mod (x : Vc0Msg) : Nat := match x with | .dbell m _ _ _ | .head m _ _ _ => m | .host r => r.mod

/-- One message from a VC0 receive buffer. -/
def takeVc0 (s : State) (x : Vc0Msg) : State :=
  match x with
  | .dbell _ _ q i => takeDbell s q i
  | .head _ _ c i => takeHead s c i
  | .host r => takeHost s r

/-- The first message of each module's buffer. -/
def vc0Heads (xs : List Vc0Msg) : List Vc0Msg :=
  xs.foldl (fun acc x => if acc.any fun y => vc0Mod y == vc0Mod x then acc else acc ++ [x]) []

/-- Messages leave each module's buffer in order, as they may. -/
def drainVc0 : (fuel : Nat) → State → State
  | 0, s => s
  | n + 1, s =>
    match (vc0Heads s.vc0).find? (vc0Goes s) with
    | none => s
    | some x => drainVc0 n (takeVc0 { s with vc0 := s.vc0.erase x } x)

/-- The requester bits the host uses; the port clears those above H_REQ_BITS and those beyond nine (R258, R261). -/
def reqField (s : State) (req : Nat) : Nat := req % 2 ^ min 9 (s.fg hpBase Fld.HP_STS_REQ_BITS)

/-- A message arrives on a module: it takes its place in the module's VC0 buffer, and leaves it as it may. -/
def vc0In (s : State) (x : Vc0Msg) : State :=
  if !linkUp s (26 + vc0Mod x) then s
  else let t := { s with vc0 := s.vc0 ++ [x] }; drainVc0 t.vc0.length t

/-- A host RD (no data) or WR. -/
def execHostRequest (m req txid : Nat) (write : Bool) (addr len : Nat) (data : List Byte) (s : State) :
    Host.Outcome State Fault Refusal :=
  .next (vc0In s (.host ⟨m, reqField s req, txid, write, addr, len, if write then data else []⟩))

def execDbellQueue (m : HostSender) (q index : Nat) (s : State) : Host.Outcome State Fault Refusal :=
  .next (vc0In s (.dbell m.m (reqField s m.req) q index))

def execDbellCqHead (m : HostSender) (cq index : Nat) (s : State) : Host.Outcome State Fault Refusal :=
  .next (vc0In s (.head m.m (reqField s m.req) cq index))

/-- The first buffered doorbell's descriptor has arrived: it is applied, and the port flows again. -/
def execPendingDoorbellApply (s : State) : Host.Outcome State Fault Refusal :=
  .next (if s.fb qmBase Fld.QM_CTL_EN then
      let t := applyPending s
      drainVc0 t.vc0.length t
    else s)

/-- A write of the HP_ block that its port has admitted. -/
def hpRegWrite (s : State) (off v : Nat) (spec : Option (RegSpec × Nat × Nat)) : State :=
  if off = Reg.HP_FW_CLR then
    (if bit v 0 then (s.wr (hpBase + Reg.HP_FW_LOG0) 0).wr (hpBase + Reg.HP_FW_LOG1) 0 else s)
  else regStore s (hpBase + off) v spec

end Sys2Proof.Machine
end

