-- ==== Sys2Proof/Machine/FusionMath.lean ====
section
/-!
DEFINITION. Machine/FusionMath.lean: the arithmetic of the fusion units (R394, R400, R407): every operation is rounded
to its format with RNE, vectors are lists of three values, quaternions of four (w, x, y, z).
-/
namespace Sys2Proof.Machine

open Sys2Proof

def fzero : FVal := .fin false 0 0
def fone : FVal := .fin false 1 0
def ftwo : FVal := .fin false 2 0
def fhalf : FVal := .fin false 1 (-1)

def fadd (f : FFmt) (a b : FVal) : FVal := f.round .rne (a.add b)
def fsub (f : FFmt) (a b : FVal) : FVal := f.round .rne (a.sub b)
def fmul (f : FFmt) (a b : FVal) : FVal := f.round .rne (a.mul b)
/-- Sum from left to right. -/
def fsum (f : FFmt) : List FVal → FVal
  | [] => fzero
  | x :: xs => xs.foldl (fadd f) x

def vx (v : List FVal) : FVal := v.getD 0 fzero
def vy (v : List FVal) : FVal := v.getD 1 fzero
def vz (v : List FVal) : FVal := v.getD 2 fzero
def vw (v : List FVal) : FVal := v.getD 3 fzero

def vadd (f : FFmt) (a b : List FVal) : List FVal := (a.zip b).map fun p => fadd f p.1 p.2
def vsub (f : FFmt) (a b : List FVal) : List FVal := (a.zip b).map fun p => fsub f p.1 p.2
def vmul (f : FFmt) (k : FVal) (a : List FVal) : List FVal := a.map fun x => fmul f x k
def vdiv (f : FFmt) (a : List FVal) (k : FVal) : List FVal := a.map fun x => divF f x k
def dotV (f : FFmt) (a b : List FVal) : FVal := fsum f ((a.zip b).map fun p => fmul f p.1 p.2)
def normV (f : FFmt) (a : List FVal) : FVal := sqrtF f (dotV f a a)
def crossV (f : FFmt) (a b : List FVal) : List FVal :=
  [fsub f (fmul f (vy a) (vz b)) (fmul f (vz a) (vy b)), fsub f (fmul f (vz a) (vx b)) (fmul f (vx a) (vz b)),
   fsub f (fmul f (vx a) (vy b)) (fmul f (vy a) (vx b))]

/-- A quaternion over its norm. -/
def normQ (f : FFmt) (q : List FVal) : List FVal := vdiv f q (normV f q)

/-- The product of two quaternions. -/
def mulQ (f : FFmt) (a b : List FVal) : List FVal :=
  let m := fun (x y : FVal) => fmul f x y
  let (w, x, y, z) := (vx a, vy a, vz a, vw a)
  let (p, q, r, t) := (vx b, vy b, vz b, vw b)
  [fsum f [m w p, (m x q).neg, (m y r).neg, (m z t).neg], fsum f [m w q, m x p, m y t, (m z r).neg],
   fsum f [m w r, (m x t).neg, m y p, m z q], fsum f [m w t, m x r, (m y q).neg, m z p]]

/-- The rows of the rotation matrix of a unit quaternion (R394). -/
def matQ (f : FFmt) (q : List FVal) : List (List FVal) :=
  let m := fun (x y : FVal) => fmul f x y
  let (w, x, y, z) := (vx q, vy q, vz q, vw q)
  let d := fun (a b : FVal) => fsub f fone (fmul f ftwo (fadd f a b))
  let e := fun (a b : FVal) => fmul f ftwo (fadd f a b)
  [[d (m y y) (m z z), e (m x y) (m w z).neg, e (m x z) (m w y)],
   [e (m x y) (m w z), d (m x x) (m z z), e (m y z) (m w x).neg],
   [e (m x z) (m w y).neg, e (m y z) (m w x), d (m x x) (m y y)]]

/-- R(q) v and its transpose applied to v. -/
def rotQ (f : FFmt) (q v : List FVal) : List FVal := (matQ f q).map fun r => dotV f r v
def rotT (f : FFmt) (q v : List FVal) : List FVal :=
  let m := matQ f q
  [dotV f (m.map vx) v, dotV f (m.map vy) v, dotV f (m.map vz) v]

/-! ### Sine and cosine -/

/-- Taylor terms of the cosine or sine in fixed point: `t` is the term of index `n`. -/
def trigTerms (x2 : Int) : (fuel : Nat) → (n : Nat) → (t : Int) → Int
  | 0, _, _ => 0
  | k + 1, n, t => t + trigTerms x2 k (n + 2) (-(t * x2 / 2 ^ fpBits) / (((n : Int) + 1) * ((n : Int) + 2)))

/-- The cosine and sine of an angle of a few radians, to far below a unit in the last place. -/
def cosExact (x : FVal) : FVal := let v := toFix x; ofFix (trigTerms (v * v / 2 ^ fpBits) 100 0 (2 ^ fpBits))
def sinExact (x : FVal) : FVal := let v := toFix x; ofFix (trigTerms (v * v / 2 ^ fpBits) 100 1 v)

/-- The unit's cosine and sine: a free choice among the binary32 values within one unit in the last place, for the spec
states no rounding of them. -/
def cos32 (x : FVal) : FVal := let c := cosExact x; dec32 (choose 0x100 (enc32 x) c (ulp32 c))
def sin32 (x : FVal) : FVal := let c := sinExact x; dec32 (choose 0x101 (enc32 x) c (ulp32 c))

/-- The rotation by the angular rate `w` over a time `dt`: (cos(|w|dt/2), sin(|w|dt/2)·w/|w|) (R400). -/
def turnQ (w : List FVal) (dt : FVal) : List FVal :=
  let n := normV fF32 w
  if n.isZero then [fone, fzero, fzero, fzero]
  else
    let h := fmul fF32 (fmul fF32 n dt) fhalf
    cos32 h :: vmul fF32 (sin32 h) (vdiv fF32 w n)

/-- The levelled attitude from a mean specific force, yaw 0 (R402): roll and pitch by their half angles. -/
def levelQ (a : List FVal) : List FVal :=
  let f := fF32
  let n1 := sqrtF f (fadd f (fmul f (vy a) (vy a)) (fmul f (vz a) (vz a)))
  let n := normV f a
  let half := fun (c : FVal) (neg : Bool) =>
    let k := sqrtF f (fmul f (fadd f fone c) fhalf)
    let s := sqrtF f (fmul f (fsub f fone c) fhalf)
    (k, if neg then s.neg else s)
  let r := if n1.isZero then (fone, fzero) else half (divF f (vz a) n1) ((vy a).lt fzero)
  let p := half (divF f n1 n) (fzero.lt (vx a))
  [fmul f p.1 r.1, fmul f p.1 r.2, fmul f p.2 r.1, (fmul f p.2 r.2).neg]

/-! ### Patterns -/

def vec32 (ps : List Nat) : List FVal := ps.map dec32
def pat32 (vs : List FVal) : List Nat := vs.map enc32
def vec64 (ps : List Nat) : List FVal := ps.map dec64
def pat64 (vs : List FVal) : List Nat := vs.map enc64

/-- An integer field of `n` bytes in either byte order. -/
def endNum (big : Bool) (bs : List Byte) (off n : Nat) : Nat :=
  let x := (bs.drop off).take n
  leNat (if big then x.reverse else x)

end Sys2Proof.Machine
end

