-- ==== Sys2Proof/Machine/Porch.lean ====
section
/-!
DEFINITION. Machine/Porch.lean: the Porch's ports, records and rings, the time client, the trigger generator, the
camera restart and the measurements (chapter 12; R574 to R576). Arrivals are in Machine/Ingest.lean.
-/
namespace Sys2Proof.Machine

open Sys2Proof

/-! ### Ports and their record areas (R366, R392) -/

def State.port (s : State) (p : Nat) : SensorPort := getD SensorPort.off s.sports p
def State.setPort (s : State) (p : Nat) (x : SensorPort) : State := { s with sports := setD SensorPort.off s.sports p x }

def camBase (n : Nat) : Nat := pchBase + 0x100 * n
def ethBase (m : Nat) : Nat := pchBase + 0x100 * m
def canBase (k : Nat) : Nat := pchBase + 0x100 * k
def imuBase (j : Nat) : Nat := pchBase + 0x100 * j

def isCam (p : Nat) : Bool := decide (p < 16)
def isEth (p : Nat) : Bool := decide (16 ≤ p) && decide (p < 22)
def isCan (p : Nat) : Bool := decide (24 ≤ p) && decide (p < 28)
def isImu (p : Nat) : Bool := p == 28 || p == 29
def isTime (p : Nat) : Bool := p == 0x20
def portOk (p : Nat) : Bool := isCam p || isEth p || isCan p || isImu p || isTime p

/-- Length of the port kind's part of a SENSOR_CONFIG record (R373). -/
def kindLen (p : Nat) : Nat := if isCam p then 128 else if isCan p then 544 else 32

/-- The ports' EN bits follow `on`. -/
def portOn (s : State) (p : Nat) (on : Bool) : State :=
  let s := s.setPort p { s.port p with on := on }
  if isCam p then s.fs (camBase p) Fld.PCH_CAM_STS_EN (b2n on)
  else if isEth p then s.fs (ethBase (p - 16)) Fld.PCH_ETH_STS_EN (b2n on)
  else s

/-- Byte `off` (counted in the packet) of a record that reads back from `base`, whose first byte is byte `first`. -/
def areaByte (s : State) (base first off : Nat) : Nat :=
  let o := off - first
  bits (s.rd (base + o / 4 * 4)) (8 * (o % 4) + 7) (8 * (o % 4))

/-- A little-endian field of such a record. -/
def areaNum (s : State) (base first off : Nat) : (n : Nat) → Nat
  | 0 => 0
  | n + 1 => areaByte s base first off + 256 * areaNum s base first (off + 1) n

/-- Write a record to a read-back area of `words` words; words beyond the record read as zero. -/
def areaPut (s : State) (base words : Nat) (bs : List Byte) : State :=
  (List.range words).foldl (fun t i => t.wr (base + 4 * i) (leAt bs (4 * i) 4)) s

def recArea (p : Nat) : Nat := pchBase + Reg.PCH_REC + 0x400 * p
/-- A field of a port's SENSOR_CONFIG record, by packet byte. -/
def portNum (s : State) (p off n : Nat) : Nat := areaNum s (recArea p) 32 off n

def ringBase (s : State) (p : Nat) : Nat := portNum s p 32 6
def slotLog (s : State) (p : Nat) : Nat := portNum s p 40 1
def slotCount (s : State) (p : Nat) : Nat := 2 ^ portNum s p 41 1
def statusAddr (s : State) (p : Nat) : Nat := portNum s p 48 6

/-! ### The time client's clock (R375 to R377) -/

def pchTime (s : State) : Nat := s.rd (pchBase + Reg.PCH_TIME_LO) + 2 ^ 32 * s.rd (pchBase + Reg.PCH_TIME_HI)
def setPchTime (s : State) (t : Nat) : State :=
  (s.wr (pchBase + Reg.PCH_TIME_LO) (t % 2 ^ 32)).wr (pchBase + Reg.PCH_TIME_HI) (t / 2 ^ 32 % 2 ^ 32)

/-- A stamp: the client's clock at the stamp point, `fine` ns after its last whole step. -/
def stampAt (s : State) (fine : Nat) : Nat := (pchTime s + fine) % 2 ^ 64
def timeState (s : State) : Nat := s.fg pchBase Fld.PCH_TIME_STS_STATE

/-- The clock steps by `d` ns: the next record of every port and of the integrator carries STEP (R377, R404). -/
def timeStep (s : State) (d : Int) : State :=
  let s := setPchTime s (((pchTime s : Int) + d) % (2 ^ 64 : Int)).toNat
  let s := s.faddSat pchBase Fld.PCH_TIME_STS_STEPS 1
  let ports := (List.range 30).filter portOk
  let s := ports.foldl (fun t p => t.setPort p { t.port p with stepNext := true }) s
  { s with integ := s.integ.map fun (x : Integ) => { x with stepNext := true } }

/-- A Sync message with the offset measured from the master: client behind by `ofs` ns (R376, R377). -/
def execPtpSync (ofs : Int) (s : State) : Host.Outcome State Fault Refusal :=
  .next (if !(s.port 0x20).on then s
    else
      let old := timeState s
      let s := s.wr (pchBase + Reg.PCH_TIME_OFS) (ofSigned 32 (clampI (-(2 ^ 31)) (2 ^ 31 - 1) ofs))
      let s := { s.fs pchBase Fld.PCH_TIME_STS_STATE 1 with lastSync := s.nowUs }
      if old ≠ 1 ∧ portNum s 0x20 100 4 < ofs.natAbs then timeStep { s with slew := 0 } ofs
      else { s with slew := ofs })

/-- Three Sync intervals of 125 ms missed. -/
def execTimeHoldover (s : State) : Host.Outcome State Fault Refusal :=
  .next (if timeState s = 1 ∧ s.lastSync + 375000 ≤ s.nowUs then
      { s.fs pchBase Fld.PCH_TIME_STS_STATE 2 with holdSince := s.nowUs, slew := 0 }
    else s)

def execTimeUnsync (s : State) : Host.Outcome State Fault Refusal :=
  .next (if timeState s = 2 ∧ s.holdSince + portNum s 0x20 98 2 * 1000000 ≤ s.nowUs then
      s.fs pchBase Fld.PCH_TIME_STS_STATE 0
    else s)

/-! ### Ingest buffers and urgency (R364, R389) -/

/-- The partition of a port. -/
def bufOf (p : Nat) : Nat := if p < 20 then p else 21
def bufPorts (k : Nat) : List Nat := if k < 20 then [k] else [20, 21, 24, 25, 26, 27, 28, 29]
def bufCap (s : State) (k : Nat) : Nat := s.fg (pchBase + 4 * k) Fld.PCH_BUF_UNITS * 65536
def portFill (s : State) (p : Nat) : Nat := sumN ((s.port p).recs.map fun r => r.payload.length - r.drained)
/-- Bytes held in a partition: arrivals, or the points and entries of the projection unit (R410). -/
def bufFill (s : State) (k : Nat) : Nat :=
  if k = 20 then sumN (s.jobs.map fun j => 16 * j.points.length + j.out.length) else sumN ((bufPorts k).map (portFill s))

def urgBase (k : Nat) : Nat := bwrBase 5 + 4 * k

/-- The urgency wire of source `k` after the fill or its levels changed. -/
def syncUrg (s : State) (k : Nat) : State :=
  let b := urgBase k
  let f := 64 * bufFill s k
  let c := bufCap s k
  let on := if c = 0 then false
    else if s.fg b Fld.BWR_URGN_HI * c ≤ f then true
    else if f ≤ s.fg b Fld.BWR_URGN_LO * c then false
    else s.fb b Fld.BWR_URGN_ACTIVE
  if 20 < k then s
  else
    let s := s.fs b Fld.BWR_URGN_ACTIVE (b2n on)
    if k < 16 then s.fs (camBase k) Fld.PCH_CAM_STS_URG (b2n on)
    else if k < 20 then s.fs (ethBase (k - 16)) Fld.PCH_ETH_STS_URG (b2n on)
    else s

/-- Every urgency wire of the Porch. -/
def syncUrgs (s : State) : State := (List.range 21).foldl syncUrg s

/-! ### Writing records (R369, R372) -/

/-- Write bytes in pieces that keep the 4 KiB rule; false when one received an access-error response. -/
def writeParts (ini ctx : Nat) : List (Nat × Nat) → List Byte → State → Bool × State
  | [], _, s => (true, s)
  | (a, n) :: ps, bs, s =>
    let r := memWrite s ini ctx a (bs.take n)
    match r.1 with
    | .ack => writeParts ini ctx ps (bs.drop n) r.2
    | _ => (false, r.2)

def writeBytes (s : State) (ini ctx a : Nat) (bs : List Byte) : Bool × State := writeParts ini ctx (parts4k a bs.length) bs s

/-- The end of a record's commit: the rest of its header, SEQ in a separate write, then the status block. The first
answer is false when the record is lost, the second when its status block was refused. -/
def commitHead (s : State) (ini ctx slot : Nat) (head : List Byte) (seq status index : Nat) : Bool × Bool × State :=
  match writeBytes s ini ctx (slot + 8) (head.drop 8) with
  | (false, s) => (false, true, s)
  | (true, s) =>
    match writeBytes s ini ctx slot (leBytes 8 seq) with
    | (false, s) => (false, true, s)
    | (true, s) =>
      let r := writeBytes s ini ctx status (leBytes 8 seq ++ leBytes 56 index)
      (true, r.1, r.2)

/-! ### Frame signals (R371, R413) -/

/-- The command processor signals `n` for a context; false when the signal failed at once. -/
def sigSend (s : State) (src : SemSrc) (n ctx gen : Nat) : Bool × State :=
  if (semReach s n).isSome || !semOwned s n || !semOwner s n ctx gen then (false, s)
  else (true, { s with semMsgs := s.semMsgs ++ [⟨src, n, 3, false, 0, 0, 6, 0, 1, ctx, gen⟩] })

/-- One record of a port was committed: the signal of every SIG_EVERYth. -/
def portSignal (s : State) (p : Nat) : State :=
  let x := s.port p
  if !bit (portNum s p 42 1) 1 || x.sigStop then s
  else if x.sigCount + 1 < portNum s p 58 2 then s.setPort p { x with sigCount := x.sigCount + 1 }
  else
    let s := s.setPort p { x with sigCount := 0 }
    match sigSend s (.port p) (portNum s p 56 2 % 2 ^ 14) x.ctx x.ctxGen with
    | (true, s) => s
    | (false, s) => portSigFail s p

/-! ### SENSOR_CONFIG (R370, R373) -/

/-- Reserved bits of a SENSOR_CONFIG record, by packet byte and mask, in order. -/
def sensorReserved (p : Nat) : List (Nat × Nat) :=
  let z := fun (lo n : Nat) => (rangeFrom lo n).map fun o => (o, 0xFF)
  z 38 2 ++ [(42, 0xFC)] ++ z 43 5 ++ z 54 2 ++ [(57, 0xC0)] ++ z 60 36
    ++ (if isCam p then [(97, 0xF0), (99, 0xF8)] ++ ((List.range 16).map fun i => (128 + 4 * i, 0x80)) ++ z 192 32
        else if isEth p then [(96, 0xFE), (97, 0xFE)] ++ z 104 24
        else if isCan p then [(104, 0xFE)] ++ z 106 22 ++ (List.range 64).map fun f => (135 + 8 * f, 0xE0)
        else if isImu p then (97, 0xFC) :: z 108 20
        else z 104 24)

/-- A range check of a field: the value's bounds. -/
structure Rng where
  off : Nat
  len : Nat
  lo : Nat
  hi : Nat

/-- The ranges of a record with EN = 1. -/
def sensorRanges (p : Nat) : List Rng :=
  (if isTime p then [⟨32, 6, 0, 0⟩, ⟨40, 1, 0, 0⟩, ⟨41, 1, 0, 0⟩, ⟨48, 6, 0, 0⟩, ⟨58, 2, 0, 0⟩]
   else [⟨40, 1, 7, 26⟩, ⟨41, 1, 2, 16⟩, ⟨58, 2, 1, 65535⟩])
    ++ (if isCam p then [⟨96, 1, 1, 5⟩, ⟨98, 1, 0, 31⟩, ⟨114, 1, 1, 4⟩, ⟨115, 1, 0, 16⟩]
        else if isCan p then [⟨96, 4, 125, 1000⟩, ⟨100, 4, 500, 8000⟩, ⟨105, 1, 0, 64⟩]
        else if isImu p then [⟨96, 1, 1, 20⟩, ⟨98, 1, 1, 64⟩, ⟨99, 1, 0, 8⟩]
        else if isTime p then [⟨96, 1, 0x10, 0x15⟩, ⟨97, 1, 0, 127⟩, ⟨98, 2, 1, 3600⟩, ⟨100, 4, 100, 1000000⟩]
        else [])

/-- The first field out of its range. -/
def rngBad (c : Cmd) (rs : List Rng) : Option Nat :=
  (rs.find? fun r => decide (c.par r.off r.len < r.lo) || decide (r.hi < c.par r.off r.len)).map (·.off)

/-- The first reserved byte of a record that is not zero. -/
def maskBad (c : Cmd) (rs : List (Nat × Nat)) : Option Nat :=
  (rs.find? fun r => !(Nat.land (c.par r.1 1) r.2 == 0)).map (·.1)

/-- The ranges no ring may overlap (R370). -/
def ringForbidden (s : State) : List (Nat × Nat) :=
  imageRanges s ++ dcRanges s ++ pantryRanges s ++ saveRanges s ++ tableRanges s

/-- The placement rule of a ring at `a` of `n` bytes (named at byte `ao`) and its status block at `b` (byte `bo`). -/
def ringPlaced (s : State) (a n ao b bo : Nat) : Option Nat :=
  let ok := fun (x m : Nat) => pkgUsable s x m && !pkgMeetsAny s x m (ringForbidden s)
  let dies := fun (x m : Nat) => (rawRanges s x m).map fun r => rawDie r.1
  if !(a % 4096 == 0) || !ok a n then some ao
  else if !(b % 64 == 0) || !ok b 64 then some bo
  else if decide (1 < ((dies a n) ++ (dies b 64)).eraseDups.length) then some bo
  else none

/-- Every check of SENSOR_CONFIG. -/
def sensorCheck (s : State) (c : Cmd) : Option (Nat × Nat) :=
  let p := c.par 16 2
  let x := s.port p
  let en := bit (c.par 42 1) 0
  if !portOk p then some (0x13, 16)
  else if c.par 20 4 ≠ 64 + kindLen p then some (0x11, c.par 2 1)
  else if dieHeld s 5 then some (0x1A, 1)
  else match maskBad c (sensorReserved p) with
    | some o => some (0x13, o)
    | none =>
      if x.restart.isSome || (en && (x.on || x.draining)) then some (0x1A, 0)
      else if !en then none
      else match rngBad c (sensorRanges p) with
        | some o => some (0x13, o)
        | none =>
          if isTime p then none
          else (ringPlaced s (c.par 32 6) (2 ^ (c.par 40 1 + c.par 41 1)) 32 (c.par 48 6) 48).map fun o => (0x14, o)

/-- A camera's link trained, or did not (R386, R387): insertion loss in 0.1 dB, the partner's highest gear and its
adaptation-layer version. -/
def camTrained (s : State) (n : Nat) (up : Bool) (loss peer pal : Nat) : State :=
  let b := camBase n
  let s := s.fs b Fld.PCH_CAM_STS_LINK (b2n up)
  if !up then s
  else
    let cb := portNum s n 120 2
    let s := ((s.fs b Fld.PCH_CAM_LINK_GEAR (portNum s n 96 1)).fs b Fld.PCH_CAM_LINK_PEER_MAX peer).fs b Fld.PCH_CAM_LINK_PAL_VER pal
    (s.fs b Fld.PCH_CAM_CABLE_LOSS loss).fs b Fld.PCH_CAM_CABLE_LEN_DM (if cb = 0 then 0 else min 1023 (100 * loss / cb))

/-- A command's record goes to its port's record area, where it reads back (R392). -/
def putRecord (s : State) (p : Nat) (c : Cmd) : State := areaPut s (recArea p) 256 ((c.packet.drop 32).take (c.par 20 4))

/-- Enable a port: its record area, its owner, records from 1 (R368, R374). The exposure a pairing uses before a camera's
first record is a free value (R405). -/
def portEnable (s : State) (p : Nat) (c : Cmd) : State :=
  let s := putRecord s p c
  let x := s.port p
  let s := if isCam p && !x.poc then s.drive "POC_EN" p [1] else s
  let e := s.free
  let s := if isCam p then e.2 else s
  let s := portOn (s.setPort p { SensorPort.off with ctx := c.ctx, ctxGen := c.ctxGen, drops := x.drops, poc := isCam p,
                                                     ovfNext := x.ovfNext, stepNext := x.stepNext,
                                                     expNew := if isCam p then e.1.toNat else 0 }) p true
  if isCan p then s.fs (canBase (p - 24)) Fld.PCH_CAN_STS_BUS_OFF 0 else s

/-- Answer the commands that disabled a port; the record of each is the one firmware wrote last (R373, R392). -/
def disableDone (s : State) (p : Nat) (tags : List Nat) : State :=
  tags.foldl (fun t g => finishCmd (match t.cmd? g with | some c => putRecord t p c | none => t) g 0 0 0) s

/-- Begin a port's disabling: only the record being written stays (R373). -/
def portDisable (s : State) (p : Nat) (tags : List Nat) : State :=
  let x := s.port p
  if !x.on then disableDone s p tags
  else
    let s := s.setPort p { x with draining := true, recs := x.recs.take 1, disTags := x.disTags ++ tags }
    syncUrg s (bufOf p)

/-- The record being written has committed, so the port is off: its EN reads 0 and its commands are answered. -/
def portDisabled (s : State) (p : Nat) : State :=
  let x := s.port p
  if x.draining && x.recs.isEmpty then
    disableDone (portOn (s.setPort p { x with draining := false, disTags := [] }) p false) p x.disTags
  else s

/-- SENSOR_CONFIG; for a camera the operands are what its link's training measured. -/
def execSensorConfig (tg : Nat) (up : Bool) (loss peer pal : Nat) (s : State) : Host.Outcome State Fault Refusal :=
  cmdDo s tg 0x30 true fun c s =>
    let p := c.par 16 2
    match sensorCheck s c with
    | some f => refuse s tg f.1 f.2
    | none =>
      if bit (c.par 42 1) 0 then
        let s := portEnable s p c
        finishCmd (if isCam p then camTrained s p up loss peer pal else s) tg 0 0 0
      else portDisable (s.setCmd tg { c with phase := .waiting }) p [tg]

def execPortDisableDone (p : Nat) (s : State) : Host.Outcome State Fault Refusal := .next (portDisabled s p)

/-! ### The trigger generator (R378 to R382) -/

def trigArea : Nat := pchBase + Reg.PCH_TRIG_REC
/-- A field of the TRIGGER_SET record in effect, by packet byte. -/
def trigNum (s : State) (off n : Nat) : Nat := areaNum s trigArea 32 off n
def trigRun (s : State) : Bool := s.fb pchBase Fld.PCH_TRIG_STS_RUN
def trigIdx (s : State) : Nat := s.rd (pchBase + Reg.PCH_TRIG_IDX)
def trigPeriodNs (s : State) : Nat := trigNum s 32 4
/-- The 8 bytes of output `i`. -/
def outWord (s : State) (i : Nat) : Nat := trigNum s (48 + 8 * i) 8
def outDiv (w : Nat) : Nat := bits w 7 4 + 1
def outPhase (w : Nat) : Nat := bits w 38 8
def outWidth (w : Nat) : Nat := bits w 54 39
/-- Frame period of an output in ns. -/
def outPeriod (s : State) (i : Nat) : Nat := outDiv (outWord s i) * trigPeriodNs s

/-- The first field of a TRIGGER_SET record that breaks its range. -/
def trigBad (c : Cmd) : Option Nat :=
  let per := c.par 32 4
  let rs := [(36, 0xFC), (37, 0xFF), (38, 0xFF), (39, 0xFF)]
    ++ (List.range 32).flatMap fun i => [(54 + 8 * i, 0x80), (55 + 8 * i, 0xFF)]
  let outs := (List.range 32).filterMap fun i =>
    let w := c.par (48 + 8 * i) 8
    if !bit w 0 then none
    else if outPhase w % 5 ≠ 0 ∨ outDiv w * per ≤ outPhase w then some (49 + 8 * i)
    else if outWidth w = 0 then some (52 + 8 * i)
    else none
  if per < 10000000 ∨ 100000000 < per ∨ per % 5 ≠ 0 then some 32
  else match maskBad c rs with
    | some o => some o
    | none => outs.head?

/-- The correction of the next period under DISC, in ns (R381). -/
def discCorrect (s : State) (stamp : Nat) : Int :=
  let d : Int := (stamp : Int) - ((trigNum s 40 8 + trigIdx s * trigPeriodNs s : Nat) : Int)
  if !bit (trigNum s 36 1) 1 || decide (d.natAbs ≤ 5) then 0
  else
    let t := min (d.natAbs / 5) (trigPeriodNs s * 150 / 5000000)
    if 0 < d then -((5 * t : Nat) : Int) else ((5 * t : Nat) : Int)

/-- A base period starts at a stamp. -/
def periodStart (s : State) (stamp : Nat) : State :=
  { s with trigAt := stamp, trigLen := ((trigPeriodNs s : Int) + discCorrect s stamp).toNat }

/-- New trigger settings take effect; the index starts at 0 when EN changes from 0 to 1, which starts a base period, and
otherwise runs on. -/
def trigApply (s : State) (body : List Byte) (tags : List Nat) : State :=
  let was := bit (trigNum s 36 1) 0
  let s := areaPut s trigArea 68 body
  let en := bit (trigNum s 36 1) 0
  let s := s.fs pchBase Fld.PCH_TRIG_STS_RUN (b2n en)
  let s := { s with trigNext := none, trigLen := trigPeriodNs s }
  let s := if en && !was then periodStart { s.wr (pchBase + Reg.PCH_TRIG_IDX) 0 with trigFired := [] } (stampAt s 0) else s
  tags.foldl (fun t g => finishCmd t g 0 0 0) s

def execTriggerSet (tg : Nat) (s : State) : Host.Outcome State Fault Refusal :=
  cmdDo s tg 0x32 true fun c s =>
    if c.par 20 4 ≠ 272 then refuse s tg 0x11 (c.par 2 1)
    else if dieHeld s 5 then refuse s tg 0x1A 1
    else match trigBad c with
      | some o => refuse s tg 0x13 o
      | none =>
        let body := (c.packet.drop 32).take 272
        let tags := (match s.trigNext with | some x => x.tags | none => []) ++ [tg]
        let s := s.setCmd tg { c with phase := .waiting }
        if trigRun s then { s with trigNext := some ⟨body, tags⟩ } else trigApply s body tags

/-- A base period starts, `fine` ns after the client clock's last whole step. -/
def execTriggerPeriod (fine : Nat) (s : State) : Host.Outcome State Fault Refusal :=
  .next (if !trigRun s then s
    else
      let stamp := stampAt s fine
      let s := s.wr (pchBase + Reg.PCH_TRIG_IDX) (trigIdx s + 1)
      let s := match s.trigNext with
        | some x => trigApply s x.body x.tags
        | none => s
      let s := (List.range 16).foldl (fun t n =>
        if (t.port n).restart.isNone then t.setPort n { t.port n with trigHeld := false } else t) s
      if trigRun s then periodStart s stamp else s)

/-! ### Camera pairing (R383, R384) -/

/-- A camera's trigger output, and its frame period. -/
def camOut (s : State) (n : Nat) : Nat := portNum s n 98 1 % 32
def camPeriod (s : State) (n : Nat) : Nat := outPeriod s (camOut s n)

/-- Set flag bits of a record. -/
def InRec.flag (r : InRec) (m : Nat) : InRec := { r with flags := Nat.lor r.flags m }

/-- Exposure of a frame in ns (R373). -/
def frameExp (s : State) (n : Nat) (payload : List Byte) : Nat :=
  1000 * (if bit (portNum s n 99 1) 1 then leAt payload (portNum s n 112 2) (portNum s n 114 1) else portNum s n 108 4)

/-- The skew of a frame that has ended and is paired (R384). -/
def judgeSkew (s : State) (n : Nat) (r : InRec) : InRec × State :=
  let d : Int := (r.tArr : Int) - (portNum s n 100 4 : Int) - (r.exp : Int) - (r.tTrig : Int) - (portNum s n 104 4 : Int)
  let v := ofSigned 32 (clampI (-(2 ^ 31 - 1)) (2 ^ 31 - 1) d)
  let sk := decide (portNum s n 116 4 < d.natAbs)
  let s := s.fs (camBase n) Fld.PCH_CAM_SKEW_VALUE v
  let s := s.setPort n { s.port n with skewNew := some v, skewedNew := sk }
  let r := { (if sk then r.flag 8 else r) with skew := v }
  if camPeriod s n < d.natAbs then
    let raised := s.fb (camBase n) Fld.PCH_CAM_STS_UNALIGNED
    let s := s.fs (camBase n) Fld.PCH_CAM_STS_UNALIGNED 1
    let s := s.setPort n { s.port n with recs := (s.port n).recs.map fun (y : InRec) => if r.ord < y.ord then y.flag 4 else y }
    (r.flag 4, if raised then s else s.event 0x75 n 0)
  else (r, s)

/-- A frame has ended: its exposure and measured start, and its skew if it is paired. -/
def frameEnded (s : State) (n : Nat) (r : InRec) : InRec × State :=
  let e := frameExp s n r.payload
  let t := (((r.tArr : Int) - (portNum s n 100 4 : Int) - (e : Int)) % (2 ^ 64 : Int)).toNat
  let r := { r with ended := true, exp := e, tExp := t }
  let s := s.setPort n { s.port n with expNew := e }
  if r.want then (r, s) else judgeSkew s n r

/-- Replace a record of a port, by its place in the order of arrivals. -/
def setRec (s : State) (p : Nat) (r : InRec) : State :=
  let x := s.port p
  s.setPort p { x with recs := x.recs.map fun (y : InRec) => if y.ord == r.ord then r else y }

/-- The frame that is still arriving. -/
def openFrame (s : State) (n : Nat) : Option InRec := (s.port n).recs.find? fun r => !r.ended

/-- End the frame that is still arriving, with flags; a frame that a write has lost goes without a record. -/
def endFrame (s : State) (n flags : Nat) : State :=
  match openFrame s n with
  | none => s
  | some r =>
    if r.lost then s.setPort n { s.port n with recs := (s.port n).recs.filter fun y => !(y.ord == r.ord) }
    else
      let e := frameEnded s n (r.flag flags)
      setRec e.2 n e.1

/-- Pair the frame that waits for an edge, or keep the edge for a later frame. -/
def giveEdge (idx stamp : Nat) (s : State) (n : Nat) : State :=
  let x := s.port n
  if x.debt = 0 then s.setPort n { x with edges := x.edges ++ [(idx, stamp)] }
  else
    let s := s.setPort n { x with debt := x.debt - 1 }
    match x.recs.find? fun r => r.want with
    | none => s
    | some r =>
      let r := { r with want := false, idx := idx, tTrig := stamp }
      let e := if r.ended then judgeSkew s n r else (r, s)
      setRec e.2 n e.1

/-- The trigger index of the edge output `w` has in the current base period, if any (R379). -/
def edgeIndex (s : State) (w : Nat) : Option Nat :=
  let back := if trigPeriodNs s = 0 then 0 else outPhase w / trigPeriodNs s
  if back ≤ trigIdx s ∧ (trigIdx s - back) % outDiv w = 0 then some (trigIdx s - back) else none

/-- The cameras that use an output. -/
def camsOn (s : State) (i : Nat) : List Nat := (List.range 16).filter fun n => (s.port n).on && camOut s n == i

/-- Is the output held inactive for a restart (R385)? -/
def outHeld (s : State) (i : Nat) : Bool := (camsOn s i).any fun n => (s.port n).trigHeld

/-- An edge of an enabled output that is not yet out, on its pin, as an uplink message, or both; `ua` is the current the
pin drew through the active level (R575). -/
def execTriggerEdge (i fine ua : Nat) (s : State) : Host.Outcome State Fault Refusal :=
  let w := outWord s i
  .next (match edgeIndex s w with
    | none => s
    | some k =>
      if !trigRun s || !bit w 0 || outHeld s i || getD 0 s.trigFired i == k + 1 then s
      else
        let stamp := stampAt s fine
        let past := (i, k, stamp) :: s.trigPast
        let s := { s with trigFired := setD 0 s.trigFired i (k + 1), trigPast := past.take 1024 }
        let s := if bit w 2 && !s.trigHiz.contains i then
            (s.drive "TRIG_OUT" i [stamp, bits w 1 1, outWidth w]).fs pchBase ⟨Reg.PCH_PIN_TOPEN, i, i⟩ (b2n (decide (ua < 100)))
          else s
        let s := if bit w 3 && decide (i < 16) then s.emit "FRAME_SYNC" i [stamp, k] else s
        (camsOn s i).foldl (giveEdge k stamp) s)

/-- An output goes to its inactive level (R382, R385). -/
def outIdle (s : State) (i : Nat) : State := s.drive "TRIG_IDLE" i []

/-- Loss of the trigger clock (R24, R382). A TRIGGER_SET that waits takes effect, but the generator stays stopped. -/
def execTriggerClockFault (s : State) : Host.Outcome State Fault Refusal :=
  let s := match s.trigNext with
    | some x => trigApply s x.body x.tags
    | none => s
  let s := ((List.range 32).foldl outIdle s).fs pchBase Fld.PCH_TRIG_STS_RUN 0
  let s := s.fs pchBase Fld.PCH_TRIG_STS_CLK_FAULT 1
  .next (clockMonitors (((({ s with trigBad := true } : State).notice 0x0D (unitOfDie 5) 0 0).reportBoth 0x14 (unitOfDie 5))))

/-- A pin fault of a trigger output (R575): 0 the level disagrees for 1 µs, 1 it has done so for 1 ms, 2 a retry still
disagrees, 3 a retry agrees. -/
def execTrigPinShort (i ev : Nat) (s : State) : Host.Outcome State Fault Refusal :=
  let f : Fld := ⟨Reg.PCH_PIN_TSHORT, i, i⟩
  .next (if ev = 0 then s.fs pchBase f 1
    else if ev = 1 then
      (if s.fb pchBase f && !s.trigHiz.contains i then { s with trigHiz := s.trigHiz ++ [i] } else s)
    else if ev = 2 then s
    else { s.fs pchBase f 0 with trigHiz := s.trigHiz.filter fun x => !(x == i) })

/-- CAN pin timers (R576): 0 TX_FLT, 1 RX_DOM, 2 SILENT. Under LISTEN_ONLY the controller drives no TX; SILENT sets for an
enabled port only. -/
def execCanPinFault (k wh : Nat) (on : Bool) (s : State) : Host.Outcome State Fault Refusal :=
  let f : Fld := ⟨Reg.PCH_PIN_CAN, 4 * k + wh, 4 * k + wh⟩
  .next (if wh = 3 then s
    else if on && wh == 0 && (!(s.port (24 + k)).on || bit (portNum s (24 + k) 104 1) 0) then s
    else if on && wh == 2 && !(s.port (24 + k)).on then s
    else s.fs pchBase f (b2n on))

/-! ### Camera restart (R385) -/

def execCameraRestart (tg : Nat) (s : State) : Host.Outcome State Fault Refusal :=
  cmdDo s tg 0x31 true fun c s =>
    let n := c.par 16 1
    if 15 < n then refuse s tg 0x13 16
    else if dieHeld s 5 then refuse s tg 0x1A 1
    else if (s.port n).restart.isSome || (s.port n).draining then refuse s tg 0x1A 0
    else if !(s.port n).on then refuse s tg 0x13 16
    else
      let s := endFrame s n 0x11
      let s := outIdle (s.setPort n { s.port n with restart := some tg, trigHeld := true, edges := [], debt := 0 }) (camOut s n)
      let s := (s.fs (camBase n) Fld.PCH_CAM_STS_RESTARTING 1).fs (camBase n) Fld.PCH_CAM_STS_LINK 0
      let s := if bit (portNum s n 99 1) 2 then (s.drive "POC_EN" n [0]).drive "POC_EN" n [1] else s
      s.setCmd tg { c with phase := .waiting }

/-- The restart writes, in record order. -/
def restartWrites (s : State) (n : Nat) : State :=
  (List.range (portNum s n 115 1)).foldl (fun t i =>
    t.emit "CAM_I2C" n [portNum s n (128 + 4 * i) 1, portNum s n (129 + 4 * i) 2, portNum s n (131 + 4 * i) 1]) s

/-- The link trained at GEAR, or did not. -/
def execCameraRestartDone (n : Nat) (up : Bool) (loss peer pal : Nat) (s : State) : Host.Outcome State Fault Refusal :=
  .next (match (s.port n).restart with
    | none => s
    | some tg =>
      let s := camTrained s n up loss peer pal
      let s := s.fs (camBase n) Fld.PCH_CAM_STS_RESTARTING 0
      let x := { s.port n with restart := none, edges := [], debt := 0,
                               poc := (s.port n).poc || bit (portNum s n 99 1) 2 }
      if up then
        let s := restartWrites (s.setPort n x) n
        finishCmd (s.fs (camBase n) Fld.PCH_CAM_STS_UNALIGNED 0) tg 0 0 0
      else
        let s := portOn (s.setPort n { x with trigHeld := false }) n false
        finishCmd (syncUrg (s.fs (camBase n) Fld.PCH_CAM_STS_UNALIGNED 1) n) tg 0x4A n 0)

/-- A camera's link drops at runtime: the frame in progress ends where it is. -/
def execCameraLinkDown (n : Nat) (s : State) : Host.Outcome State Fault Refusal :=
  .next ((endFrame s n 1).fs (camBase n) Fld.PCH_CAM_STS_LINK 0)

/-! ### Measurements (R386 to R388) -/

/-- Three samples in a row beyond a limit. -/
def runOf (n : Nat) (out : Bool) : Nat := if out then min 3 (n + 1) else 0

def execPocSample (n code : Nat) (s : State) : Host.Outcome State Fault Refusal :=
  let ma := min 0xFFFF (code * portNum s n 122 2 / 1000)
  let x := s.port n
  let oc := runOf x.ocRun (x.on && decide (portNum s n 124 2 < ma))
  let uc := runOf x.ucRun (x.on && x.poc && decide (ma < portNum s n 126 2))
  let b := camBase n
  let was := (s.fb b Fld.PCH_CAM_STS_OC, s.fb b Fld.PCH_CAM_STS_UC)
  let now := (decide (3 ≤ oc), decide (3 ≤ uc))
  let s := s.fs b Fld.PCH_CAM_POC_MA ma
  let s := (s.fs b Fld.PCH_CAM_STS_OC (b2n now.1)).fs b Fld.PCH_CAM_STS_UC (b2n now.2)
  let cut := now.1 && s.fb pchBase Fld.PCH_CTL_OC_CUT
  let s := s.setPort n { s.port n with ocRun := oc, ucRun := uc, poc := (s.port n).poc && !cut }
  let s := if cut && x.poc then s.drive "POC_EN" n [0] else s
  let s := if was.1 == now.1 then s else s.notice 0x0E (unitOfDie 5) 0 0
  .next (if was.2 == now.2 then s else s.notice 0x0E (unitOfDie 5) 0 0)

def execRailSample (r mv : Nat) (s : State) : Host.Outcome State Fault Refusal :=
  .next (s.fs (pchBase + 4 * r) Fld.PCH_RAIL_MV mv)

def execEthQualitySample (m sqi : Nat) (s : State) : Host.Outcome State Fault Refusal :=
  .next (if s.fb (ethBase m) Fld.PCH_ETH_STS_LINK then s.fs (ethBase m) Fld.PCH_ETH_STS_SQI sqi else s)

/-- The reflection test that ETH_CTL.DIAG or DIAG_AT_TRAIN asked for ends: 1 good, 2 open, 3 short, and the distance. -/
def execEthCableDiag (m result dist : Nat) (s : State) : Host.Outcome State Fault Refusal :=
  .next (if (s.port (16 + m)).diag then
      let s := s.setPort (16 + m) { s.port (16 + m) with diag := false }
      (s.fs (ethBase m) Fld.PCH_ETH_DIAG_RESULT result).fs (ethBase m) Fld.PCH_ETH_DIAG_DIST_DM (min 1023 dist)
    else s)

/-- A link comes up, with the polarity of its pair, in the role forced by its record, or goes down. -/
def execEthLinkChange (m : Nat) (up inv : Bool) (s : State) : Host.Outcome State Fault Refusal :=
  let b := ethBase m
  let p := 16 + m
  .next (if !up then s.fs b Fld.PCH_ETH_STS_LINK 0
    else if !(s.port p).on then s
    else
      let s := (s.fs b Fld.PCH_ETH_STS_LINK 1).fs b Fld.PCH_ETH_STS_MASTER (portNum s p 96 1)
      let s := s.fs b Fld.PCH_ETH_STS_POL_INV (b2n inv)
      if bit (portNum s p 97 1) 0 then s.setPort p { s.port p with diag := true } else s)

/-! ### Draining and committing (R369, R372, R390) -/

/-- The slot the head record of a port is written to. -/
def headSlot (s : State) (p : Nat) : Nat := ringBase s p + (s.port p).seq % slotCount s p * 2 ^ slotLog s p

/-- A port lost a record: its count of drops (R372, R391). -/
def countDrop (s : State) (p : Nat) : State :=
  let s := s.setPort p { s.port p with drops := ((s.port p).drops + 1) % 2 ^ 32 }
  if isEth p then s.faddWrap (ethBase (p - 16)) Fld.PCH_ETH_DROP_COUNT 1 else s

/-- A write of a record was refused: the record is lost. -/
def loseRec (s : State) (p : Nat) (r : InRec) : State :=
  let s := countDrop (s.fs pchBase Fld.PCH_ERR_WR_FAIL 1) p
  if r.ended then s.setPort p { s.port p with recs := (s.port p).recs.filter fun y => !(y.ord == r.ord) }
  else setRec s p { r with lost := true, payload := r.payload.take r.drained }

/-- Can the head record of a port be drained further? -/
def drainable (s : State) (p : Nat) : Option InRec :=
  match (s.port p).recs with
  | [] => none
  | r :: _ =>
    if !r.lost && decide (r.drained < r.payload.length) && (r.ended || decide (4096 ≤ r.payload.length - r.drained)) then some r
    else none

/-- The port a partition drains next, the oldest arrival first. -/
def bufNext (s : State) (k : Nat) : Option (Nat × InRec) :=
  (bufPorts k).foldl (fun acc p =>
    match drainable s p, acc with
    | some r, none => some (p, r)
    | some r, some b => if r.ord < b.2.ord then some (p, r) else acc
    | none, _ => acc) none

/-- The partition served next: round robin among those with urgency, then among the others. -/
def nextBuf (s : State) : Option (Bool × Nat) :=
  let ks := (List.range 22).filter fun k => !(k == 20) && (bufNext s k).isSome
  let turn := fun (from' : Nat) (xs : List Nat) =>
    match xs.find? fun k => decide (from' < k) with
    | some k => some k
    | none => xs.head?
  let urg := ks.filter fun k => decide (k < 20) && s.fb (urgBase k) Fld.BWR_URGN_ACTIVE
  match turn s.drainUrg urg with
  | some k => some (true, k)
  | none => (turn s.drainNorm ks).map fun k => (false, k)

def execIngestDrain (s : State) : Host.Outcome State Fault Refusal :=
  .next (match nextBuf s with
    | none => s
    | some (u, k) =>
      match bufNext s k with
      | none => s
      | some (p, r) =>
        let s := if u then { s with drainUrg := k } else { s with drainNorm := k }
        let x := s.port p
        let slot := headSlot s p
        let first := if r.drained = 0 then writeBytes s 0xA00 x.ctx slot (leBytes 8 0) else (true, s)
        let chunk := (r.payload.drop r.drained).take 4096
        let w := if first.1 then writeBytes first.2 0xA00 x.ctx (slot + 64 + r.drained) chunk else first
        syncUrg (if w.1 then setRec w.2 p { r with drained := r.drained + chunk.length } else loseRec w.2 p r) k)

/-- The record header (R368), SEQ apart. -/
def recHeader (p : Nat) (r : InRec) : List Byte :=
  leBytes 8 0 ++ leBytes 8 r.tArr ++ leBytes 8 r.tTrig ++ leBytes 8 r.tExp ++ leBytes 4 r.payload.length ++ leBytes 2 p
    ++ leBytes 2 r.flags ++ leBytes 4 r.idx ++ leBytes 4 r.skew ++ leBytes 1 r.tstate ++ leBytes 1 r.dtype ++ leBytes 2 r.emb
    ++ leBytes 4 r.id ++ leBytes 4 r.lines ++ leBytes 4 r.lineBytes

/-- Counters of a committed record. -/
def countCommit (s : State) (p : Nat) (r : InRec) : State :=
  if isCam p then
    let b := camBase p
    if bit r.flags 1 then s.faddWrap b Fld.PCH_CAM_MISS_VALUE 1
    else
      let s := s.faddWrap b Fld.PCH_CAM_FRAMES_VALUE 1
      if bit r.flags 0 then s.faddWrap b Fld.PCH_CAM_TRUNC_VALUE 1 else s
  else if isCan p then s.faddWrap (canBase (p - 24)) Fld.PCH_CAN_RX_COUNT 1
  else if isImu p then s.faddWrap (imuBase (p - 28)) Fld.PCH_IMU_RX_COUNT 1
  else s

/-- The head record of a port has been drained: commit it. -/
def commitHeadRec (s : State) (p : Nat) (r : InRec) : State :=
  let x := s.port p
  let slot := headSlot s p
  let first := if r.payload.isEmpty then writeBytes s 0xA00 x.ctx slot (leBytes 8 0) else (true, s)
  let c := if first.1 then commitHead first.2 0xA00 x.ctx slot (recHeader p r) (x.seq + 1) (statusAddr s p) (x.seq % slotCount s p)
    else (false, true, first.2)
  if !c.1 then loseRec c.2.2 p r
  else
    let s := c.2.2.setPort p { x with seq := x.seq + 1, recs := x.recs.drop 1 }
    let s := if c.2.1 then s else countDrop (s.fs pchBase Fld.PCH_ERR_WR_FAIL 1) p
    portSignal (countCommit s p r) p

def execRecordCommit (p : Nat) (s : State) : Host.Outcome State Fault Refusal :=
  .next (match (s.port p).recs with
    | [] => s
    | r :: _ => if r.ended && !r.lost && r.drained == r.payload.length then commitHeadRec s p r else s)

/-! ### Register writes (R389, R392) -/

/-- PCH_CTL: a set of partitions beyond 384 units leaves EN at 0. -/
def pchCtlWrite (s : State) (v : Nat) (spec : Option (RegSpec × Nat × Nat)) : State :=
  let units := sumN ((List.range 22).map fun k => s.fg (pchBase + 4 * k) Fld.PCH_BUF_UNITS)
  if bit v 0 && !s.fb pchBase Fld.PCH_CTL_EN && decide (384 < units) then
    (regStore s (pchBase + Reg.PCH_CTL) (setBits v 0 0 0) spec).fs pchBase Fld.PCH_ERR_CFG 1
  else regStore s (pchBase + Reg.PCH_CTL) v spec

/-- A write of a PCH_ register that its port has admitted. -/
def pchRegWrite (s : State) (off v : Nat) (spec : Option (RegSpec × Nat × Nat)) : State :=
  if off = Reg.PCH_CTL then pchCtlWrite s v spec
  else if Reg.PCH_BUF ≤ off ∧ off < Reg.PCH_BUF + 88 then
    (if s.fb pchBase Fld.PCH_CTL_EN then s else syncUrgs (regStore s (pchBase + off) v spec))
  else if 0x2000 ≤ off ∧ off < 0x2600 ∧ off % 0x100 = 8 then
    let m := (off - 0x2000) / 0x100
    if bit v 0 then (s.setPort (16 + m) { s.port (16 + m) with diag := true }).fs (ethBase m) Fld.PCH_ETH_STS_LINK 0 else s
  else regStore s (pchBase + off) v spec

end Sys2Proof.Machine
end

