-- ==== Sys2Proof/Machine/Fusion.lean ====
section
/-!
DEFINITION. Machine/Fusion.lean: calibration records, the strapdown integrator and its pose ring (chapter 13).
-/
namespace Sys2Proof.Machine

open Sys2Proof

/-! ### Calibration records (R394 to R398, R413, R415) -/

/-- The key of a record: 256·KIND + INDEX. -/
def calKey (kind i : Nat) : Nat := 256 * kind + i
/-- Where a record's body, from byte 40, reads back. -/
def calArea (key : Nat) : Nat :=
  fusBase + (match key / 256 with | 0 => 0x1000 | 1 => 0x2000 | 2 => 0x2400 | 3 => 0x2600 | 4 => 0x2700 | _ => 0x2800)
    + 0x100 * (key % 256)
def calNum (s : State) (key off n : Nat) : Nat := areaNum s (calArea key) 40 off n
def calIsOn (s : State) (key : Nat) : Bool := (aget s.calOn key).isSome
/-- A record's body as bytes. -/
def calBody (s : State) (key n : Nat) : List Byte := (rangeFrom 40 n).map fun o => BitVec.ofNat 8 (areaByte s (calArea key) 40 o)

def bodyLen (kind : Nat) : Nat := match kind with | 0 => 88 | 1 => 64 | 2 => 104 | 3 => 88 | 4 => 48 | _ => 40
def indexCount (kind : Nat) : Nat := match kind with | 0 => 16 | 1 => 4 | 2 => 2 | _ => 1

/-- Reserved bits of a record by kind. -/
def calReserved (kind : Nat) : List (Nat × Nat) :=
  let z := fun (lo n : Nat) => (rangeFrom lo n).map fun o => (o, 0xFF)
  [(34, 0xFE)] ++ z 35 5 ++
  (match kind with
   | 0 => (116, 0xFE) :: z 117 3
   | 1 => (74, 0xF0) :: z 75 1 ++ z 82 2 ++ z 100 4
   | 2 => ((List.range 6).flatMap fun i => (69 + 8 * i, 0xFC) :: z (70 + 8 * i) 2) ++ z 141 3
   | 3 => ((List.range 5).flatMap fun i => (41 + 16 * i, 0xF0) :: z (45 + 16 * i) 3) ++ (125, 0xF0) :: z 126 2
   | 4 => z 46 2 ++ z 54 2 ++ [(57, 0xFE), (59, 0xC0)] ++ z 62 2 ++ z 84 4
   | _ => z 46 2 ++ z 54 2 ++ [(58, 0xFE)] ++ z 59 1 ++ [(61, 0xC0), (66, 0xF0)] ++ z 67 1 ++ z 76 4)

/-- Integer ranges of a record by kind. -/
def calRanges (kind : Nat) : List Rng :=
  match kind with
  | 0 => [⟨40, 2, 16, 8192⟩, ⟨42, 2, 16, 8192⟩, ⟨112, 4, 0, 1000000⟩]
  | 1 => [⟨70, 2, 4, 256⟩, ⟨72, 2, 1, 4096⟩, ⟨81, 1, 0, 2⟩]
  | 2 => ((List.range 6).map fun i => ⟨68 + 8 * i, 1, 0, 63⟩) ++ [⟨140, 1, 0, 1⟩]
  | 3 => [⟨124, 1, 1, 50⟩]
  | 4 => [⟨56, 1, 4, 16⟩, ⟨60, 2, 1, 65535⟩]
  | _ => [⟨56, 1, 7, 26⟩, ⟨57, 1, 2, 16⟩, ⟨62, 2, 1, 65535⟩, ⟨68, 4, 0, 100000⟩, ⟨72, 4, 0, 100000⟩]

/-- Is a loaded quaternion's norm within 10^−3 of 1 (R394)? Judged exactly. -/
def quatOk (c : Cmd) (off : Nat) : Bool :=
  let q := (List.range 4).map fun i => dec32 (c.par (off + 4 * i) 4)
  let n2 := (sumF (q.map fun x => x.mul x)).mul (.fin false 1000000 0)
  (FVal.fin false 998001 0).le n2 && n2.le (.fin false 1002001 0)

/-- The remaining checks of a record's values. -/
def calValues (s : State) (kind i : Nat) (c : Cmd) : Option Nat :=
  match kind with
  | 0 => if !quatOk c 84 then some 84 else if !fzero.lt (dec32 (c.par 80 4)) then some 80
         else if !(dec32 0x3C23D70A).le (dec32 (c.par 120 4)) then some 120 else none
  | 1 => if !quatOk c 40 then some 40 else if bits (c.par 74 1) 1 0 = 3 then some 74 else none
  | 2 => if !quatOk c 40 then some 40
         else if c.par 140 1 = 0 ∧ calIsOn s (calKey 2 (1 - i)) = true ∧ calNum s (calKey 2 (1 - i)) 140 1 = 0 then some 140
         else none
  | 3 => (List.range 5).findSome? fun j =>
           let o := 40 + 16 * j
           if !bit (c.par (o + 1) 1) 3 then none
           else if c.par o 1 < 0x18 ∨ 0x1B < c.par o 1 then some o
           else if 511 < c.par (o + 2) 2 then some (o + 2)
           else if c.par (o + 4) 1 < 1 ∨ 32 < c.par (o + 4) 1 then some (o + 4)
           else none
  | 4 => let w := c.par 72 2; let r := c.par 74 2
         if w ≠ 0 ∧ (w < 10 ∨ 1000 < w) then some 72 else if 100 < r then some 74 else none
  | _ => none

/-- Every check of a CALIB_LOAD record of a kind. -/
def calCheck (s : State) (kind : Nat) (c : Cmd) : Option (Nat × Nat) :=
  let i := c.par 33 1
  let en := bit (c.par 34 1) 0
  if c.par 20 4 ≠ 8 + bodyLen kind then some (0x11, c.par 2 1)
  else if indexCount kind ≤ i then some (0x13, 33)
  else if dieHeld s 5 then some (0x1A, 1)
  else match maskBad c (calReserved kind) with
    | some o => some (0x13, o)
    | none =>
      if !en then none
      else if (kind = 4 ∧ s.integ.isSome = true) ∨ (kind = 5 ∧ s.proj.isSome = true) then some (0x1A, 0)
      else match rngBad c (calRanges kind), calValues s kind i c with
        | some o, _ => some (0x13, o)
        | none, some o => some (0x13, o)
        | none, none =>
          if kind = 4 then (ringPlaced s (c.par 40 6) (128 * 2 ^ c.par 56 1) 40 (c.par 48 6) 48).map fun o => (0x14, o)
          else if kind = 5 then (ringPlaced s (c.par 40 6) (2 ^ (c.par 56 1 + c.par 57 1)) 40 (c.par 48 6) 48).map fun o => (0x14, o)
          else none

/-- A loaded record's body reads back (R415). -/
def calPut (s : State) (key : Nat) (body : List Byte) : State := areaPut s (calArea key) (body.length / 4) body

/-- A record takes effect: its body reads back, and its owner is held while EN = 1. -/
def calApply (s : State) (key : Nat) (en : Bool) (owner : Nat) (body : List Byte) : State :=
  let s := calPut s key body
  { s with calOn := if en then aput s.calOn key owner else adel s.calOn key }

/-- CALIB_LOAD of a record of `kind`: refused with FUS_ERR.CFG, or handed to `f`. -/
def calDo (tg kind : Nat) (mine : Nat → Bool) (f : Cmd → Nat → Bool → List Byte → State → State) (s : State) :
    Host.Outcome State Fault Refusal :=
  cmdDo s tg 0x33 true fun c s =>
    let k := c.par 32 1
    if !mine k then s
    else if 5 < k then refuse (s.fs fusBase Fld.FUS_ERR_CFG 1) tg 0x13 32
    else match calCheck s kind c with
      | some e => refuse (s.fs fusBase Fld.FUS_ERR_CFG 1) tg e.1 e.2
      | none => f c (calKey kind (c.par 33 1)) (bit (c.par 34 1) 0) ((c.packet.drop 40).take (bodyLen kind)) s

def ownerOf (c : Cmd) : Nat := c.ctx + 2 ^ 16 * c.ctxGen

/-- KIND 0 and 1 are in effect for every lidar record that starts from now on. -/
def calNow (tg : Nat) (c : Cmd) (key : Nat) (en : Bool) (body : List Byte) (s : State) : State :=
  finishCmd (calApply s key en (ownerOf c) body) tg 0 0 0

/-- KIND 2 and 3 wait for the next tick of a running integrator. -/
def calTick (tg : Nat) (c : Cmd) (key : Nat) (en : Bool) (body : List Byte) (s : State) : State :=
  if s.integ.isNone then calNow tg c key en body s
  else { s.setCmd tg { c with phase := .waiting } with calPend := s.calPend ++ [⟨tg, key, en, c.ctx, c.ctxGen, body⟩] }

/-- A record of an unknown KIND is refused by this command. -/
def execCalibCamera (tg : Nat) (s : State) : Host.Outcome State Fault Refusal :=
  calDo tg 0 (fun k => k == 0 || decide (5 < k)) (calNow tg) s
def execCalibLidar (tg : Nat) (s : State) : Host.Outcome State Fault Refusal := calDo tg 1 (fun k => k == 1) (calNow tg) s
def execCalibImu (tg : Nat) (s : State) : Host.Outcome State Fault Refusal := calDo tg 2 (fun k => k == 2) (calTick tg) s
def execCalibWheel (tg : Nat) (s : State) : Host.Outcome State Fault Refusal := calDo tg 3 (fun k => k == 3) (calTick tg) s

/-! ### The integrator (R399 to R403) -/

def intKey : Nat := calKey 4 0
def projKey : Nat := calKey 5 0

/-- Δt, and the defaults of R413, as binary32 and binary64 patterns. -/
def dt32 : FVal := dec32 0x3A83126F
def dt64 : FVal := dec64 0x3F50624DD2F1A9FC
def orDefault (s : State) (off dflt : Nat) : FVal := let v := calNum s intKey off 4; dec32 (if v = 0 then dflt else v)
def gravV (s : State) : FVal := orDefault s 64 0x411CE80A
def disThr (s : State) : FVal := orDefault s 68 0x3D4CCCCD
def yawThr (s : State) : FVal := orDefault s 76 0x3CA3D70A
def g2Thr (s : State) : FVal := orDefault s 80 0x3C23D70A
def disWin (s : State) : Nat := let v := calNum s intKey 72 2; if v = 0 then 100 else v
def rejoinWin (s : State) : Nat := let v := calNum s intKey 74 2; if v = 0 then 10 else v

/-- The integrator right after its enable (R402). -/
def Integ.start (ctx gen t : Nat) : Integ :=
  let z := [0, 0, 0]
  ⟨ctx, gen, 0, false, 0, t, [0x3F800000, 0, 0, 0], z, z, z, z, z, z, z, z, z, z, 0, 0, 0, z, 0, z, 0, false, 0, true, false⟩

/-- The unit starts, for a context. -/
def intStart (s : State) (ctx gen : Nat) : State :=
  let s := { s with integ := some (Integ.start ctx gen (pchTime s / 1000000)) }
  (s.fs fusBase Fld.FUS_CTL_INT_EN 1).fs fusBase Fld.FUS_STS_INT_RUN 1

/-- Records that waited for a tick are in effect. -/
def calSettle (s : State) : State :=
  s.calPend.foldl (fun t r => finishCmd (calApply t r.key r.en (r.ctx + 2 ^ 16 * r.ctxGen) r.body) r.tag 0 0 0)
    { s with calPend := [] }

/-- The unit stops. -/
def intStop (s : State) : State :=
  let s := calSettle { s with integ := none }
  ((s.fs fusBase Fld.FUS_CTL_INT_EN 0).fs fusBase Fld.FUS_STS_INT_RUN 0).fs fusBase Fld.FUS_STS_IMU_ONLY 0

def execCalibIntegrator (tg : Nat) (s : State) : Host.Outcome State Fault Refusal :=
  calDo tg 4 (fun k => k == 4) (fun c key en body s =>
    let s := calApply s key en (ownerOf c) body
    finishCmd (if en then intStart s c.ctx c.ctxGen else intStop s) tg 0 0 0) s

/-- The six scaled values of a burst, or none where an axis runs past it (R397). -/
def imuDecode (s : State) (key : Nat) (data : List Byte) : Option (List FVal) :=
  (List.range 6).foldl (fun acc i =>
    let o := 68 + 8 * i
    let n := if bit (calNum s key (o + 1) 1) 0 then 4 else 2
    let off := calNum s key o 1
    match acc with
    | none => none
    | some vs =>
      if data.length < off + n then none
      else
        let v := toSigned (8 * n) (endNum (bit (calNum s key (o + 1) 1) 1) data off n)
        some (vs ++ [fmul fF32 (ofInt v) (dec32 (calNum s key (o + 4) 4))])) (some [])

def calVec (s : State) (key off n : Nat) : List FVal := (List.range n).map fun i => dec32 (calNum s key (off + 4 * i) 4)

/-- The IMU port with an enabled record of a role. -/
def imuRole (s : State) (role : Nat) : Option Nat :=
  (List.range 2).find? fun j => calIsOn s (calKey 2 j) && calNum s (calKey 2 j) 140 1 == role

/-- The samples of a port for the tick at `t`. -/
def tickSamples (s : State) (j t : Nat) : List ImuSample :=
  s.imuIn.filter fun x => x.port == j && decide (x.stamp ≤ t) && decide (t < x.stamp + 1000000)

/-- The mean of decoded samples. -/
def meanOf (vs : List (List FVal)) : List FVal :=
  match vs with
  | [] => []
  | x :: xs => vdiv fF32 (xs.foldl (vadd fF32) x) (ofInt vs.length)

/-- Rate and force of a tick's samples of an IMU, averaged, with BIAS subtracted and rotated into V; none without usable
samples. Samples that cannot be decoded set DECODE. -/
def imuMean (s : State) (j t : Nat) : Option (List FVal × List FVal) × State :=
  let key := calKey 2 j
  let ds := (tickSamples s j t).map fun x => imuDecode s key x.data
  let s := if ds.any (·.isNone) then s.fs fusBase Fld.FUS_ERR_DECODE 1 else s
  match ds.filterMap id with
  | [] => (none, s)
  | vs =>
    let m := vsub fF32 (meanOf vs) (calVec s key 116 6)
    let q := normQ fF32 (calVec s key 40 4)
    (some (rotQ fF32 q (m.take 3), rotQ fF32 q (m.drop 3)), s)

/-! Wheels (R398, R401) -/

def wheelKey : Nat := calKey 3 0
def wheelOn (s : State) (j : Nat) : Bool := calIsOn s wheelKey && bit (calNum s wheelKey (41 + 16 * j) 1) 3
/-- A wheel's speed in m/s: its count scaled, negated while DIR is not zero. -/
def wheelSpeed (s : State) (j : Nat) : FVal :=
  let v := match aget s.wheels j with | some x => x.value | none => 0
  let v := fmul fF32 (ofInt v) (dec32 (calNum s wheelKey (52 + 16 * j) 4))
  let back := wheelOn s 4 && (match aget s.wheels 4 with | some x => !decide (x.value = 0) | none => false)
  if back then v.neg else v
def wheelSel (s : State) : List Nat := (List.range 4).filter fun j => bit (calNum s wheelKey 125 1) j
/-- Has an enabled wheel signal, and DIR where it is enabled, been received? -/
def wheelKnown (s : State) (j : Nat) : Bool :=
  wheelOn s j && (aget s.wheels j).isSome && (!wheelOn s 4 || (aget s.wheels 4).isSome)

/-- A value, or a free one where the spec states none. -/
def orFree (s : State) (v : Option FVal) : FVal × State :=
  match v with
  | some x => (x, s)
  | none => let r := s.free; (dec32 r.1.toNat, r.2)

/-- The mean of the SEL wheel speeds; none where SEL is empty or names a signal that has no value yet. -/
def wheelMean (s : State) : Option FVal :=
  let js := wheelSel s
  if js.isEmpty || !js.all (wheelKnown s) then none
  else some (divF fF32 (fsum fF32 (js.map (wheelSpeed s))) (ofInt js.length))
/-- Is a signal of SEL stale at `t`? -/
def wheelStale (s : State) (t : Nat) : Bool :=
  !calIsOn s wheelKey || (wheelSel s).any fun j => !wheelOn s j ||
    (match aget s.wheels j with
     | some x => decide (x.stamp + calNum s wheelKey 124 1 * 1000000 < t)
     | none => true)

/-- The yaw disagreement: the rear pair, or the front pair where a rear signal is disabled; none where a signal of the
pair has no value. -/
def yawD (s : State) (wz : FVal) : Option FVal :=
  let p := if wheelOn s 2 && wheelOn s 3 then (2, 3) else (0, 1)
  if wheelKnown s p.1 && wheelKnown s p.2 then
    some (fsub fF32 wz (divF fF32 (fsub fF32 (wheelSpeed s p.2) (wheelSpeed s p.1)) (dec32 (calNum s wheelKey 120 4))))
  else none

/-- A tick that holds its pose or levels it: a stale wheel signal still enters IMU_ONLY at once (R401, R402). -/
def intHeld (s : State) (t : Nat) (x : Integ) : Integ × Nat × Bool :=
  let stale := wheelStale s t
  let only := x.imuOnly || stale
  ({ x with imuOnly := only, goodWins := if stale then 0 else x.goodWins, winFresh := x.winFresh && !stale },
    b2n only + 2 * b2n stale, stale && !x.imuOnly)

/-- One step of the velocity tracks, the window and the mode at a mean wheel speed (R400, R401); the flags IMU_ONLY,
WHEEL_STALE, REJOIN. -/
def intVelocity (s : State) (t : Nat) (x : Integ) (f : List FVal) (mean : FVal) : Integ × Nat × Bool :=
  let q := vec32 x.q
  let vW := rotQ fF32 q [mean, fzero, fzero]
  let d := vmul fF32 dt32 (vadd fF32 (rotQ fF32 q f) [fzero, fzero, (gravV s).neg])
  let u := vadd fF32 (vec32 x.u) d
  let w := if x.winTick = 0 then vW else vadd fF32 (vec32 x.w) d
  let acc := vadd fF32 (if x.winTick = 0 then [fzero, fzero, fzero] else vec32 x.acc) (vmul fF32 dt32 (vsub fF32 vW w))
  let stale := wheelStale s t
  let last := decide (disWin s ≤ x.winTick + 1)
  let dm := normV fF32 acc
  let fresh := (x.winFresh || x.winTick == 0) && !stale
  let good := if !last then x.goodWins else if fresh && dm.le (disThr s) then x.goodWins + 1 else 0
  let enter := !x.imuOnly && (stale || (last && (disThr s).lt dm))
  let leave := x.imuOnly && !stale && last && decide (rejoinWin s ≤ good)
  let only := enter || (x.imuOnly && !leave)
  let v := if only then u else vW
  let vA := if only then vW else w
  let step := fun (p a b : List Nat) => pat64 (vadd fF64 (vec64 p)
    (vmul fF64 dt64 (vmul fF64 fhalf (vadd fF64 (vec32 a) (vec32 b)))))
  let y := { x with u := pat32 (if only then u else vW), w := pat32 w, v := pat32 v, vA := pat32 vA, acc := pat32 acc,
                    p := step x.p x.v (pat32 v), pAlt := step x.pAlt x.vA (pat32 vA),
                    winTick := if last then 0 else x.winTick + 1, winFresh := fresh,
                    dM := if last then enc32 dm else x.dM,
                    imuOnly := only, goodWins := if only then (if enter then 0 else good) else 0 }
  (y, b2n only + 2 * b2n stale + 32 * b2n leave, enter)

/-- A pose record's bytes (R403), its D_M that of the last window. -/
def poseBytes (x : Integ) (t flags ts dm yaw g2 : Nat) : List Byte :=
  let f := fun (n : Nat) (xs : List Nat) => xs.flatMap fun v => leBytes n v
  leBytes 8 0 ++ leBytes 8 t ++ f 4 x.q ++ f 8 x.p ++ f 8 x.pAlt ++ f 4 x.v ++ f 4 x.omega ++ leBytes 4 dm ++ leBytes 4 yaw
    ++ leBytes 4 g2 ++ leBytes 2 flags ++ leBytes 1 ts ++ leBytes 1 0 ++ leBytes 4 x.imuSeq ++ leBytes 4 x.wheelSeq

/-- One record of a fusion ring was committed: the signal of every SIG_EVERYth; the new count. -/
def ringSignal (s : State) (ring ctx gen : Nat) (on stop : Bool) (count every sem : Nat) : Nat × State :=
  if !on || stop then (count, s)
  else if count + 1 < every then (count + 1, s)
  else match sigSend s (.ring ring) (sem % 2 ^ 14) ctx gen with
    | (true, s) => (0, s)
    | (false, s) => (0, ringSigFail s ring)

/-- The tick's record goes to the pose ring and to the projection unit's history. -/
def poseCommit (s : State) (x : Integ) (t flags dm yaw g2 : Nat) : State :=
  let slots := 2 ^ calNum s intKey 56 1
  let slot := calNum s intKey 40 6 + (x.tick - 1) % slots * 128
  let pose : Pose := ⟨t, x.q, x.p, x.pAlt, x.v, x.omega, flags⟩
  let s := { s with poses := if bit flags 6 then [pose] else (pose :: s.poses).take 512 }
  let w := writeBytes s 0xA02 x.ctx slot (leBytes 8 0)
  let c := if w.1 then commitHead w.2 0xA02 x.ctx slot (poseBytes x t flags (timeState s) dm yaw g2) x.tick
      (calNum s intKey 48 6) ((x.tick - 1) % slots)
    else (false, true, w.2)
  let s := if c.1 && c.2.1 then c.2.2 else c.2.2.fs fusBase Fld.FUS_ERR_WR_FAIL 1
  if !c.1 then s
  else
    let s := (s.wr (fusBase + Reg.FUS_POSE_SEQ_LO) (x.tick % 2 ^ 32)).wr (fusBase + Reg.FUS_POSE_SEQ_HI) (x.tick / 2 ^ 32)
    let r := ringSignal s 0 x.ctx x.ctxGen (bit (calNum s intKey 57 1) 0) x.sigStop x.sigCount (calNum s intKey 60 2)
      (calNum s intKey 58 2)
    { r.2 with integ := r.2.integ.map fun (y : Integ) => { y with sigCount := r.1 } }

/-- Tick `k` at time `t` ns. -/
def intTick (s : State) (x : Integ) (t : Nat) : State :=
  let s := calSettle s
  let x := { x with tick := x.tick + 1, lastT := t / 1000000 }
  let prim := imuRole s 0
  let m : Option (List FVal × List FVal) × State := match prim with | some j => imuMean s j t | none => (none, s)
  let newest := match prim with
    | some j => (((tickSamples s j t).filter fun y => (imuDecode s (calKey 2 j) y.data).isSome).getLast?).map (·.seq)
    | none => none
  let c : Bool × Option (List FVal) × State := match imuRole m.2 1 with
    | some j => let r := imuMean m.2 j t; (true, r.1.map fun v => v.1, r.2)
    | none => (false, none, m.2)
  let s := { c.2.2 with imuIn := c.2.2.imuIn.filter fun y => decide (t < y.stamp) }
  let gap := m.1.isNone
  let gyro := match m.1 with | some r => r.1 | none => vec32 x.gyro
  let acc := match m.1 with | some r => r.2 | none => vec32 x.accel
  let o2 := match c.2.1 with | some w => w | none => vec32 x.omega2
  let wseq := (s.wheels.foldl (fun (a : Nat × Nat) e => if a.1 ≤ e.2.stamp then (e.2.stamp, e.2.seq) else a) (0, x.wheelSeq)).2
  let x := { x with gyro := pat32 gyro, accel := pat32 acc, omega2 := pat32 o2, noImu := if gap then x.noImu + 1 else 0,
                    imuSeq := match newest with | some n => n % 2 ^ 32 | none => x.imuSeq, wheelSeq := wseq % 2 ^ 32 }
  let lever := match prim with | some j => calVec s (calKey 2 j) 56 3 | none => [fzero, fzero, fzero]
  let alpha := vdiv fF32 (vsub fF32 gyro (vec32 x.omega)) dt32
  let f := vsub fF32 (vsub fF32 acc (crossV fF32 gyro (crossV fF32 gyro lever))) (crossV fF32 alpha lever)
  let hold := decide (10 ≤ x.noImu)
  let init := decide (x.tick ≤ 100)
  let dm := x.dM
  let wm := orFree s (wheelMean s)
  let r : Integ × Nat × Bool :=
    if init then
      let sum := vadd fF32 (vec32 x.level) f
      let x := { x with omega := pat32 gyro, level := pat32 sum }
      intHeld s t (if hold then x else { x with q := pat32 (levelQ (vdiv fF32 sum (ofInt x.tick))) })
    else if hold then intHeld s t x
    else
      let q := normQ fF32 (mulQ fF32 (vec32 x.q) (turnQ gyro dt32))
      intVelocity s t { x with omega := pat32 gyro, q := pat32 q } f wm.1
  let x := r.1
  let wz := vz (vec32 x.omega)
  let yd := orFree wm.2 (yawD s wz)
  let yaw := yd.1
  let s := yd.2
  let g2 := if c.1 then normV fF32 (vsub fF32 o2 (vec32 x.omega)) else fzero
  let flags := r.2.1 + 4 * b2n gap + 8 * b2n hold + 16 * b2n init + 64 * b2n x.stepNext
    + 128 * b2n ((yawThr s).lt yaw.abs) + 256 * b2n (c.1 && (g2Thr s).lt g2)
  let s := if r.2.2 then (s.fs fusBase Fld.FUS_ERR_MODE_CHG 1).faddWrap fusBase Fld.FUS_MODE_CNT_COUNT 1 else s
  let s := ((s.wr (fusBase + Reg.FUS_D_M) dm).wr (fusBase + Reg.FUS_YAW_D) (enc32 yaw)).wr (fusBase + Reg.FUS_G2_D) (enc32 g2)
  let s := (s.fs fusBase Fld.FUS_STS_IMU_ONLY (b2n x.imuOnly)).fs fusBase Fld.FUS_STS_WHEEL_STALE (b2n (bit flags 1))
  let s := s.fs fusBase Fld.FUS_STS_INVALID (b2n (hold || init))
  let s := { s with integ := some { x with stepNext := false } }
  poseCommit s x t flags dm (enc32 yaw) (enc32 g2)

/-- A tick, when the client's clock has crossed a whole millisecond since the last one. -/
def execIntegratorTick (s : State) : Host.Outcome State Fault Refusal :=
  .next (match s.integ with
    | none => s
    | some x =>
      let k := pchTime s / 1000000
      if k = x.lastT then s else intTick s x (k * 1000000))

end Sys2Proof.Machine
end

