-- ==== Sys2Proof/Machine/Projection.lean ====
section
/-!
DEFINITION. Machine/Projection.lean: the projection unit: lidar records, pose history, pairing and the two passes of a
point (R396, R404 to R411).
-/
namespace Sys2Proof.Machine

open Sys2Proof

/-! ### Set-up (R395, R413) -/

def projStart (s : State) (ctx gen : Nat) : State :=
  let s := { s with proj := some ⟨ctx, gen, 0, 0, false, [], false⟩ }
  (s.fs fusBase Fld.FUS_CTL_PROJ_EN 1).fs fusBase Fld.FUS_STS_PROJ_RUN 1

/-- The unit stops once no lidar record is being projected. -/
def projSettle (s : State) : State :=
  match s.proj with
  | none => s
  | some x =>
    if x.stopping && s.jobs.isEmpty then
      let s := x.stopTags.foldl (fun t g => match t.cmd? g with
        | some c => calPut t projKey ((c.packet.drop 40).take (bodyLen 5))
        | none => t) { s with proj := none, lidIn := [] }
      let s := (s.fs fusBase Fld.FUS_CTL_PROJ_EN 0).fs fusBase Fld.FUS_STS_PROJ_RUN 0
      x.stopTags.foldl (fun t g => finishCmd t g 0 0 0) (s.fs fusBase Fld.FUS_STS_CAM_TRIAL 0)
    else s

/-- Begin to stop a unit that runs. -/
def projStop (s : State) (tags : List Nat) : State :=
  match s.proj with
  | none => s
  | some x => projSettle { s with proj := some { x with stopping := true, stopTags := x.stopTags ++ tags } }

def execCalibProjection (tg : Nat) (s : State) : Host.Outcome State Fault Refusal :=
  calDo tg 5 (fun k => k == 5) (fun c key en body s =>
    if en then finishCmd (projStart (calApply s key true (ownerOf c) body) c.ctx c.ctxGen) tg 0 0 0
    else if s.proj.isNone then finishCmd (calApply s key false 0 body) tg 0 0 0
    else projStop ({ s with calOn := adel s.calOn key }.setCmd tg { c with phase := .waiting }) [tg]) s

/-- The cameras under trial (R411). -/
def trialMask (s : State) : Nat :=
  sumN (((List.range 16).filter fun n =>
    bit (calNum s projKey 64 2) n && calIsOn s (calKey 0 n) && (s.port n).on && (s.port n).restart.isNone
      && !s.fb (camBase n) Fld.PCH_CAM_STS_UNALIGNED && trigRun s).map fun n => 2 ^ n)

/-! ### Poses at a time (R404) -/

/-- A pose a point uses: rotation, position and the other source's position, flags. -/
structure PoseAt where
  q : List FVal
  p : List FVal
  pAlt : List FVal
  flags : Nat

/-- Does a record carry INVALID or INIT? -/
def Pose.bad (p : Pose) : Bool := bit p.flags 3 || bit p.flags 4
def Pose.at (p : Pose) : PoseAt := ⟨vec32 p.q, vec64 p.p, vec64 p.pAlt, p.flags⟩

/-- Between an older record `a` and the next one `b`. -/
def lerpPose (a b : Pose) (t : Nat) : PoseAt :=
  let num := ofInt (t - a.t : Nat)
  let den := ofInt (b.t - a.t : Nat)
  let l64 := divF fF64 num den
  let l32 := divF fF32 num den
  let lin := fun (x y : List Nat) => vadd fF64 (vec64 x) (vmul fF64 l64 (vsub fF64 (vec64 y) (vec64 x)))
  let q := vadd fF32 (vec32 a.q) (vmul fF32 l32 (vsub fF32 (vec32 b.q) (vec32 a.q)))
  ⟨normQ fF32 q, lin a.p b.p, lin a.pAlt b.pAlt, Nat.lor a.flags b.flags⟩

/-- The pose at `t` within the history, newest first. -/
def poseWithin (t : Nat) : List Pose → Option PoseAt
  | [] => none
  | [a] => if a.t = t && !a.bad then some a.at else none
  | b :: a :: ps =>
    if b.t = t then (if b.bad then none else some b.at)
    else if a.t < t ∧ t < b.t then (if a.bad || b.bad then none else some (lerpPose a b t))
    else poseWithin t (a :: ps)

/-- Beyond the newest record, at its V and W. -/
def poseBeyond (p : Pose) (t : Nat) : PoseAt :=
  let d64 := divF fF64 (ofInt (t - p.t : Nat)) (ofInt 1000000000)
  let d32 := divF fF32 (ofInt (t - p.t : Nat)) (ofInt 1000000000)
  let move := fun (x : List Nat) => vadd fF64 (vec64 x) (vmul fF64 d64 (vec32 p.v))
  ⟨normQ fF32 (mulQ fF32 (vec32 p.q) (turnQ (vec32 p.w) d32)), move p.p, move p.pAlt, p.flags⟩

/-- The pose at a time, with extrapolation where it is allowed. -/
def poseAt (s : State) (t : Nat) (extrap : Bool) : Option PoseAt :=
  match s.poses with
  | [] => none
  | p :: ps =>
    if t ≤ p.t then poseWithin t (p :: ps)
    else
      let lim := let v := calNum s projKey 72 4; if v = 0 then 50000 else v
      if extrap && !p.bad && decide (t - p.t ≤ 1000 * lim) then some (poseBeyond p t) else none

/-! ### Pairing a point with a frame (R405) -/

/-- The start of base period `k`, as scheduled: the current one began at its stamp, and the next one follows it after the
length the correction gave it (R381). -/
def periodAt (s : State) (k : Nat) : Int :=
  let n := trigIdx s
  if n < k then ((s.trigAt + s.trigLen + (k - n - 1) * trigPeriodNs s : Nat) : Int)
  else (s.trigAt : Int) - (((n - k) * trigPeriodNs s : Nat) : Int)

/-- Stamps of a camera's trigger indexes, past as they were and scheduled, with the index: those of the 16 base periods
before the current one whose phase has not passed, of the current one, and of 63 more. -/
def trigStamps (s : State) (i : Nat) : List (Nat × Nat) :=
  let w := outWord s i
  let past := (s.trigPast.filter fun e => e.1 == i).map fun e => (e.2.1, e.2.2)
  let n := trigIdx s
  let ahead := ((List.range 80).filter fun j => decide (16 ≤ n + j)).filterMap fun j =>
    let k := n + j - 16
    let t := periodAt s k + outPhase w
    if k % outDiv w = 0 && !(past.any fun e => e.1 == k) && (decide (n ≤ k) || decide ((s.trigAt : Int) ≤ t)) then some (k, t.toNat)
    else none
  past.reverse ++ ahead

/-- A field of a calibration body held by a job, by packet byte. -/
def bodyNum (b : List Byte) (off n : Nat) : Nat := leAt b (off - 40) n
def bodyF (b : List Byte) (off : Nat) : FVal := dec32 (bodyNum b off 4)
def bodyVec (b : List Byte) (off n : Nat) : List FVal := (List.range n).map fun i => bodyF b (off + 4 * i)

/-- What a camera's newest record gives a pairing: T_TRIG's offset in ns, the exposure, NO_SKEW. -/
def camTiming (s : State) (n : Nat) : Int × Nat × Bool :=
  let x := s.port n
  let sk : Int := match x.skewNew with | some v => toSigned 32 v | none => 0
  ((portNum s n 104 4 : Int) + sk, x.expNew, x.skewNew.isNone)

/-- Time of an image row for a trigger stamp: T_EXP′ + EXP/2 + v′·LINE_NS, to whole nanoseconds. -/
def rowTime (b : List Byte) (off : Int) (exp stamp : Nat) (v : FVal) : Int :=
  let h := ofInt ((bodyNum b 42 2 : Int) - 1)
  let v' := if bit (bodyNum b 116 1) 0 then h.sub v else v
  (stamp : Int) + off + ((exp / 2 : Nat) : Int)
    + (match toIntR .rne (v'.mul (ofInt (bodyNum b 112 4))) with | some x => x | none => 0)

/-- Twice the time of a frame's middle row. -/
def midTime2 (b : List Byte) (off : Int) (exp stamp : Nat) : Int :=
  2 * ((stamp : Int) + off) + (exp : Int) + ((bodyNum b 42 2 : Int) - 1) * (bodyNum b 112 4 : Int)

/-- The trigger index (and stamp) a point pairs with in a camera. -/
def pairPoint (s : State) (n : Nat) (b : List Byte) (t : Nat) : Option (Nat × Nat) :=
  let tm := camTiming s n
  let dist := fun (e : Nat × Nat) => (2 * (t : Int) - midTime2 b tm.1 tm.2.1 e.2).natAbs
  let best := (trigStamps s (camOut s n)).foldl (fun (acc : Option (Nat × Nat)) e =>
    match acc with
    | none => some e
    | some a => if dist e < dist a then some e else acc) none
  match best with
  | none => none
  | some e => if dist e ≤ 2 * bodyNum b 124 4 then some e else none

/-! ### Projection (R406 to R408) -/

/-- A point in the camera frame at row time, from the poses at its own time and at the row's, with P or P_ALT. -/
def toCamera (lid cam : List Byte) (xyz : List FVal) (own row : PoseAt) (alt : Bool) : List FVal :=
  let f := fF32
  let v := vadd f (rotQ f (normQ f (bodyVec lid 40 4)) xyz) (bodyVec lid 56 3)
  let d := if alt then vsub fF64 own.pAlt row.pAlt else vsub fF64 own.p row.p
  let o := vadd f (rotQ f own.q v) (d.map fun x => f.round .rne x)
  let pv := rotT f row.q o
  rotT f (normQ f (bodyVec cam 84 4)) (vsub f pv (bodyVec cam 100 3))

/-- The image of a camera-frame point (R407): u, v, r². -/
def image (cam : List Byte) (p : List FVal) : FVal × FVal × FVal :=
  let f := fF32
  let m := fun (a b : FVal) => fmul f a b
  let x := divF f (vx p) (vz p)
  let y := divF f (vy p) (vz p)
  let r2 := fadd f (m x x) (m y y)
  let r4 := m r2 r2
  let r6 := m r4 r2
  let k := fun (i : Nat) => bodyF cam (60 + 4 * i)
  let rad := fsum f [fone, m (k 0) r2, m (k 1) r4, m (k 2) r6]
  let xy2 := m ftwo (m x y)
  let xd := fsum f [m x rad, m (k 3) xy2, m (k 4) (fadd f r2 (m ftwo (m x x)))]
  let yd := fsum f [m y rad, m (k 3) (fadd f r2 (m ftwo (m y y))), m (k 4) xy2]
  (fadd f (m (bodyF cam 44) xd) (bodyF cam 52), fadd f (m (bodyF cam 48) yd) (bodyF cam 56), r2)

/-- Is a pass within the model: depth above ZMIN and r² no more than RMAX2? -/
def passOk (cam : List Byte) (z r2 : FVal) : Bool := (bodyF cam 120).lt z && r2.le (bodyF cam 80)

/-- Clamp a row into the image. -/
def clampRow (cam : List Byte) (v : FVal) : FVal :=
  let h := ofInt ((bodyNum cam 42 2 : Int) - 1)
  if v.lt fzero then fzero else if h.lt v then h else v

/-- What one camera makes of a point: an entry, nothing, or a pose missing. -/
inductive CamRes where
  | none
  | noPose
  | entry (bytes : List Byte)

/-- Place a point whose own pose is known in camera `n` (R405 to R409). -/
def intoCamera (s : State) (j : ProjJob) (pt : LidPoint) (own : PoseAt) (n : Nat) (cam : List Byte) (extrap : Bool) : CamRes :=
  match pairPoint s n cam pt.t with
  | Option.none => .none
  | some (idx, stamp) =>
    let tm := camTiming s n
    let at' := fun (v : FVal) => (rowTime cam tm.1 tm.2.1 stamp v).toNat
    let t1 := at' (bodyF cam 56)
    match poseAt s t1 extrap with
    | Option.none => .noPose
    | some r1 =>
      let xyz := vec32 pt.xyz
      let p1 := toCamera j.lidBody cam xyz own r1 false
      let i1 := image cam p1
      if !passOk cam (vz p1) i1.2.2 then .none
      else
        let t2 := at' (clampRow cam i1.2.1)
        match poseAt s t2 extrap with
        | Option.none => .noPose
        | some r2 =>
          let p2 := toCamera j.lidBody cam xyz own r2 false
          let i2 := image cam p2
          let inside := fzero.le i2.1 && i2.1.lt (ofInt (bodyNum cam 40 2)) && fzero.le i2.2.1 && i2.2.1.lt (ofInt (bodyNum cam 42 2))
          if !passOk cam (vz p2) i2.2.2 || !inside then .none
          else
            let ia := image cam (toCamera j.lidBody cam xyz own r2 true)
            let res := fun (a b : FVal) => fF16.encode (fF16.round .rne (fsub fF32 a b))
            let fl := Nat.lor own.flags r2.flags
            let pf := bit fl 1 || bit fl 2 || bit fl 7 || bit fl 8
            let flags := b2n extrap + 2 * b2n tm.2.2 + 4 * b2n (ftwo.lt (fsub fF32 i2.2.1 i1.2.1).abs) + 8 * b2n (bit fl 0)
              + 16 * b2n pf + 32 * b2n (s.port n).skewedNew
            let dt := clampI (-(2 ^ 31)) (2 ^ 31 - 1) ((t2 : Int) - (pt.t : Int))
            .entry (leBytes 4 (enc32 i2.1) ++ leBytes 4 (enc32 i2.2.1) ++ leBytes 4 (enc32 (vz p2)) ++ leBytes 2 (res ia.1 i2.1)
              ++ leBytes 2 (res ia.2.1 i2.2.1) ++ leBytes 4 (pt.index + n * 2 ^ 24 + j.lidar * 2 ^ 28)
              ++ leBytes 4 (pt.intensity + flags * 2 ^ 16) ++ leBytes 4 (ofSigned 32 dt) ++ leBytes 4 idx)

/-! ### The output ring (R409) -/

def syncHold (s : State) : State :=
  syncUrg (s.fs fusBase Fld.FUS_HOLD_POINTS (sumN (s.jobs.map fun j => j.points.length))) 20

/-- A lidar record whose points are done is committed. -/
def jobCommit (s : State) (j : ProjJob) : State :=
  let s := { s with jobs := s.jobs.filter fun y => !(y == j) }
  match s.proj with
  | none => s
  | some x =>
    let log := calNum s projKey 56 1
    let slots := 2 ^ calNum s projKey 57 1
    let slot := calNum s projKey 40 6 + x.seq % slots * 2 ^ log
    let room := 2 ^ log - 64
    let out := j.out.take room
    let r : InRec := ⟨0, j.tArr, 0, 0, b2n (decide (room < j.out.length)), j.mask, 0, timeState s, 0, 0, j.seq % 2 ^ 32, 0, 0, out,
      out.length, true, false, false, 0⟩
    let w := writeBytes s 0xA01 x.ctx slot (leBytes 8 0)
    let w := if w.1 then writeBytes w.2 0xA01 x.ctx (slot + 64) out else w
    let c := if w.1 then commitHead w.2 0xA01 x.ctx slot (recHeader (0x28 + j.lidar) r) (x.seq + 1) (calNum s projKey 48 6) (x.seq % slots)
      else (false, true, w.2)
    let s := if c.1 && c.2.1 then c.2.2 else c.2.2.fs fusBase Fld.FUS_ERR_WR_FAIL 1
    let s := if !c.1 then s
      else
        let s := s.faddWrap fusBase Fld.FUS_ENTRIES_COUNT (out.length / 32)
        let g := ringSignal s 1 x.ctx x.ctxGen (bit (calNum s projKey 58 1) 0) x.sigStop x.sigCount (calNum s projKey 62 2)
          (calNum s projKey 60 2)
        { g.2 with proj := g.2.proj.map fun (y : Proj) => { y with seq := x.seq + 1, sigCount := g.1 } }
    projSettle s

/-- Jobs with job `j` (by its record) replaced. -/
def setJob (s : State) (j k : ProjJob) : State := { s with jobs := s.jobs.map fun y => if y == j then k else y }

/-- Project the first waiting point of a job. -/
def projectPoint (s : State) (j : ProjJob) (extrap : Bool) : State :=
  match j.points with
  | [] => s
  | pt :: ps =>
    let s := if extrap then s.faddWrap fusBase Fld.FUS_EXTRAP_COUNT 1 else s
    let rs : List CamRes := match poseAt s pt.t extrap with
      | none => [CamRes.noPose]
      | some own => j.cams.map fun c => intoCamera s j pt own c.1 c.2 extrap
    let lost := rs.any fun r => match r with | .noPose => true | _ => false
    let out := rs.flatMap fun r => match r with | .entry b => b | _ => []
    let s := if lost then (s.faddWrap fusBase Fld.FUS_NOPOSE_COUNT 1).fs fusBase Fld.FUS_ERR_NO_POSE 1 else s
    let k := { j with points := ps, out := j.out ++ out }
    let s := setJob s j k
    syncHold (if ps.isEmpty then jobCommit s k else s)

/-- Does the pose history cover a point's time and the latest row time its pairings can need? -/
def covered (s : State) (j : ProjJob) (pt : LidPoint) : Bool :=
  match s.poses with
  | [] => false
  | p :: _ =>
    decide (pt.t ≤ p.t) && j.cams.all fun c =>
      match pairPoint s c.1 c.2 pt.t with
      | none => true
      | some e =>
        let tm := camTiming s c.1
        let h := ofInt ((bodyNum c.2 42 2 : Int) - 1)
        decide (rowTime c.2 tm.1 tm.2.1 e.2 fzero ≤ (p.t : Int)) && decide (rowTime c.2 tm.1 tm.2.1 e.2 h ≤ (p.t : Int))

/-- The oldest waiting point that is covered, of the records in their order. -/
def execPointProject (s : State) : Host.Outcome State Fault Refusal :=
  .next (match s.jobs.find? fun j => (match j.points with | pt :: _ => covered s j pt | [] => false) with
    | some j => projectPoint s j false
    | none => s)

def waitUs (s : State) : Nat := let v := calNum s projKey 68 4; if v = 0 then 25000 else v

/-- The oldest waiting point has waited for WAIT_US. -/
def execPointWaitTimeout (s : State) : Host.Outcome State Fault Refusal :=
  .next (match s.jobs.find? fun j => (match j.points with | pt :: _ => decide (pt.since + waitUs s ≤ s.nowUs) | [] => false) with
    | some j => projectPoint s j true
    | none => s)

/-! ### Lidar records (R396, R410, R411) -/

/-- One point of a lidar record: none where its fields run past the data; some none where it is skipped. -/
def lidPoint (lid data : List Byte) (tArr k since : Nat) : Option (Option LidPoint) :=
  let st := bodyNum lid 70 2
  let base := bodyNum lid 68 2 + k * st
  let lim := min data.length (bodyNum lid 68 2 + bodyNum lid 72 2 * st)
  let fmt := bodyNum lid 74 1
  let n := if bits fmt 1 0 = 0 then 2 else 4
  let big := bit fmt 2
  let il := bodyNum lid 81 1
  let fields := ((List.range 3).map fun i => (bodyNum lid (76 + i) 1, n)) ++ (if il = 0 then [] else [(bodyNum lid 80 1, il)])
    ++ (if bit fmt 3 then [(bodyNum lid 79 1, 4)] else [])
  if (fields.any fun f => decide (lim < base + f.1 + f.2)) then none
  else
    let raw := (List.range 3).map fun i => endNum big data (base + bodyNum lid (76 + i) 1) n
    let xyz := raw.map fun w => if bits fmt 1 0 = 2 then dec32 w else fmul fF32 (ofInt (toSigned (8 * n) w)) (bodyF lid 84)
    let zero := xyz.all (·.isZero)
    if zero || (normV fF32 xyz).lt (bodyF lid 96) then some none
    else
      let off : Int := if bit fmt 3 then
          (match toIntR .rne ((bodyF lid 88).mul (ofInt (toSigned 32 (endNum big data (base + bodyNum lid 79 1) 4)))) with
           | some v => v
           | none => 0)
        else 0
      let t := (tArr : Int) - toSigned 32 (bodyNum lid 92 4) + off
      some (some ⟨k, pat32 xyz, t.toNat, endNum big data (base + bodyNum lid 80 1) il, since⟩)

/-- Decode the points of a record from index `k` on; false when a point ended decoding. -/
def lidPoints (lid data : List Byte) (tArr since : Nat) : (fuel : Nat) → (k : Nat) → List LidPoint × Bool
  | 0, _ => ([], true)
  | f + 1, k =>
    match lidPoint lid data tArr k since with
    | none => ([], false)
    | some p =>
      let r := lidPoints lid data tArr since f (k + 1)
      (match p with | some x => x :: r.1 | none => r.1, r.2)

/-- While partition 20 is over its size, the oldest waiting point is projected at once. -/
def holdTrim : (fuel : Nat) → State → State
  | 0, s => s
  | f + 1, s =>
    if bufFill s 20 ≤ bufCap s 20 then s
    else match s.jobs.find? fun j => !j.points.isEmpty with
      | none => s
      | some j => holdTrim f (projectPoint (s.fs fusBase Fld.FUS_ERR_HOLD_FULL 1) j true)

/-- The oldest lidar record that waits is decoded under the calibrations in effect. -/
def execLidarRecordProcess (s : State) : Host.Outcome State Fault Refusal :=
  .next (match s.proj, s.lidIn with
    | some x, r :: rs =>
      if x.stopping then s
      else
        let s := { s with lidIn := rs }
        let mask := trialMask s
        let s := s.fs fusBase Fld.FUS_STS_CAM_TRIAL mask
        let lid := calBody s (calKey 1 r.lidar) 64
        let d := lidPoints lid r.data r.tArr s.nowUs (bodyNum lid 72 2) 0
        let s := if d.2 then s else s.fs fusBase Fld.FUS_ERR_DECODE 1
        let s := s.faddWrap fusBase Fld.FUS_PTS_IN_COUNT d.1.length
        let cams := ((List.range 16).filter fun n => bit mask n).map fun n => (n, calBody s (calKey 0 n) 88)
        let j : ProjJob := ⟨r.lidar, r.tArr, r.seq, mask, lid, cams, d.1, []⟩
        let s := { s with jobs := s.jobs ++ [j] }
        syncHold (if d.1.isEmpty then jobCommit s j else holdTrim (sumN (s.jobs.map fun y => y.points.length)) s)
    | _, _ => s)

/-- A record of 10GBASE-T1 port `l` passes the ingest path. -/
def lidarSeen (s : State) (l : Nat) (tArr seq : Nat) (data : List Byte) : State :=
  match s.proj with
  | none => s
  | some x =>
    if !x.stopping && calIsOn s (calKey 1 l) && bit (calNum s projKey 66 1) l then
      { s with lidIn := s.lidIn ++ [⟨l, tArr, seq, data⟩] }
    else s

/-! ### Ends from outside (R414) -/

/-- Context teardown: both units and the records of the context. -/
def fusCtxEnd (s : State) (ctx gen : Nat) : State :=
  let mine := fun (k : Nat) => aget s.calOn k == some (ctx + 2 ^ 16 * gen)
  let int := match s.integ with | some x => x.ctx == ctx && x.ctxGen == gen | none => false
  let prj := match s.proj with | some x => x.ctx == ctx && x.ctxGen == gen | none => false
  let s := { s with calOn := s.calOn.filter fun e => !mine e.1,
                    calPend := s.calPend.map fun r => if r.ctx = ctx ∧ r.ctxGen = gen then { r with en := false } else r }
  let s := if int then intStop s else s
  if prj then projStop s [] else s

/-- FUS_CTL written by firmware: the units start and stop with their enables, under the record last loaded. -/
def fusCtlWrite (s : State) (v : Nat) : State :=
  let own := fun (k : Nat) => match aget s.calOn k with | some o => (o % 2 ^ 16, o / 2 ^ 16) | none => (0, 0)
  let s := if bit v 0 && s.integ.isNone && calIsOn s intKey then intStart s (own intKey).1 (own intKey).2
    else if !bit v 0 && s.integ.isSome then intStop s else s
  if bit v 1 && s.proj.isNone && calIsOn s projKey then projStart s (own projKey).1 (own projKey).2
  else if !bit v 1 && s.proj.isSome then projStop s [] else s

/-- A write of a FUS_ register that its port has admitted. -/
def fusRegWrite (s : State) (off v : Nat) (spec : Option (RegSpec × Nat × Nat)) : State :=
  if off = Reg.FUS_CTL then fusCtlWrite s v else regStore s (fusBase + off) v spec

end Sys2Proof.Machine
end

