-- ==== Sys2Proof/Machine/Span.lean ====
section
/-!
DEFINITION. Machine/Span.lean: span links: training, CAP, discovery, messages that arrive, the span commands (R245 to
R255).
-/
namespace Sys2Proof.Machine

open Sys2Proof

/-- The mode of a sub-port's port. -/
def spanMode (s : State) (x : Nat) : Nat := s.fg spnBase (if x < 2 then Fld.SPN_CTL_P0_MODE else Fld.SPN_CTL_P1_MODE)

/-- Lanes a sub-port has in the mode of its port: four, two, or none. -/
def spanLanes (s : State) (x : Nat) : Nat :=
  match spanMode s x with | 1 => if x % 2 = 0 then 4 else 0 | 2 => 2 | _ => 0

def spanUp (s : State) (x : Nat) : Bool := linkUp s (30 + x)

/-- The lanes in use for `n` lanes of which `bad` names the faulted: R250. -/
def spanWidth (n bad : Nat) : List Nat :=
  let ok := fun l => !bit bad l
  if n = 4 then
    (if [0, 1, 2, 3].all ok then [0, 1, 2, 3] else if ok 0 && ok 1 then [0, 1] else if ok 2 && ok 3 then [2, 3]
     else ([0, 1, 2, 3].filter ok).take 1)
  else if n = 2 then (if ok 0 && ok 1 then [0, 1] else ([0, 1].filter ok).take 1)
  else []

/-- A sub-port's state and width, with the regulator told. -/
def setSpan (s : State) (x st w : Nat) : State :=
  syncCap ((s.fs (subBase x) Fld.SPN_S_STS_STATE st).fs (subBase x) Fld.SPN_S_STS_WIDTH w) (30 + x)

/-- The CAP message each end sends after link up (R249). -/
def capWords (s : State) (x : Nat) : List Nat :=
  [s.fg spnBase Fld.SPN_PKG_ID_ID, (match s.part with | .dvx2300 => 0 | .dvx1150 => 1), 0xB0, x,
    s.fg (subBase x) Fld.SPN_S_STS_WIDTH, 1, 256, s.fg spnBase Fld.SPN_LAT_BUDGET_NS]

/-- CAP goes out on VC3: 64 bytes after its span word, with no other layout given than what it holds, which stands here
as the words of the message (assumption 77). -/
def sendCap (s : State) (x : Nat) : State :=
  let ws := capWords s x
  let m := spanWord 0xFFF (s.fg spnBase Fld.SPN_PKG_ID_ID) 1
    ++ msgBytes ⟨13, 0, 7, false, false, 0x806 + x / 2, 0, 0, 0⟩ (ws.take 7) []
  (sendFlit s (30 + x) 3 5 m).emit "CAP" x ws

/-- The lane register after training. -/
def spanLaneWord (n : Nat) (inUse : List Nat) (opn shrt pol : Nat) (rev : Bool) : Nat :=
  sumN ((List.range n).map fun l =>
    (b2n (bit pol l) + 2 * b2n (bit opn l) + 4 * b2n (bit shrt l) + 8 * b2n (inUse.contains l)) * 16 ^ l) + b2n rev * 2 ^ 16

/-- A span link trains: open, shorted and inverted lanes, and a reversed lane order, are detected. -/
def execSpanLinkTrain (x opn shrt pol : Nat) (rev : Bool) (s : State) : Host.Outcome State Fault Refusal :=
  let n := spanLanes s x
  .next (if !s.fb spnBase Fld.SPN_CTL_EN || n == 0 || spanUp s x || bit (s.fg secBase Fld.SEC_UNITS_DEAD) 3 then s
    else
      let us := spanWidth n (Nat.lor opn shrt)
      let s := s.wr (subBase x + Reg.SPN_S_LANE) (spanLaneWord n us opn shrt pol rev)
      if us.isEmpty then setSpan s x 5 0 else sendCap (openEnd (setSpan s x 2 us.length) (30 + x) 0) x)

/-- A peer's CAP: a framing mismatch or the local ID holds the link (R249). -/
def execCap (x pkg part ver : Nat) (s : State) : Host.Outcome State Fault Refusal :=
  let b := subBase x
  .next (if !spanUp s x then s
    else
      let t := (s.fs b Fld.SPN_S_STS_PEER_PKG pkg).fs b Fld.SPN_S_STS_PEER_PART part
      if ver ≠ 1 then (setSpan t x 3 (s.fg b Fld.SPN_S_STS_WIDTH)).fs spnBase Fld.SPN_ERR_MISMATCH 1
      else if pkg = s.fg spnBase Fld.SPN_PKG_ID_ID then
        (setSpan t x 4 (s.fg b Fld.SPN_S_STS_WIDTH)).fs spnBase Fld.SPN_ERR_DUP_ID 1
      else t)

/-- The fault of a span event: the IOD's bit, and its notice (R496, R497). -/
def spanFault (s : State) : State := (linkEvent s 4).notice 0x08 (unitOfDie 4) 0 0

/-- A span link goes down. -/
def spanDown (s : State) (x : Nat) : State :=
  spanFault (setEnd ((setSpan s x 0 0).fs (subBase x) Fld.SPN_S_ERR_DOWN 1) (30 + x) LinkEnd.down)

/-- A lane in use fails: the link retrains at the next lower width, or goes down. -/
def execSpanLaneFault (x lane : Nat) (s : State) : Host.Outcome State Fault Refusal :=
  let b := subBase x
  let w := s.rd (b + Reg.SPN_S_LANE)
  .next (if !spanUp s x || !bit w (4 * lane + 3) then s
    else
      let bad := (List.range 4).filter fun l => bit w (4 * l + 1) || bit w (4 * l + 2) || l == lane
      let us := (spanWidth (spanLanes s x) (sumN (bad.map fun l => 2 ^ l))).take (s.fg b Fld.SPN_S_STS_WIDTH / 2)
      let w' := (List.range 4).foldl (fun v l => setBits v (4 * l + 3) (4 * l + 3) (b2n (us.contains l))) (setBits w (4 * lane + 1) (4 * lane + 1) 1)
      let s := (s.wr (b + Reg.SPN_S_LANE) w').fs b Fld.SPN_S_ERR_LANE 1
      if us.isEmpty then spanDown s x else spanFault (setSpan s x 2 us.length))

/-! ### Discovery (R252) -/

def startDiscovery (s : State) : State := { s with discovering := true }.fs spnBase Fld.SPN_STS_DISC_DONE 0

/-- A measured route: package, sub-port, hops, one-way latency. -/
structure SpanRoute where
  pkg : Nat
  sub : Nat
  hops : Nat
  lat : Nat
  deriving DecidableEq, Repr

/-- Routes from a flat list of numbers, four for each. -/
def spanRoutes : List Nat → List SpanRoute
  | p :: x :: h :: l :: rest => ⟨p, x, h, l⟩ :: spanRoutes rest
  | _ => []

/-- The shortest of the routes to a package, the lower sub-port on a tie. -/
def bestRoute (rs : List SpanRoute) : Option SpanRoute :=
  rs.foldl (fun acc r => match acc with
    | none => some r
    | some b => if r.hops < b.hops ∨ (r.hops = b.hops ∧ r.sub < b.sub) then some r else some b) none

/-- Write one package's entry: unreachable when its latency is over the budget. -/
def writeRoute (rs : List SpanRoute) (s : State) (k : Nat) : State :=
  match bestRoute (rs.filter fun r => r.pkg == k) with
  | none => s
  | some r =>
    let e := if s.fg spnBase Fld.SPN_LAT_BUDGET_NS < r.lat then 7 else r.sub
    s.wr (spnBase + Reg.SPN_ROUTE + 4 * k) (e + r.hops % 64 * 16 + r.lat % 2 ^ 20 * 2 ^ 12)

/-- Reachable packages, and the SPAN_CONFIG commands that wait for discovery. -/
def discovered (s : State) : State :=
  let n := s.reachable.length
  let s := (s.fs spnBase Fld.SPN_STS_REACH n).fs spnBase Fld.SPN_STS_DISC_DONE 1
  let s := s.fs dspBase Fld.DSP_CTL_ROT_EN (b2n (decide (n < 2)))
  (s.cmds.map (·.1)).foldl (fun t tag => match t.cmd? tag with
    | some c => if c.opcode = 0x58 ∧ c.phase = .waiting then finishCmd t tag 0 0 n else t
    | none => t) s

/-- The probes have been measured: SPN_ROUTE is written. -/
def execSpanDiscoveryDone (routes : List Nat) (s : State) : Host.Outcome State Fault Refusal :=
  .next (if !s.discovering then s
    else
      let rs := (spanRoutes routes).filter fun r => spanUp s r.sub && decide (r.pkg < 0xFFF)
        && !(r.pkg == s.fg spnBase Fld.SPN_PKG_ID_ID)
      let b := spnBase + Reg.SPN_ROUTE
      let s := { s with discovering := false }.dropRegs fun a => decide (b ≤ a) && decide (a < b + 0x4000)
      let s := ((rs.map (·.pkg)).eraseDups).foldl (writeRoute rs) s
      let s := (rs.filter fun r => r.hops == 1).foldl (fun t r => t.fs (subBase r.sub) Fld.SPN_S_LAT_VALUE r.lat) s
      discovered (s.wr (b + 4 * s.fg spnBase Fld.SPN_PKG_ID_ID) 6))

/-! ### Register writes (R248, R253, R255) -/

/-- Do the words of a window name DRAM views only (R253)? -/
def spanWinOk (s : State) (i : Nat) : Bool :=
  let b := spnBase + 16 * i
  let lo := s.fg b Fld.SPN_WIN_W0_BASE * 2 ^ 20
  let n := s.fg b Fld.SPN_WIN_W1_SIZE_MB * 2 ^ 20
  decide (0 < n) && (decide (lo + n ≤ 0x002000000000) || (decide (0x004000000000 ≤ lo) && decide (lo + n ≤ 0x004800000000)))

/-- Sub-ports that EN or their port's mode no longer gives the lanes they had are taken down (R245). -/
def spanModes (old s : State) : State :=
  (List.range 4).foldl (fun t x =>
    if s.fg (subBase x) Fld.SPN_S_STS_STATE = 0 ∨ (s.fb spnBase Fld.SPN_CTL_EN ∧ spanLanes s x = spanLanes old x) then t
    else spanDown t x) s

/-- A write of SPN_CTL: EN fixes the package ID, a port's mode changes, DISC starts discovery. -/
def spnCtlWrite (s : State) (v : Nat) : State :=
  let s := { s with spnFixed := s.spnFixed || bit v 0 }
  let s := spanModes s (s.wr (spnBase + Reg.SPN_CTL) (setBits (v % 64) 1 1 0))
  if bit v 1 then startDiscovery s else s

/-- A write of the SPN_ block that its port has admitted. -/
def spnRegWrite (s : State) (off v : Nat) (spec : Option (RegSpec × Nat × Nat)) : State :=
  if off = Reg.SPN_PKG_ID then (if s.spnFixed then s else regStore s (spnBase + off) v spec)
  else if off = Reg.SPN_CTL then spnCtlWrite s v
  else if 0x100 ≤ off ∧ off < 0x180 ∧ off % 16 = 8 then
    let i := (off - 0x100) / 16
    let t := regStore s (spnBase + off) v spec
    if bit v 16 && !spanWinOk t i then (t.fs (spnBase + 16 * i) Fld.SPN_WIN_W2_EN 0).fs spnBase Fld.SPN_ERR_CFG 1 else t
  else regStore s (spnBase + off) v spec

/-- A write of SPN_CTL.DISC, its other fields kept. -/
def execSpanDiscovery (ini : Nat) (s : State) : Host.Outcome State Fault Refusal :=
  let a := spnBase + Reg.SPN_CTL
  .next (viaPort s ini a fun t spec => spnRegWrite t Reg.SPN_CTL (setBits (t.rd a) 1 1 1) spec)

/-! ### Messages that arrive (R42, R247, R252, R253) -/

/-- A message on a span link, as its span word and its words give it: sub-port, packages and TTL, type, TXID, address,
length and data, semaphore, operation and COUNT, class label, urgency and the remote initiator. -/
structure SpanMsg where
  sub : Nat
  dst : Nat
  src : Nat
  ttl : Nat
  mtype : Nat
  txid : Nat
  addr : Nat
  len : Nat
  data : List Byte
  sem : Nat
  op : Nat
  count : Nat
  cls : Nat
  urg : Bool
  rini : Nat
  deriving DecidableEq, Repr

/-- The second words of a message: the address, the SEM word, or what its data hold. -/
def SpanMsg.words (m : SpanMsg) : List Nat :=
  match m.mtype with
  | 1 | 2 => [m.addr]
  | 3 => [m.sem % 2 ^ 14 + m.op % 4 * 2 ^ 14 + m.count % 2 ^ 32 * 2 ^ 16]
  | 5 | 8 | 10 => []
  | _ => []

/-- The message as it goes on with a TTL: span word, common word, the rest. -/
def SpanMsg.bytes (m : SpanMsg) (ttl : Nat) : List Byte :=
  let c : Common := ⟨m.mtype, sizeCode m.len, m.cls, false, m.urg, m.rini, 0, 0, m.txid⟩
  let want := match msgInfo .span c.word with | some (_, n) => n | none => 8
  let b := leBytes 8 c.word ++ m.words.flatMap (leBytes 8) ++ m.data
  spanWord m.dst m.src ttl ++ b.take want ++ leBytes (want - b.length) 0

/-- Its channel. -/
def SpanMsg.vc (m : SpanMsg) : Nat := match m.mtype with | 5 | 13 => 3 | 6 | 7 | 8 | 10 => 1 | _ => 0

def isSpanReq (t : Nat) : Bool := t == 1 || t == 2 || t == 3

/-- A request under the initiator ID of its port, with its class label and urgency as they arrived; the remote package
and initiator stay in its record (R42, R356). -/
def spanRequest (s : State) (m : SpanMsg) : Req :=
  { newReq s (0x806 + m.sub / 2) m.txid (m.mtype == 2) m.addr m.len (m.data.take m.len) with
    mod := m.sub + 4 * m.src, cls := m.cls, urg := m.urg || iniUrgent s (0x806 + m.sub / 2), rini := m.rini }

/-- An error response goes back to the source package over the sub-port the message came on. -/
def spanErr (s : State) (m : SpanMsg) (code : Nat) : State := respond s (spanRequest s m) .err code []

/-- Does a window admit the request? -/
def spanAdmits (s : State) (m : SpanMsg) (i : Nat) : Bool :=
  let b := spnBase + 16 * i
  let lo := s.fg b Fld.SPN_WIN_W0_BASE * 2 ^ 20
  let n := s.fg b Fld.SPN_WIN_W1_SIZE_MB * 2 ^ 20
  s.fb b Fld.SPN_WIN_W2_EN && spanWinOk s i
    && (s.fb b Fld.SPN_WIN_W2_ANY || s.fg b Fld.SPN_WIN_W2_SRC_PKG == m.src)
    && (match m.mtype with
        | 1 => s.fb b Fld.SPN_WIN_W2_RD && decide (lo ≤ m.addr) && decide (m.addr + m.len ≤ lo + n)
        | 2 => s.fb b Fld.SPN_WIN_W2_WR && decide (lo ≤ m.addr) && decide (m.addr + m.len ≤ lo + n)
        | _ => s.fb b Fld.SPN_WIN_W2_SEM)

/-- A request for this package: accepted in a window and reissued by the port, or refused. -/
def spanLocal (s : State) (m : SpanMsg) : State :=
  if !(List.range 8).any (spanAdmits s m) then spanErr (s.fs spnBase Fld.SPN_ERR_WIN_REJECT 1) m 3
  else if m.mtype = 3 then
    { s with semMsgs := s.semMsgs ++ [⟨.span (m.sub + 4 * m.src) m.txid, m.sem, m.op, false, 0, 0, m.cls, 0,
        if m.op = 3 then m.count else 1, 0, 0⟩] }
  else portReq s (spanRequest s m)

/-- A message for another package goes on, with TTL one less; without credits it stays in the receive buffer. -/
def spanForward (s : State) (m : SpanMsg) : State :=
  let r := s.rd (spnBase + Reg.SPN_ROUTE + 4 * m.dst)
  let e := bits r 2 0
  let b := m.bytes (m.ttl - 1)
  if m.ttl = 0 then s.fs spnBase Fld.SPN_ERR_TTL_DROP 1
  else if 4 ≤ e ∨ spanUp s (e % 4) = false then (if isSpanReq m.mtype then spanErr s m 4 else s)
  else if canSend s (30 + e) m.vc (cdiv b.length 16) then
    let s := pathServe s 4 (4 + e / 2) ⟨0x806 + m.sub / 2, m.cls, m.urg, chargeBytes 4 4 m.len (m.mtype == 2)⟩
    (sendFlit s (30 + e) m.vc (cdiv b.length 16) b).emit "SPAN_FORWARD" e
      (m.dst :: m.src :: (m.ttl - 1) :: m.mtype :: m.txid :: m.addr :: m.len :: m.sem :: m.op :: m.data.map (·.toNat))
  else s

/-- A span message arrives. A MSG or a response for this package is delivered to its unit. -/
def execSpanMessageIn (x dst : Nat) (src : SpanSource) (ttl mtype txid addr len : Nat) (data : List Byte) (sem : Nat)
    (op : SpanSemOp) (s : State) : Host.Outcome State Fault Refusal :=
  let m : SpanMsg := ⟨x, dst, src.pkg, ttl, mtype, txid, addr, len, data, sem, op.op, op.count, src.cls, src.urg, src.ini⟩
  .next (if !spanUp s x then s
    else if !(dst == s.fg spnBase Fld.SPN_PKG_ID_ID) then spanForward s m
    else if isSpanReq mtype then syncSpanUrgs (spanLocal s m)
    else s.emit "SPAN_DELIVER" x (src.pkg :: mtype :: txid :: data.map (·.toNat)))

/-- A MSG between dies passes on VC3, charged 32 bytes, and is delivered (R234, R240, R353). -/
def execMsg (f t : Nat) (words : List Nat) (s : State) : Host.Outcome State Fault Refusal :=
  .next (if dieMsgCan s f t then sendDieMsg s f t words else s)

/-! ### Span commands -/

/-- SPAN_CONFIG: package ID, port modes, latency budget, and with DISCOVER the reply waits for discovery. -/
def execSpanConfig (tg : Nat) (s : State) : Host.Outcome State Fault Refusal :=
  cmdDo s tg 0x58 true fun c s =>
    let id := c.par 16 2
    if id = 0xFFF ∨ (s.spnFixed = true ∧ id ≠ s.fg spnBase Fld.SPN_PKG_ID_ID) then refuse s tg 0x13 16
    else if 2 < c.par 18 1 then refuse s tg 0x13 18
    else if 2 < c.par 19 1 then refuse s tg 0x13 19
    else if 2 ^ 20 ≤ c.par 20 4 then refuse s tg 0x13 20
    else
      let s := if s.spnFixed then s else s.fs spnBase Fld.SPN_PKG_ID_ID id
      let s := s.wr (spnBase + Reg.SPN_PKG_ID) (s.fg spnBase Fld.SPN_PKG_ID_ID)
      let s := s.wr (spnBase + Reg.SPN_LAT_BUDGET) (c.par 20 4)
      let s := spnCtlWrite s (1 + 2 * (c.par 24 1 % 2) + 4 * c.par 18 1 + 16 * c.par 19 1)
      if bit (c.par 24 1) 0 then s.setCmd tg { c with phase := .waiting }
      else finishCmd s tg 0 0 (s.fg spnBase Fld.SPN_STS_REACH)

/-- SPAN_WINDOW: a window for incoming requests; it may not overlap the secure region (R527). -/
def execSpanWindow (tg : Nat) (s : State) : Host.Outcome State Fault Refusal :=
  cmdDo s tg 0x59 true fun c s =>
    let i := c.par 16 1
    let a := c.par 20 6
    let mb := c.par 28 4
    let view := decide (a + mb * 2 ^ 20 ≤ 0x002000000000)
      || (decide (0x004000000000 ≤ a) && decide (a + mb * 2 ^ 20 ≤ 0x004800000000))
    if 7 < i then refuse s tg 0x13 16
    else if a % 2 ^ 20 ≠ 0 ∨ view = false ∨ windowForbidden s a (mb * 2 ^ 20) false = true then refuse s tg 0x13 20
    else if 2 ^ 18 ≤ mb then refuse s tg 0x13 28
    else
      let b := spnBase + 16 * i
      let rights := c.par 17 1 % 8
      let s := (s.wr (b + Reg.SPN_WIN_W0) (a / 2 ^ 20)).wr (b + Reg.SPN_WIN_W1) mb
      finishCmd (s.wr (b + Reg.SPN_WIN_W2) (c.par 18 2 % 2 ^ 13 + rights * 2 ^ 13 + b2n (decide (0 < mb)) * 2 ^ 16)) tg 0 0 0

end Sys2Proof.Machine
end

