-- ==== Sys2Proof/Machine/Reset.lean ====
section
/-!
DEFINITION. Machine/Reset.lean: core, cluster, die and Porch resets and what they leave (R489 to R500, R512), hang
escalation, the loss of a die controller or the Porch, the isolation of a die, and the events of a die link that end in
it (R230, R239, R243).
-/
namespace Sys2Proof.Machine

open Sys2Proof

/-! ### Core and cluster reset (R489, R490, R508) -/

/-- A series that runs on a core fails when the core is reset. -/
def endSeries (s : State) (k : Nat) : State :=
  if (s.core k).series = .running then settleWaiting (s.setCore k { s.core k with series := .failed }) else s

/-- Take cores from the steps that have them: no step is placed there any more, and those that run or are saved there end
with UNIT_LOST. -/
def clearCores (s : State) (ks : List Nat) (unit : Nat) : State := loseSteps (fenceCores (ks.foldl endSeries s) ks unit) ks unit

/-- Requests that initiators in a reset unit issued: their responses are dropped (R491, R503). -/
def orphan (s : State) (p : Nat → Bool) : State :=
  { s with reqs := s.reqs.map fun r => if p r.ini then { r with dead := true } else r }

/-- Is an initiator part of core `k`; of cluster `c` with its attention unit? -/
def iniOfCore (k ini : Nat) : Bool := iniDie ini == k / 64 && decide (ini % 512 < 0x100) && ini % 512 / 4 == k % 64
def iniOfClu (c ini : Nat) : Bool := iniDie ini == c / 8 && (decide (ini % 512 < 0x100) && ini % 512 / 32 == c % 8 || ini == attIni c)

def coreResetDo (s : State) (k : Nat) : State :=
  settleWaiting (resetCore (orphan (clearCores s [k] (unitOfCore k)) (iniOfCore k)) k)

def clusterResetDo (s : State) (c : Nat) : State :=
  let s := resetCluster (orphan (clearCores s (rangeFrom (8 * c) 8) (unitOfClu c)) (iniOfClu c)) c
  settleWaiting (s.notice 0x03 (unitOfClu c) (s.cluGen c) 0)

/-- A write of the RST_ block of a compute die or the Porch that its port has admitted (R513). -/
def rstRegWrite (s : State) (d off v : Nat) (spec : Option (RegSpec × Nat × Nat)) : State :=
  let s := regStore s (rstBase d + off) v spec
  if off = Reg.RST_CMD ∧ d < 4 ∧ bit v 8 then
    (if bit v 6 then clusterResetDo s (8 * d + bits v 5 3) else coreResetDo s (64 * d + 8 * bits v 5 3 + bits v 2 0))
  else if off = Reg.RST_ERR ∧ bit v 0 then s.fs (rstBase d) Fld.RST_TO_LOG_VALID 0
  else s

/-- The write of RST_CMD that asks for a reset. -/
def rstCmdWrite (ini d v : Nat) (s : State) : State :=
  viaPort s ini (rstBase d + Reg.RST_CMD) fun t spec => rstRegWrite t d Reg.RST_CMD v spec

def execCoreReset (ini k : Nat) (s : State) : Host.Outcome State Fault Refusal :=
  .next (rstCmdWrite ini (k / 64) (0x100 + k % 8 + 8 * (k / 8 % 8)) s)

def execClusterReset (ini c : Nat) (s : State) : Host.Outcome State Fault Refusal :=
  .next (rstCmdWrite ini (c / 8) (0x140 + 8 * (c % 8)) s)

/-! ### What a die reset keeps (R224, R352, R512, R513) -/

/-- Is an address one of the fields that POR governs in a die's MEM_ block? MEM_DIE_CTL.ECC_EN is restored by itself. -/
def memKept (d a : Nat) : Bool :=
  let b := memBase d
  a == b + Reg.MEM_PATROL
    || decide (b + 0x1000 ≤ a) && decide (a < b + 0x2000)
      && (a % 0x100 == Reg.MEM_CH_CTL % 0x100 || a % 0x100 == Reg.MEM_CH_TRN % 0x100)

/-- Is an address a generation of the die's clusters and cores? -/
def genKept (d a : Nat) : Bool :=
  let b := rstBase d
  (decide (b + Reg.RST_GEN_CL ≤ a) && decide (a < b + Reg.RST_GEN_CL + 8))
    || (decide (b + Reg.RST_GEN_CO ≤ a) && decide (a < b + Reg.RST_GEN_CO + 64))

/-- Is an address a control or status register or a record of the die's semaphore unit? -/
def synKept (d a : Nat) : Bool := decide (synBase d ≤ a) && decide (a < synBase d + 0x80000)

/-- Registers of die `d` (4 and 5 the IOD and the Porch) that a predicate does not keep return to their reset values. -/
def dropDie (s : State) (d : Nat) (keep : Nat → Bool) : State :=
  let mine := fun (a : Nat) => decide (dieBase d ≤ a) && decide (a < dieBase d + 0x1000000)
  let s := s.dropRegs fun a => mine a && !keep a
  { s with latched := kdrop mine s.latched }

/-- The memory of a die comes out of self-refresh as it went in: trained, in service, with or without inline ECC (R221). -/
def memRestore (old : State) (s : State) (d : Nat) : State :=
  let b := memBase d
  let cp := fun (t : State) (f : Fld) => t.fs b f (old.fg b f)
  let s := [Fld.MEM_DIE_CTL_ECC_EN, Fld.MEM_DIE_STS_TRAINED, Fld.MEM_DIE_STS_INIT_DONE, Fld.MEM_DIE_STS_ECC_ACTIVE].foldl cp s
  let s := (List.range 16).foldl (fun t c =>
    t.fs (b + 0x100 * c) Fld.MEM_CH_STS_TRAINED (old.fg (b + 0x100 * c) Fld.MEM_CH_STS_TRAINED)) s
  if old.fb b Fld.MEM_DIE_STS_INIT_DONE then
    setCapacity s d 0 (if old.fb b Fld.MEM_DIE_STS_ECC_ACTIVE then 124800 else 218400)
  else s

/-! ### What a die takes with it -/

/-- Commands that wait for a unit of a die in reset are answered BUSY with code 1 (R299). -/
def endCommands (s : State) (p : Cmd → Bool) : State :=
  (s.cmds.map (·.1)).foldl (fun t tg =>
    match t.cmd? tg with
    | some c => if c.phase == .waiting && p c then refuse t tg 0x1A 1 else t
    | none => t) s

/-- Open requests to a die's memory: the writes its controllers have accepted complete, everything else is answered
ERRRSP 0x02 (R221, R500). -/
def endRequests (s : State) (d : Nat) : State :=
  (s.reqs.filter fun r => reqDie s r == d).foldl (fun t r =>
    match r.stage with
    | .mem => if r.write && decide (0 < r.grant) then
        answer (scDrop (portWrite t r) fun l => (reqLines t r).contains l) r .ack 0 [] else answer t r .err 2 []
    | .iod | .port => answer t r .err 2 []
    | .inv | .ack => answer (scDrop t fun l => (reqLines t r).contains l) r .ack 0 []) s

/-- Hearth agent, thermal and power records of a die (R512: HTH_ agent). -/
def dropAgent (s : State) (d : Nat) : State :=
  let mine := fun (c : Nat) => decide (d < 4) && c / 8 == d
  { s with dozeHold := s.dozeHold.filter fun c => !mine c,
           napWait := s.napWait.filter fun c => !mine c,
           cluIdle := s.cluIdle.filter fun e => !mine e.1,
           filler := s.filler.filter fun c => !mine c,
           rampFill := s.rampFill.filter fun c => !mine c,
           tripped := s.tripped.filter fun c => !mine c,
           noBook := s.noBook.filter fun c => !mine c,
           snsExcl := s.snsExcl.filter fun x => !(x / 32 == d),
           pairT := s.pairT.filter fun e => !(e.1 / 16 == d),
           hotAt := adel s.hotAt d,
           thermDies := s.thermDies.filter fun x => !(x == d),
           agSeq := adel s.agSeq d,
           agBudgetAt := adel s.agBudgetAt d,
           draws := s.draws.filter fun x => !(x.1 == d),
           overAt := adel s.overAt d,
           owing := s.owing.filter fun x => !(x == d),
           agRot := adel s.agRot d,
           clampMsgs := s.clampMsgs.filter fun x => !(x == d) }

/-- Pantry, streams, memory controller and injection records of a compute die. -/
def dropDieState (s : State) (d : Nat) : State :=
  let s := { s with panHead := s.panHead.filter fun e => !(e.1 / 4 == d),
                    ptRuns := s.ptRuns.filter fun e => !(e.1 == d),
                    tcmds := adel s.tcmds d }
  let s := { s with strKeys := s.strKeys.filter fun k => !(k.stream / 1024 == d) }
  let s := { s with strSegs := s.strSegs.filter fun k => !(k.stream / 1024 == d) }
  let s := { s with strCreds := s.strCreds.filter fun k => !(k.stream / 1024 == d) }
  { s with training := s.training.filter fun x => !(x.1 == d),
           openRows := s.openRows.filter fun e => !(e.1 / 256 == d),
           checkBurst := s.checkBurst.filter fun e => !(e.1 / 256 == d),
           scheds := s.scheds.filter fun e => !(e.1 / 16 == d),
           buckets := s.buckets.filter fun e => !(e.1 / 2048 == d),
           turns := s.turns.filter fun e => !(e.1 / 16 == d),
           routes := s.routes.filter fun e => !(e.1 / 2 == d),
           patrolPos := s.patrolPos.filter fun e => !(e.1 / 16 == d),
           patrolRef := s.patrolRef.filter fun e => !(e.1 / 16 == d) }

/-- The Porch's ports, its trigger and time units and the fusion units return to their reset values (R499). -/
def dropPorch (s : State) : State :=
  { s with sports := [], trigNext := none, trigFired := [], trigPast := [], trigHiz := [], trigAt := 0, trigLen := 0, slew := 0,
           slewTicks := 0, lastSync := 0, holdSince := 0, drainUrg := 0, drainNorm := 0, calOn := [], calPend := [], imuIn := [],
           wheels := [], integ := none, poses := [], lidIn := [], jobs := [], proj := none }

/-! ### The settings that the MP writes again (R499 step 9) -/

/-- Is a register among them: BWR_, DDL_, the HTH_ agent, MEM_ but what POR governs and the error counts, and of PAN_ the
pools and the metadata base? BWR_GRP belongs to the die controller. -/
def settingOf (d a : Nat) : Bool :=
  let blk := fun (b n : Nat) => decide (b ≤ a) && decide (a < b + n)
  let mem := a - memBase d
  let pan := a - panBase d
  blk (bwrBase d) 0x1000 || blk (ddlBase d) 0x8000 || blk (hthABase d) 0x1000
    || decide (d < 4)
      && (blk (memBase d) 0x2000 && !memKept d a && !(mem == Reg.MEM_CE_CNT || mem == Reg.MEM_UE_CNT)
        || blk (panBase d) 0x1000 && (pan == Reg.PAN_META_BASE || pan == Reg.PAN_CTL
          || (decide (0x40 ≤ pan) && decide (pan < 0xC0) && decide (pan % 0x20 < 8))))

/-- Write the RW fields of one setting again. -/
def rewriteOne (s : State) (e : Nat × Word) : State :=
  match (locate s.part e.1).bind (regAt s.part) with
  | some (r, _, _) =>
    s.wr e.1 (r.fields.foldl (fun acc f => if f.acc == .rw then setBits acc f.hi f.lo (bits e.2.toNat f.hi f.lo) else acc) (s.rd e.1))
  | none => s

/-- Write the settings again, PAN_CTL last. -/
def rewriteDie (s : State) (d : Nat) : State :=
  let mine := s.rewrite.filter fun e => settingOf d e.1
  let pan := panBase d + Reg.PAN_CTL
  let isPan := fun (e : Nat × Word) => decide (d < 4) && e.1 == pan
  let s := (mine.filter fun e => !isPan e).foldl rewriteOne { s with rewrite := s.rewrite.filter fun e => !settingOf d e.1 }
  (mine.filter isPan).foldl (fun t e =>
    let t := t.wr pan (setBits (t.rd pan) 31 1 (e.2.toNat / 2))
    if bit e.2.toNat 0 then panCtlWrite t d 1 else t) s

/-- TRACKS_LOST for each context that had an open track in the metadata of the Pantry that comes back (R497, R499). -/
def tracksLost (s : State) (d : Nat) : State :=
  (s.ctxs.filter fun e => e.2.live && !(tracksOf s d e.1).isEmpty).foldl (fun t e => t.notice 0x13 (unitOfDie d) 0 e.1) s

/-! ### Die reset and Porch reset (R499) -/

/-- The generation of a die or of the Porch. -/
def dieGenOf (s : State) (d : Nat) : Nat := if d < 4 then s.dieGen d else s.fg rstIBase Fld.RST_PCH_GEN_GEN

def setInReset (s : State) (d v : Nat) : State :=
  let a := rstIBase + Reg.RST_DIE_STS
  s.wr a (setBits (s.rd a) d d v)

/-- The other dies route their diagonal requests away from die `d` (R242). -/
def routeAway (s : State) (d : Nat) : State :=
  (List.range s.part.dies).foldl (fun t x =>
    if d = (x + 1) % 4 then routeWrite t x 2 else if d = (x + 3) % 4 then routeWrite t x 1 else t) s

/-- Steps 3 to 5 on a compute die: its steps, requests, links, domains, registers; it is then held in reset. -/
def holdCompute (s : State) (d : Nat) : State :=
  let s := clearCores s (rangeFrom (64 * d) 64) (unitOfDie d)
  let s := endCommands s fun c => match aget s.tcmds d with | some t => t.tag.any fun x => s.cmd? x == some c | none => false
  let s := orphan ((endsOf d).foldl quietDown (endRequests s d)) fun i => iniDie i == d
  let s := (rangeFrom (8 * d) 8).foldl resetCluster s
  let s := (rangeFrom (64 * d) 64).foldl (fun t k => t.setCore k { t.core k with series := .idle, afterReset := false }) s
  let old := s
  let s := memRestore old (dropDie (dropAgent (dropDieState s d) d) d fun a => memKept d a || genKept d a || synKept d a) d
  (clustersOn d).foldl syncClk s

/-- Steps 3 to 5 of a Porch reset. -/
def holdPorch (s : State) : State :=
  let s := endCommands s fun c => [0x30, 0x31, 0x32, 0x33].contains c.opcode
  let s := orphan ((endsOf 5).foldl quietDown s) fun i => iniDie i == 5
  dropDie (dropAgent (dropPorch s) 5) 5 fun _ => false

/-- A die is taken into reset: its settings are kept for step 9, its generation advances. -/
def dieHold (s : State) (d : Nat) : State :=
  let s := { s with rewrite := s.rewrite ++ s.regs.filter fun e => settingOf d e.1 }
  let s := if d < 4 then holdCompute s d else holdPorch s
  let s := { s with injCount := s.injCount.filter fun e => !(e.1 / 4 == d), dieRst := aput s.dieRst d 2 }
  let s := setInReset (bumpDie s d) d 1
  dropUnrouted (syncRoutes s)

/-- The dump has passed the dies that waited for it. -/
def passDump (s : State) : State :=
  (s.dieRst.filter fun e => e.2 == 1).foldl (fun t e => if dumpHolds t e.1 then t else dieHold t e.1) s

/-- May a fault start a dump by itself (R499 step 2)? -/
def autoDumps (s : State) : Bool :=
  s.fb rstIBase Fld.RST_DUMP_CTL_AUTO && (!s.fb rstIBase Fld.RST_DUMP_STS_FRESH || s.fb rstIBase Fld.RST_DUMP_CTL_OVERWRITE)
    && s.dump.isNone

/-- Steps 1 and 2, and what follows at once where no dump holds the die. -/
def dieResetStart (s : State) (d : Nat) : State :=
  if !(decide (d < 4) && s.part.fitted d || d == 5) || (aget s.dieRst d).isSome then s
  else
    let s := faultDie s d
    let s := if d < 4 then routeAway s d else s
    let s := s.notice 0x04 (unitOfDie d) ((dieGenOf s d + 1) % 256) 0
    let s := if autoDumps s && decide (d < 4) then dumpStart s 2 none (dieUnits d) else s
    passDump { s with dieRst := aput s.dieRst d 1 }

/-- Step 6: release. UNIT_RESET of the die is answered (R508). A Porch without firmware stays in reset (R539). -/
def dieRelease (s : State) (d : Nat) : State :=
  let s := { s with dieRst := aput s.dieRst d 3 }
  let s := if d = 5 ∧ bit (s.fg secBase Fld.SEC_UNITS_DEAD) 2 then s else setInReset s d 0
  (s.cmds.map (·.1)).foldl (fun t tg =>
    match t.cmd? tg with
    | some c =>
      if c.phase == .waiting && c.opcode == 0x4A && unitOfDie d == leAt c.packet 16 2 / 4096 * 4096 then finishCmd t tg 0 0 (dieGenOf t d) else t
    | none => t) (syncRoutes s)

/-- The end by which the IOD reaches a die. -/
def iodEnd (d : Nat) : Nat := if d < 4 then 20 + d else 24

/-- Steps 8 to 10, once the die's IOD module is up: the die controller, the settings, the return of the cores. -/
def dieReturn (s : State) (d : Nat) : State :=
  if !linkUp s (iodEnd d) || dieHeld s d then s
  else
    let s := { s with dieRst := adel s.dieRst d, hardFault := s.hardFault.filter fun x => !(x == d) }
    let a := rstIBase + Reg.RST_DIE_STS
    let s := s.wr a (setBits (s.rd a) (8 + d) (8 + d) 0)
    if d < 4 then
      let s := if bit (s.fg secBase Fld.SEC_UNITS_RUNNING) 1 then loadDc s d else s
      let on := s.rewrite.any fun e => e.1 == panBase d + Reg.PAN_CTL && bit e.2.toNat 0
      let lost := fun (t : State) => if on then tracksLost t d else t
      let s := lost (rewriteDie s d)
      if dieInService s d then (rangeFrom (64 * d) 64).foldl beginSeries s else s
    else rewriteDie s d

/-- The fabric manager goes on with a die's reset, or starts it (R499). -/
def dieResetGo (s : State) (d : Nat) : State :=
  match getD 0 s.dieRst d with
  | 0 => dieResetStart s d
  | 1 => passDump s
  | 2 => dieRelease s d
  | 3 => dieReturn s d
  | _ => s

/-! ### Hangs and losses (R492, R494) -/

/-- The stage of a core's escalation fails within its bound, and the next one starts. -/
def execHangEscalate (k : Nat) (s : State) : Host.Outcome State Fault Refusal :=
  let d := k / 64
  .next (if dieHeld s d then s
    else match getD 0 s.hangLevel k with
      | 1 => let s := coreResetDo (s.fs (rstBase d) Fld.RST_ERR_ABORT_FAIL 1) k; { s with hangLevel := setD 0 s.hangLevel k 2 }
      | 2 => let s := clusterResetDo (s.fs (rstBase d) Fld.RST_ERR_RESET_FAIL 1) (k / 8); { s with hangLevel := setD 0 s.hangLevel k 3 }
      | 3 => dieResetStart { s with hangLevel := setD 0 s.hangLevel k 0 } d
      | _ => s)

/-- Has a die controller that runs been silent for 400 µs, or reported DC_FAULT? -/
def dcLost (s : State) (d : Nat) : Bool :=
  dieInService s d && (aget s.dieRst d).isNone
    && (s.fb (dieBase d) Fld.CLU_DC_STS_DC_FAULT || decide (getD 0 s.beatAt d + 400 ≤ s.nowUs))

def execDcLost (d : Nat) (s : State) : Host.Outcome State Fault Refusal :=
  .next (if dcLost s d then dieResetStart (faultDie (s.notice 0x05 (unitOfDie d) 0 0) d) d else s)

/-- Three reads of the Porch went unanswered. -/
def execPorchLost (s : State) : Host.Outcome State Fault Refusal := .next (if dieHeld s 5 then s else dieResetStart s 5)

/-! ### Isolation and die links (R230, R239, R243) -/

/-- The fabric manager isolates a die and resets it. -/
def isolate (s : State) (d : Nat) : State :=
  let a := rstIBase + Reg.RST_DIE_STS
  dieResetStart (faultDie ((s.wr a (setBits (s.rd a) (8 + d) (8 + d) 1)).notice 0x06 (unitOfDie d) 0 0) d) d

/-- The die that a link isolates when it leaves no module up: the die of an IOD or Porch module, else the named end's. -/
def isolatedDie (e : Nat) : Nat := match iodDie e with | some d => d | none => endDie e

/-- The ends of both modules of a link's pair, on both its dies. -/
def pairEnds (s : State) (e : Nat) : List Nat :=
  let one := e :: (match pairMate e with | some m => [m] | none => [])
  one ++ one.filterMap (farEnd s)

/-- Steps that used a link pair and have no core on die `d`, with the port by which they used it: an open raw stream of
theirs, or a request of one of their cores, passes it. -/
def linkUsers (s : State) (es : List Nat) (d : Nat) : List (Nat × Nat) :=
  (steps s).filterMap fun x =>
    if !onCores x.2.1 || x.2.2.cores.any fun k => k / 64 == d then none
    else
      let strs := (s.strKeys.filter fun y => y.tags.contains (x.1, x.2.1.gen)).flatMap fun y =>
        pathEnds s (strmProd s y.stream / 256) (strmConsCore s y.stream / 64) (strmAddr y.stream)
      let rqs := (s.reqs.filter fun r => match iniCore r.ini with | some k => x.2.2.cores.contains k | none => false).flatMap (·.path)
      ((strs ++ rqs).find? es.contains).map fun e => (x.1, endPort e)

/-- A step that used a link which is lost ends with LINK_LOST (R285). -/
def loseLink (s : State) (x : Nat × Nat) : State :=
  match s.cmd? x.1 with
  | some c => (match c.step with
    | some r => if onCores c then endStep (r.cores.foldl abortCore s) x.1 0x4A x.2 else s
    | none => s)
  | none => s

/-- The last module of a pair is down: the die is isolated, and what used the link elsewhere ends. -/
def linkLost (s : State) (e : Nat) (users : List (Nat × Nat)) : State := users.foldl loseLink (isolate s (isolatedDie e))

/-- A module goes down, and with the last module of a ring pair, an IOD module or the Porch module, the die. -/
def moduleDown (s : State) (e : Nat) : State :=
  let users := linkUsers s (pairEnds s e) (isolatedDie e)
  let s := linkDown s e
  match pairMate e with
  | some m => if linkUp s m then s else linkLost s e users
  | none => linkLost s e users

def execModuleDown (e : Nat) (s : State) : Host.Outcome State Fault Refusal :=
  .next (if endFitted s e && decide (e < 26) && !(s.fg (portBase e) Fld.DDL_STS_STATE == 0) then moduleDown s e else s)

/-- A lane hard-fails, since it lost lock or the monitors named it in more CRC failures than the threshold
(R230): half width, or the module goes down; without its link engines' firmware it goes down (R539). The host port's
modules do the same (R257). -/
def execLaneHardFail (e : Nat) (f : LaneFault) (s : State) : Host.Outcome State Fault Refusal :=
  .next (if !(linkUp s e && (f.lock || laneNamed s e f.lane)) then s
    else
      let dead := bit (s.fg secBase Fld.SEC_UNITS_DEAD) 3 && (laneFor s e f.lane).isSome
      if 26 ≤ e then
        let r := hostLaneFail s e f.lane
        if r.1 || dead then hostDown r.2 (e - 26) else r.2
      else if !endFitted s e then s
      else
        let r := laneFail s e f.lane
        if r.1 || dead then moduleDown r.2 e else r.2)

/-- The module retrains in place at its width, or fails to; the cause of the retrain is used up. -/
def execLinkRetrain (e : Nat) (ok : Bool) (s : State) : Host.Outcome State Fault Refusal :=
  .next (if !(endFitted s e && decide (e < 26) && linkUp s e && mayRetrain s e) then s
    else
      let one := fun (t : State) (x : Nat) => setEnd (t.fs (portBase x) Fld.DDL_ERR_RETRAIN 1) x
        { linkEnd t x with retries := [], retrain := false }
      let s := one s e
      let s := match farEnd s e with | some f => one s f | none => s
      if ok then linkFault s e else moduleDown s e)

/-- A write of a DDL_ block: EN = 0 takes a module down that is up or in training (R254). -/
def ddlWrite (s : State) (d off v : Nat) (spec : Option (RegSpec × Nat × Nat)) : State :=
  let t := ddlRegWrite s d off v spec
  let e := ddlEnd d off
  if 0x1000 ≤ off ∧ off % 0x1000 = Reg.DDL_CTL % 0x1000 ∧ endFitted t e ∧ !t.fb (portBase e) Fld.DDL_CTL_EN then
    (if linkUp t e then moduleDown t e else setLinkState t e 0 0)
  else t

end Sys2Proof.Machine
end

