-- ==== Sys2Proof/Machine/Restart.lean ====
section
/-!
DEFINITION. Machine/Restart.lean: package warm reset and POR (R489, R490, R511, R512), the islands' resets (R416,
R433), the IOD RST_ block, the MP watchdog, dumps, request timeouts, and the fabric manager's notices (R493 to R498,
R504 to R506, R514).
-/
namespace Sys2Proof.Machine

open Sys2Proof

/-! ### Package warm reset -/

/-- Every write that a controller has accepted completes before the controllers stop (R221). -/
def drainWrites (s : State) : State := (s.reqs.filter fun r => r.write && r.stage == .mem && decide (0 < r.grant)).foldl portWrite s

/-- No step goes on: the holds of those that run or are saved return (R338), every OWNED semaphore is retired, and no hold
or waiter is left (R340). -/
def retireAll (s : State) : State :=
  let s : State := { s with waiters := [] }
  let live := ((steps s).filter fun e => onCores e.2.1 || e.2.1.phase == .preempted).map fun e => (e.1, e.2.1.gen)
  let s := releasesDone { s with tagReleases := s.tagReleases ++ live }
  let s := (ownedBy s fun _ _ => true).foldl retireSem s
  let s := (List.range s.part.dies).foldl (fun t d => (t.fs (synBase d) Fld.SYN_STS_WAITERS 0).fs (synBase d) Fld.SYN_HOLDS_USED 0) s
  s.dropRegs fun a => (List.range 4).any fun d =>
    decide (synBase d + 0x10000 ≤ a) && decide (a < synBase d + 0x80000)
      && (decide (synBase d + 0x40000 ≤ a) || a % 32 == Reg.SYN_SEM_W6 % 32)

/-- Does a package warm reset leave the register at an address as it is (R512)? -/
def warmKept (a : Nat) : Bool :=
  decide (0x00FF00000000 ≤ a) || (List.range 4).any (fun d => memKept d a || genKept d a || synKept d a)
    || a == rstIBase + Reg.RST_PKG_STS || a == rstIBase + Reg.RST_DIE_GEN || a == rstIBase + Reg.RST_PCH_GEN
    || a == secBase + Reg.SEC_BOOT_CNT

/-- The contexts after a warm reset: all but context 0 have ended, their generations have advanced. -/
def warmCtxs (s : State) : List (Nat × Ctx) :=
  s.ctxs.foldl (fun m e => setD Ctx.absent m e.1
    { e.2 with live := e.1 == 0, gen := if e.2.live then (e.2.gen + 1) % 256 else e.2.gen,
               priv := if e.1 = 0 then e.2.priv else 0, maxClass := if e.1 = 0 then e.2.maxClass else 0, teardown := false }) []

/-- A byte or interval of DRAM. -/
def isDram (a : Nat) : Bool := decide (a < 0x002000000000)

/-- What a start leaves of the package that no reset governs: the part, the queue of commands, what is fitted or burnt
or stored outside the logic, the condition of clocks and rails, the TAP, and what has left the package. -/
def fixedPart (s : State) : State :=
  { State.reset with
    part := s.part, pending := s.pending, fresh := s.fresh, laneOtp := s.laneOtp, otp := s.otp, otpBad := s.otpBad,
    flash := s.flash, flashMb := s.flashMb, damaged := s.damaged, mailbox := s.mailbox, upd := s.upd,
    mainBad := s.mainBad, pllBad := s.pllBad, trigBad := s.trigBad, railsBad := s.railsBad,
    tapIr := s.tapIr, tapHeld := s.tapHeld, tapBsr := s.tapBsr, emits := s.emits }

/-- Is a silenced ledger one that a package warm reset does not rebase: all but stream contexts, tags and pending
doorbells (R342)? -/
def ledgerStays (k : Nat) : Bool := !([2, 9, 10].contains (k / 2 ^ 32 % 256))

/-- The state of a package warm reset before its generations advance. -/
def warmState (s : State) : State :=
  { fixedPart s with
    regs := kdrop (fun a => !warmKept a) s.regs,
    mem := kdrop (fun a => !isDram a) s.mem, undef := s.undef.filter fun i => isDram i.1, dram := s.dram,
    elogSeq := s.elogSeq, ledgerMute := s.ledgerMute.filter ledgerStays, ctxs := warmCtxs s, eventSeq := s.eventSeq, policy := s.policy, islands := s.islands,
    reports := s.reports, stDone := s.stDone, dcWire := s.dcWire, updNum := s.updNum, act := s.act }

/-- Every generation but the contexts' advances (R490). -/
def bumpAll (s : State) : State :=
  let ds := List.range s.part.dies
  bumpPkg ((ds.flatMap fun d => rangeFrom (8 * d) 8).foldl bumpCluster ((ds ++ [5]).foldl bumpDie s))

/-- FW_READY falls with the command processor's firmware, and P_READY is sent again (R259). -/
def readyFalls (s : State) : State := if s.fb cmdBase Fld.CMD_STS_FW_READY then ready s 0 else s

/-- A package warm reset with its cause, up to the start of the MP. -/
def warmTake (cause : Nat) (s : State) : State :=
  let s := readyFalls (if cause = 2 then s else s.notice 0x10 0 0 0)
  let old := retireAll (drainWrites s)
  let t := (List.range s.part.dies).foldl (memRestore old) (warmState old)
  let t := t.fs secBase Fld.SEC_STS_TEST_UNLOCKED (old.fg secBase Fld.SEC_STS_TEST_UNLOCKED)
  (bumpAll t).fs rstIBase Fld.RST_PKG_STS_CAUSE cause

/-- A package warm reset (R511): cause 1 the MP, 2 its watchdog. -/
def warmReset (cause : Nat) (late gold : List Nat) (s : State) : State := mpStart false [] late gold (warmTake cause s)

/-! ### POR and the islands' resets -/

/-- The islands after POR: each that has its supply is released from reset. -/
def porIslands (s : State) : List (Nat × Island) :=
  [0, 1].foldl (fun m i => setD Island.reset m i { Island.reset with powered := (s.isl i).powered, rails := (s.isl i).rails }) []

/-- POR: everything returns to reset; DRAM bytes are undefined until they are initialised. -/
def porTake (s : State) : State :=
  let t : State := { fixedPart s with islands := porIslands s }
  clockMonitors ((List.range s.part.dies).foldl (fun u d => u.mundef (d * 0x800000000) 0x800000000) t)

def porStart (fails late gold : List Nat) (s : State) : State := mpStart true fails late gold (porTake s)

/-- POR, and the start that follows (R528). Without supplies nothing starts. -/
def execPor (fails late gold : List Nat) (s : State) : Host.Outcome State Fault Refusal :=
  .next (if s.powerOff then s else porStart fails late gold s)

/-- An island's registers, tables and log are lost (R433). -/
def islDrop (s : State) (i : Nat) (v : Island) : State :=
  let s := s.dropRegs fun a => decide (acnBase i ≤ a) && decide (a < acnBase i + 0x1000000)
  let s := { s with policy := s.policy.filter fun e => !(e.1 / 2 ^ 16 == i) }
  let s := { s with reports := s.reports.filter fun r => !(r.island == i) }
  settleGuarantee (unitBit (s.setIsl i v) Fld.SEC_UNITS_RUNNING (4 + i) false)

/-- An island's reset input is released, its rails being within tolerance: BOOT with the safe-state output low. -/
def execAcinaReset (isl : Nat) (s : State) : Host.Outcome State Fault Refusal :=
  .next (if (s.isl isl).rails then clockMonitor (islDrop s isl Island.reset) isl else s)

/-- An island's own rails fail or return (R569); it starts at the release of its reset input. -/
def execAcinaSupplyLoss (isl : Nat) (up : Bool) (s : State) : Host.Outcome State Fault Refusal :=
  .next (if up then s.setIsl isl { s.isl isl with rails := true }
    else islDrop s isl { Island.reset with powered := false, rails := false })

/-! ### The IOD RST_ block (R514) -/

/-- May a die reset name this die: a fitted compute die or the Porch? -/
def resettable (s : State) (d : Nat) : Bool := decide (d < 4) && s.part.fitted d || d == 5

/-- A write of the block that its port has admitted; `late` and `gold` are those of the start that a package warm reset
makes. -/
def rstIRegWrite (late gold : List Nat) (s : State) (off v : Nat) (spec : Option (RegSpec × Nat × Nat)) : State :=
  let t := regStore s (rstIBase + off) v spec
  if off = Reg.RST_PKG_CTL then (if bit v 0 then warmReset 1 late gold s else s)
  else if off = Reg.RST_DIE_CMD then (if bit v 8 && resettable t (v % 8) then dieResetGo t (v % 8) else t)
  else if off = Reg.RST_MP_WDOG then (if bit v 16 then { t with mpKick := s.nowUs } else t)
  else if off = Reg.RST_DUMP_BASE then (if s.dump.isSome then s else t)
  else if off = Reg.RST_DUMP_CTL then (if bit v 0 && s.dump.isNone then dumpStart t 0 none (allUnits false) else t)
  else if off = Reg.RST_ERR_IOD ∧ bit v 0 then t.fs rstIBase Fld.RST_TO_LOG_IOD_VALID 0
  else t

def rstIWrite (late gold : List Nat) (ini off v : Nat) (s : State) : State :=
  viaPort s ini (rstIBase + off) fun t spec => rstIRegWrite late gold t off v spec

def execPackageWarmReset (ini : Nat) (v : Word) (late gold : List Nat) (s : State) : Host.Outcome State Fault Refusal :=
  .next (rstIWrite late gold ini Reg.RST_PKG_CTL v.toNat s)

def execDieReset (ini : Nat) (v : Word) (s : State) : Host.Outcome State Fault Refusal :=
  .next (rstIWrite [] [] ini Reg.RST_DIE_CMD v.toNat s)

def execMpWatchdogKick (ini : Nat) (v : Word) (s : State) : Host.Outcome State Fault Refusal :=
  .next (rstIWrite [] [] ini Reg.RST_MP_WDOG v.toNat s)

def execDumpGo (ini : Nat) (v : Word) (s : State) : Host.Outcome State Fault Refusal :=
  .next (rstIWrite [] [] ini Reg.RST_DUMP_CTL v.toNat s)

/-! ### Dumps and the watchdog (R495, R505) -/

/-- The DUMP command. -/
def execDump (tg : Nat) (s : State) : Host.Outcome State Fault Refusal :=
  cmdDo s tg 0x4B true fun c s =>
    if s.dump.isSome then refuse s tg 0x1A 0
    else dumpStart (s.setCmd tg { c with phase := .waiting }) 0 (some tg) (allUnits false)

/-- The engine reads `n` units; the next has not delivered its record after 64 µs. -/
def execDumpUnitTimeout (n : Nat) (s : State) : Host.Outcome State Fault Refusal :=
  .next (match s.dump with | some _ => passDump (dumpNext true (dumpMany n s)) | none => s)

/-- The engine reads what is left and ends the dump; after the watchdog's, the package resets. -/
def execDumpComplete (late gold : List Nat) (s : State) : Host.Outcome State Fault Refusal :=
  .next (match s.dump with
    | some r =>
      let t := passDump (dumpEnd (dumpMany r.left.length s))
      if t.wdogDump then warmReset 2 late gold t else t
    | none => s)

/-- The watchdog expires: a dump with the MP as an unreadable unit; one that runs is waited for. -/
def execMpWatchdogExpiry (s : State) : Host.Outcome State Fault Refusal :=
  .next (if !s.fb rstIBase Fld.RST_MP_WDOG_EN || s.wdogDump || decide (s.nowUs < s.mpKick + 1000 * s.fg rstIBase Fld.RST_MP_WDOG_MS) then s
    else
      let t := if s.dump.isSome then s else dumpStart s 1 none (allUnits true)
      { t with wdogDump := true })

/-! ### Request timeouts (R493) -/

/-- Base of the RST_ block of an initiator's port. -/
def portRst (ini : Nat) : Nat := if iniDie ini < 4 ∨ iniDie ini = 5 then rstBase (iniDie ini) else rstIBase

/-- A request has had no response for RST_REQ_TO.US: an access error, the record, the notice of the destination. -/
def timeOut (s : State) (r : Req) : State :=
  let b := portRst r.ini
  let holds : List TxHold := s.txHold.filter fun h => decide (s.nowUs < h.since + 10000)
  let rs : List Req := s.reqs.map fun x => if x == r then { x with dead := true } else x
  let s : State := { s with reqs := rs, resps := s.resps ++ [{ r.resp s .err 1 [] with path := [] }],
                            txHold := holds ++ [⟨r.ini, r.txid, r.dgen, s.nowUs⟩] }
  let s := s.fs b Fld.RST_ERR_REQ_TO 1
  let s := if s.fb b Fld.RST_TO_LOG_VALID then s else (s.fs b Fld.RST_TO_LOG_INIT r.ini).fs b Fld.RST_TO_LOG_VALID 1
  s.notice 0x02 (unitOfDie (reqDie s r)) 0 0

def execRequestTimeout (ini txid : Nat) (s : State) : Host.Outcome State Fault Refusal :=
  let us := s.fg (portRst ini) Fld.RST_REQ_TO_US
  .next (match s.reqs.find? fun r => r.ini == ini && r.txid == txid && !r.dead with
    | some r => if decide (0 < us) && decide (r.since + us ≤ s.nowUs) then timeOut s r else s
    | none => s)

/-- Is a TXID withheld: timed out less than 10 ms ago under the port's present generation? -/
def txHeld (s : State) (ini txid : Nat) : Bool :=
  s.txHold.any fun h => h.ini == ini && h.txid == txid && h.dgen == iniGen s ini && decide (s.nowUs < h.since + 10000)

/-! ### Notices (R496, R498) -/

/-- Has a die come back from its fault: no fault that lasts, no reset or series that runs, links quiet for
RST_FM_CLEAR.MS? -/
def faultOver (s : State) (d : Nat) : Bool :=
  !s.hardFault.contains d && (aget s.dieRst d).isNone
    && (decide (4 ≤ d) || (rangeFrom (64 * d) 64).all fun k => !((s.core k).series == .running))
    && match aget s.linkEvAt d with
      | some t => decide (t + 1000 * s.fg rstIBase Fld.RST_FM_CLEAR_VALUE ≤ s.nowUs)
      | none => true

/-- The fabric manager clears a die's ADM_FAULT bit. -/
def execFaultClear (d : Nat) (s : State) : Host.Outcome State Fault Refusal :=
  let a := admBase + Reg.ADM_FAULT
  .next (if bit (s.rd a) d && faultOver s d then
      ({ s.wr a (setBits (s.rd a) d d 0) with linkEvAt := adel s.linkEvAt d } : State).notice 0x11 (unitOfDie d) 0 0
    else s)

/-- A notice from a span peer: written to the local event ring as it came, and counted. -/
def execPeerNotice (cls w : Nat) (s : State) : Host.Outcome State Fault Refusal :=
  .next ((s.event 0x76 cls w).wr (rstIBase + Reg.RST_NOTICE_RX) (s.rd (rstIBase + Reg.RST_NOTICE_RX) + 1))

end Sys2Proof.Machine
end

