-- ==== Sys2Proof/Machine/Teardown.lean ====
section
/-!
DEFINITION. Machine/Teardown.lean: context teardown (R501 to R503), and the unit commands UNIT_FENCE, UNIT_RETURN and
UNIT_RESET (R507 to R509).
-/
namespace Sys2Proof.Machine

open Sys2Proof

/-! ### What belongs to a context -/

/-- Is a command one of the context and generation? -/
def ofCtx (x gen : Nat) (c : Cmd) : Bool := c.ctx == x && c.ctxGen == gen

/-- The queues of a context. -/
def ctxQueues (s : State) (x : Nat) : List (Nat × QDesc) := (queuesOf s).filter fun e => e.2.ctx == x

/-- The completion rings of a context. -/
def ctxRings (s : State) (x : Nat) : List Nat := ((ringsOf s).filter fun e => e.2.ctx == x).map (·.1)

/-! ### Steps 1 to 3 (R501) -/

/-- Queues take STATE 2, but for one in STATE 3, which only QUEUE_DESTROY leaves (R296); nothing more is parsed or
admitted. -/
def tdQueues (s : State) (x : Nat) : State :=
  let qs := (ctxQueues s x).filter fun e => !(e.2.state == 3)
  let s := qs.foldl (fun t e => let d := { e.2 with state := 2 }; descPut (qSet t e.1 d) e.1 d) s
  let s := { s with qready := s.qready.filter fun q => !qs.any fun e => e.1 == q }
  s.setCtx x { s.ctx x with teardown := true }

/-- A step that has started is stopped, or its saved state discarded; its reply is CANCELLED. -/
def tdStop (s : State) (tag : Nat) : State :=
  match s.cmd? tag with
  | none => s
  | some c =>
    match c.step with
    | none => s
    | some r =>
      if onCores c || c.phase == .preempted || (c.phase == .booked && r.begun) then
        let t := if onCores c then r.cores.foldl (fun u k => if seqRun u k then abortCore u k else u) s else s
        endStep t tag 2 0
      else s

/-- Every step of the context ends and its reservations are released. -/
def tdSteps (s : State) (x gen tg : Nat) : State :=
  let s := (cancelAll s fun t c => !(t == tg) && ofCtx x gen c).2
  let s := ((steps s).filter fun e => ofCtx x gen e.2.1).foldl (fun t e => tdStop t e.1) s
  syncResv { s with resvs := s.resvs.filter fun v => !(v.2.ctx == x && v.2.ctxGen == gen) }

/-- RST_TD of every fitted compute die. -/
def tdWrite (s : State) (w : Nat) : State := (List.range s.part.dies).foldl (fun t d => t.wr (rstBase d + Reg.RST_TD) w) s

/-- The generation advances, and the counting of what is left begins. -/
def tdCount (s : State) (x gen tg : Nat) : State :=
  let s := s.setCtx x { s.ctx x with gen := (gen + 1) % 256 }
  let s := tdWrite s (x + gen * 2 ^ 16 + 2 ^ 24)
  let s := s.wr (rstIBase + Reg.RST_TD_CTL) (x + 2 ^ 16)
  { s with td := some ⟨tg, x, gen, s.nowUs, 0, 0⟩ }

/-! ### Steps 5 and 6 -/

/-- Raw streams of the context drain and close. -/
def tdStreams (s : State) (x gen : Nat) : State :=
  ((s.strKeys.filter fun k => k.ctx == x && k.ctxGen == gen).map (·.stream)).foldl closeStream s

/-- CLOSE_CTX on one Pantry, if it is in service and free. -/
def closeCtx (s : State) (x d : Nat) : State :=
  if s.part.fitted d && !dieHeld s d && s.fb (panBase d) Fld.PAN_STS_READY && (aget s.tcmds d).isNone && !(tracksOf s d x).isEmpty then
    tcmdGo (s.fs (panBase d) Fld.PAN_TCMD_ARG0_CTX x) d 5 none
  else s

def closeCtxAll (s : State) (x : Nat) : State := (List.range 4).foldl (fun t d => closeCtx t x d) s

/-- The holds of the ended steps return, waiters of the context leave the lists, and its semaphores are retired (R340). -/
def tdSems (s : State) (x gen : Nat) : State :=
  let s := releasesDone s
  let ns := ownedBy s fun c g => c == x && g == gen
  ns.foldl retireSem (dropWaiters s fun w => ns.contains w.sem)

/-- The sensor ports and fusion units of the context are disabled (R374, R414). -/
def tdPorch (s : State) (x gen : Nat) : State :=
  let ps := (s.sports.filter fun e => e.2.on && e.2.ctx == x && e.2.ctxGen == gen).map (·.1)
  fusCtxEnd (ps.foldl (fun t p => portDisable t p []) s) x gen

/-- Is another CTX_DESTROY ahead: one that runs, or an earlier packet? -/
def tdWaits (s : State) (tg : Nat) (c : Cmd) : Bool :=
  s.td.isSome || s.cmds.any fun e => !(e.1 == tg) && e.2.opcode == 0x05 && e.2.phase == .parsed && decide (e.2.order < c.order)

/-- The teardown of a live context. -/
def teardown (s : State) (tg x : Nat) : State :=
  let gen := (s.ctx x).gen
  let s := tdSteps (tdQueues s x) x gen tg
  let s := tdSems (tdStreams (tdCount s x gen tg) x gen) x gen
  let s := closeCtxAll (tdPorch s x gen) x
  match s.cmd? tg with
  | some c => settleWaiting (s.setCmd tg { c with phase := .waiting })
  | none => s

def execCtxDestroy (tg : Nat) (s : State) : Host.Outcome State Fault Refusal :=
  cmdDo s tg 0x05 true fun c s =>
    let x := c.par 16 2
    if tdWaits s tg c || !s.fb qmBase Fld.QM_CTL_EN then s
    else if x = 0 then refuse s tg 0x13 16
    else if !(s.ctx x).live then refuse s tg 0x16 16
    else teardown s tg x

/-! ### Step 7, and the escalation (R502) -/

/-- Does any die still hold requests of the context? -/
def tdHolds (s : State) : Bool := (List.range 6).any fun d => decide (0 < (tdOut s d).1)

/-- Is everything of the context over but the replies that wait for full rings: commands, tracks, ports, fusion? -/
def tdOver (s : State) (t : TdRun) : Bool :=
  !(s.cmds.any fun e => !(e.1 == t.tag) && ofCtx t.ctx t.gen e.2 && !(e.2.phase == .reply && e.2.held.isSome))
    && ((List.range 4).all fun d => !s.part.fitted d || dieHeld s d || (tracksOf s d t.ctx).isEmpty && (aget s.tcmds d).isNone)
    && !(s.sports.any fun e => e.2.on && e.2.ctx == t.ctx && e.2.ctxGen == t.gen)
    && !(match s.integ with | some i => i.ctx == t.ctx && i.ctxGen == t.gen | none => false)
    && !(match s.proj with | some p => p.ctx == t.ctx && p.ctxGen == t.gen | none => false)

/-- Queues and completion rings of the context are set invalid; replies held for the rings are discarded. -/
def tdRings (s : State) (x : Nat) : State :=
  let rings := ctxRings s x
  let s := (s.cmds.filter fun e => rings.contains e.2.cq && e.2.held.isSome).foldl (fun t e => freeCmd t e.1 e.2) s
  let s := (ctxQueues s x).foldl (fun t e => descPut t e.1 { e.2 with valid := false, pinned := false }) s
  let s := syncQm { s with qcache := s.qcache.filter fun e => !(e.2.ctx == x) }
  rings.foldl dropCq s

/-- The context has ended: OK is replied. -/
def tdEnd (s : State) (t : TdRun) : State :=
  let s := tdRings s t.ctx
  let s := s.setCtx t.ctx { s.ctx t.ctx with live := false, priv := 0, maxClass := 0, teardown := false }
  let s := (tdWrite s (t.ctx + t.gen * 2 ^ 16)).fs rstIBase Fld.RST_TD_CTL_ACTIVE 0
  finishCmd { s with td := none } t.tag 0 0 0

/-- TEARDOWN_ESCALATED to the host, CONTEXT_TORN_DOWN to the span peers alone. -/
def tdNotices (s : State) (t : TdRun) : State :=
  let s := s.notice 0x0B 0 0 t.ctx
  s.reachable.foldl (fun u p => (u.emit "MSG_NOTICE" p [0x12, noticeWord u 0 0 t.ctx]).wr (rstIBase + Reg.RST_NOTICE_CNT)
    (u.rd (rstIBase + Reg.RST_NOTICE_CNT) + 1)) s

/-- RST_TD_OUT is 0 everywhere and nothing of the context is left; tracks that a busy Pantry kept are closed first. An
escalation that the cluster resets ended writes its notices now (R502). -/
def execTeardownComplete (s : State) : Host.Outcome State Fault Refusal :=
  .next (match s.td with
    | none => s
    | some t =>
      let s := closeCtxAll s t.ctx
      if tdOver s t && !tdHolds s then tdEnd (if t.esc = 1 then tdNotices s t else s) t else s)

/-- The clusters whose bit is set in RST_TD_OUT.CL are reset. -/
def tdClusters (s : State) : State :=
  let hit := (List.range 4).flatMap fun d => (List.range 8).filterMap fun c => if bit (tdOut s d).2.1 c then some (8 * d + c) else none
  hit.foldl clusterResetDo s

/-- The dies whose die-level units still hold requests are reset. -/
def tdDies (s : State) : State := ([0, 1, 2, 3, 5].filter fun d => (tdOut s d).2.2).foldl dieResetStart s

/-- Requests are left at RST_TD_LIMIT: clusters, 1 ms later dies, and the notices. -/
def execTeardownEscalate (s : State) : Host.Outcome State Fault Refusal :=
  .next (match s.td with
    | none => s
    | some t =>
      if t.esc = 0 then
        (if decide (t.since + s.fg rstIBase Fld.RST_TD_LIMIT_VALUE ≤ s.nowUs) && tdHolds s then
          let s := (tdClusters s).fs rstIBase Fld.RST_TD_CTL_ESCALATED 1
          { s with td := some { t with esc := 1, escAt := s.nowUs } }
        else s)
      else if t.esc = 1 then
        (if t.escAt + 1000 ≤ s.nowUs then
          let s := tdNotices (tdDies s) t
          { s with td := some { t with esc := 2 } }
        else s)
      else s)

/-! ### Unit commands (R507 to R509) -/

/-- The checks of a unit code (R279): a level that exists, a fitted die. -/
def unitCheck (s : State) (u : Nat) : Option (Nat × Nat) :=
  if bits u 15 14 = 3 ∨ s.part.fitted (bits u 13 12) = false then some (0x13, 16)
  else if dieHeld s (bits u 13 12) || (bits u 15 14 == 2 && (aget s.dieRst (bits u 13 12)).isSome) then some (0x1A, 1)
  else none

/-- A unit's code with the fields below its level cleared. -/
def unitExact (u : Nat) : Nat := match bits u 15 14 with | 0 => u | 1 => u / 512 * 512 | _ => u / 4096 * 4096

/-- The unit leaves placement: fence, EVT_UNIT_OUT, bookings re-placed. -/
def unitFence (s : State) (u : Nat) : State := (fenceCores s (coresOfUnit u) (unitExact u)).event 0x73 (unitExact u) 0

def execUnitFence (tg : Nat) (s : State) : Host.Outcome State Fault Refusal :=
  cmdDo s tg 0x48 true fun c s =>
    let u := c.par 16 2
    match unitCheck s u with
    | some f => refuse s tg f.1 f.2
    | none => settleWaiting ((unitFence s u).setCmd tg { c with phase := .waiting })

/-- UNIT_RETURN opens the series of every fenced core. -/
def execUnitReturn (tg : Nat) (s : State) : Host.Outcome State Fault Refusal :=
  cmdDo s tg 0x49 true fun c s =>
    let u := c.par 16 2
    match unitCheck s u with
    | some f => refuse s tg f.1 f.2
    | none =>
      let s := if 2 = bits u 15 14 then { s with hardFault := s.hardFault.filter fun x => !(x == bits u 13 12) } else s
      settleWaiting (((coresOfUnit u).foldl beginSeries s).setCmd tg { c with phase := .waiting })

/-- UNIT_RESET: the steps end at once; RESULT is the new generation, for a die once it is released. -/
def execUnitReset (tg : Nat) (s : State) : Host.Outcome State Fault Refusal :=
  cmdDo s tg 0x4A true fun c s =>
    let u := c.par 16 2
    match unitCheck s u with
    | some f => refuse s tg f.1 f.2
    | none =>
      let d := bits u 13 12
      let s := unitFence s u
      match bits u 15 14 with
      | 0 => let k := 64 * d + 8 * bits u 11 9 + bits u 8 6; let t := unitWasReset (coreResetDo s k) k; finishCmd t tg 0 0 (t.coreGen k)
      | 1 =>
        let k := 8 * d + bits u 11 9
        let t := (coresOfUnit u).foldl unitWasReset (clusterResetDo s k)
        finishCmd t tg 0 0 (t.cluGen k)
      | _ => dieResetStart ((clearCores s (coresOfUnit u) (unitExact u)).setCmd tg { c with phase := .waiting }) d

end Sys2Proof.Machine
end

