-- ==== Sys2Proof/Machine/Power.lean ====
section
/-!
DEFINITION. Machine/Power.lean: the power states of clusters and of the package (R222, R474, R512), power-up, power-down
and loss of supply (R566 to R568).
-/
namespace Sys2Proof.Machine

open Sys2Proof

/-! ### Clusters (R474) -/

/-- The clusters that a POWER_STATE names, on fitted dies that are not in reset. -/
def namedClusters (s : State) (c : Cmd) : List Nat :=
  (List.range 32).filter fun x => bit (c.par 20 4) x && s.part.fitted (x / 8) && !dieHeld s (x / 8)

/-- CLU_DIE_CTL.CLUSTER_EN of one cluster. -/
def setClusterEn (v : Bool) (s : State) (c : Nat) : State :=
  let b := dieBase (c / 8)
  s.fs b Fld.CLU_DIE_CTL_CLUSTER_EN (setBits (s.fg b Fld.CLU_DIE_CTL_CLUSTER_EN) (c % 8) (c % 8) (b2n v))

def setPwr (s : State) (c v : Nat) : State := s.fs (cluBase c) Fld.CLU_STS_PWR v

/-- A POWER_STATE of one TARGET; a TARGET beyond 3 is refused by whichever row first takes the command. -/
def powerDo (tg target : Nat) (s : State) (f : Cmd → State → State) : Host.Outcome State Fault Refusal :=
  cmdDo s tg 0x40 true fun c s =>
    if 3 < c.par 16 1 then refuse s tg 0x13 16 else if c.par 16 1 = target then f c s else s

/-- One cluster becomes Active: power and zeroed memories, then CLUSTER_EN. -/
def wakeOne (s : State) (c : Nat) : State :=
  let s := if 2 ≤ s.fg (cluBase c) Fld.CLU_STS_PWR then zeroCluster s c else s
  let s := setClusterEn true (setPwr s c 0) c
  { s with dozeHold := s.dozeHold.filter fun x => !(x == c), napWait := s.napWait.filter fun x => !(x == c),
           cluIdle := adel s.cluIdle c }

/-- After Cellar the command waits until every fitted die is in service. -/
def execPowerStateActive (tg : Nat) (s : State) : Host.Outcome State Fault Refusal :=
  powerDo tg 0 s fun c s =>
    if s.fg rstIBase Fld.RST_PKG_STS_CAUSE = 3 ∧ !(List.range s.part.dies).all (dieInService s) then s
    else finishCmd ((namedClusters s c).foldl wakeOne s) tg 0 0 0

/-- Clusters stay in Doze and take no steps; one that runs nothing enters it now. -/
def dozeOne (s : State) (c : Nat) : State :=
  let s := { s with dozeHold := if s.dozeHold.contains c then s.dozeHold else s.dozeHold ++ [c] }
  if s.fg (cluBase c) Fld.CLU_STS_PWR = 0 ∧ cluRuns s c = false then
    setPwr (s.noFill fun x => x == c) c 1
  else s

def execPowerStateDoze (tg : Nat) (s : State) : Host.Outcome State Fault Refusal :=
  powerDo tg 1 s fun c s => finishCmd ((namedClusters s c).foldl dozeOne s) tg 0 0 0

/-- Does a reservation hold a core of the cluster (R307)? -/
def cluReserved (s : State) (c : Nat) : Bool := (reserved s).any fun k => k / 8 == c

/-- Does the cluster hold a booking, a running step or a saved victim? -/
def cluHolds (s : State) (c : Nat) : Bool :=
  (calendar s).any (fun b => b.cores.any fun k => k / 8 == c) || (rangeFrom (8 * c) 8).any fun k => occupied s k || holdsSaved s k

/-- A Nap is complete when none of its clusters waits. -/
def settleNap (s : State) : State :=
  (s.cmds.map (·.1)).foldl (fun t tg =>
    match t.cmd? tg with
    | some c =>
      if c.phase == .waiting && c.opcode == 0x40 && !(t.napWait.any fun x => bit (c.par 20 4) x) then finishCmd t tg 0 0 0 else t
    | none => t) s

/-- One cluster is withdrawn: CLUSTER_EN clears, and its power goes once it holds nothing. -/
def napOne (s : State) (c : Nat) : State :=
  let s := setClusterEn false s c
  if 2 ≤ s.fg (cluBase c) Fld.CLU_STS_PWR ∨ s.napWait.contains c then s else { s with napWait := s.napWait ++ [c] }

def execPowerStateNap (tg : Nat) (s : State) : Host.Outcome State Fault Refusal :=
  powerDo tg 2 s fun c s =>
    let cs := namedClusters s c
    if cs.any (cluReserved s) then refuse s tg 0x1A 0
    else settleNap (cs.foldl napOne (s.setCmd tg { c with phase := .waiting }))

/-- Power of a cluster goes (R198, R512). -/
def gateOne (s : State) (c : Nat) : State :=
  let s := setPwr (dropCluster s c) c 2
  State.noFill { s with napWait := s.napWait.filter fun x => !(x == c) } fun x => x == c

def execNapGate (s : State) : Host.Outcome State Fault Refusal :=
  .next (settleNap ((s.napWait.filter fun c => !cluHolds s c && !dieHeld s (c / 8)).foldl gateOne s))

/-! ### Cellar (R222, R512) -/

/-- Does Cellar keep the register at an address: the islands, the fields of R222, and what POR alone governs? -/
def cellarKept (a : Nat) : Bool :=
  decide (0x00FF00000000 ≤ a) || (List.range 4).any (fun d => memKept d a)
    || a == rstIBase + Reg.RST_PKG_STS || a == rstIBase + Reg.RST_DIE_GEN || a == rstIBase + Reg.RST_PCH_GEN
    || a == secBase + Reg.SEC_BOOT_CNT

/-- What Cellar leaves: DRAM in self-refresh, the always-on copies, the islands. -/
def cellarState (s : State) : State :=
  let ctxs := s.ctxs.foldl (fun m e => setD Ctx.absent m e.1
    { e.2 with live := e.1 == 0, priv := if e.1 = 0 then e.2.priv else 0, maxClass := if e.1 = 0 then e.2.maxClass else 0,
               teardown := false }) []
  { fixedPart s with
    regs := kdrop (fun a => !cellarKept a) s.regs,
    mem := kdrop (fun a => !isDram a) s.mem, undef := s.undef.filter fun i => isDram i.1, dram := s.dram,
    elogSeq := s.elogSeq, ctxs := ctxs, eventSeq := s.eventSeq, policy := s.policy, islands := s.islands,
    reports := s.reports, stDone := s.stDone, dcWire := s.dcWire, updNum := s.updNum,
    cellar := 2, dark := List.range s.part.dies ++ [4, 5] }

/-- Hearth switches rails by the PMBus OPERATION command (R568): 0 to 3 VDD_CD0–3, then 4 to 7 VDD_CDU0–3, 8 VDD_IOD,
9 VDD_PCH, 10 VDD_UCIE, 11 VDD_SPN, 12 VDD_MPHY, 13 VDD_PHY08, 14 VDD_PHY18, 15 VDD_FLD. The core rails go first and come
last; the regulators of dies that are not fitted are left alone. -/
def switchRails (on : Bool) (s : State) : State :=
  let core := (List.range 4).filter fun d => s.part.fitted d
  let rest := core.map (· + 4) ++ rangeFrom 8 8
  (if on then rest ++ core else core ++ rest).foldl (fun t r => t.drive "PMBUS_OPERATION" r [b2n on]) s

/-- Entry: semaphores retired, controllers in self-refresh, power removed. -/
def cellarEnter (s : State) : State :=
  let old := retireAll (drainWrites (readyFalls s))
  let t := (List.range s.part.dies).foldl (memRestore old) (cellarState old)
  let t := (List.range s.part.dies).foldl (fun u d => u.fs (memBase d) Fld.MEM_DIE_STS_SR_ALL 1) t
  switchRails false (t.fs secBase Fld.SEC_STS_TEST_UNLOCKED (old.fg secBase Fld.SEC_STS_TEST_UNLOCKED))

/-- A step that is booked, queued, running or saved. -/
def anyStep (s : State) : Bool := (steps s).any fun e => !(e.2.1.phase == .reply)

/-- The command is accepted; once its reply is written and no step runs, Hearth takes the package into Cellar. -/
def execPowerStateCellar (tg : Nat) (s : State) : Host.Outcome State Fault Refusal :=
  if s.cellar = 1 ∧ (s.cmd? tg).isNone ∧ anyStep s = false then .next (cellarEnter s)
  else powerDo tg 3 s fun _ s =>
    if anyStep s || s.upd.isSome then refuse s tg 0x1A 0 else finishCmd { s with cellar := 1 } tg 0 0 0

/-- The host wakes the package over the sideband. -/
def execHWake (s : State) : Host.Outcome State Fault Refusal := .next (if s.cellar = 2 then { s with cellar := 3 } else s)

/-- Steps 7 and 8 on one die: out of self-refresh, and read training as a verification (R220). -/
def cellarMem (fails : List Nat) (s : State) (d : Nat) : State :=
  let b := memBase d
  let s := s.fs b Fld.MEM_DIE_STS_SR_ALL 0
  let f := fails.getD d 0 % 65536
  if f = 0 ∨ !s.fb b Fld.MEM_DIE_STS_INIT_DONE then s
  else
    let s := (s.fs b Fld.MEM_DIE_STS_INIT_DONE 0).fs b Fld.MEM_DIE_STS_TRAINED 0
    let s := (List.range 16).foldl (fun t c =>
      if bit f c then (t.fs (b + 0x100 * c) Fld.MEM_CH_STS_FAIL 1).fs (b + 0x100 * c) Fld.MEM_CH_STS_TRAINED 0 else t) s
    ((s.fs b Fld.MEM_DIE_STS_CH_FAIL f).fs b Fld.MEM_DIE_ERR_TRAIN_FAIL 1).emit "DIE_FAILED" d []

/-- Power returns, and with it the memory; cause 3. -/
def cellarLeave (fails : List Nat) (s : State) : State :=
  let t : State := switchRails true { s with cellar := 0, dark := [] }
  ((List.range s.part.dies).foldl (cellarMem fails) t).fs rstIBase Fld.RST_PKG_STS_CAUSE 3

def execCellarExit (fails late gold : List Nat) (s : State) : Host.Outcome State Fault Refusal :=
  .next (if s.cellar = 3 then mpStart false fails late gold (cellarLeave fails s) else s)

/-! ### Supplies (R566 to R569) -/

/-- Everything on the package's own rails is lost. The islands run on theirs. -/
def supplyGone (s : State) : State :=
  let t : State := { fixedPart s with
    regs := kdrop (fun a => decide (a < 0x00FF00000000)) s.regs, policy := s.policy, islands := s.islands, reports := s.reports,
    stDone := s.stDone, dcWire := s.dcWire, tapHeld := true, tapIr := 1, tapBsr := 0, mailbox := [],
    powerOff := true, dark := List.range s.part.dies ++ [4, 5] }
  (List.range s.part.dies).foldl (fun u d => u.mundef (d * 0x800000000) 0x800000000) t

/-- PORST_N resets an island that has its supply. -/
def islDropPor (s : State) (i : Nat) : State :=
  islDrop s i { Island.reset with powered := (s.isl i).powered, rails := (s.isl i).rails }

/-- The rails have risen in order and PORST_N is released: POR, and the start. -/
def execPowerUp (fails late gold : List Nat) (s : State) : Host.Outcome State Fault Refusal :=
  .next (if s.powerOff then porStart fails late gold { s with powerOff := false, porstLow := false, dark := [] } else s)

/-- PORST_N goes low, which resets the islands too, and the rails fall in order. -/
def execPowerDown (s : State) : Host.Outcome State Fault Refusal :=
  .next (if s.powerOff then s else { islDropPor (islDropPor (supplyGone s) 0) 1 with porstLow := true })

/-- Supply is lost with PORST_N high: DRAM contents are lost, the next start is a POR. -/
def execSupplyLoss (s : State) : Host.Outcome State Fault Refusal := .next (if s.powerOff then s else supplyGone s)

end Sys2Proof.Machine
end

