-- ==== Sys2Proof/Machine/Update.lean ====
section
/-!
DEFINITION. Machine/Update.lean: attestation, update sessions and activation, the flash device and the SEC_ block
(R517, R526, R531 to R538, R542).
-/
namespace Sys2Proof.Machine

open Sys2Proof

/-! ### Attestation (R531) -/

def natBytes (n v : Nat) : List Nat := (leBytes n v).map (·.toNat)

/-- STATE of a unit's entry. -/
def unitState (s : State) (u : Nat) : Nat :=
  if bit (s.fg secBase Fld.SEC_UNITS_DEAD) u then 1
  else if !bit (s.fg secBase Fld.SEC_UNITS_RUNNING) u then 2
  else if bit (s.fg secBase Fld.SEC_UNITS_PENDING) u then 3 else 0

/-- A unit's entry of 96 bytes: version and counter, build, measurement. -/
def unitEntry (s : State) (u : Nat) : List Nat :=
  let i := aget s.unitImgs u
  [u, unitState s u, 0, 0] ++ natBytes 4 (match i with | some x => x.svn | none => 0)
    ++ natBytes 4 (if u < 7 then svnCounter s u else 0) ++ [0, 0, 0, 0]
    ++ natBytes 8 (match i with | some x => x.build | none => 0) ++ List.replicate 8 0
    ++ (match i with | some x => (x.meas ++ List.replicate 64 0).take 64 | none => List.replicate 64 0)

/-- The digest of the boot ROM (R515). -/
def romMeas : List Nat := cryptBytes 3 ((List.range 0x20000).map fun i => (Config.romByte i).toNat) 64

/-- The signed body. -/
def attestBody (s : State) (nonce : List Nat) : List Nat :=
  natBytes 4 0x54525441 ++ natBytes 2 1 ++ [if s.fg secBase Fld.SEC_STS_STAGE = 2 then 1 else 0]
    ++ [s.fg secBase Fld.SEC_STS_TEST_UNLOCKED + 2 * b2n (eccOptOut s)] ++ deviceId s
    ++ [match s.part with | .dvx2300 => 0 | .dvx1150 => 1, 0xB0] ++ natBytes 2 s.pkgId
    ++ natBytes 4 (s.fg secBase Fld.SEC_BOOT_CNT_COUNT) ++ List.replicate 8 0 ++ nonce ++ romMeas ++ idpk s
    ++ (List.range 8).flatMap (unitEntry s) ++ List.replicate 64 0

/-- The report: the body and its signature under the identity key. -/
def attestReport (s : State) (nonce : List Nat) : List Byte :=
  let b := attestBody s nonce
  bytesOf (b ++ cryptBytes 5 (idpk s ++ b) 49856)

def execAttest (tg : Nat) (s : State) : Host.Outcome State Fault Refusal :=
  cmdDo s tg 0x50 true fun c s =>
    if !inWin0 s (c.par 48 6) (c.par 56 4) then refuse s tg 0x14 48
    else if c.par 56 4 < 50880 then refuse s tg 0x13 56
    else
      let nonce := (List.range 32).map fun i => byteAt c.packet (16 + i)
      finishCmd (cpWrites s c.ctx (c.par 48 6) (attestReport s nonce)) tg 0 0 50880

/-! ### Sessions (R532, R533) -/

/-- SEC_STS.SESSION follows the session. -/
def setSession (s : State) (u : Option UpdSession) : State :=
  ({ s with upd := u } : State).fs secBase Fld.SEC_STS_SESSION (match u with | some x => x.stage | none => 0)

/-- The next session number, never 0. -/
def nextSession (n : Nat) : Nat := if (n + 1) % 2 ^ 32 = 0 then 1 else (n + 1) % 2 ^ 32

def execUpdateBegin (tg : Nat) (s : State) : Host.Outcome State Fault Refusal :=
  cmdDo s tg 0x51 true fun c s =>
    if c.par 16 4 = 0 ∨ 127 < c.par 16 4 then refuse s tg 0x13 16
    else if 0x4000000 < c.par 20 4 then refuse s tg 0x13 20
    else match s.upd with
      | some u => refuse s tg (if 3 ≤ u.stage then 0x1A else 0x1B) 0
      | none =>
        let n := nextSession s.updNum
        finishCmd (setSession { s with updNum := n } (some ⟨n, c.par 16 4, c.par 20 4, [], 1, []⟩)) tg 0 0 n

/-- The open session, if the command names it. -/
def sessionOf (s : State) (c : Cmd) : Option UpdSession :=
  match s.upd with
  | some u => if c.par 16 4 = u.num then some u else none
  | none => none

/-- Raw address of a staging offset. -/
def stageAddr (s : State) (o : Nat) : Nat := secureBase s + 0x4000000 + o

def execUpdateBlock (tg : Nat) (s : State) : Host.Outcome State Fault Refusal :=
  cmdDo s tg 0x52 true fun c s =>
    let n := c.par 20 4
    let o := c.par 24 8
    match sessionOf s c with
    | none => refuse s tg 0x16 16
    | some u =>
      if n % 16 ≠ 0 ∨ n < 16 ∨ 8160 < n then refuse s tg 0x13 20
      else if o % 16 ≠ 0 ∨ u.total < o + n then refuse s tg 0x13 24
      else if 2 ≤ u.stage then refuse s tg 0x1A 0
      else
        let s := dramWrite s (stageAddr s o) ((c.packet.drop 32).take n) ⟨0x800, 0, false⟩
        finishCmd (setSession s (some { u with got := u.got ++ [(o / 16, (o + n) / 16)] })) tg 0 0 0

/-! ### Verification and writing (R534) -/

/-- How far the received granules reach without a gap. -/
def coverTo (got : List (Nat × Nat)) : (fuel : Nat) → Nat → Nat
  | 0, e => e
  | f + 1, e =>
    match got.find? fun g => decide (g.1 ≤ e) && decide (e < g.2) with
    | some g => coverTo got f g.2
    | none => e

/-- Is every granule of the session there? -/
def staged (u : UpdSession) : Bool := decide (u.total ≤ 16 * coverTo u.got (u.got.length + 1) 0)

def stageByte (s : State) (o i : Nat) : Nat := (s.mb (stageAddr s (o + i))).toNat

/-- Split the staging: the slots to be written, or the unit that fails first and whether its container failed R523. -/
def splitStage (s : State) (total : Nat) : (units : List Nat) → (o last : Nat) → List (Nat × Nat × Nat) →
    Except (Nat × Bool) (List (Nat × Nat × Nat))
  | [], o, last, acc => if o = total then .ok acc else .error (last, false)
  | x :: xs, o, _, acc =>
    let n := containerLen (cnat (stageByte s o) 20 4)
    let ok := (acceptContainer s x (stageByte s o)).isSome
    if o + n ≤ total ∧ ok = true then splitStage s total xs (o + n) x (acc ++ [(x, o, n)]) else .error (x, !ok)

/-- The units of a mask, ascending. -/
def unitsOf (m : Nat) : List Nat := (List.range 7).filter fun u => bit m u

/-- A verification that fails closes the session. -/
def verifyFails (s : State) (tg detail : Nat) : State := finishCmd (setSession s none) tg 0x4B detail 0

/-- Steps 1 to 3: the checks. -/
def verifyCheck (tg : Nat) (s : State) (c : Cmd) : State :=
  match sessionOf s c with
  | none => refuse s tg 0x16 16
  | some u =>
    if 2 ≤ u.stage then refuse s tg 0x1A 0
    else if !staged u then finishCmd s tg 0x4B 0 0
    else match splitStage s u.total (unitsOf u.units) 0 0 [] with
      | .error x => verifyFails (if x.2 then s.fs secBase Fld.SEC_ERR_AUTH 1 else s) tg (2 ^ x.1)
      | .ok slots => setSession (s.setCmd tg { c with phase := .waiting }) (some { u with stage := 3, slots := slots })

/-- Erase and program one slot: its sectors, then whole pages from staging. -/
def writeSlot (s : State) (x o n : Nat) : State :=
  let a := (slotOf x).1
  let fl := kdrop (fun k => decide (a ≤ k) && decide (k < a + roundUp n 0x10000)) s.flash
  let fl := (List.range (roundUp n 256)).foldl (fun m i => setD 0xFF m (a + i) (s.mb (stageAddr s (o + i)))) fl
  { s with flash := fl, damaged := s.damaged.filter fun u => !(u == x) }

/-- Write the slots in order; `bad` names the units whose read-back differs a third time. Answers the first of them. -/
def writeSlots (bad : List Nat) : List (Nat × Nat × Nat) → State → Option Nat × State
  | [], s => (none, s)
  | (x, o, n) :: rest, s =>
    if bad.contains x then (some x, spoilSlot (markDamaged s (x :: rest.map (·.1))) x n)
    else writeSlots bad rest (writeSlot s x o n)

/-- Is the boot die in reset? -/
def bootHeld (s : State) : Bool := dieHeld s (rawDie (secureBase s))

/-- Steps 4 and 5: the Doorstep loader writes the flash, once the boot die is out of reset. -/
def verifyWrite (tg : Nat) (bad : List Nat) (s : State) (c : Cmd) : State :=
  match sessionOf s c with
  | none => s
  | some u =>
    if bootHeld s then s
    else match writeSlots bad u.slots s with
      | (some x, s) => verifyFails (s.fs secBase Fld.SEC_ERR_FLASH_IO 1) tg (2 ^ x + 0x8000)
      | (none, s) =>
        let s := s.fs secBase Fld.SEC_UNITS_PENDING (Nat.lor (s.fg secBase Fld.SEC_UNITS_PENDING) u.units)
        finishCmd (setSession s (some { u with stage := 4 })) tg 0 0 0

/-- UPDATE_VERIFY: first the checks, then the writing. -/
def execUpdateVerify (tg : Nat) (bad : List Nat) (s : State) : Host.Outcome State Fault Refusal :=
  match s.cmd? tg with
  | some c =>
    if c.opcode = 0x53 ∧ c.phase = .waiting then .next (verifyWrite tg bad s c)
    else cmdDo s tg 0x53 true fun c s => verifyCheck tg s c
  | none => .next s

/-! ### Activation (R536, R537) -/

/-- What the MP records of the command. -/
def actRecord (s : State) (tg : Nat) (c : Cmd) (units : Nat) : ActRec :=
  let r := cqRec s c.cq
  ⟨tg, c.gen, c.cookie, c.queue, c.cq, r.base, r.log2, r.tail, r.vector, r.ctx, units, 0, s.nowUs - c.parsedUs⟩

def execUpdateActivate (tg : Nat) (late gold : List Nat) (s : State) : Host.Outcome State Fault Refusal :=
  cmdDo s tg 0x54 true fun c s =>
    match sessionOf s c with
    | none => refuse s tg 0x16 16
    | some u =>
      if u.stage ≠ 4 ∨ anyStep s = true then refuse s tg 0x1A 0
      else warmReset 1 late gold { s with act := some (actRecord s tg c u.units) }

/-- Has a unit started or failed? An island fails 10 s after stage 11; in service state no other unit starts. -/
def unitSettled (s : State) (a : ActRec) (u : Nat) : Bool :=
  s.fg secBase Fld.SEC_STS_STAGE == 2 || bit (s.fg secBase Fld.SEC_UNITS_RUNNING) u || bit (s.fg secBase Fld.SEC_UNITS_DEAD) u
    || (decide (4 ≤ u) && decide (u ≤ 5) && decide (a.since + 10000000 ≤ s.nowUs))

/-- Units of the activation that did not start. -/
def failedUnits (s : State) (a : ActRec) : Nat :=
  sumN ((unitsOf a.units).map fun u => if bit (s.fg secBase Fld.SEC_UNITS_RUNNING) u then 0 else 2 ^ u)

/-- The reply at the recorded place, with the recorded PHASE. -/
def actReply (s : State) (a : ActRec) : List Byte :=
  let mask := failedUnits s a
  leBytes 2 (a.tag + (1 - a.tail / 2 ^ a.log2 % 2) * 2 ^ 15) ++ leBytes 1 a.gen ++ leBytes 1 0x54
    ++ leBytes 1 (if mask = 0 then 0 else 0x4D) ++ leBytes 1 0 ++ leBytes 2 mask ++ leBytes 8 a.cookie ++ leBytes 8 0
    ++ leBytes 4 (min 0xFFFFFFFF (a.ran + s.nowUs)) ++ leBytes 4 a.queue

/-- Islands that failed by time are dead. -/
def lateIslands (s : State) (a : ActRec) : State :=
  if s.fg secBase Fld.SEC_STS_STAGE = 2 then s
  else ((unitsOf a.units).filter fun u => !bit (s.fg secBase Fld.SEC_UNITS_RUNNING) u && !bit (s.fg secBase Fld.SEC_UNITS_DEAD) u).foldl unitDead s

/-- Every unit has started or failed and the host port is up: counters, the reply, NOTIFY. -/
def execUpdateActivateReply (s : State) : Host.Outcome State Fault Refusal :=
  .next (match s.act, hostModule s with
    | some a, some m =>
      if (unitsOf a.units).all (unitSettled s a) then
        let s := burnCounters (lateIslands s a)
        let s := (memWrite s cmdIni a.ctx (a.base + 32 * (a.tail % 2 ^ a.log2)) (actReply s a)).2
        let s := ({ s with act := none } : State).emit "NOTIFY" m [a.vector, a.cq]
        drainVc0 s.vc0.length s
      else s
    | _, _ => s)

/-! ### The flash device and the SEC_ block (R517, R526, R542) -/

/-- Does the MP run from the boot ROM: before its firmware, in service state, or while the loader writes slots? -/
def mpInRom (s : State) : Bool :=
  !(s.fg secBase Fld.SEC_STS_STAGE == 1) || s.fg secBase Fld.SEC_STS_SESSION == 3

/-- A write of SEC_FLASH_CMD: GO starts OP unless one runs; OP 3 is reserved. -/
def flashCmdWrite (s : State) (v : Nat) (spec : Option (RegSpec × Nat × Nat)) : State :=
  if !mpInRom s then s.fs secBase Fld.SEC_ERR_FLASH_DENY 1
  else
    let s := regStore s (secBase + Reg.SEC_FLASH_CMD) v spec
    if bit v 2 && !(v % 4 == 3) && s.flashOp.isNone then
      let s := (s.fs secBase Fld.SEC_FLASH_STS_BUSY 1).fs secBase Fld.SEC_FLASH_STS_FAIL 0
      { s with flashOp := some (v % 4, s.fg secBase Fld.SEC_FLASH_ADDR_ADDR) }
    else s

/-- A write of the SEC_ block that its port has admitted. -/
def secRegWrite (s : State) (off v : Nat) (spec : Option (RegSpec × Nat × Nat)) : State :=
  if off = Reg.SEC_FLASH_CMD then flashCmdWrite s v spec
  else if off = Reg.SEC_OTP_LOCK then
    (if bit v 0 then (s.fs secBase Fld.SEC_OTP_LOCK_LOCK 1).fs secBase Fld.SEC_STS_OTP_LOCKED 1 else s)
  else regStore s (secBase + off) v spec

/-- The write of SEC_FLASH_CMD by an initiator; one that is not the MP's is refused and sets FLASH_DENY too. -/
def flashCmd (ini v : Nat) (s : State) : State :=
  let a := secBase + Reg.SEC_FLASH_CMD
  let t := viaPort s ini a fun u spec => secRegWrite u Reg.SEC_FLASH_CMD v spec
  if ini = 0x800 ∨ (accCheck s ini a 4 true).1.isSome then t else t.fs secBase Fld.SEC_ERR_FLASH_DENY 1

def execFlashErase (ini : Nat) (s : State) : Host.Outcome State Fault Refusal := .next (flashCmd ini 4 s)
def execFlashProgram (ini : Nat) (s : State) : Host.Outcome State Fault Refusal := .next (flashCmd ini 5 s)
def execFlashReadStatus (ini : Nat) (s : State) : Host.Outcome State Fault Refusal := .next (flashCmd ini 6 s)

/-- What an operation leaves: a failed one leaves the bytes it worked on undefined. Programming clears bits only. -/
def flashEnd (s : State) (op addr : Nat) (fail : Bool) : State :=
  let a := if op = 0 then addr / 0x10000 * 0x10000 else addr / 256 * 256
  let n := if op = 0 then 0x10000 else 256
  if 2 ≤ op then s
  else if fail then flashSpoil s a n
  else if op = 0 then { s with flash := kdrop (fun k => decide (a ≤ k) && decide (k < a + n)) s.flash }
  else
    let src := secureBase s + s.fg secBase Fld.SEC_FLASH_SRC_OFF * 256
    flashSet s a n fun k => getD 0xFF s.flash k &&& s.mb (src + (k - a))

/-- The device finishes its operation. -/
def execFlashOpDone (fail : Bool) (s : State) : Host.Outcome State Fault Refusal :=
  .next (match s.flashOp with
    | none => s
    | some (op, addr) =>
      let s := flashEnd { s with flashOp := none } op addr fail
      let s := s.fs secBase Fld.SEC_FLASH_STS_BUSY 0
      if fail then (s.fs secBase Fld.SEC_FLASH_STS_FAIL 1).fs secBase Fld.SEC_ERR_FLASH_IO 1 else s)

/-- SEC_OTP_LOCK.LOCK is written. -/
def execOtpLock (ini : Nat) (s : State) : Host.Outcome State Fault Refusal :=
  .next (viaPort s ini (secBase + Reg.SEC_OTP_LOCK) fun t spec => secRegWrite t Reg.SEC_OTP_LOCK 1 spec)

end Sys2Proof.Machine
end

