-- ==== Sys2Proof/Machine/Test.lean ====
section
/-!
DEFINITION. Machine/Test.lean: the TST_ blocks, their lock, perturbation and injection slots (R546 to R552, R557), the
instructions of the test access port that reach no register (R553, R554), the lifecycle token's mailbox (R544).
-/
namespace Sys2Proof.Machine

open Sys2Proof

/-! ### The slots (R547 to R552) -/

def pertAt (d i : Nat) : Nat := tstBase d + Reg.TST_PERT_W0 + 8 * i
def injAt (d i : Nat) : Nat := tstBase d + Reg.TST_INJ_W0 + 16 * i

/-- Codes of the perturbation targets of a die's block (R548): below this number. -/
def pertTargets (d : Nat) : Nat := if d < 4 then 23 else if d = 4 then 13 else 2

/-- Does the word name what cannot be targeted, or STRETCH of the memory controller island (R548, R549)? -/
def pertRefused (d w0 : Nat) : Bool := decide (pertTargets d ≤ bits w0 7 3) || decide (d < 4) && bits w0 7 3 == 17 && w0 % 4 == 3

/-- Are the slot's numbers within R549's limits? -/
def pertFits (w0 w1 : Nat) : Bool :=
  match w0 % 4 with
  | 2 => decide (bits w0 15 8 < w1 % 65536)
  | 3 => decide (1 ≤ bits w0 15 8) && decide (bits w0 15 8 ≤ 16) && decide (0 < w1 % 65536)
  | _ => true

/-- Does a perturbation slot act? -/
def pertActive (s : State) (d i : Nat) : Bool :=
  !s.fb (tstBase d) Fld.TST_LOCK_LOCKED && !(s.rd (pertAt d i) % 4 == 0) && pertFits (s.rd (pertAt d i)) (s.rd (pertAt d i + 4))

/-- Is an injection slot armed? -/
def injArmed (s : State) (d i : Nat) : Bool := !s.fb (tstBase d) Fld.TST_LOCK_LOCKED && bit (s.rd (injAt d i)) 0

/-- TST_STS shows which slots act. -/
def syncTst (s : State) (d : Nat) : State :=
  let m := fun (p : Nat → Bool) => sumN ((List.range 4).map fun i => b2n (p i) * 2 ^ i)
  (s.fs (tstBase d) Fld.TST_STS_PERT_ACT (m (pertActive s d))).fs (tstBase d) Fld.TST_STS_INJ_ARMED (m (injArmed s d))

def tstRefuse (s : State) (d : Nat) : State := s.fs (tstBase d) Fld.TST_ERR_CFG 1

/-- A word of a perturbation slot is written. -/
def pertWrite (s : State) (d i w v : Nat) (spec : Option (RegSpec × Nat × Nat)) : State :=
  if w = 0 ∧ pertRefused d v then tstRefuse s d
  else
    let t := regStore s (pertAt d i + 4 * w) v spec
    syncTst (if pertFits (t.rd (pertAt d i)) (t.rd (pertAt d i + 4)) then t else tstRefuse t d) d

/-- A word of an injection slot is written: its count of matching events starts again. Target 3 of a compute die is armed
only while inline ECC is active (R551). -/
def injWrite (s : State) (d i w v : Nat) (spec : Option (RegSpec × Nat × Nat)) : State :=
  if w = 0 ∧ d < 4 ∧ bit v 0 ∧ bits v 8 4 = 3 ∧ s.fb (memBase d) Fld.MEM_DIE_STS_ECC_ACTIVE = false then tstRefuse s d
  else
    let t : State := { s with injCount := setD 0 s.injCount (4 * d + i) 0 }
    syncTst (regStore t (injAt d i + 4 * w) v spec) d

/-- A write of TST_LOCK: LOCKED stops every slot and discards armed injections (R547). -/
def lockWrite (s : State) (d v : Nat) (spec : Option (RegSpec × Nat × Nat)) : State :=
  let t := regStore s (tstBase d + Reg.TST_LOCK) v spec
  syncTst (if t.fb (tstBase d) Fld.TST_LOCK_LOCKED then
      (List.range 4).foldl (fun u i => u.wr (injAt d i) (setBits (u.rd (injAt d i)) 0 0 0)) t
    else t) d

/-- Is the offset one of a slot's words? -/
def isSlot (off : Nat) : Bool := decide (0x100 ≤ off) && decide (off < 0x120) || decide (0x200 ≤ off) && decide (off < 0x240)

/-- A write of a TST_ block that its port has admitted. -/
def tstRegWrite (s : State) (d off v : Nat) (spec : Option (RegSpec × Nat × Nat)) : State :=
  if 0x100 ≤ off ∧ off < 0x120 then pertWrite s d ((off - 0x100) / 8) (off % 8 / 4) v spec
  else if 0x200 ≤ off ∧ off < 0x240 then injWrite s d ((off - 0x200) / 16) (off % 16 / 4) v spec
  else if off = Reg.TST_LOCK then lockWrite s d v spec
  else regStore s (tstBase d + off) v spec

/-- Does the lock reject the write (R547)? -/
def tstLocked (s : State) (ini d off : Nat) : Bool := isSlot off && s.fb (tstBase d) Fld.TST_LOCK_LOCKED && !isAcina ini

/-- A write of a slot through the register port. -/
def slotWrite (ini d off v : Nat) (s : State) : State :=
  let a := tstBase d + off
  let c := accCheck s ini a 4 true
  if c.1.isSome then accessError c.2 ini (c.1.getD 0)
  else if tstLocked c.2 ini d off then accessError (fwLog c.2 ini a) ini 1
  else viaPort s ini a fun t spec => tstRegWrite t d off v spec

/-- Word `w` of perturbation slot `i`. -/
def execTstPertWrite (ini d i w : Nat) (v : Word) (s : State) : Host.Outcome State Fault Refusal :=
  .next (slotWrite ini d (Reg.TST_PERT_W0 + 8 * i + 4 * w) v.toNat s)

/-- Word `w` of injection slot `i`. -/
def execTstInjWrite (ini d i w : Nat) (v : Word) (s : State) : Host.Outcome State Fault Refusal :=
  .next (slotWrite ini d (Reg.TST_INJ_W0 + 16 * i + 4 * w) v.toNat s)

/-- Island A clears LOCKED in the block of a die that is there and not in reset. -/
def unlockDie (s : State) (d : Nat) : State :=
  if (d < 4 ∧ s.part.fitted d = false) ∨ dieHeld s d then s else syncTst (s.fs (tstBase d) Fld.TST_LOCK_LOCKED 0) d

/-- While test mode is unlocked, island A clears LOCKED in every block. -/
def execTstLockClear (s : State) : Host.Outcome State Fault Refusal :=
  .next (if s.fb secBase Fld.SEC_STS_TEST_UNLOCKED && islRuns s 0 then (List.range 6).foldl unlockDie s else s)

/-! ### The test access port (R553, R554) -/

/-- Does the TAP take instructions: TRST_N released, its island powered? -/
def tapOn (s : State) : Bool := !s.tapHeld && !s.powerOff

/-- The TAP's instruction becomes `ir`. -/
def tapSet (s : State) (ir : Nat) : State := if tapOn s then { s with tapIr := ir } else s

/-- IDCODE of the part. -/
def tapId (p : Part) : Nat := match p with | .dvx2300 => 0xB2300A3F | .dvx1150 => 0xB1150A3F

def execTapIdcode (s : State) : Host.Outcome State Fault Refusal :=
  .next (if tapOn s then (tapSet s 0x01).emit "TDO" 0 [tapId s.part] else s)

/-- SAMPLE/PRELOAD puts `v` into the boundary-scan register. -/
def execTapSamplePreload (v : Nat) (s : State) : Host.Outcome State Fault Refusal :=
  .next (if tapOn s then { tapSet s 0x02 with tapBsr := v } else s)

def execTapExtest (s : State) : Host.Outcome State Fault Refusal := .next (tapSet s 0x03)
def execTapClamp (s : State) : Host.Outcome State Fault Refusal := .next (tapSet s 0x04)
def execTapHighz (s : State) : Host.Outcome State Fault Refusal := .next (tapSet s 0x05)
def execTapBypass (s : State) : Host.Outcome State Fault Refusal := .next (tapSet s 0xFF)

/-- LC_TOKEN shifts a token into the 32 KiB mailbox; on a SCRAPPED part the code acts as BYPASS. -/
def execTapLcToken (bs : List Byte) (s : State) : Host.Outcome State Fault Refusal :=
  .next (if !tapOn s then s
    else if lifecycle s = 3 then tapSet s 0xFF
    else { tapSet s 0x10 with mailbox := bs.take 0x8000 })

/-- TRST_N asserted holds the TAP in reset, with IDCODE as its instruction; released, it takes instructions. -/
def execTapReset (asserted : Bool) (s : State) : Host.Outcome State Fault Refusal :=
  .next (if asserted then { s with tapHeld := true, tapIr := 1 } else { s with tapHeld := false })

end Sys2Proof.Machine
end

