-- ==== Sys2Proof/Machine/Fabric.lean ====
section
/-!
DEFINITION. Machine/Fabric.lean: the register port of every block (R12, R33), the register write that has no row of its
own, requests on the die network (R115), register access through the test port (R555).
-/
namespace Sys2Proof.Machine

open Sys2Proof

/-! ### The register ports -/

/-- Island firmware writes a word of a policy table entry (R454). -/
def policyPoke (s : State) (l : Loc) (v : Nat) : State :=
  let t := (l.off - 0x100000) / 0x10000
  let e := (l.off - 0x100000) % 0x10000 / 0x80
  let o := l.off % 0x80
  let img := policyImage s l.unit t e
  { s with policy := aput s.policy (2 ^ 16 * l.unit + 2 ^ 8 * t + e) (img.take o ++ leBytes 4 v ++ img.drop (o + 4)) }

/-- A write of an island's block that the firewall has admitted; its island looks at the latch again. -/
def acnRegWrite (s : State) (l : Loc) (a v : Nat) (spec : Option (RegSpec × Nat × Nat)) : State :=
  match policyWord s l with
  | some _ => settleIsland (policyPoke s l v) l.unit
  | none => settleIsland (regStore s a v spec) l.unit

/-- The write reaches its block. -/
def blockWrite (s : State) (ini : Nat) (l : Loc) (a v : Nat) (spec : Option (RegSpec × Nat × Nat)) : State :=
  match l.blk with
  | .eng => engRegWrite s ini l.unit l.off v
  | .core => if l.off = Reg.CORE_CMD then coreCmd s l.unit v else coreRegWrite s l.unit a v spec
  | .clu => cluRegWrite s l.unit a v spec
  | .att => attRegWrite s l.unit l.off v spec
  | .chk => chkRegWrite s ini l.unit l.off v spec
  | .memD => memRegWrite s l.unit l.off v spec
  | .ddlD | .ddlI | .ddlP => ddlWrite s l.unit l.off v spec
  | .pan => panRegWrite s l.unit l.off v spec
  | .bwrD => bwrRegWrite s l.unit l.off v spec
  | .bwrI => syncSpanUrgs (bwrRegWrite s l.unit l.off v spec)
  | .bwrP => syncUrgs (bwrRegWrite s l.unit l.off v spec)
  | .rstD | .rstP => rstRegWrite s l.unit l.off v spec
  | .tstD | .tstI | .tstP => tstRegWrite s l.unit l.off v spec
  | .syn => synRegWrite s ini l.unit l.off v spec
  | .hp => hpRegWrite s l.off v spec
  | .cmd => cmdRegWrite s l.off v spec
  | .qm => qmRegWrite s l.off v spec
  | .adm => admRegWrite s l.off v spec
  | .memI => memIRegWrite s l.off v spec
  | .spn => spnRegWrite s l.off v spec
  | .rstI => rstIRegWrite [] [] s l.off v spec
  | .sec => secRegWrite s l.off v spec
  | .pch => pchRegWrite s l.off v spec
  | .fus => fusRegWrite s l.off v spec
  | .acn => acnRegWrite s l a v spec
  | .dsp => dspRegWrite s l.off v spec
  | .dieClu | .hthD | .hthI | .hthP => regStore s a v spec

/-- SEC_FLASH_CMD counts a refused writer (R542). -/
def portRefused (s : State) (l : Loc) : State :=
  if l.blk = .sec ∧ l.off = Reg.SEC_FLASH_CMD then s.fs secBase Fld.SEC_ERR_FLASH_DENY 1 else s

/-- A register write at its port: was it rejected, and the state. -/
def portWord (s : State) (ini a v : Nat) : Bool × State :=
  match locate s.part a with
  | none => (true, s)
  | some l =>
    let tst := l.blk == .tstD || l.blk == .tstI || l.blk == .tstP
    if tst && tstLocked s ini l.unit l.off then (true, fwLog s ini a)
    else
      let spec := regAt s.part l
      let g := regDenied s ini a l spec
      if g.1 then (true, portRefused g.2 l) else (false, blockWrite g.2 ini l a v spec)

/-- A register write by an initiator: 0 when it was performed, else the code of its access error. -/
def regPort (s : State) (ini a n v : Nat) : Nat × State :=
  let c := accCheck s ini a n true
  match c.1 with
  | some e => (max 1 e, c.2)
  | none =>
    match space c.2 a with
    | .reg => let p := portWord c.2 ini a v; (b2n p.1, p.2)
    | _ => (1, c.2)

/-- A write of a register, of `width` bytes: one that is not performed is answered with an access-error response (R12). -/
def execRegisterWrite (ini addr width : Nat) (v : Word) (s : State) : Host.Outcome State Fault Refusal :=
  .next (if iniBlocked s ini then s
    else let r := regPort s ini addr width v.toNat; accessError r.2 ini r.1)

/-! ### Requests -/

/-- May the TXID be issued: not while it is held after a time-out (R493), nor while a request with it is open? -/
def txFree (s : State) (ini txid : Nat) : Bool :=
  !txHeld s ini txid && !(s.reqs.any fun r => r.ini == ini && r.txid == txid && !r.dead)
    && !(s.resps.any fun r => r.ini == ini && r.txid == txid)

/-- A request that has passed its links: DRAM queues it; SRAM, registers and the boot region serve it at once. -/
def serve (s : State) (r : Req) : State :=
  match space s r.addr with
  | .dram _ => queueReq s r
  | .reg =>
    if r.write then
      let x := regPort s r.ini r.addr r.len (leNat r.data)
      respond x.2 r (if x.1 = 0 then .ack else .err) x.1 []
    else let x := regRead s r.addr; respond x.2 r .data 0 (leBytes 4 x.1)
  | _ =>
    if r.write then
      let x := busWrite s r.ini r.ctx r.addr r.data
      match x.1 with
      | .err e => respond x.2 r .err e []
      | _ => respond x.2 r .ack 0 []
    else
      let x := memRead s r.ini r.ctx r.addr r.len
      match x.1 with
      | .data bs => respond x.2 r .data 0 bs
      | .poison _ _ => respond x.2 r .poison 0 []
      | .err e => respond x.2 r .err e []
      | .ack => respond x.2 r .ack 0 []

/-- A request passes its links and is served. -/
def passServe (s : State) (r : Req) : State := let p := passReq s r; serve p.2 p.1

/-- A request enters the fabric. -/
def request (s : State) (ini txid : Nat) (write : Bool) (addr len : Nat) (data : List Byte) : State :=
  if !txFree s ini txid then s
  else
    let c := accCheck s ini addr len write
    let r := newReq s ini txid write addr len data
    match c.1 with
    | some 0 => s
    | some e => respond c.2 r .err e []
    | none => if reqWaits c.2 r then { c.2 with reqs := c.2.reqs ++ [r] } else passServe c.2 r

def execRdRequest (ini txid addr len : Nat) (s : State) : Host.Outcome State Fault Refusal :=
  .next (request s ini txid false addr len [])

def execWrRequest (ini txid addr : Nat) (data : List Byte) (s : State) : Host.Outcome State Fault Refusal :=
  .next (request s ini txid true addr data.length data)

/-! ### Requests that waited at a port (R236, R242, R362) -/

/-- Of the requests that wait at a port, the first of each initiator. -/
def portHeads (s : State) : List Req :=
  (s.reqs.filter fun r => r.stage == .port).foldl (fun acc r => if acc.any fun x => x.ini == r.ini then acc else acc ++ [r]) []

/-- The request without its place among those that wait. -/
def unported (s : State) (r : Req) : State := { s with reqs := s.reqs.erase r }

/-- One request that waited goes on: the checks of its path are made again, for the map and the routes may have
changed. -/
def goOn (s : State) (r : Req) : State :=
  let s := unported s r
  let c := accCheck s r.ini r.addr r.len r.write
  match c.1 with
  | some e => if r.dead then c.2 else respond c.2 r .err (max 1 e) []
  | none => passServe c.2 r

/-- The regulated path at which a request waits: its first link's, the ring's where it has none. -/
def waitPath (s : State) (r : Req) : Nat × Nat :=
  match ((reqPath s r.ini r.addr).head?).bind endReg with | some x => x | none => (iniDie r.ini % 4, 9)

/-- Requests that wait and may go on now are granted, path by path in the order its regulator picks them. -/
def advance : (fuel : Nat) → State → State
  | 0, s => s
  | f + 1, s =>
    match (portHeads s).filter fun r => !reqWaits (unported s r) r with
    | [] => s
    | r :: rs =>
      let p := waitPath s r
      let xs := (r :: rs).filter fun x => waitPath s x == p
      match (pathPick s p.1 p.2 (xs.map linkCharge)).bind fun i => xs[i]? with
      | some x => advance f (goOn s x)
      | none => s

/-- Credits or routes have come back: what waits goes on, host messages and NOTIFYs among it. -/
def settleFabric (s : State) : State :=
  let s := syncSpanUrgs (advance s.reqs.length s)
  let s := drainVc0 s.vc0.length s
  drainNotify s.notifyQ.length s

/-- A flit of 256 bytes arrives at an end. -/
def execFlitReceive (e : Nat) (flit : RxFlit) (s : State) : Host.Outcome State Fault Refusal :=
  .next (if linkUp s e && decide (flit.bytes.length = 256) then
      settleFabric (flitReceive s e flit.bytes flit.lanes flit.ce flit.unc) else s)

/-- A module's training ends. -/
def execLinkUp (e rx tx : Nat) (s : State) : Host.Outcome State Fault Refusal :=
  .next (match farEnd s e with
    | some f => if s.fg (portBase e) Fld.DDL_STS_STATE = 1 then settleFabric (linkTrained s e f rx tx) else s
    | none => s)

/-- Every request on the old route has completed: those that waited go on (R242). -/
def execRouteChangeDone (d : Nat) (s : State) : Host.Outcome State Fault Refusal :=
  .next (if diagonalOpen s d then s else settleFabric (s.fs (ddlBase d) Fld.DDL_ROUTE_CHG_BUSY 0))

/-! ### Register access through the test port (R555) -/

/-- The initiator ID of debug access. -/
def dbgIni : Nat := 0x808

/-- IJTAG: while test mode is unlocked, one access of 4 bytes as initiator 0x808; else the network holds only its own
control register. -/
def execTapIjtag (write : Bool) (addr : Nat) (v : Word) (s : State) : Host.Outcome State Fault Refusal :=
  .next (if !tapOn s then s
    else if !s.fb secBase Fld.SEC_STS_TEST_UNLOCKED then tapSet s 0x20
    else
      let s := tapSet s 0x20
      if write then
        let r := regPort s dbgIni addr 4 v.toNat
        r.2.emit "TDO" r.1 []
      else match space s addr with
        | .reg | .boot =>
          let r := memRead s dbgIni 0 addr 4
          (match r.1 with
           | .data bs => r.2.emit "TDO" 0 [leNat bs]
           | .err e => r.2.emit "TDO" e []
           | _ => r.2)
        | _ => s.emit "TDO" 1 [])

end Sys2Proof.Machine
end

