-- ==== Sys2Proof/Machine/Ingest.lean ====
section
/-!
DEFINITION. Machine/Ingest.lean: arrivals at the sensor ports: stamps, filters, buffers and pairing (R368, R373, R375,
R383, R384, R391), and what the fusion units see of them.
-/
namespace Sys2Proof.Machine

open Sys2Proof

/-- A record that begins, with what every kind shares; the flags OVERFLOW and STEP are taken from the port. -/
def newRec (s : State) (p tArr : Nat) : InRec × State :=
  let x := s.port p
  let r : InRec := ⟨s.pchOrd, tArr, 0, 0, 128 * b2n x.ovfNext + 64 * b2n x.stepNext, 0, 0, timeState s, 0, 0, 0, 0, 0, [], 0, false,
    false, false, 0⟩
  (r, { s.setPort p { x with ovfNext := false, stepNext := false } with pchOrd := s.pchOrd + 1 })

/-- Append a record to its port's buffer. -/
def pushRec (s : State) (p : Nat) (r : InRec) : State :=
  let x := s.port p
  s.setPort p { x with recs := x.recs ++ [r] }

/-- Room for payload in a slot. -/
def slotRoom (s : State) (p : Nat) : Nat := 2 ^ slotLog s p - 64

/-- May a port take a new arrival? -/
def portTakes (s : State) (p : Nat) : Bool := s.fb pchBase Fld.PCH_CTL_EN && (s.port p).on && !(s.port p).draining && !dieHeld s 5

/-- A whole arrival of an Ethernet, CAN or IMU port: kept, or dropped when its buffer is full (R391). The record's number
is the one it will have when every record before it commits. -/
def arrive (s : State) (p tArr : Nat) (payload : List Byte) (set : InRec → InRec) : Option (Nat × InRec) × State :=
  let keep := payload.take (slotRoom s p)
  let k := bufOf p
  if bufCap s k < bufFill s k + keep.length then
    let s := countDrop (s.fs pchBase Fld.PCH_ERR_OVERFLOW 1) p
    (none, s.setPort p { s.port p with ovfNext := true })
  else
    let n := newRec s p tArr
    let r := set { n.1 with payload := keep, ended := true }
    let r := if keep.length < payload.length then r.flag 1 else r
    let s := syncUrg (pushRec n.2 p r) k
    (some ((s.port p).seq + (s.port p).recs.length, r), s)

/-! ### Cameras (R383, R384) -/

/-- Part of a frame's payload arrives. -/
def frameData (s : State) (n : Nat) (data : List Byte) : State :=
  match openFrame s n with
  | none => s
  | some r =>
    if r.lost then s
    else
      let room := slotRoom s n - r.payload.length
      let keep := data.take room
      let r := if keep.length < data.length then r.flag 1 else r
      let free := bufCap s n - bufFill s n
      let s := setRec s n { r with payload := r.payload ++ keep.take free }
      let s := if free < keep.length then endFrame (s.fs pchBase Fld.PCH_ERR_OVERFLOW 1) n 0x81 else s
      syncUrg s n

/-- The stamp, index and skew of a frame that its edge has not reached: free values until it does. -/
def unpaired (s : State) (r : InRec) : InRec × State :=
  let a := s.free
  let b := a.2.free
  let c := b.2.free
  let d := c.2.free
  ({ r with tTrig := a.1.toNat + 2 ^ 32 * b.1.toNat, idx := c.1.toNat, skew := d.1.toNat, want := true }, d.2)

/-- After an overflow the next frame starts on an empty buffer: what is left of earlier records is cut at what has been
drained (R391). -/
def emptied (s : State) (n : Nat) : State :=
  let x := s.port n
  if x.recs.any fun r => r.ended && bit r.flags 7 then
    s.setPort n { x with recs := x.recs.map fun (r : InRec) =>
      if r.drained < r.payload.length then { r.flag 1 with payload := r.payload.take r.drained } else r }
  else s

/-- A Frame Start packet. -/
def frameStart (s : State) (n tArr dt emb lines stride : Nat) : State :=
  let s := emptied (endFrame s n 1) n
  let m := newRec s n tArr
  let r := { m.1 with dtype := dt, emb := emb, lines := lines, lineBytes := stride }
  let r := if s.fb (camBase n) Fld.PCH_CAM_STS_UNALIGNED then r.flag 4 else r
  let s := m.2
  let x := s.port n
  match x.edges with
  | e :: es => pushRec (s.setPort n { x with edges := es }) n { r with idx := e.1, tTrig := e.2 }
  | [] =>
    let u := unpaired s r
    pushRec (u.2.setPort n { u.2.port n with debt := x.debt + 1 }) n u.1

/-- Part of a camera frame: `fs` when it begins with the Frame Start (stamped `fine` ns after the clock's last step),
`fe` when it ends with the Frame End; a virtual channel outside the mask is not received. -/
def execCameraFrame (n fine : Nat) (fs fe : Bool) (dt emb lines stride : Nat) (data : List Byte) (crc : Bool) (s : State) :
    Host.Outcome State Fault Refusal :=
  let ready := s.fb pchBase Fld.PCH_CTL_EN && (s.port n).on && s.fb (camBase n) Fld.PCH_CAM_STS_LINK && (s.port n).restart.isNone
  .next (if !ready || !bit (portNum s n 97 1) (bits dt 7 6) || (fs && (s.port n).draining) then s
    else
      let s := if fs then frameStart s n (stampAt s fine) dt emb lines stride else s
      let s := frameData s n data
      if fe then endFrame s n (32 * b2n crc) else s)

/-- The oldest edge has had no frame for two frame periods: a MISSING record. Its T_ARR, T_EXP and SKEW_NS, of which the
spec states none, are free values. -/
def execCameraFrameMissing (n : Nat) (s : State) : Host.Outcome State Fault Refusal :=
  .next (match (s.port n).edges with
    | [] => s
    | e :: es =>
      if !portTakes s n || (s.port n).restart.isSome || decide (pchTime s < e.2 + 2 * camPeriod s n) then s
      else
        let w := freeWords 5 s
        let f := fun (i : Nat) => (w.1.getD i 0).toNat
        let m := newRec w.2 n (f 0 + 2 ^ 32 * f 1)
        let r := { (m.1.flag 2) with tExp := f 2 + 2 ^ 32 * f 3, skew := f 4, idx := e.1, tTrig := e.2, ended := true }
        let r := if s.fb (camBase n) Fld.PCH_CAM_STS_UNALIGNED then r.flag 4 else r
        pushRec (m.2.setPort n { m.2.port n with edges := es }) n r)

/-! ### Ethernet (R373, R396) -/

/-- Is the frame kept under ETHERTYPE and, with 0x0800, the UDP destination ports? -/
def ethKept (s : State) (p : Nat) (frame : List Byte) : Bool :=
  let want := portNum s p 98 2
  let et := endNum true frame 12 2
  if want = 0 then true
  else if !(et == want) then false
  else if want = 0x0800 then
    let ihl := 4 * (byteAt frame 14 % 16)
    let dp := endNum true frame (14 + ihl + 2) 2
    byteAt frame 14 / 16 == 4 && byteAt frame 23 == 17 && decide (portNum s p 100 2 ≤ dp) && decide (dp ≤ portNum s p 102 2)
  else true

def execEthFrame (m fine : Nat) (frame : List Byte) (crc : Bool) (s : State) : Host.Outcome State Fault Refusal :=
  let p := 16 + m
  .next (if !portTakes s p || !s.fb (ethBase m) Fld.PCH_ETH_STS_LINK || !ethKept s p frame then s
    else
      let t := stampAt s fine
      let r := arrive s p t frame fun r => { (if crc then r.flag 32 else r) with id := endNum true frame 12 2 }
      match r.1 with
      | none => r.2
      | some (n, x) =>
        let s := r.2.faddWrap (ethBase m) Fld.PCH_ETH_RX_COUNT 1
        if m < 4 then lidarSeen s m t n x.payload else s)

/-! ### CAN (R373, R386, R398) -/

/-- Does a filter of the port keep the identifier? -/
def canKept (s : State) (p id : Nat) : Bool :=
  let n := portNum s p 105 1
  n == 0 || (List.range n).any fun f =>
    let a := portNum s p (128 + 8 * f) 4
    let m := portNum s p (132 + 8 * f) 4 % 2 ^ 29
    bit a 31 == bit id 31 && Nat.land (a % 2 ^ 29) m == Nat.land (id % 2 ^ 29) m

/-- A signal's value: bits from START_BIT, low first; big-endian signals run from their most significant bit down. -/
def canSignal (data : List Byte) (start len : Nat) (big sgnd : Bool) : Int :=
  let bitAt := fun (i : Nat) => b2n (bit (byteAt data (i / 8)) (i % 8))
  let v := if big then
      -- within a byte from bit 7 down, then on to the next byte
      (List.range len).foldl (fun a i => 2 * a + bitAt (let k := 8 * (start / 8) + (7 - start % 8) + i; 8 * (k / 8) + 7 - k % 8)) 0
    else sumN ((List.range len).map fun i => bitAt (start + i) * 2 ^ i)
  if sgnd then toSigned len v else (v : Int)

/-- The wheel signals of a frame that passed its port's filters. -/
def wheelSeen (s : State) (p id t seq : Nat) (data : List Byte) : State :=
  (List.range 5).foldl (fun u j =>
    let o := 40 + 16 * j
    let fl := calNum u wheelKey (o + 1) 1
    if wheelOn u j && calNum u wheelKey o 1 == p && bit fl 0 == bit id 31 && calNum u wheelKey (o + 8) 4 % 2 ^ 29 == id % 2 ^ 29 then
      let v := canSignal data (calNum u wheelKey (o + 2) 2) (calNum u wheelKey (o + 4) 1) (bit fl 2) (bit fl 1)
      { u with wheels := aput u.wheels j ⟨v, t, seq⟩ }
    else u) s

/-- A CAN frame: identifier with [31] set for 29 bits, data, an error in it, the receive error counter after it, bus-off. -/
def execCanFrame (k fine id : Nat) (data : List Byte) (err : Bool) (cnt : Nat) (boff : Bool) (s : State) :
    Host.Outcome State Fault Refusal :=
  let p := 24 + k
  let b := canBase k
  .next (if !portTakes s p || s.fb b Fld.PCH_CAN_STS_BUS_OFF then s
    else
      let s := (s.fs b Fld.PCH_CAN_STS_REC cnt).fs b Fld.PCH_CAN_STS_PASSIVE (b2n (decide (128 ≤ cnt)))
      let s := if boff then s.fs b Fld.PCH_CAN_STS_BUS_OFF 1 else s
      if err || boff || !canKept s p id then s
      else
        let t := stampAt s fine
        let r := arrive s p t data fun r => { r with id := id % 2 ^ 29 + 2 ^ 31 * b2n (bit id 31) }
        match r.1 with
        | none => r.2
        | some (n, _) => wheelSeen r.2 p id t n data)

/-! ### IMU (R373, R397) -/

/-- A burst of BURST bytes, read after a data-ready edge. -/
def execImuBurst (j fine : Nat) (data : List Byte) (s : State) : Host.Outcome State Fault Refusal :=
  let p := 28 + j
  .next (if !portTakes s p then s
    else
      let t := stampAt s fine
      let r := arrive s p t (data.take (portNum s p 98 1)) fun r => { r with tExp := t }
      match r.1 with
      | none => r.2
      | some (n, x) =>
        if r.2.integ.isSome && calIsOn r.2 (calKey 2 j) then
          { r.2 with imuIn := r.2.imuIn ++ [⟨j, t, n, x.payload⟩] }
        else r.2)

end Sys2Proof.Machine
end

