-- ==== Sys2Proof/Machine/Dispatch.lean ====
section
/-!
DEFINITION. Machine/Dispatch.lean: one arm per command, each a direct call of the command's meaning.
-/
namespace Sys2Proof.Machine

open Sys2Proof

/-- What a command does to the block (everything but the queue of waiting commands). -/
def exec (i : Instr) (s : State) : Host.Outcome State Fault Refusal :=
  match i with
  | .registerWrite ini addr width v => Sys2Proof.Machine.execRegisterWrite ini addr width v s
  | .clockFault pll => Sys2Proof.Machine.execClockFault pll s
  | .triggerClockFault => Sys2Proof.Machine.execTriggerClockFault s
  | .rdRequest ini txid addr len => Sys2Proof.Machine.execRdRequest ini txid addr len s
  | .wrRequest ini txid addr data => Sys2Proof.Machine.execWrRequest ini txid addr data s
  | .engGoMma ini e v => Sys2Proof.Machine.execEngGoMma ini e v s
  | .engGoWb ini e v => Sys2Proof.Machine.execEngGoWb ini e v s
  | .engGoLoad ini e v => Sys2Proof.Machine.execEngGoLoad ini e v s
  | .engOperationStart e wbPipe => Sys2Proof.Machine.execEngOperationStart e wbPipe s
  | .mmaComplete e => Sys2Proof.Machine.execMmaComplete e s
  | .wbComplete e => Sys2Proof.Machine.execWbComplete e s
  | .loadComplete e => Sys2Proof.Machine.execLoadComplete e s
  | .engSrSeedWrite ini e v => Sys2Proof.Machine.execEngSrSeedWrite ini e v s
  | .engErrClear ini e v => Sys2Proof.Machine.execEngErrClear ini e v s
  | .seqNop k => Sys2Proof.Machine.execSeqNop k s
  | .seqEnd k => Sys2Proof.Machine.execSeqEnd k s
  | .seqFail k => Sys2Proof.Machine.execSeqFail k s
  | .seqLi k => Sys2Proof.Machine.execSeqLi k s
  | .seqAdd k => Sys2Proof.Machine.execSeqAdd k s
  | .seqSub k => Sys2Proof.Machine.execSeqSub k s
  | .seqAnd k => Sys2Proof.Machine.execSeqAnd k s
  | .seqOr k => Sys2Proof.Machine.execSeqOr k s
  | .seqXor k => Sys2Proof.Machine.execSeqXor k s
  | .seqMul k => Sys2Proof.Machine.execSeqMul k s
  | .seqShl k => Sys2Proof.Machine.execSeqShl k s
  | .seqShr k => Sys2Proof.Machine.execSeqShr k s
  | .seqBr k => Sys2Proof.Machine.execSeqBr k s
  | .seqLd k => Sys2Proof.Machine.execSeqLd k s
  | .seqSt k => Sys2Proof.Machine.execSeqSt k s
  | .seqWreg k => Sys2Proof.Machine.execSeqWreg k s
  | .seqRreg k => Sys2Proof.Machine.execSeqRreg k s
  | .seqVec k => Sys2Proof.Machine.execSeqVec k s
  | .seqSmv k => Sys2Proof.Machine.execSeqSmv k s
  | .seqWait k => Sys2Proof.Machine.execSeqWait k s
  | .waitRetire k => Sys2Proof.Machine.execWaitRetire k s
  | .seqSemWait k => Sys2Proof.Machine.execSeqSemWait k s
  | .seqSemSignal k => Sys2Proof.Machine.execSeqSemSignal k s
  | .seqSemTryWait k => Sys2Proof.Machine.execSeqSemTryWait k s
  | .semResultArrive k => Sys2Proof.Machine.execSemResultArrive k s
  | .seqSacq k => Sys2Proof.Machine.execSeqSacq k s
  | .sacqRetire k => Sys2Proof.Machine.execSacqRetire k s
  | .seqSrel k => Sys2Proof.Machine.execSeqSrel k s
  | .seqCyc k => Sys2Proof.Machine.execSeqCyc k s
  | .illop k => Sys2Proof.Machine.execIllop k s
  | .seqStallRelease k => Sys2Proof.Machine.execSeqStallRelease k s
  | .vecDescriptorStart k => Sys2Proof.Machine.execVecDescriptorStart k s
  | .vecAdd k => Sys2Proof.Machine.execVecAdd k s
  | .vecSub k => Sys2Proof.Machine.execVecSub k s
  | .vecMul k => Sys2Proof.Machine.execVecMul k s
  | .vecFma k => Sys2Proof.Machine.execVecFma k s
  | .vecMax k => Sys2Proof.Machine.execVecMax k s
  | .vecMin k => Sys2Proof.Machine.execVecMin k s
  | .vecAbs k => Sys2Proof.Machine.execVecAbs k s
  | .vecCvt k => Sys2Proof.Machine.execVecCvt k s
  | .vecExp k => Sys2Proof.Machine.execVecExp k s
  | .vecRcp k => Sys2Proof.Machine.execVecRcp k s
  | .vecRsqrt k => Sys2Proof.Machine.execVecRsqrt k s
  | .vecTanh k => Sys2Proof.Machine.execVecTanh k s
  | .vecErf k => Sys2Proof.Machine.execVecErf k s
  | .vecRsum k => Sys2Proof.Machine.execVecRsum k s
  | .vecRmax k => Sys2Proof.Machine.execVecRmax k s
  | .vecRscale k => Sys2Proof.Machine.execVecRscale k s
  | .vecDescriptorComplete k => Sys2Proof.Machine.execVecDescriptorComplete k s
  | .smCopy k m => Sys2Proof.Machine.execSmCopy k m s
  | .smFill k m => Sys2Proof.Machine.execSmFill k m s
  | .smStreamOut k m => Sys2Proof.Machine.execSmStreamOut k m s
  | .smDescriptorComplete k m => Sys2Proof.Machine.execSmDescriptorComplete k m s
  | .strseg st => Sys2Proof.Machine.execStrseg st s
  | .strcred st => Sys2Proof.Machine.execStrcred st s
  | .streamClose st => Sys2Proof.Machine.execStreamClose st s
  | .coreCmdStart ini k => Sys2Proof.Machine.execCoreCmdStart ini k s
  | .coreCmdPreempt ini k => Sys2Proof.Machine.execCoreCmdPreempt ini k s
  | .corePreemptComplete k => Sys2Proof.Machine.execCorePreemptComplete k s
  | .coreCmdResume ini k => Sys2Proof.Machine.execCoreCmdResume ini k s
  | .coreCmdAbort ini k => Sys2Proof.Machine.execCoreCmdAbort ini k s
  | .coreWatchdogExpiry k => Sys2Proof.Machine.execCoreWatchdogExpiry k s
  | .hangEscalate k => Sys2Proof.Machine.execHangEscalate k s
  | .landingInit ini c => Sys2Proof.Machine.execLandingInit ini c s
  | .landingInitDone c => Sys2Proof.Machine.execLandingInitDone c s
  | .clusterNetStall c => Sys2Proof.Machine.execClusterNetStall c s
  | .dcHeartbeat d => Sys2Proof.Machine.execDcHeartbeat d s
  | .stepLoad tg => Sys2Proof.Machine.execStepLoad tg s
  | .pantryEnable ini d v => Sys2Proof.Machine.execPantryEnable ini d v s
  | .pantryReady d => Sys2Proof.Machine.execPantryReady d s
  | .tcmdOpen ini d => Sys2Proof.Machine.execTcmdOpen ini d s
  | .tcmdReset ini d => Sys2Proof.Machine.execTcmdReset ini d s
  | .tcmdClose ini d => Sys2Proof.Machine.execTcmdClose ini d s
  | .tcmdQuery ini d => Sys2Proof.Machine.execTcmdQuery ini d s
  | .tcmdCloseCtx ini d => Sys2Proof.Machine.execTcmdCloseCtx ini d s
  | .tcmdLeasesDrained d => Sys2Proof.Machine.execTcmdLeasesDrained d s
  | .scrubPage d p => Sys2Proof.Machine.execScrubPage d p s
  | .attnPost k m slot data => Sys2Proof.Machine.execAttnPost k m slot data s
  | .attnCommandStart c => Sys2Proof.Machine.execAttnCommandStart c s
  | .attnAppend c => Sys2Proof.Machine.execAttnAppend c s
  | .attnSelf c => Sys2Proof.Machine.execAttnSelf c s
  | .attnCross c => Sys2Proof.Machine.execAttnCross c s
  | .pageRecycleResume c => Sys2Proof.Machine.execPageRecycleResume c s
  | .attnComplete c att => Sys2Proof.Machine.execAttnComplete c att s
  | .panAttSeqRst ini c v => Sys2Proof.Machine.execPanAttSeqRst ini c v s
  | .scRead => Sys2Proof.Machine.execScRead s
  | .scWrite => Sys2Proof.Machine.execScWrite s
  | .inv => Sys2Proof.Machine.execInv s
  | .invack d => Sys2Proof.Machine.execInvack d s
  | .dramRead b => Sys2Proof.Machine.execDramRead b s
  | .dramWrite c => Sys2Proof.Machine.execDramWrite c s
  | .rowIdleClose d ch bank => Sys2Proof.Machine.execRowIdleClose d ch bank s
  | .refreshWindow d ch mr4 => Sys2Proof.Machine.execRefreshWindow d ch mr4 s
  | .patrolRead d ch => Sys2Proof.Machine.execPatrolRead d ch s
  | .memInit ini d => Sys2Proof.Machine.execMemInit ini d s
  | .memInitDone d fail => Sys2Proof.Machine.execMemInitDone d fail s
  | .elogClear ini d => Sys2Proof.Machine.execElogClear ini d s
  | .ilWindowWrite ini v => Sys2Proof.Machine.execIlWindowWrite ini v s
  | .ilSync => Sys2Proof.Machine.execIlSync s
  | .scInvalidateAll ini v => Sys2Proof.Machine.execScInvalidateAll ini v s
  | .scInvalidateDone => Sys2Proof.Machine.execScInvalidateDone s
  | .linkTraining e => Sys2Proof.Machine.execLinkTraining e s
  | .linkUp e rx tx => Sys2Proof.Machine.execLinkUp e rx tx s
  | .flitReceive e flit => Sys2Proof.Machine.execFlitReceive e flit s
  | .nakReceive e seq => Sys2Proof.Machine.execNakReceive e seq s
  | .replayTimeout e => Sys2Proof.Machine.execReplayTimeout e s
  | .ackSend e => Sys2Proof.Machine.execAckSend e s
  | .laneHardFail e lane => Sys2Proof.Machine.execLaneHardFail e lane s
  | .linkRetrain e ok => Sys2Proof.Machine.execLinkRetrain e ok s
  | .moduleDown e => Sys2Proof.Machine.execModuleDown e s
  | .rdrsp ini txid => Sys2Proof.Machine.execRdrsp ini txid s
  | .wrack ini txid => Sys2Proof.Machine.execWrack ini txid s
  | .errrsp ini txid => Sys2Proof.Machine.execErrrsp ini txid s
  | .msg f t words => Sys2Proof.Machine.execMsg f t words s
  | .cap x pkg part ver => Sys2Proof.Machine.execCap x pkg part ver s
  | .routeChange ini d v => Sys2Proof.Machine.execRouteChange ini d v s
  | .routeChangeDone d => Sys2Proof.Machine.execRouteChangeDone d s
  | .spanLinkTrain x opn shrt pol rev => Sys2Proof.Machine.execSpanLinkTrain x opn shrt pol rev s
  | .spanLaneFault x lane => Sys2Proof.Machine.execSpanLaneFault x lane s
  | .spanDiscovery ini => Sys2Proof.Machine.execSpanDiscovery ini s
  | .spanDiscoveryDone routes => Sys2Proof.Machine.execSpanDiscoveryDone routes s
  | .spanMessageIn x dst src ttl mtype txid addr len data sem op => Sys2Proof.Machine.execSpanMessageIn x dst src ttl mtype txid addr len data sem op s
  | .hostModuleTrain m rx tx => Sys2Proof.Machine.execHostModuleTrain m rx tx s
  | .sidebandParam p v => Sys2Proof.Machine.execSidebandParam p v s
  | .hWake => Sys2Proof.Machine.execHWake s
  | .hostRequest m req txid write addr len data => Sys2Proof.Machine.execHostRequest m req txid write addr len data s
  | .hostModuleDown m => Sys2Proof.Machine.execHostModuleDown m s
  | .dbellQueue m q index => Sys2Proof.Machine.execDbellQueue m q index s
  | .dbellCqHead m cq index => Sys2Proof.Machine.execDbellCqHead m cq index s
  | .pendingDoorbellApply => Sys2Proof.Machine.execPendingDoorbellApply s
  | .packetParse => Sys2Proof.Machine.execPacketParse s
  | .nop tg => Sys2Proof.Machine.execNop tg s
  | .barrier tg => Sys2Proof.Machine.execBarrier tg s
  | .cancel tg => Sys2Proof.Machine.execCancel tg s
  | .ctxCreate tg => Sys2Proof.Machine.execCtxCreate tg s
  | .ctxDestroy tg => Sys2Proof.Machine.execCtxDestroy tg s
  | .queueCreate tg => Sys2Proof.Machine.execQueueCreate tg s
  | .queueDestroy tg => Sys2Proof.Machine.execQueueDestroy tg s
  | .queuePin tg => Sys2Proof.Machine.execQueuePin tg s
  | .queueUnpin tg => Sys2Proof.Machine.execQueueUnpin tg s
  | .cqCreate tg => Sys2Proof.Machine.execCqCreate tg s
  | .cqDestroy tg => Sys2Proof.Machine.execCqDestroy tg s
  | .windowSet tg => Sys2Proof.Machine.execWindowSet tg s
  | .windowClear tg => Sys2Proof.Machine.execWindowClear tg s
  | .deviceInfo tg => Sys2Proof.Machine.execDeviceInfo tg s
  | .imageRegister tg => Sys2Proof.Machine.execImageRegister tg s
  | .imageUnregister tg => Sys2Proof.Machine.execImageUnregister tg s
  | .step tg => Sys2Proof.Machine.execStep tg s
  | .reserve tg => Sys2Proof.Machine.execReserve tg s
  | .unreserve tg => Sys2Proof.Machine.execUnreserve tg s
  | .semInit tg => Sys2Proof.Machine.execSemInit tg s
  | .semSignal tg => Sys2Proof.Machine.execSemSignal tg s
  | .semQuery tg => Sys2Proof.Machine.execSemQuery tg s
  | .trackOpen tg => Sys2Proof.Machine.execTrackOpen tg s
  | .trackReset tg => Sys2Proof.Machine.execTrackReset tg s
  | .trackClose tg => Sys2Proof.Machine.execTrackClose tg s
  | .trackQuery tg => Sys2Proof.Machine.execTrackQuery tg s
  | .poolSet tg => Sys2Proof.Machine.execPoolSet tg s
  | .pantrySet tg => Sys2Proof.Machine.execPantrySet tg s
  | .sensorConfig tg up loss peer pal => Sys2Proof.Machine.execSensorConfig tg up loss peer pal s
  | .portDisableDone p => Sys2Proof.Machine.execPortDisableDone p s
  | .cameraRestart tg => Sys2Proof.Machine.execCameraRestart tg s
  | .cameraRestartDone n up loss peer pal => Sys2Proof.Machine.execCameraRestartDone n up loss peer pal s
  | .triggerSet tg => Sys2Proof.Machine.execTriggerSet tg s
  | .calibCamera tg => Sys2Proof.Machine.execCalibCamera tg s
  | .calibLidar tg => Sys2Proof.Machine.execCalibLidar tg s
  | .calibImu tg => Sys2Proof.Machine.execCalibImu tg s
  | .calibWheel tg => Sys2Proof.Machine.execCalibWheel tg s
  | .calibIntegrator tg => Sys2Proof.Machine.execCalibIntegrator tg s
  | .calibProjection tg => Sys2Proof.Machine.execCalibProjection tg s
  | .policyWrite tg => Sys2Proof.Machine.execPolicyWrite tg s
  | .policyPrepareTimeout isl => Sys2Proof.Machine.execPolicyPrepareTimeout isl s
  | .policyRead tg => Sys2Proof.Machine.execPolicyRead tg s
  | .safeAck tg => Sys2Proof.Machine.execSafeAck tg s
  | .powerStateActive tg => Sys2Proof.Machine.execPowerStateActive tg s
  | .powerStateDoze tg => Sys2Proof.Machine.execPowerStateDoze tg s
  | .powerStateNap tg => Sys2Proof.Machine.execPowerStateNap tg s
  | .powerStateCellar tg => Sys2Proof.Machine.execPowerStateCellar tg s
  | .napGate => Sys2Proof.Machine.execNapGate s
  | .cellarExit fails late gold => Sys2Proof.Machine.execCellarExit fails late gold s
  | .powerLimit tg => Sys2Proof.Machine.execPowerLimit tg s
  | .unitFence tg => Sys2Proof.Machine.execUnitFence tg s
  | .unitReturn tg => Sys2Proof.Machine.execUnitReturn tg s
  | .unitReset tg => Sys2Proof.Machine.execUnitReset tg s
  | .dump tg => Sys2Proof.Machine.execDump tg s
  | .attest tg => Sys2Proof.Machine.execAttest tg s
  | .updateBegin tg => Sys2Proof.Machine.execUpdateBegin tg s
  | .updateBlock tg => Sys2Proof.Machine.execUpdateBlock tg s
  | .updateVerify tg bad => Sys2Proof.Machine.execUpdateVerify tg bad s
  | .updateActivate tg late gold => Sys2Proof.Machine.execUpdateActivate tg late gold s
  | .updateActivateReply => Sys2Proof.Machine.execUpdateActivateReply s
  | .spanConfig tg => Sys2Proof.Machine.execSpanConfig tg s
  | .spanWindow tg => Sys2Proof.Machine.execSpanWindow tg s
  | .telemetryCounters tg => Sys2Proof.Machine.execTelemetryCounters tg s
  | .telemetryPower tg => Sys2Proof.Machine.execTelemetryPower tg s
  | .telemetryErrorLogs tg => Sys2Proof.Machine.execTelemetryErrorLogs tg s
  | .replyWrite tg => Sys2Proof.Machine.execReplyWrite tg s
  | .notifyCoalTimeout cq => Sys2Proof.Machine.execNotifyCoalTimeout cq s
  | .eventWrite => Sys2Proof.Machine.execEventWrite s
  | .cmdPause ini v => Sys2Proof.Machine.execCmdPause ini v s
  | .admissionDecision tg => Sys2Proof.Machine.execAdmissionDecision tg s
  | .linkGroupTimeout tg => Sys2Proof.Machine.execLinkGroupTimeout tg s
  | .bookingStart tg => Sys2Proof.Machine.execBookingStart tg s
  | .bookedEarlyStart tg => Sys2Proof.Machine.execBookedEarlyStart tg s
  | .queuedPlace => Sys2Proof.Machine.execQueuedPlace s
  | .victimResume tg => Sys2Proof.Machine.execVictimResume tg s
  | .bookingOverrun tg => Sys2Proof.Machine.execBookingOverrun tg s
  | .scanRotate => Sys2Proof.Machine.execScanRotate s
  | .guaranteeSuspend => Sys2Proof.Machine.execGuaranteeSuspend s
  | .guaranteeResume => Sys2Proof.Machine.execGuaranteeResume s
  | .admFaultWrite ini v => Sys2Proof.Machine.execAdmFaultWrite ini v s
  | .semunitWait d => Sys2Proof.Machine.execSemunitWait d s
  | .semunitSignal d => Sys2Proof.Machine.execSemunitSignal d s
  | .semunitTryWait d => Sys2Proof.Machine.execSemunitTryWait d s
  | .semunitSignalN d => Sys2Proof.Machine.execSemunitSignalN d s
  | .semCancel d => Sys2Proof.Machine.execSemCancel d s
  | .tagRelease tg => Sys2Proof.Machine.execTagRelease tg s
  | .ledgerSidebandExchange e terms => Sys2Proof.Machine.execLedgerSidebandExchange e terms s
  | .inheritanceTimeout tg => Sys2Proof.Machine.execInheritanceTimeout tg s
  | .synSemWrite ini n v => Sys2Proof.Machine.execSynSemWrite ini n v s
  | .bwrFloorWrite ini d p r v => Sys2Proof.Machine.execBwrFloorWrite ini d p r v s
  | .cameraFrame n fine fs fe dt emb lines stride data crc => Sys2Proof.Machine.execCameraFrame n fine fs fe dt emb lines stride data crc s
  | .cameraFrameMissing n => Sys2Proof.Machine.execCameraFrameMissing n s
  | .ethFrame m fine frame crc => Sys2Proof.Machine.execEthFrame m fine frame crc s
  | .canFrame k fine id data err cnt boff => Sys2Proof.Machine.execCanFrame k fine id data err cnt boff s
  | .imuBurst j fine data => Sys2Proof.Machine.execImuBurst j fine data s
  | .ingestDrain => Sys2Proof.Machine.execIngestDrain s
  | .recordCommit p => Sys2Proof.Machine.execRecordCommit p s
  | .ptpSync ofs => Sys2Proof.Machine.execPtpSync ofs s
  | .timeHoldover => Sys2Proof.Machine.execTimeHoldover s
  | .timeUnsync => Sys2Proof.Machine.execTimeUnsync s
  | .triggerPeriod fine => Sys2Proof.Machine.execTriggerPeriod fine s
  | .triggerEdge x fine ua => Sys2Proof.Machine.execTriggerEdge x fine ua s
  | .pocSample n code => Sys2Proof.Machine.execPocSample n code s
  | .railSample r mv => Sys2Proof.Machine.execRailSample r mv s
  | .ethQualitySample m sqi => Sys2Proof.Machine.execEthQualitySample m sqi s
  | .ethCableDiag m result dist => Sys2Proof.Machine.execEthCableDiag m result dist s
  | .trigPinShort x ev => Sys2Proof.Machine.execTrigPinShort x ev s
  | .canPinFault k wh on => Sys2Proof.Machine.execCanPinFault k wh on s
  | .integratorTick => Sys2Proof.Machine.execIntegratorTick s
  | .lidarRecordProcess => Sys2Proof.Machine.execLidarRecordProcess s
  | .pointProject => Sys2Proof.Machine.execPointProject s
  | .pointWaitTimeout => Sys2Proof.Machine.execPointWaitTimeout s
  | .lockstepMismatch isl => Sys2Proof.Machine.execLockstepMismatch isl s
  | .heartbeatLost isl src => Sys2Proof.Machine.execHeartbeatLost isl src s
  | .islandEvent isl => Sys2Proof.Machine.execIslandEvent isl s
  | .clampHoldExpiry isl => Sys2Proof.Machine.execClampHoldExpiry isl s
  | .clampReadback isl => Sys2Proof.Machine.execClampReadback isl s
  | .islandBoot isl => Sys2Proof.Machine.execIslandBoot isl s
  | .mismatchDecision tg => Sys2Proof.Machine.execMismatchDecision tg s
  | .selfTestSelect => Sys2Proof.Machine.execSelfTestSelect s
  | .checkerSelfTest ini k v => Sys2Proof.Machine.execCheckerSelfTest ini k v s
  | .selfTestPattern k ok => Sys2Proof.Machine.execSelfTestPattern k ok s
  | .selfTestStall => Sys2Proof.Machine.execSelfTestStall s
  | .goldenPlace k => Sys2Proof.Machine.execGoldenPlace k s
  | .goldenWindowEnd => Sys2Proof.Machine.execGoldenWindowEnd s
  | .budgetRecompute p => Sys2Proof.Machine.execBudgetRecompute p s
  | .agentReport d pw => Sys2Proof.Machine.execAgentReport d pw s
  | .budgetMsg d => Sys2Proof.Machine.execBudgetMsg d s
  | .budgetStale d => Sys2Proof.Machine.execBudgetStale d s
  | .reportMiss d => Sys2Proof.Machine.execReportMiss d s
  | .clampMsg d => Sys2Proof.Machine.execClampMsg d s
  | .agentPowerSample d ests room => Sys2Proof.Machine.execAgentPowerSample d ests room s
  | .clockChangeDone c => Sys2Proof.Machine.execClockChangeDone c s
  | .budgetGraceExpiry => Sys2Proof.Machine.execBudgetGraceExpiry s
  | .dozeEntry c => Sys2Proof.Machine.execDozeEntry c s
  | .thermalSample d ts fl => Sys2Proof.Machine.execThermalSample d ts fl s
  | .thermalEmergencyEnd => Sys2Proof.Machine.execThermalEmergencyEnd s
  | .dramHotDerate d => Sys2Proof.Machine.execDramHotDerate d s
  | .coolantSample rs => Sys2Proof.Machine.execCoolantSample rs s
  | .coolantNoFlow => Sys2Proof.Machine.execCoolantNoFlow s
  | .coolantEmergencyEnd => Sys2Proof.Machine.execCoolantEmergencyEnd s
  | .pmbusTelemetry x ok iout con dw => Sys2Proof.Machine.execPmbusTelemetry x ok iout con dw s
  | .por fails late gold => Sys2Proof.Machine.execPor fails late gold s
  | .packageWarmReset ini v late gold => Sys2Proof.Machine.execPackageWarmReset ini v late gold s
  | .dieReset ini v => Sys2Proof.Machine.execDieReset ini v s
  | .clusterReset ini c => Sys2Proof.Machine.execClusterReset ini c s
  | .coreReset ini k => Sys2Proof.Machine.execCoreReset ini k s
  | .acinaReset isl => Sys2Proof.Machine.execAcinaReset isl s
  | .teardownComplete => Sys2Proof.Machine.execTeardownComplete s
  | .teardownEscalate => Sys2Proof.Machine.execTeardownEscalate s
  | .requestTimeout ini txid => Sys2Proof.Machine.execRequestTimeout ini txid s
  | .dcLost d => Sys2Proof.Machine.execDcLost d s
  | .porchLost => Sys2Proof.Machine.execPorchLost s
  | .mpWatchdogKick ini v => Sys2Proof.Machine.execMpWatchdogKick ini v s
  | .mpWatchdogExpiry => Sys2Proof.Machine.execMpWatchdogExpiry s
  | .faultClear d => Sys2Proof.Machine.execFaultClear d s
  | .peerNotice cls w => Sys2Proof.Machine.execPeerNotice cls w s
  | .dumpGo ini v => Sys2Proof.Machine.execDumpGo ini v s
  | .dumpUnitTimeout n => Sys2Proof.Machine.execDumpUnitTimeout n s
  | .dumpComplete late gold => Sys2Proof.Machine.execDumpComplete late gold s
  | .flashErase ini => Sys2Proof.Machine.execFlashErase ini s
  | .flashProgram ini => Sys2Proof.Machine.execFlashProgram ini s
  | .flashReadStatus ini => Sys2Proof.Machine.execFlashReadStatus ini s
  | .flashOpDone fail => Sys2Proof.Machine.execFlashOpDone fail s
  | .otpLock ini => Sys2Proof.Machine.execOtpLock ini s
  | .tapIdcode => Sys2Proof.Machine.execTapIdcode s
  | .tapSamplePreload v => Sys2Proof.Machine.execTapSamplePreload v s
  | .tapExtest => Sys2Proof.Machine.execTapExtest s
  | .tapClamp => Sys2Proof.Machine.execTapClamp s
  | .tapHighz => Sys2Proof.Machine.execTapHighz s
  | .tapLcToken bs => Sys2Proof.Machine.execTapLcToken bs s
  | .tapIjtag write addr v => Sys2Proof.Machine.execTapIjtag write addr v s
  | .tapBypass => Sys2Proof.Machine.execTapBypass s
  | .tstLockClear => Sys2Proof.Machine.execTstLockClear s
  | .tstPertWrite ini d x w v => Sys2Proof.Machine.execTstPertWrite ini d x w v s
  | .tstInjWrite ini d x w v => Sys2Proof.Machine.execTstInjWrite ini d x w v s
  | .powerUp fails late gold => Sys2Proof.Machine.execPowerUp fails late gold s
  | .powerDown => Sys2Proof.Machine.execPowerDown s
  | .supplyLoss => Sys2Proof.Machine.execSupplyLoss s
  | .railOutOfRange rail => Sys2Proof.Machine.execRailOutOfRange rail s
  | .clockFaultCleared which => Sys2Proof.Machine.execClockFaultCleared which s
  | .heartbeatToggle src => Sys2Proof.Machine.execHeartbeatToggle src s
  | .railBackInRange rail => Sys2Proof.Machine.execRailBackInRange rail s
  | .flowPulse x => Sys2Proof.Machine.execFlowPulse x s
  | .dramHotCapRaise d => Sys2Proof.Machine.execDramHotCapRaise d s
  | .cameraLinkDown n => Sys2Proof.Machine.execCameraLinkDown n s
  | .ethLinkChange m up inv => Sys2Proof.Machine.execEthLinkChange m up inv s
  | .acinaSupplyLoss isl up => Sys2Proof.Machine.execAcinaSupplyLoss isl up s
  | .tapReset asserted => Sys2Proof.Machine.execTapReset asserted s

end Sys2Proof.Machine
end

