-- ==== Sys2Proof/Machine/Tick.lean ====
section
/-!
DEFINITION. Machine/Tick.lean: one microsecond without a command: the counts of time advance (R24, R375, R377, R427,
R474). DESIGN CHOICE (assumption 2): the table has no row for the passing of time, so an empty queue stands for it.
-/
namespace Sys2Proof.Machine

open Sys2Proof

/-- Add to a 64-bit count held in two registers. -/
def addCount (s : State) (lo hi n : Nat) : State :=
  let t := s.rd lo + 2 ^ 32 * s.rd hi + n
  (s.wr lo (t % 2 ^ 32)).wr hi (t / 2 ^ 32 % 2 ^ 32)

/-- ADM_NOW counts microseconds while the IOD has power. -/
def tickNow (s : State) : State :=
  if s.powerOff || s.dark.contains 4 then s else addCount s (admBase + Reg.ADM_NOW_LO) (admBase + Reg.ADM_NOW_HI) 1

/-- ACN_US of an island that has its supply. -/
def tickIsland (s : State) (i : Nat) : State :=
  if (s.isl i).powered then s.faddWrap (acnBase i) Fld.ACN_US_COUNT 1 else s

/-- One nanosecond of slew each 10 µs, 100 ppm: the clock's extra step, and what is left of the offset. -/
def slewStep (v : Int) : Int × Int := if 0 < v then (1, v - 1) else if v < 0 then (-1, v + 1) else (0, 0)

/-- The time client's clock advances by 1 µs and slews (R377). -/
def tickPorch (s : State) : State :=
  if dieHeld s 5 then s
  else if 9 ≤ s.slewTicks then
    let x := slewStep s.slew
    setPchTime { s with slew := x.2, slewTicks := 0 } (pchTime s + (1000 + x.1).toNat)
  else setPchTime { s with slewTicks := s.slewTicks + 1 } (pchTime s + 1000)

/-- CORE_CYC of a core whose clock runs, at its cluster's clock, and the watchdog's count (R492). -/
def tickCore (s : State) (k : Nat) : State :=
  if dieHeld s (k / 64) || !clocked s k then s
  else
    let s := if wdogCounts s k then { s with stallUs := aput s.stallUs k (min 0xFFFFFF ((aget s.stallUs k).getD 0 + 1)) } else s
    addCount s (coreBase k + Reg.CORE_CYC_LO) (coreBase k + Reg.CORE_CYC_HI) (s.fg (cluBase (k / 8)) Fld.CLU_CLK_CUR_MHZ)

/-- The idle time of a cluster, up to the 10 µs after which it may enter Doze. -/
def tickCluster (s : State) (c : Nat) : State :=
  if cluRuns s c || s.filler.contains c then { s with cluIdle := adel s.cluIdle c }
  else { s with cluIdle := aput s.cluIdle c (min 10 ((aget s.cluIdle c).getD 0 + 1)) }

/-- One microsecond passes. -/
def tick (s : State) : State :=
  let s := tickIsland (tickIsland (tickNow s) 0) 1
  let s := tickPorch s
  let s := (List.range (64 * s.part.dies)).foldl tickCore s
  (List.range (8 * s.part.dies)).foldl tickCluster s

end Sys2Proof.Machine
end

