-- ==== Sys2Proof/Safety.lean ====
section
/-!
DEFINITION. Safety.lean: the words the statements use: the canonical form of the state's maps, and which registers
and fields a command leaves alone.
-/
namespace Sys2Proof.Machine

open Sys2Proof

/-- The canonical form of the registers: addresses strictly rising, no entry equal to the register's reset value. -/
def State.regsOk (s : State) : Bool := kwf (regDefault s.part) s.regs

/-- The maps of records are sorted by key, no key twice. -/
def State.mapsOk (s : State) : Bool :=
  ksorted none s.engs && ksorted none s.cores && ksorted none s.ctxs && ksorted none s.atts && ksorted none s.islands
    && ksorted none s.sports && ksorted none s.links && ksorted none s.otp

/-- The invariant of the state's maps: registers and memory in canonical form, records sorted by key. -/
def State.ok (s : State) : Bool := s.regsOk && Memory.wf s.mem && s.mapsOk

/-- Every bit of the OTP that is burnt in `s` is burnt in `t`. -/
def OtpGrows (s t : State) : Prop := ∀ o i, (getD 0 s.otp o).getLsbD i = true → (getD 0 t.otp o).getLsbD i = true

/-- The command answers a next state, of which `p` holds. -/
def Next (i : Instr) (s : State) (p : State → Prop) : Prop := ∃ t, exec i s = .next t ∧ p t

/-- No register outside `p` reads otherwise in `t` than in `s`. -/
def OnlyRegs (p : Nat → Prop) (s t : State) : Prop := ∀ a, ¬ p a → t.rd a = s.rd a

/-- `t` is `s` but for registers in `p`: memory, queues and every other field are the same. -/
def JustRegs (p : Nat → Prop) (s t : State) : Prop := t = { s with regs := t.regs } ∧ OnlyRegs p s t

/-- Every byte of memory reads as before. -/
def SameMem (s t : State) : Prop := ∀ a, t.mb a = s.mb a

/-- The command of a tag waits for its reply with this status, detail and result. -/
def Replied (t : State) (tg status detail result : Nat) : Prop :=
  ∃ c, t.cmd? tg = some c ∧ c.phase = .reply ∧ c.status = status ∧ c.detail = detail ∧ c.result = result

/-- A register write by an initiator passes the access checks and the firewall, at a register of the block `l` names. -/
def Admits (s : State) (ini a : Nat) (l : Loc) : Prop :=
  s.ok = true ∧ (accCheck s ini a 4 true).1 = none ∧ locate s.part a = some l
    ∧ (regDenied s ini a l (regAt s.part l)).1 = false

/-- A command of this opcode is parsed under the tag, and firmware serves commands. -/
def Parsed (s : State) (tg op : Nat) (c : Cmd) : Prop :=
  s.ok = true ∧ s.cmd? tg = some c ∧ c.phase = .parsed ∧ c.opcode = op ∧ s.fb cmdBase Fld.CMD_STS_FW_READY = true

/-- Only the table of commands differs. -/
def JustCmds (s t : State) : Prop := t = { s with cmds := t.cmds }

/-- Only registers in `p` and the table of commands differ. -/
def RegsCmds (p : Nat → Prop) (s t : State) : Prop := t = { s with regs := t.regs, cmds := t.cmds } ∧ OnlyRegs p s t

/-- Memory, registers and every record of the state are as before, but for the messages that leave. -/
def JustEmits (s t : State) : Prop := t = { s with emits := t.emits }

/-- No SRAM word that the `n` bytes at a key touch holds an error. -/
def Clean (s : State) (key n : Nat) : Prop := ∀ e ∈ s.sram, wordOf key n e.1 = false

/-- Only core `k`'s record and registers in `p` differ. -/
def JustCore (k : Nat) (p : Nat → Prop) (s t : State) : Prop :=
  t = { s with regs := t.regs, cores := t.cores } ∧ OnlyRegs p s t ∧ ∀ j, j ≠ k → t.core j = s.core j

/-- Only engine `e`'s record and registers in `p` differ. -/
def JustEng (e : Nat) (p : Nat → Prop) (s t : State) : Prop :=
  t = { s with regs := t.regs, engs := t.engs } ∧ OnlyRegs p s t ∧ ∀ j, j ≠ e → t.eng j = s.eng j

/-- The fields of a register lie apart, within 32 bits. -/
def FieldsApart (fs : List RegField) : Prop :=
  fs.Pairwise (fun f g => f.hi < g.lo ∨ g.hi < f.lo) ∧ ∀ f ∈ fs, f.lo ≤ f.hi ∧ f.hi < 32

/-- Of the memory requests one alone is open: it waits for its one line at channel `ch` of die `d`, not yet granted. -/
def aloneAt (s : State) (d ch : Nat) (r : Req) (l : Nat) : Prop :=
  s.reqs = [r] ∧ r.stage = .mem ∧ r.grant = 0 ∧ r.dead = false ∧ r.bad = false ∧ r.todo = [l] ∧ reqLines s r = [l]
    ∧ reqDie s r = d ∧ dramCh (rawOff (64 * l)) = ch

/-- No request, host message or NOTIFY waits to enter the fabric. -/
def Quiet (s : State) : Prop := portHeads s = [] ∧ s.vc0 = [] ∧ s.notifyQ = []

/-- No injection slot of the die acts: its TST_ block is locked. -/
def Uninjected (s : State) (d : Nat) : Prop := s.fb (tstBase d) Fld.TST_LOCK_LOCKED = true

/-- The next message that comes on module `m` leaves the VC0 buffers at once: the module is up, no message waits there and
the doorbell buffer has room. -/
def HostFlows (s : State) (m : Nat) : Prop := linkUp s (26 + m) = true ∧ s.vc0 = [] ∧ s.pendDb.length < 512

/-- A doorbell that comes on module `m` for requester `req` is taken at once: no WR of it is under way and no activation
owes its reply. -/
def DbellFlows (s : State) (m req : Nat) : Prop :=
  HostFlows s m ∧ hostWrites s m (reqField s req) = false ∧ s.act.isNone = true

/-- The urgency registers of the span ports, which follow the fill of their buffers. -/
def spanUrgReg (a : Nat) : Prop := ∃ n < 2, a = bwrBase 4 + 4 * (21 + n) + Reg.BWR_URGN

/-- Bytes of a flit as an event's words. -/
def flitWords (bs : List Byte) : List Nat := bs.map (·.toNat)

/-! ### The sequencer -/

/-- The PC can move on: it is a multiple of 8 and the next instruction lies in core memory. -/
def PcMoves (s : State) (k : Nat) : Prop := seqPc s k % 8 = 0 ∧ seqPc s k + 16 ≤ cmSize

/-- The number that the SEM instruction at the PC names: S[A] + IMM modulo 2^32. -/
def semNum (s : State) (k : Nat) : Nat := (sreg s k (iA (instrAt s k)) + iImm (instrAt s k)) % 2 ^ 32

/-- The registers that show what a core holds: CORE_STS, CORE_SMx_STS and the PC. -/
def heldRegs (k a : Nat) : Prop :=
  a = coreBase k + Reg.CORE_SEQ_PC ∨ a = coreBase k + Reg.CORE_STS ∨ a = coreBase k + Reg.CORE_SM_STS
    ∨ a = coreBase k + 4 + Reg.CORE_SM_STS

/-- The sequencer of core `k` issues an instruction of opcode `op`: a step runs and nothing blocks it, the opcode stands
at the PC, the words of the fetch hold no error, and the next PC lies in core memory. -/
def Issues (s : State) (k op : Nat) : Prop :=
  s.ok = true ∧ seqReady s k = true ∧ iOp (instrAt s k) = op
    ∧ Clean s (cmBase k + seqPc s k) 8 ∧ seqPc s k % 8 = 0 ∧ seqPc s k + 16 ≤ cmSize

/-- The address of CORE_SEQ_PC, and of CORE_SEQ_S of scalar register `n`. -/
def pcAddr (k : Nat) : Nat := coreBase k + Reg.CORE_SEQ_PC
def sregAddr (k n : Nat) : Nat := coreBase k + Reg.CORE_SEQ_S + 4 * n

/-- The arithmetic group of R96: opcode and the result of two words. -/
def aluRows : List ((Nat → Instr) × Nat × (Word → Word → Word)) :=
  [(.seqAdd, 0x04, (· + ·)), (.seqSub, 0x05, (· - ·)), (.seqAnd, 0x06, (· &&& ·)), (.seqOr, 0x07, (· ||| ·)),
   (.seqXor, 0x08, (· ^^^ ·)), (.seqMul, 0x09, (· * ·)), (.seqShl, 0x0A, fun a b => a <<< (b.toNat % 32)),
   (.seqShr, 0x0B, fun a b => a >>> (b.toNat % 32))]

/-- A hang of core `k` on record: WDOG, the first level of its escalation, and the CORE_HANG notice (R492, R497). -/
def hangNoted (s : State) (k : Nat) : State :=
  ({ recordFault s k Fld.CORE_FAULT_WDOG 0 (seqPc s k) with hangLevel := setD 0 s.hangLevel k 1 } : State).notice 0x01 (unitOfCore k) 0 0

/-! ### Engines and vector units -/

/-- An engine takes an ENG_GO write: the access passes, it is enabled and not halted, no write waits, and it holds fewer than
four. -/
def GoReady (s : State) (ini e : Nat) : Prop :=
  s.ok = true ∧ (accCheck s ini (engBase e + Reg.ENG_GO) 4 true).1 = none ∧ s.fb (engBase e) Fld.ENG_STS_HALT = false
    ∧ s.fb (engBase e) Fld.ENG_CTL_EN = true ∧ (s.eng e).held.length < 4 ∧ (s.eng e).stalledGo = []

/-- The executing operation of a kind that a running clock lets finish. -/
def executing (s : State) (e : Nat) (kind : EngKind) : Option EngOp :=
  (s.eng e).held.find? fun o => o.kind == kind && o.started && clocked s (e / 4)

/-- The scratch bytes an unscaled, dense MMA reads. -/
def mmaInputs (s : State) (e : Nat) (o : EngOp) (fa fw : Fmt) : MmaBytes :=
  ⟨s.mrd (scrBase e + o.aAddr) (aSlice fa * o.kdim), s.mrd (scrBase e + o.wAddr) (wSlice fw * o.kdim), [], [], []⟩

/-- The operations of the vector unit: the command of each and its code (R90). -/
def vecRows : List ((Nat → Instr) × Nat) :=
  [(.vecAdd, 0x01), (.vecSub, 0x02), (.vecMul, 0x03), (.vecFma, 0x04), (.vecMax, 0x05), (.vecMin, 0x06), (.vecAbs, 0x07),
   (.vecCvt, 0x08), (.vecExp, 0x09), (.vecRcp, 0x0A), (.vecRsqrt, 0x0B), (.vecTanh, 0x0C), (.vecErf, 0x0D),
   (.vecRsum, 0x10), (.vecRmax, 0x11), (.vecRscale, 0x12)]

end Sys2Proof.Machine
end

