-- ==== Sys2Proof/Certificates/Slice0/Obligations.lean ====
section
/-!
DEFINITION. Certificates/Slice0/Obligations.lean: the statements for the provers.
-/
open Sys2Proof Sys2Proof.Machine

/-! ### The queue -/

/-- One step takes the command at the front of the queue and runs it on the queue's rest; with no command, 1 µs passes
(the model's choice, assumption 2). -/
def Obligations.StepTakesFront : Prop :=
  (∀ (c : Instr) (cs : List Instr) (s : State), s.pending = c :: cs → step s = exec c { s with pending := cs })
    ∧ ∀ s : State, s.pending = [] → step s = .next (tick s)

/-! ### Events that set fields -/

/-- Events whose whole effect is a field of one register: the end of a zero-fill and a stall of a cluster's network, the
translators' synchronisation, the end of an invalidation, a rail's reading, the sideband's two widths. The end of a route
change lets waiting requests go on, where there are any; a clock change may also move the voltage target of its die's
rail, and the scan start turns over once a period. -/
def Obligations.FieldEventsSetTheirField : Prop :=
  (∀ s c, s.ok → Next (.landingInitDone c) s fun t => t.fg (cluBase c) Fld.CLU_STS_LND_INIT_BUSY = 0
      ∧ JustRegs (· = cluBase c + Reg.CLU_STS) s t)
  ∧ (∀ s c, s.ok → Next (.clusterNetStall c) s fun t => t.fg (cluBase c) Fld.CLU_ERR_NET_STALL = 1
      ∧ JustRegs (· = cluBase c + Reg.CLU_ERR) s t)
  ∧ (∀ s, s.ok → Next .ilSync s fun t => t.fg memIBase Fld.MEM_IL_STS_SYNC = 1 ∧ JustRegs (· = memIBase + Reg.MEM_IL_STS) s t)
  ∧ (∀ s, s.ok → Next .scInvalidateDone s fun t => t.fg memIBase Fld.MEM_SC_CTL_INV_BUSY = 0
      ∧ JustRegs (· = memIBase + Reg.MEM_SC_CTL) s t)
  ∧ (∀ s d, s.ok → d < 4 → diagonalOpen s d = false → Quiet s →
      Next (.routeChangeDone d) s fun t => t.fg (ddlBase d) Fld.DDL_ROUTE_CHG_BUSY = 0
        ∧ JustRegs (fun a => a = ddlBase d + Reg.DDL_ROUTE ∨ spanUrgReg a) s t)
  ∧ (∀ s c, s.ok → Next (.clockChangeDone c) s fun t =>
      t.fg (cluBase c) Fld.CLU_CLK_CUR_MHZ = s.fg (cluBase c) Fld.CLU_CLK_TGT_MHZ ∧ OnlyRegs (· = cluBase c + Reg.CLU_CLK) s t
      ∧ (getD 800 s.railMv (c / 8) = railWant t (c / 8) → t.emits = s.emits)
      ∧ (s.part.fitted (c / 8) = true → tapOwns s = false → getD 800 s.railMv (c / 8) ≠ railWant t (c / 8) →
          t.emits = s.emits ++ [⟨"AVS_VOUT", c / 8, [railWant t (c / 8)]⟩])
      ∧ t = { s with regs := t.regs, railMv := t.railMv, emits := t.emits })
  ∧ (∀ s r mv, s.ok → mv < 65536 → Next (.railSample r mv) s fun t =>
      t.fg (pchBase + 4 * r) Fld.PCH_RAIL_MV = mv ∧ JustRegs (· = pchBase + 4 * r + Reg.PCH_RAIL) s t)
  ∧ (∀ s v, s.ok → v < 16 → Next (.sidebandParam 1 v) s fun t => t.fg hpBase Fld.HP_STS_REQ_BITS = v
      ∧ JustRegs (· = hpBase + Reg.HP_STS) s t)
  ∧ (∀ s, s.ok → s.fb dspBase Fld.DSP_CTL_ROT_EN → s.rotAt + 1000 * max 1 (s.fg dspBase Fld.DSP_ROT_PERIOD_MS) ≤ s.nowUs →
      Next .scanRotate s fun t =>
        t.fg dspBase Fld.DSP_ROT_START = (s.fg dspBase Fld.DSP_ROT_START + 1) % (8 * s.part.dies)
        ∧ OnlyRegs (· = dspBase + Reg.DSP_ROT) s t ∧ t = { s with regs := t.regs, rotAt := s.nowUs })

/-! ### The scalar sequencer (R95 to R103) -/

/-- An arithmetic instruction writes S[D] with its result modulo 2^32 (S0 keeps zero) and moves the PC on; no other
register and no other part of the state changes. -/
def Obligations.SeqAluWritesDestination : Prop :=
  ∀ r ∈ aluRows, ∀ (s : State) (k : Nat), Issues s k r.2.1 →
    let w := instrAt s k
    Next (r.1 k) s fun t =>
      seqPc t k = seqPc s k + 8
      ∧ sreg t k (iD w) = (if iD w = 0 then 0
          else (r.2.2 (BitVec.ofNat 32 (sreg s k (iA w))) (BitVec.ofNat 32 (aluB s k w))).toNat)
      ∧ JustRegs (fun a => a = pcAddr k ∨ (iD w ≠ 0 ∧ a = sregAddr k (iD w))) (s.retired k) t

/-- NOP moves on; LI loads IMM; CYC reads the low word of the cycle counter; RREG reads a register of the own core's
block; BR goes to IMM where its condition holds, else moves on. -/
def Obligations.SeqMovesAndBranches : Prop :=
  (∀ s k, Issues s k 0x00 → Next (.seqNop k) s fun t => seqPc t k = seqPc s k + 8 ∧ JustRegs (· = pcAddr k) (s.retired k) t)
  ∧ (∀ s k, Issues s k 0x03 → Next (.seqLi k) s fun t =>
      seqPc t k = seqPc s k + 8 ∧ sreg t k (iD (instrAt s k)) = (if iD (instrAt s k) = 0 then 0 else iImm (instrAt s k))
      ∧ JustRegs (fun a => a = pcAddr k ∨ (iD (instrAt s k) ≠ 0 ∧ a = sregAddr k (iD (instrAt s k)))) (s.retired k) t)
  ∧ (∀ s k, Issues s k 0x17 → Next (.seqCyc k) s fun t =>
      seqPc t k = seqPc s k + 8
      ∧ sreg t k (iD (instrAt s k)) = (if iD (instrAt s k) = 0 then 0 else s.rd (coreBase k + Reg.CORE_CYC_LO))
      ∧ JustRegs (fun a => a = pcAddr k ∨ (iD (instrAt s k) ≠ 0 ∧ a = sregAddr k (iD (instrAt s k)))) (s.retired k) t)
  ∧ (∀ s k a l, Issues s k 0x10 → ownReg s k (effAddr s k (instrAt s k)) = some (a, l) → Next (.seqRreg k) s fun t =>
      t = retire (setSreg (regRead s a).2 k (iD (instrAt s k)) (regRead s a).1) k)
  ∧ (∀ s k, Issues s k 0x0C → iF (instrAt s k) % 8 ≠ 7 → Next (.seqBr k) s fun t =>
      t = if brTaken (iF (instrAt s k) % 8) (sreg s k (iA (instrAt s k))) (sreg s k (iB (instrAt s k)))
        then setPc s k (iImm (instrAt s k)) else retire s k)

/-- LD reads and ST writes the word at S[A] + IMM of the own core memory: ST changes those four bytes and no other. -/
def Obligations.SeqLoadStore : Prop :=
  (∀ s k, Issues s k 0x0D → wordOk (effAddr s k (instrAt s k)) = true
      → Clean s (cmBase k + effAddr s k (instrAt s k)) 4 →
    Next (.seqLd k) s fun t =>
      seqPc t k = seqPc s k + 8
      ∧ sreg t k (iD (instrAt s k))
        = (if iD (instrAt s k) = 0 then 0 else s.mnat (cmBase k + effAddr s k (instrAt s k)) 4)
      ∧ JustRegs (fun a => a = pcAddr k ∨ (iD (instrAt s k) ≠ 0 ∧ a = sregAddr k (iD (instrAt s k)))) (s.retired k) t)
  ∧ (∀ s k, Issues s k 0x0E → wordOk (effAddr s k (instrAt s k)) = true →
    Next (.seqSt k) s fun t =>
      t.mnat (cmBase k + effAddr s k (instrAt s k)) 4 = sreg s k (iB (instrAt s k))
      ∧ ∀ a, (a < cmBase k + effAddr s k (instrAt s k) ∨ cmBase k + effAddr s k (instrAt s k) + 4 ≤ a) → t.mb a = s.mb a)
  ∧ (∀ s k, Issues s k 0x0D → wordOk (effAddr s k (instrAt s k)) = false →
      Next (.seqLd k) s fun t => t = coreFault s k Fld.CORE_FAULT_SEQ_ADDR 0x42)
  ∧ (∀ s k, Issues s k 0x0E → wordOk (effAddr s k (instrAt s k)) = false →
      Next (.seqSt k) s fun t => t = coreFault s k Fld.CORE_FAULT_SEQ_ADDR 0x42)

/-- WREG writes a register of the own core block or of an engine of the core, and moves on; an ENG_GO of an engine that
holds four operations stalls the sequencer at it (R81). -/
def Obligations.SeqWregWrites : Prop :=
  (∀ s k a l, Issues s k 0x0F → ownReg s k (effAddr s k (instrAt s k)) = some (a, l) → l.blk ≠ .eng
      → (regDenied s (coreIni k 0) a l (regAt s.part l)).1 = false
      → seqRun (coreRegWrite s k a (sreg s k (iB (instrAt s k))) (regAt s.part l)) k = true →
    Next (.seqWreg k) s fun t => t = retire (coreRegWrite s k a (sreg s k (iB (instrAt s k))) (regAt s.part l)) k)
  ∧ (∀ s k a l, Issues s k 0x0F → ownReg s k (effAddr s k (instrAt s k)) = some (a, l) → l.blk = .eng
      → (regDenied s (coreIni k 0) a l (regAt s.part l)).1 = false
      → seqWaits (engRegWrite s (coreIni k 0) l.unit l.off (sreg s k (iB (instrAt s k)))) k l.unit = false
      → seqRun (engRegWrite s (coreIni k 0) l.unit l.off (sreg s k (iB (instrAt s k)))) k = true →
    Next (.seqWreg k) s fun t => t = retire (engRegWrite s (coreIni k 0) l.unit l.off (sreg s k (iB (instrAt s k)))) k)
  ∧ (∀ s k a l, Issues s k 0x0F → ownReg s k (effAddr s k (instrAt s k)) = some (a, l) → l.blk = .eng → l.off = Reg.ENG_GO
      → (regDenied s (coreIni k 0) a l (regAt s.part l)).1 = false → s.fb (engBase l.unit) Fld.ENG_STS_HALT = false
      → s.fb (engBase l.unit) Fld.ENG_CTL_EN = true → 4 ≤ (s.eng l.unit).held.length →
    Next (.seqWreg k) s fun t => seqPc t k = seqPc s k ∧ (t.core k).wait = .stall
      ∧ (t.eng l.unit).stalledGo = (s.eng l.unit).stalledGo ++ [(coreIni k 0, sreg s k (iB (instrAt s k)))]
      ∧ t = { s with cores := t.cores, engs := t.engs })
  ∧ (∀ s k, Issues s k 0x0F → ownReg s k (effAddr s k (instrAt s k)) = none →
    Next (.seqWreg k) s fun t => t = coreFault s k Fld.CORE_FAULT_SEQ_ADDR 0x42)

/-! ### Accesses and registers -/

/-- An access that crosses a 4 KiB boundary is rejected whole; a transfer of hardware is split into parts that cross none
and that cover it in order (R26). -/
def Obligations.AccessesStayInPages : Prop :=
  (∀ (s : State) (ini a n : Nat) (w : Bool), iniBlocked s ini = false → a / 4096 ≠ (a + n - 1) / 4096 →
      accCheck s ini a n w = (some 1, s))
    ∧ ∀ a n : Nat, (∀ p ∈ parts4k a n, 0 < p.2 ∧ p.1 / 4096 = (p.1 + p.2 - 1) / 4096)
        ∧ ((parts4k a n).flatMap fun p => rangeFrom p.1 p.2) = rangeFrom a n

/-- The access codes of R12, bit by bit, for a register whose fields lie apart: a write sets RW and RWL fields, a 1
clears a W1C bit, and every other bit keeps its value. -/
def Obligations.WritesFollowAccessCodes : Prop :=
  ∀ (fs : List RegField) (old v : Nat), FieldsApart fs → ∀ i : Nat,
    (∀ f ∈ fs, f.lo ≤ i → i ≤ f.hi → bit (applyFields fs old v) i =
      (match f.acc with
      | .rw | .rwl => bit v i
      | .w1c => bit old i && !bit v i
      | .ro | .wo => bit old i))
    ∧ ((∀ f ∈ fs, ¬ (f.lo ≤ i ∧ i ≤ f.hi)) → bit (applyFields fs old v) i = bit old i)

/-- A register write that its port admits stores the word by the access codes, in the blocks without actions of their own
and in the dispatcher's; DSP_SAVE_BASE is locked while EN = 1, and a base that breaks R323 leaves EN at 0 (R327). A write
that is not performed, for its writer, its width or its alignment, is answered with an access error (R12) and changes
nothing else. The model's own readings of the spec here: log entry 74. -/
def Obligations.RegisterWriteStores : Prop :=
  (∀ s ini a l r (v : Word), Admits s ini a l → space s a = .reg
      → (l.blk = .dieClu ∨ l.blk = .hthI ∨ l.blk = .hthD ∨ l.blk = .hthP) → regAt s.part l = some r →
    Next (.registerWrite ini a 4 v) s fun t => t.rd a = applyFields r.1.fields (s.rd a) v.toNat % 2 ^ 32 ∧ JustRegs (· = a) s t)
  ∧ (∀ s ini a l r (v : Word), Admits s ini a l → space s a = .reg → l.blk = .dsp → regAt s.part l = some r
      → ¬ (Reg.DSP_SAVE_BASE ≤ l.off ∧ l.off < Reg.DSP_SAVE_BASE + 16 ∧ s.fb dspBase Fld.DSP_CTL_EN = true)
      → ¬ (l.off = Reg.DSP_CTL ∧ bit v.toNat 0 = true ∧ s.fb dspBase Fld.DSP_CTL_EN = false) →
    Next (.registerWrite ini a 4 v) s fun t => t.rd a = applyFields r.1.fields (s.rd a) v.toNat % 2 ^ 32 ∧ JustRegs (· = a) s t)
  ∧ (∀ s ini a l (v : Word), Admits s ini a l → space s a = .reg → l.blk = .dsp → Reg.DSP_SAVE_BASE ≤ l.off
      → l.off < Reg.DSP_SAVE_BASE + 16 → s.fb dspBase Fld.DSP_CTL_EN = true →
    Next (.registerWrite ini a 4 v) s fun t => t = s)
  ∧ (∀ s ini a l (v : Word), Admits s ini a l → space s a = .reg → l.blk = .dsp → l.off = Reg.DSP_CTL → bit v.toNat 0 = true
      → s.fb dspBase Fld.DSP_CTL_EN = false → (List.range s.part.dies).any (fun d =>
        !saveBaseOk (regStore s a v.toNat (regAt s.part l)) d) = true →
    Next (.registerWrite ini a 4 v) s fun t => t.fb dspBase Fld.DSP_CTL_EN = false ∧ t.fg dspBase Fld.DSP_ERR_CFG = 1
      ∧ JustRegs (fun x => x = dspBase + Reg.DSP_CTL ∨ x = dspBase + Reg.DSP_ERR) s t)
  ∧ (∀ s ini a l (v : Word), s.ok → space s a = .reg → locate s.part a = some l → l.blk = .dsp → ini ≠ 0x800
      → isAcina ini = false → (∀ r, regAt s.part l = some r → r.1.hasRwl = false) → (accCheck s ini a 4 true).1 = none →
    Next (.registerWrite ini a 4 v) s fun t => t = s.emit "ACCESS_ERROR" ini [1])
  ∧ (∀ s ini a n (v : Word), space s a = .reg → iniBlocked s ini = false → n ≠ 4 ∨ a % 4 ≠ 0 → iniDie ini = spaceDie s a →
    Next (.registerWrite ini a n v) s fun t => t = s.emit "ACCESS_ERROR" ini [1])

/-- The partition firewall (R428): a write by any initiator outside 0xC00 to 0xDFF to a register that holds an RWL field,
or to the Acina partition, changes no register but the islands' firewall logs; each island records the first
rejection, event 0x12 is raised at both, and the writer gets an access error. -/
def Obligations.FirewallRejectsAndLogs : Prop :=
  ∀ (s : State) (ini a : Nat) (l : Loc) (v : Word), s.ok → ini < 4096 → space s a = .reg → (accCheck s ini a 4 true).1 = none
      → locate s.part a = some l → isAcina ini = false
      → (l.blk = .acn ∨ ∃ r, regAt s.part l = some r ∧ r.1.hasRwl = true) →
    Next (.registerWrite ini a 4 v) s fun t =>
      t.reports = s.reports ++ [⟨0, 0x12, 0⟩, ⟨1, 0x12, 0⟩]
      ∧ t.emits = s.emits ++ [⟨"ACCESS_ERROR", ini, [1]⟩]
      ∧ t = { s with regs := t.regs, reports := t.reports, emits := t.emits }
      ∧ OnlyRegs (fun x => ∃ i < 2, s.fb (acnBase i) Fld.ACN_FW_LOG1_VALID = false
          ∧ (x = acnBase i + Reg.ACN_FW_LOG0 ∨ x = acnBase i + Reg.ACN_FW_LOG1)) s t
      ∧ ∀ i < 2, t.fb (acnBase i) Fld.ACN_FW_LOG1_VALID = true
        ∧ (s.fb (acnBase i) Fld.ACN_FW_LOG1_VALID = false →
            t.rd (acnBase i + Reg.ACN_FW_LOG0) = a % 2 ^ 32
            ∧ bits (t.rd (acnBase i + Reg.ACN_FW_LOG1)) 15 0 = a / 2 ^ 32 % 2 ^ 16
            ∧ bits (t.rd (acnBase i + Reg.ACN_FW_LOG1)) 27 16 = ini)

/-- A request on the die network passes its links and is served: to DRAM it waits at the system cache or at its memory
port with its identity; a register read answers the word; a request that a check refuses gets an access-error response; a
write of SRAM stores its bytes and is acknowledged. Memory outside the stored bytes keeps its content. The model's own
readings of the spec here: log entries 14 and 77. -/
def Obligations.RequestsAreServed : Prop :=
  (∀ s ini txid a n raw, txFree s ini txid = true → (accCheck s ini a n false).1 = none
      → reqWaits s (newReq s ini txid false a n []) = false → space s a = .dram raw →
    Next (.rdRequest ini txid a n) s fun t => SameMem s t ∧ ∃ q, t.reqs = s.reqs ++ [q] ∧ q.ini = ini ∧ q.txid = txid ∧ q.addr = a
      ∧ q.len = n ∧ q.write = false ∧ q.data = [] ∧ q.dgen = iniGen s ini ∧ q.cls = iniClass s ini
      ∧ q.stage = (if (scGroup ini).isSome then .iod else .mem))
  ∧ (∀ s ini txid a (bs : List Byte) raw, txFree s ini txid = true → (accCheck s ini a bs.length true).1 = none
      → reqWaits s (newReq s ini txid true a bs.length bs) = false → space s a = .dram raw →
    Next (.wrRequest ini txid a bs) s fun t => SameMem s t ∧ ∃ q, t.reqs = s.reqs ++ [q] ∧ q.ini = ini ∧ q.txid = txid ∧ q.addr = a
      ∧ q.len = bs.length ∧ q.write = true ∧ q.data = bs ∧ q.dgen = iniGen s ini ∧ q.cls = iniClass s ini
      ∧ q.stage = (if (scGroup ini).isSome then .iod else .mem))
  ∧ (∀ s ini txid a, txFree s ini txid = true → (accCheck s ini a 4 false).1 = none
      → reqWaits s (newReq s ini txid false a 4 []) = false → space s a = .reg →
    Next (.rdRequest ini txid a 4) s fun t => SameMem s t ∧ ∃ q, t.resps = s.resps ++ [q] ∧ q.ini = ini ∧ q.txid = txid
      ∧ q.kind = .data ∧ q.code = 0 ∧ q.data = leBytes 4 (regRead (passReq s (newReq s ini txid false a 4 [])).2 a).1)
  ∧ (∀ s ini txid a n e, txFree s ini txid = true → (accCheck s ini a n false).1 = some (e + 1) →
    Next (.rdRequest ini txid a n) s fun t => SameMem s t ∧ ∃ q, t.resps = s.resps ++ [q] ∧ q.ini = ini ∧ q.txid = txid
      ∧ q.kind = .err ∧ q.code = e + 1 ∧ q.data = [])
  ∧ (∀ s ini txid a (bs : List Byte) e, txFree s ini txid = true → (accCheck s ini a bs.length true).1 = some (e + 1) →
    Next (.wrRequest ini txid a bs) s fun t => SameMem s t ∧ ∃ q, t.resps = s.resps ++ [q] ∧ q.ini = ini ∧ q.txid = txid
      ∧ q.kind = .err ∧ q.code = e + 1 ∧ q.data = [])
  ∧ (∀ s ini txid a (bs : List Byte) k o, s.ok → txFree s ini txid = true → (accCheck s ini a bs.length true).1 = none
      → reqWaits s (newReq s ini txid true a bs.length bs) = false → space s a = .coreMem k o →
    Next (.wrRequest ini txid a bs) s fun t =>
      t.mrd a bs.length = bs ∧ ∀ x, x < a ∨ a + bs.length ≤ x → t.mb x = s.mb x)

/-- A response passes the links of its way back and is delivered once: it leaves the list of responses and reaches its
requester by name, or is dropped when its requester's domain has a new generation (R244). The model's own readings of
the spec here: log entry 73. -/
def Obligations.ResponsesAreDelivered : Prop :=
  (∀ s ini txid r, (s.resps.find? fun r => r.ini == ini && r.txid == txid
        && (r.kind == .data || r.kind == .poison || r.kind == .sem)) = some r
      → respEnd r = none → staleResp s r = false → respGoes s r = true →
    Next (.rdrsp ini txid) s fun t => t.resps = s.resps.erase r ∧ SameMem s t
      ∧ t.emits.getLast? = some ⟨respKindName r.kind, r.ini, r.txid :: r.code :: r.data.map (·.toNat)⟩
      ∧ (r.path = [] → t = { s with resps := t.resps, fresh := t.fresh, emits := t.emits }
          ∧ t.emits = s.emits ++ [⟨respKindName r.kind, r.ini, r.txid :: r.code :: r.data.map (·.toNat)⟩]))
  ∧ (∀ s ini txid r, (s.resps.find? fun r => r.ini == ini && r.txid == txid && r.kind == .ack) = some r
      → respEnd r = none → staleResp s r = false → respGoes s r = true →
    Next (.wrack ini txid) s fun t => t.resps = s.resps.erase r ∧ SameMem s t
      ∧ t.emits.getLast? = some ⟨"WRACK", r.ini, r.txid :: r.code :: r.data.map (·.toNat)⟩
      ∧ (r.path = [] → t = { s with resps := t.resps, emits := t.emits }
          ∧ t.emits = s.emits ++ [⟨"WRACK", r.ini, r.txid :: r.code :: r.data.map (·.toNat)⟩]))
  ∧ (∀ s ini txid r, (s.resps.find? fun r => r.ini == ini && r.txid == txid && r.kind == .err) = some r
      → respEnd r = none → staleResp s r = false → respGoes s r = true →
    Next (.errrsp ini txid) s fun t => t.resps = s.resps.erase r ∧ SameMem s t
      ∧ t.emits.getLast? = some ⟨"ERRRSP", r.ini, r.txid :: r.code :: r.data.map (·.toNat)⟩
      ∧ (r.path = [] → t = { s with resps := t.resps, emits := t.emits }
          ∧ t.emits = s.emits ++ [⟨"ERRRSP", r.ini, r.txid :: r.code :: r.data.map (·.toNat)⟩]))
  ∧ (∀ s ini txid r, (s.resps.find? fun r => r.ini == ini && r.txid == txid
        && (r.kind == .data || r.kind == .poison || r.kind == .sem)) = some r
      → staleResp s r = true → respGoes s r = true →
    Next (.rdrsp ini txid) s fun t => t.resps = s.resps.erase r ∧ SameMem s t
      ∧ (r.path = [] → t = { s with resps := t.resps, fresh := t.fresh }))

/-- VEC and SMV queue the 32 bytes at S[A] + IMM behind what the vector unit or the mover holds; with four or sixteen
held the sequencer stalls at the instruction, and a stalled one is taken once room frees. -/
def Obligations.SeqQueuesDescriptors : Prop :=
  (∀ s k, Issues s k 0x11 → descOk (effAddr s k (instrAt s k)) = true → (s.core k).vq.length < 4
      → Clean s (cmBase k + effAddr s k (instrAt s k)) 32 →
    Next (.seqVec k) s fun t => seqPc t k = seqPc s k + 8 ∧ JustCore k (heldRegs k) (s.retired k) t
      ∧ t.core k = { s.core k with
          vq := (s.core k).vq ++ [⟨s.mrd (cmBase k + effAddr s k (instrAt s k)) 32, seqPc s k, 0, false, false⟩], wait := .none })
  ∧ (∀ s k, Issues s k 0x12 → descOk (effAddr s k (instrAt s k)) = true
      → (getMover (s.core k) (iF (instrAt s k) % 2)).queue.length < 16
      → Clean s (cmBase k + effAddr s k (instrAt s k)) 32 →
    Next (.seqSmv k) s fun t => seqPc t k = seqPc s k + 8 ∧ JustCore k (heldRegs k) (s.retired k) t
      ∧ (getMover (t.core k) (iF (instrAt s k) % 2)).queue = (getMover (s.core k) (iF (instrAt s k) % 2)).queue
          ++ [⟨s.mrd (cmBase k + effAddr s k (instrAt s k)) 32, seqPc s k, 0, false⟩])
  ∧ (∀ s k, Issues s k 0x11 → descOk (effAddr s k (instrAt s k)) = true → 4 ≤ (s.core k).vq.length →
    Next (.seqVec k) s fun t => t = s.setCore k { s.core k with wait := .stall })
  ∧ (∀ s k, Issues s k 0x12 → descOk (effAddr s k (instrAt s k)) = true
      → 16 ≤ (getMover (s.core k) (iF (instrAt s k) % 2)).queue.length →
    Next (.seqSmv k) s fun t => t = s.setCore k { s.core k with wait := .stall })
  ∧ (∀ s k, s.ok = true → (s.core k).wait = .stall → seqRun s k = true → iOp (instrAt s k) = 0x11 → PcMoves s k
      → (∀ i < 4, (s.eng (4 * k + i)).stalledGo = []) → (s.core k).vq.length < 4
      → Clean s (cmBase k + effAddr s k (instrAt s k)) 32 →
    Next (.seqStallRelease k) s fun t => seqPc t k = seqPc s k + 8 ∧ JustCore k (heldRegs k) (s.retired k) t
      ∧ t.core k = { s.core k with
          vq := (s.core k).vq ++ [⟨s.mrd (cmBase k + effAddr s k (instrAt s k)) 32, seqPc s k, 0, false, false⟩], wait := .none })

/-- WAIT retires when what it selects holds nothing, else the sequencer waits at it and retires it later. SACQ hands over
the ring offset of the oldest filled slot not yet acquired; SREL gives slots back and sends their credits. The model's
own readings of the spec here: log entry 20. -/
def Obligations.SeqWaitsAndSlots : Prop :=
  (∀ s k, Issues s k 0x13 → waitHolds s k (iF (instrAt s k)) = true →
    Next (.seqWait k) s fun t => seqPc t k = seqPc s k + 8 ∧ JustRegs (· = pcAddr k) (s.retired k) t)
  ∧ (∀ s k, Issues s k 0x13 → waitHolds s k (iF (instrAt s k)) = false →
    Next (.seqWait k) s fun t => t = s.setCore k { s.core k with wait := .wait (iF (instrAt s k)) })
  ∧ (∀ s k f, s.ok = true → PcMoves s k → (s.core k).wait = .wait f → waitHolds s k f = true →
    Next (.waitRetire k) s fun t => seqPc t k = seqPc s k + 8 ∧ t.core k = { s.core k with wait := .none }
      ∧ JustCore k (· = pcAddr k) (s.retired k) t)
  ∧ (∀ s k, Issues s k 0x15 → sreg s k (iA (instrAt s k)) < 4096 → isConsumer s k (sreg s k (iA (instrAt s k))) = true
      → slotWaits s k (sreg s k (iA (instrAt s k))) = true →
    Next (.seqSacq k) s fun t => seqPc t k = seqPc s k + 8
      ∧ (iD (instrAt s k) ≠ 0 → sreg t k (iD (instrAt s k)) = ringOffset s (sreg s k (iA (instrAt s k)))
          (s.fg (strmBase (sreg s k (iA (instrAt s k)))) Fld.CLU_STRM_W4_TAIL
            + acquiredOf (s.core k) (sreg s k (iA (instrAt s k)))) % 2 ^ 32)
      ∧ JustCore k (fun a => a = pcAddr k ∨ a = sregAddr k (iD (instrAt s k))) (s.retired k) t)
  ∧ (∀ s k, Issues s k 0x15 → sreg s k (iA (instrAt s k)) < 4096 → isConsumer s k (sreg s k (iA (instrAt s k))) = true
      → slotWaits s k (sreg s k (iA (instrAt s k))) = false →
    Next (.seqSacq k) s fun t => t = s.setCore k { s.core k with wait := .sacq (sreg s k (iA (instrAt s k))) })
  ∧ (∀ s k st, s.ok = true → PcMoves s k → (s.core k).wait = .sacq st → slotWaits s k st = true → seqRun s k = true →
    Next (.sacqRetire k) s fun t => seqPc t k = seqPc s k + 8
      ∧ t.core k = { s.core k with
          acquired := setD 0 (s.core k).acquired st (acquiredOf (s.core k) st + 1), wait := .none }
      ∧ JustCore k (fun a => a = pcAddr k ∨ a = sregAddr k (iD (instrAt s k))) (s.retired k) t)
  ∧ (∀ s k, Issues s k 0x16 → sreg s k (iA (instrAt s k)) < 4096 → isConsumer s k (sreg s k (iA (instrAt s k))) = true
      → 0 < iImm (instrAt s k) % 256
      → iImm (instrAt s k) % 256 ≤ acquiredOf (s.core k) (sreg s k (iA (instrAt s k))) →
    Next (.seqSrel k) s fun t =>
      t.strCreds = s.strCreds ++ [⟨sreg s k (iA (instrAt s k)), iImm (instrAt s k) % 256⟩]
      ∧ t.core k = { s.core k with
          acquired := setD 0 (s.core k).acquired (sreg s k (iA (instrAt s k)))
            (acquiredOf (s.core k) (sreg s k (iA (instrAt s k))) - iImm (instrAt s k) % 256) }
      ∧ SameMem s t)
  ∧ (∀ s k, Issues s k 0x15 → isConsumer s k (sreg s k (iA (instrAt s k))) = false →
    Next (.seqSacq k) s fun t => t = coreFault s k Fld.CORE_FAULT_STREAM 0x44)

/-- A declared SEM operation is sent to its unit and the sequencer waits for the result word; an undeclared one is
answered 0x10 at once. The result that answers the waiting step lands in S[D], or 0x13 where no route is left; a stale
one is dropped. The model's own
readings of the spec here: log entry 20. -/
def Obligations.SeqSemaphoreRequests : Prop :=
  (∀ r ∈ [((.seqSemWait : Nat → Instr), 0), (.seqSemSignal, 1), (.seqSemTryWait, 2)], ∀ s k, Issues s k 0x14
      → iF (instrAt s k) % 4 = r.2 →
    (semDeclared (s.core k) (semNum s k) r.2 = true → semNum s k < 2 ^ 14
      → s.part.fitted (semNum s k / 4096) = true → dieHeld s (semNum s k / 4096) = false
      → routed s (k / 64) (semNum s k / 4096) (synBase (semNum s k / 4096)) = true →
      Next (r.1 k) s fun t => ∃ m, t.semMsgs = s.semMsgs ++ [m] ∧ m.src = .core k ∧ m.sem = semNum s k ∧ m.op = r.2
        ∧ m.tag = s.fg (coreBase k) Fld.CORE_STEP_TAG
        ∧ t.core k = { s.core k with wait := .sem r.2 (semNum s k) (iD (instrAt s k)) }
        ∧ t = { s with semMsgs := t.semMsgs, cores := t.cores })
    ∧ (semDeclared (s.core k) (semNum s k) r.2 = false →
      Next (r.1 k) s fun t => seqPc t k = seqPc s k + 8
        ∧ (iD (instrAt s k) ≠ 0 → sreg t k (iD (instrAt s k)) = 0x10)
        ∧ t.fg (synBase (k / 64)) Fld.SYN_ERR_UNDECL = 1
        ∧ JustRegs (fun a => a = pcAddr k ∨ a = sregAddr k (iD (instrAt s k)) ∨ a = synBase (k / 64) + Reg.SYN_ERR) (s.retired k) t))
  ∧ (∀ s k r op num d, s.ok = true → PcMoves s k → (s.semRsps.find? fun x => x.core == k) = some r
      → (s.core k).wait = .sem op num d → r.dgen = s.coreGen k → r.tag = s.fg (coreBase k) Fld.CORE_STEP_TAG
      → r.gen = s.fg (coreBase k) Fld.CORE_STEP_GEN → seqRun s k = true → d < 32 → routed s r.die (k / 64) 0 = true
      → canPass s (backEnds s (pathEnds s (k / 64) r.die 0)) 1 1 = true →
    Next (.semResultArrive k) s fun t => seqPc t k = seqPc s k + 8 ∧ (d ≠ 0 → sreg t k d = r.result.toNat)
      ∧ t.core k = { s.core k with wait := .none } ∧ t.semRsps = s.semRsps.erase r)
  ∧ (∀ s k r op num d, s.ok = true → PcMoves s k → (s.semRsps.find? fun x => x.core == k) = some r
      → (s.core k).wait = .sem op num d → r.dgen = s.coreGen k → r.tag = s.fg (coreBase k) Fld.CORE_STEP_TAG
      → r.gen = s.fg (coreBase k) Fld.CORE_STEP_GEN → seqRun s k = true → d < 32 → routed s r.die (k / 64) 0 = false →
    Next (.semResultArrive k) s fun t => seqPc t k = seqPc s k + 8 ∧ (d ≠ 0 → sreg t k d = 0x13)
      ∧ t.core k = { s.core k with wait := .none } ∧ t.semRsps = s.semRsps.erase r)
  ∧ (∀ s k r, (s.semRsps.find? fun x => x.core == k) = some r → r.dgen ≠ s.coreGen k → r.die = k / 64
      → routed s r.die (k / 64) 0 = true →
    Next (.semResultArrive k) s fun t => t = { s with semRsps := s.semRsps.erase r })

/-- END ends the step on its core, FAIL ends the step with STEP_FAIL and DETAIL IMM[15:0], an unlisted opcode is a fault
of the core: status 0x42. The model's own readings of the spec here: log entry 20. -/
def Obligations.SeqEndsStep : Prop :=
  (∀ s k, Issues s k 0x01 → stepOfCore s k = none → (s.core k).golden = none →
    Next (.seqEnd k) s fun t => t = stopSeq s k)
  ∧ (∀ s k tag c r, Issues s k 0x01 → (s.core k).golden = none → stepOfCore s k = some (tag, c, r) →
    Next (.seqEnd k) s fun t =>
      t = settleStep ((stopSeq s k).setCmd tag { c with step := some { r with ended := r.ended ++ [k] } }) tag)
  ∧ (∀ s k tag c r, Issues s k 0x02 → (s.core k).golden = none → stepOfCore s k = some (tag, c, r) →
    Next (.seqFail k) s fun t => t = endStep ((r.cores.filter fun j => !(j == k)).foldl abortCore (haltCore s k)) tag 0x40
      (iImm (instrAt s k) % 2 ^ 16))
  ∧ (∀ s k, s.ok = true → seqReady s k = true → isIllop (instrAt s k) = true → Clean s (cmBase k + seqPc s k) 8 →
    Next (.illop k) s fun t => t = failStep (recordFault s k Fld.CORE_FAULT_ILLOP 0 (seqPc s k)) k 0x42
      (bits ((recordFault s k Fld.CORE_FAULT_ILLOP 0 (seqPc s k)).rd (coreBase k + Reg.CORE_FAULT)) 15 0))

/-! ### Tensor engines (R44 to R87) -/

/-- ENG_GO latches the configuration into a held operation when its checks pass; a failed check or a disabled engine is a
fault, a halted engine discards the write, a fifth operation waits behind those that wait already, and a value with more
than one operation bit is a fault. The model's own readings of the spec here: log
entry 16. -/
def Obligations.EngineGo : Prop :=
  (∀ s ini e (v : Word), GoReady s ini e → v.toNat % 8 = 1 → mmaCheck s e (latchOp s e .mma) = 0 →
    Next (.engGoMma ini e v) s fun t => (t.eng e).held = (s.eng e).held ++ [latchOp s e .mma]
      ∧ t.fg (engBase e) Fld.ENG_STS_QDEPTH = (s.eng e).held.length + 1 ∧ JustEng e (· = engBase e + Reg.ENG_STS) s t)
  ∧ (∀ s ini e (v : Word), GoReady s ini e → v.toNat % 8 = 2 → wbCheck s e (latchOp s e .wb) = 0 →
    Next (.engGoWb ini e v) s fun t => (t.eng e).held = (s.eng e).held ++ [latchOp s e .wb]
      ∧ t.fg (engBase e) Fld.ENG_STS_QDEPTH = (s.eng e).held.length + 1 ∧ JustEng e (· = engBase e + Reg.ENG_STS) s t)
  ∧ (∀ s ini e (v : Word), GoReady s ini e → v.toNat % 8 = 4 → loadCheck (latchOp s e .load) = 0 →
    Next (.engGoLoad ini e v) s fun t => (t.eng e).held = (s.eng e).held ++ [latchOp s e .load]
      ∧ t.fg (engBase e) Fld.ENG_STS_QDEPTH = (s.eng e).held.length + 1 ∧ JustEng e (· = engBase e + Reg.ENG_STS) s t)
  ∧ (∀ s ini e (v : Word), GoReady s ini e → v.toNat % 8 = 1 → mmaCheck s e (latchOp s e .mma) ≠ 0 →
    Next (.engGoMma ini e v) s fun t => t = engFault s e (mmaCheck s e (latchOp s e .mma)) (seqPc s (e / 4)))
  ∧ (∀ s ini e (v : Word), (accCheck s ini (engBase e + Reg.ENG_GO) 4 true).1 = none → bit v.toNat 0 = true
      → s.fb (engBase e) Fld.ENG_STS_HALT = true → Next (.engGoMma ini e v) s fun t => t = s)
  ∧ (∀ s ini e (v : Word), (accCheck s ini (engBase e + Reg.ENG_GO) 4 true).1 = none → bit v.toNat 1 = true
      → s.fb (engBase e) Fld.ENG_STS_HALT = false → s.fb (engBase e) Fld.ENG_CTL_EN = false →
    Next (.engGoWb ini e v) s fun t => t = engFault s e 8 (seqPc s (e / 4)))
  ∧ (∀ s ini e (v : Word), (accCheck s ini (engBase e + Reg.ENG_GO) 4 true).1 = none → bit v.toNat 2 = true
      → s.fb (engBase e) Fld.ENG_STS_HALT = false → s.fb (engBase e) Fld.ENG_CTL_EN = true
      → 4 ≤ (s.eng e).held.length ∨ (s.eng e).stalledGo ≠ [] →
    Next (.engGoLoad ini e v) s fun t =>
      t = s.setEng e { s.eng e with stalledGo := (s.eng e).stalledGo ++ [(ini, v.toNat)] })
  ∧ (∀ s ini e (v : Word), GoReady s ini e → v.toNat % 8 ≠ 0 → v.toNat % 8 ≠ 1 → v.toNat % 8 ≠ 2 → v.toNat % 8 ≠ 4
      → bit v.toNat 0 = true → Next (.engGoMma ini e v) s fun t => t = engFault s e 1 (seqPc s (e / 4)))

/-- ENG_SR_SEED seeds the 32 generators; ENG_ERR bits clear by writing 1, and HALT with them once every bit that made
the fault has been cleared. -/
def Obligations.EngineSeedAndErrors : Prop :=
  (∀ s ini e (v : Word), s.ok = true → (accCheck s ini (engBase e + Reg.ENG_SR_SEED) 4 true).1 = none →
    Next (.engSrSeedWrite ini e v) s fun t => (t.eng e).lfsr = (List.range 32).map (lfsrSeed v.toNat)
      ∧ t.rd (engBase e + Reg.ENG_SR_SEED) = v.toNat ∧ JustEng e (· = engBase e + Reg.ENG_SR_SEED) s t)
  ∧ (∀ s ini e (v : Word), s.ok = true → (accCheck s ini (engBase e + Reg.ENG_ERR) 4 true).1 = none →
    Next (.engErrClear ini e v) s fun t =>
      (∀ i, bit (t.rd (engBase e + Reg.ENG_ERR)) i = (bit (s.rd (engBase e + Reg.ENG_ERR)) i && !bit v.toNat i))
      ∧ (s.fb (engBase e) Fld.ENG_STS_HALT = true → (∀ i, bit (s.eng e).haltBits i = true →
          bit (s.rd (engBase e + Reg.ENG_ERR)) i = true → bit v.toNat i = true) → t.fb (engBase e) Fld.ENG_STS_HALT = false)
      ∧ JustEng e (fun a => a = engBase e + Reg.ENG_ERR ∨ a = engBase e + Reg.ENG_STS) s t)

/-- Operations start in each pipeline in order, and complete: an MMA of dense unscaled inputs without error writes the 512
words of its bank, a LOAD copies its rows, a raw write-back of an FP32 bank stores its 16 rows and no other byte. The
model's own readings of the spec here: log entry 15. -/
def Obligations.EngineOperationsRun : Prop :=
  (∀ s e o os, s.ok = true → s.fb (coreBase (e / 4)) Fld.CORE_STS_PREEMPT_PEND = false → clocked s (e / 4) = true
      → (s.eng e).held = o :: os → o.started = false →
    Next (.engOperationStart e (!(o.kind == .mma))) s fun t =>
      (t.eng e).held = { o with started := true } :: os ∧ JustEng e (· = engBase e + Reg.ENG_STS) s t)
  ∧ (∀ s e o fa fw p, s.ok = true → ksorted none (s.eng e).banks = true → executing s e .mma = some o → modeFmts o.mode = some (fa, fw) → pairInfo fa fw = some p
      → bit o.mode 8 = false → fa ≠ .mxint8 → fw.isMX = false
      → (∀ r ∈ mmaRanges fa fw false o.kdim o.aAddr o.wAddr o.metaAddr o.asAddr o.wsAddr, Clean s (scrBase e + r.1) r.2)
      → (∀ n < 512, (mmaElem fa fw p false o.kdim (mmaInputs s e o fa fw) (n / 32) (n % 32)
          (if bit o.mode 12 then bankWord (s.eng e) o.bank n else 0)).2 = AccFlags.none) →
    Next (.mmaComplete e) s fun t =>
      (∀ n < 512, bankWord (t.eng e) o.bank n = (mmaElem fa fw p false o.kdim (mmaInputs s e o fa fw) (n / 32) (n % 32)
          (if bit o.mode 12 then bankWord (s.eng e) o.bank n else 0)).1 % 2 ^ 32)
      ∧ (t.eng e).held = dropOp .mma (s.eng e).held ∧ bankInt t e o.bank = p.int
      ∧ t.fg (engBase e) Fld.ENG_MMA_CNT_COUNT = (s.fg (engBase e) Fld.ENG_MMA_CNT_COUNT + 1) % 2 ^ 32
      ∧ ∀ j, j ≠ e → t.eng j = s.eng j)
  ∧ (∀ s e o, s.ok = true → ksorted none (s.eng e).banks = true → executing s e .load = some o → (∀ i < 16, Clean s (wbKey e o i) 128) →
    Next (.loadComplete e) s fun t =>
      (∀ n < 512, bankWord (t.eng e) o.bank n = s.mnat (wbKey e o (n / 32) + 4 * (n % 32)) 4)
      ∧ bankInt t e o.bank = decide (bits o.wbCtl 3 0 = 11)
      ∧ (t.eng e).held = dropOp .load (s.eng e).held ∧ JustEng e (· = engBase e + Reg.ENG_STS) s t)
  ∧ (∀ s e o, s.ok = true → executing s e .wb = some o → bits o.wbCtl 3 0 = 10 → bit o.wbCtl 8 = false → bit o.wbCtl 9 = false
      → bankInt s e o.bank = false → s.fb (chkBase (e / 4)) Fld.CHK_CTL_EN = false → (s.core (e / 4)).selfTest = false
      → rowsOk o 128 = true →
    Next (.wbComplete e) s fun t =>
      (∀ i < 16, t.mrd (wbKey e o i) 128 = (List.range 32).flatMap fun j => leBytes 4 (bankWord (s.eng e) o.bank (32 * i + j)))
      ∧ (∀ a, (∀ i < 16, a < wbKey e o i ∨ wbKey e o i + 128 ≤ a) → t.mb a = s.mb a)
      ∧ (t.eng e).held = dropOp .wb (s.eng e).held)

/-! ### The vector unit (R88 to R94) -/

/-- A vector descriptor starts when its checks pass and its operands hold no error; a bad one is a fault of the core; each
operation writes to D, element by element, the results that a pre-emption has not found done, and no other byte; the
finished descriptor leaves. The model's
own readings of the spec here: log entries 5, 18 and 19. -/
def Obligations.VectorOperationsRun : Prop :=
  (∀ s k d ds fi fo, s.ok = true → (s.core k).vq = d :: ds → d.started = false
      → s.fb (coreBase k) Fld.CORE_STS_PREEMPT_PEND = false → clocked s k = true → vecCheck (vecFields d.raw) = 0
      → vecIn (vecFields d.raw).ifmt = some fi → vecOut (vecFields d.raw).ofmt = some fo
      → (∀ r ∈ (vecRanges (vecFields d.raw) (fi.width / 8) (fo.width / 8)).1, Clean s (cmBase k + r.1) r.2) →
    Next (.vecDescriptorStart k) s fun t =>
      t.core k = { s.core k with vq := { d with started := true } :: ds } ∧ JustCore k (fun _ => False) s t)
  ∧ (∀ s k d ds, (s.core k).vq = d :: ds → d.started = false → s.fb (coreBase k) Fld.CORE_STS_PREEMPT_PEND = false
      → clocked s k = true → vecCheck (vecFields d.raw) = 1 →
    Next (.vecDescriptorStart k) s fun t =>
      t = faultAt (syncCore (s.setCore k { s.core k with vq := ds }) k) k Fld.CORE_FAULT_VEC_FMT 0x43 d.pc)
  ∧ (∀ s k d ds, (s.core k).vq = d :: ds → d.started = false → s.fb (coreBase k) Fld.CORE_STS_PREEMPT_PEND = false
      → clocked s k = true → vecCheck (vecFields d.raw) = 2 →
    Next (.vecDescriptorStart k) s fun t =>
      t = faultAt (syncCore (s.setCore k { s.core k with vq := ds }) k) k Fld.CORE_FAULT_VEC_ADDR 0x43 d.pc)
  ∧ (∀ r ∈ vecRows, ∀ s k d ds fi fo, s.ok = true → (s.core k).vq = d :: ds → d.started = true → d.finished = false
      → vecIn (vecFields d.raw).ifmt = some fi → vecOut (vecFields d.raw).ofmt = some fo → (vecFields d.raw).op = r.2 →
    let v := vecFields d.raw
    let w := fo.width / 8
    let rs := vecResults s k v fi
    Next (r.1 k) s fun t =>
      (∀ i < rs.length, d.done ≤ i →
        inOverlap (vecRanges v (fi.width / 8) w).1 (vecRanges v (fi.width / 8) w).2 w i = false →
        t.mrd (cmBase k + v.d + i * w) w = leBytes w (vecStore v fo (rs.getD i 0)))
      ∧ (∀ a, (a < cmBase k + v.d + d.done * w ∨ cmBase k + v.d + rs.length * w ≤ a) → t.mb a = s.mb a)
      ∧ t.core k = { s.core k with vq := { d with finished := true } :: ds })
  ∧ (∀ s k d ds, s.ok = true → (s.core k).vq = d :: ds → d.finished = true → clocked s k = true →
    Next (.vecDescriptorComplete k) s fun t => t.core k = { s.core k with vq := ds }
      ∧ t.fg (coreBase k) Fld.CORE_STS_VEC_BUSY = b2n !ds.isEmpty ∧ JustCore k (heldRegs k) s t)

/-! ### Stream movers and raw streams (R104 to R127) -/

/-- A copy between two ranges of core memory that lie apart, or a fill, of one row stores the row's bytes, changes no other byte and finishes its
descriptor; a bad descriptor is a fault before any transfer; a finished descriptor leaves and is counted. The model's
own readings of the spec here: log entry 18. -/
def Obligations.MoversMove : Prop :=
  (∀ s k m v d ds, s.ok = true → movHead s k m = some v → (getMover (s.core k) m).queue = d :: ds → v.kind = 0
      → movOk v 0 = true → v.ssp = 1 → v.dsp = 1 → d.moved = 0 → movParts v = [(v.src, v.dst, v.len)]
      → (v.src + v.len ≤ v.dst ∨ v.dst + v.len ≤ v.src) → Clean s (cmBase k + v.src) v.len →
    Next (.smCopy k m) s fun t => t.mrd (cmBase k + v.dst) v.len = s.mrd (cmBase k + v.src) v.len
      ∧ (∀ a, (a < cmBase k + v.dst ∨ cmBase k + v.dst + v.len ≤ a) → t.mb a = s.mb a)
      ∧ (getMover (t.core k) m).queue = { d with finished := true } :: ds ∧ t.pending = s.pending)
  ∧ (∀ s k m v d ds, s.ok = true → movHead s k m = some v → (getMover (s.core k) m).queue = d :: ds → v.kind = 1
      → movOk v 0 = true → v.dsp = 1 → d.moved = 0 → movParts v = [(0, v.dst, v.len)] →
    Next (.smFill k m) s fun t =>
      t.mrd (cmBase k + v.dst) v.len = ((List.range (v.len / 4)).flatMap fun _ => leBytes 4 (v.src % 2 ^ 32))
      ∧ (∀ a, (a < cmBase k + v.dst ∨ cmBase k + v.dst + v.len ≤ a) → t.mb a = s.mb a)
      ∧ (getMover (t.core k) m).queue = { d with finished := true } :: ds)
  ∧ (∀ s k m v, movHead s k m = some v → v.kind ≠ 1 → v.kind ≠ 2 → movOk v 0 = false →
    Next (.smCopy k m) s fun t => t = movInvalid s k m)
  ∧ (∀ s k m d ds, s.ok = true → m < 2 → (getMover (s.core k) m).queue = d :: ds → d.finished = true →
    Next (.smDescriptorComplete k m) s fun t => (getMover (t.core k) m).queue = ds
      ∧ t.fg (coreBase k + 4 * m) Fld.CORE_SM_STS_DONE = (s.fg (coreBase k + 4 * m) Fld.CORE_SM_STS_DONE + 1) % 2 ^ 16
      ∧ JustCore k (heldRegs k) s t)

/-- A stream-out of one slot from core memory spends a credit and puts the slot in flight; its segments arrive one by one in
the slot at HEAD of the consumer's ring; returned credits reach the producer, or CKPT_CRED while it has no context; a stream that no step uses
closes. The model's own readings of the spec here: log entry 20. -/
def Obligations.StreamsFlow : Prop :=
  (∀ s k m v d ds cr, s.ok = true → movHead s k m = some v → (getMover (s.core k) m).queue = d :: ds → m < 2 → v.kind = 2
      → strmOpen s (v.dst % 4096) = true → strmProd s (v.dst % 4096) = endpoint k m
      → movOk v (slotBytes s (v.dst % 4096)) = true → v.ssp = 1 → v.rows = 1 → v.len = slotBytes s (v.dst % 4096)
      → fencedOut s k = false → Clean s (cmBase k + v.src) v.len → d.moved = 0
      → prodCredits s (v.dst % 4096) = some (cr + 1) →
    Next (.smStreamOut k m) s fun t => t.strSegs = s.strSegs ++ [⟨v.dst % 4096, s.mrd (cmBase k + v.src) v.len, 0⟩]
      ∧ prodCredits t (v.dst % 4096) = some cr
      ∧ (getMover (t.core k) m).queue = { d with moved := v.len, finished := true } :: ds ∧ SameMem s t)
  ∧ (∀ s st x, s.ok = true → (s.strSegs.find? fun x => x.stream == st) = some x → strmOpen s st = true
      → msgCan s (strmProd s st / 256) (st / 1024 % 4) (strmAddr st) 2 (segMsg s x) = true
      → s.fb (strmBase st) Fld.CLU_STRM_W0_RING_CM = true →
    let a := cmBase (strmConsCore s st) + ringOffset s st (s.fg (strmBase st) Fld.CLU_STRM_W4_HEAD) + 256 * x.seg
    let bs := (x.data.drop (256 * x.seg)).take 256
    Next (.strseg st) s fun t =>
      t.strSegs = (if slotBytes s st ≤ 256 * (x.seg + 1) then s.strSegs.erase x
        else s.strSegs.map fun y => if y = x then { x with seg := x.seg + 1 } else y)
      ∧ t.mrd a bs.length = bs ∧ ∀ b, (b < a ∨ a + bs.length ≤ b) → t.mb b = s.mb b)
  ∧ (∀ s st x, s.ok = true → (s.strCreds.find? fun x => x.stream == st) = some x → strmOpen s st = true
      → msgCan s (st / 1024 % 4) (strmProd s st / 256) (strmAddr st) 2 (credMsg s x) = true → prodCredits s st = none →
    Next (.strcred st) s fun t => t.strCreds = s.strCreds.erase x
      ∧ t.fg (strmBase st) Fld.CLU_STRM_W4_CKPT_CRED
          = (s.fg (strmBase st) Fld.CLU_STRM_W4_CKPT_CRED + x.count) % 2 ^ 7
      ∧ (strmProd s st / 256 = st / 1024 % 4 → t = { s with regs := t.regs, strCreds := t.strCreds }) ∧ SameMem s t)
  ∧ (∀ s st x c, s.ok = true → (s.strCreds.find? fun x => x.stream == st) = some x → strmOpen s st = true
      → msgCan s (st / 1024 % 4) (strmProd s st / 256) (strmAddr st) 2 (credMsg s x) = true → prodCredits s st = some c →
    Next (.strcred st) s fun t => t.strCreds = s.strCreds.erase x ∧ prodCredits t st = some (c + x.count)
      ∧ (strmProd s st / 256 = st / 1024 % 4 → t = { s with cores := t.cores, strCreds := t.strCreds }) ∧ SameMem s t)
  ∧ (∀ s st, strmOpen s st = true → strmInUse s st = false →
    Next (.streamClose st) s fun t => t = closeStream s st
      ∧ t.strSegs = s.strSegs.filter (fun x => !(x.stream == st)) ∧ t.strCreds = s.strCreds.filter (fun x => !(x.stream == st))
      ∧ SameMem s t)

/-! ### Core commands, watchdog, Landing, die controllers (R97, R128, R131, R141, R421, R492, R581) -/

/-- START runs the step from its entry with S1 to S3 set, PREEMPT raises PREEMPT_PEND, RESUME restores a saved step, ABORT
stops the core and saves nothing; a core that can be saved, once its vector unit and movers have stopped without a
fault, holds its record and is free; a pre-emption that finds no step reports so (R129). The model's own readings of
the spec here: log entry 23. -/
def Obligations.CoreCommandsAct : Prop :=
  (∀ s k l, k < 256 → Admits s (dcIni (k / 64)) (coreBase k + Reg.CORE_CMD) l → seqRun s k = false
      → dcRuns s (k / 64) = true → s.rd (coreBase k + Reg.CORE_SEQ_ENTRY) < cmSize → s.rd (coreBase k + Reg.CORE_SEQ_ENTRY) % 8 = 0 →
    Next (.coreCmdStart (dcIni (k / 64)) k) s fun t =>
      seqPc t k = s.rd (coreBase k + Reg.CORE_SEQ_ENTRY) ∧ seqRun t k = true
      ∧ sreg t k 1 = (startArgs s k).1 % 2 ^ 32 ∧ sreg t k 2 = (startArgs s k).2.1 % 2 ^ 32
      ∧ sreg t k 3 = (startArgs s k).2.2 % 2 ^ 32 ∧ (∀ n, 4 ≤ n → n < 32 → sreg t k n = 0)
      ∧ t.core k = { s.core k with wait := .none, acquired := [] } ∧ SameMem s t)
  ∧ (∀ s k l, k < 256 → Admits s (dcIni (k / 64)) (coreBase k + Reg.CORE_CMD) l → seqRun s k = true
      → s.fb (coreBase k) Fld.CORE_STS_PREEMPT_PEND = false →
    Next (.coreCmdPreempt (dcIni (k / 64)) k) s fun t => t = preemptCore s k
      ∧ t.fb (coreBase k) Fld.CORE_STS_PREEMPT_PEND = true ∧ SameMem s t)
  ∧ (∀ s k l, Admits s (dcIni (k / 64)) (coreBase k + Reg.CORE_CMD) l → seqRun s k = false →
    Next (.coreCmdPreempt (dcIni (k / 64)) k) s fun t => t = s.emit "PREEMPT_NO_VICTIM" (unitOfCore k) [])
  ∧ (∀ s k l v, Admits s (dcIni (k / 64)) (coreBase k + Reg.CORE_CMD) l → (s.core k).saved = some v →
    Next (.coreCmdResume (dcIni (k / 64)) k) s fun t => t = resumeCore s k)
  ∧ (∀ s k l, k < 256 → Admits s (dcIni (k / 64)) (coreBase k + Reg.CORE_CMD) l →
    Next (.coreCmdAbort (dcIni (k / 64)) k) s fun t => t = abortCore s k ∧ seqRun t k = false
      ∧ (t.core k).vq = [] ∧ (t.core k).mov0 = ⟨[], (s.core k).mov0.ctxs⟩ ∧ (t.core k).mov1 = ⟨[], (s.core k).mov1.ctxs⟩ ∧ (t.core k).wait = .none)
  ∧ (∀ s k c r, s.ok = true → saveReady s k (s.fg (coreBase k) Fld.CORE_STEP_TAG) = true
      → stepOfCore s k = some (s.fg (coreBase k) Fld.CORE_STEP_TAG, c, r)
      → seqRun s k = true → (s.core k).vq = [] → (s.core k).mov0.queue = [] → (s.core k).mov1.queue = [] →
    Next (.corePreemptComplete k) s fun t =>
      ∃ v, (t.core k).saved = some v ∧ v.tag = s.fg (coreBase k) Fld.CORE_STEP_TAG ∧ v.pc = seqPc s k
        ∧ (t.core k).acquired = [] ∧ seqRun t k = false)
  ∧ (∀ s k c r, s.ok = true → saveReady s k (s.fg (coreBase k) Fld.CORE_STEP_TAG) = true
      → stepOfCore s k = some (s.fg (coreBase k) Fld.CORE_STEP_TAG, c, r)
      → seqRun (movStop (movStop (vecStop s k) k 0) k 1) k = true →
    Next (.corePreemptComplete k) s fun t =>
      ∃ v, (t.core k).saved = some v ∧ v.tag = s.fg (coreBase k) Fld.CORE_STEP_TAG ∧ (t.core k).vq = []
        ∧ (t.core k).acquired = [])

/-- Each of these commands completes, under conditions on the state alone. A watchdog that has counted to its limit
records WDOG, aborts the step's group and ends it with HANG (R492); with no step named the core alone is aborted.
Escalation goes from the core's reset to the cluster's and to the die's. LANDING_INIT zero-fills the cluster's Landing
and no other byte. A heartbeat advances BEAT and toggles the wire. STEP_LOAD of an image that reads clean, declares no
stream and relocates starts the step at its entry on every core of its group, whose cores are free. The model's own
readings of the spec here: log entries 39 and 40. -/
def Obligations.CoresEscalateAndLoad : Prop :=
  (∀ s k tag c r, k < 256 → wdogDue s k = true → wdogCounts s k = true → stepOfCore s k = some (tag, c, r) →
    Next (.coreWatchdogExpiry k) s fun t =>
      t = endStep (r.cores.foldl abortCore (hangNoted s k)) tag 0x48
        (bits ((recordFault s k Fld.CORE_FAULT_WDOG 0 (seqPc s k)).rd (coreBase k + Reg.CORE_FAULT)) 15 0))
  ∧ (∀ s k, k < 256 → wdogDue s k = true → wdogCounts s k = true → stepOfCore s k = none → (s.core k).golden = none →
    Next (.coreWatchdogExpiry k) s fun t => t = abortCore (hangNoted s k) k ∧ seqRun t k = false)
  ∧ (∀ s k, s.ok = true → k < 256 → dieHeld s (k / 64) = false → getD 0 s.hangLevel k = 1 →
    Next (.hangEscalate k) s fun t =>
      t = { coreResetDo (s.fs (rstBase (k / 64)) Fld.RST_ERR_ABORT_FAIL 1) k with
        hangLevel := setD 0 (coreResetDo (s.fs (rstBase (k / 64)) Fld.RST_ERR_ABORT_FAIL 1) k).hangLevel k 2 })
  ∧ (∀ s k, s.ok = true → k < 256 → dieHeld s (k / 64) = false → getD 0 s.hangLevel k = 2 →
    Next (.hangEscalate k) s fun t =>
      t = { clusterResetDo (s.fs (rstBase (k / 64)) Fld.RST_ERR_RESET_FAIL 1) (k / 8) with
        hangLevel := setD 0 (clusterResetDo (s.fs (rstBase (k / 64)) Fld.RST_ERR_RESET_FAIL 1) (k / 8)).hangLevel k 3 })
  ∧ (∀ s k, dieHeld s (k / 64) = false → getD 0 s.hangLevel k = 3 →
    Next (.hangEscalate k) s fun t => t = dieResetStart { s with hangLevel := setD 0 s.hangLevel k 0 } (k / 64))
  ∧ (∀ s ini c l, Admits s ini (cluBase c + Reg.CLU_LND) l →
    Next (.landingInit ini c) s fun t => t.fb (cluBase c) Fld.CLU_STS_LND_INIT_BUSY = true
      ∧ (∀ a, landBase c ≤ a → a < landBase c + landSize → t.mb a = 0)
      ∧ (∀ a, (a < landBase c ∨ landBase c + landSize ≤ a) → t.mb a = s.mb a))
  ∧ (∀ s d, s.ok = true → d < 4 → dcRuns s d = true →
    Next (.dcHeartbeat d) s fun t =>
      t.fg (dieBase d) Fld.CLU_DC_STS_BEAT = (s.fg (dieBase d) Fld.CLU_DC_STS_BEAT + 1) % 2 ^ 16
      ∧ t.dcWire = setD false s.dcWire d (!getD false s.dcWire d) ∧ t.beatAt = aput s.beatAt d s.nowUs)
  ∧ (∀ s tg c r img, s.ok = true → s.cmd? tg = some c → c.step = some r → c.phase = .loading → r.victims = [] → r.cores ≠ []
      → (∀ k ∈ r.cores, k < 256 ∧ seqRun s k = false ∧ dcRuns s (k / 64) = true)
      → (readAll s (dcIni (r.cores.headD 0 / 64)) c.ctx (parts4k (stepImg s r) (imgSize s r.image))).1 = .ack
      → imgStrDecls s (stepImg s r) = []
      → relocAll r.bases ((imgBindings s (stepImg s r)).map (·.size)) [] r.sems 0 (imgRelocs s (stepImg s r))
          (pkgBytes s (stepImg s r + (imgFind s (stepImg s r) 1).off) (imgFind s (stepImg s r) 1).size) = .ok img
      → imgEntry s (stepImg s r) < cmSize → imgEntry s (stepImg s r) % 8 = 0 →
    Next (.stepLoad tg) s fun t => (∃ c', t.cmd? tg = some c' ∧ c'.phase = .running)
      ∧ ∀ k ∈ r.cores, seqRun t k = true ∧ seqPc t k = imgEntry s (stepImg s r))
  ∧ (∀ s tg c r, s.cmd? tg = some c → c.step = some r → c.phase = .loading → r.victims = [] → r.cores ≠ []
      → (∀ k ∈ r.cores, seqRun s k = false ∧ dcRuns s (k / 64) = true) →
    Next (.stepLoad tg) s fun t => t = loadStep s tg c r)

/-! ### The Pantry and the attention units (R156 to R193) -/

/-- Each of these commands completes, under conditions on the state alone. PAN_CTL starts the initialisation, refuses a
placement that breaks R158, or ends READY; the initialisation ends with the pools of R163, every page waiting for
scrubbing; the scrub engine zero-fills the page at the scrub pointer and no other byte, and counts it free; a track
command that finds the Pantry not ready or busy is answered BUSY. The model's own readings of the spec here: log
entry 38. -/
def Obligations.PantryStartsAndScrubs : Prop :=
  (∀ s ini d l (v : Word), Admits s ini (panBase d + Reg.PAN_CTL) l → bit v.toNat 0 = false →
    Next (.pantryEnable ini d v) s fun t => t.fb (panBase d) Fld.PAN_CTL_EN = false
      ∧ t.fb (panBase d) Fld.PAN_STS_READY = false
      ∧ JustRegs (fun a => a = panBase d + Reg.PAN_CTL ∨ a = panBase d + Reg.PAN_STS) s t)
  ∧ (∀ s ini d l (v : Word), Admits s ini (panBase d + Reg.PAN_CTL) l → bit v.toNat 0 = true
      → s.fb (panBase d) Fld.PAN_CTL_EN = false → placementOk s d = true →
    Next (.pantryEnable ini d v) s fun t => t.fb (panBase d) Fld.PAN_CTL_EN = true
      ∧ t.fb (panBase d) Fld.PAN_STS_READY = false ∧ t = { s with regs := t.regs, ledgerMute := t.ledgerMute })
  ∧ (∀ s ini d l (v : Word), Admits s ini (panBase d + Reg.PAN_CTL) l → bit v.toNat 0 = true
      → s.fb (panBase d) Fld.PAN_CTL_EN = false → placementOk s d = false →
    Next (.pantryEnable ini d v) s fun t => t.fb (panBase d) Fld.PAN_CTL_EN = false ∧ t.fg (panBase d) Fld.PAN_ERR_CFG = 1
      ∧ JustRegs (· = panBase d + Reg.PAN_ERR) s t)
  ∧ (∀ s d, s.ok = true → d < 4 → s.fb (panBase d) Fld.PAN_CTL_EN = true → s.fb (panBase d) Fld.PAN_STS_READY = false →
    Next (.pantryReady d) s fun t => t.fb (panBase d) Fld.PAN_STS_READY = true ∧ t.fg (panBase d) Fld.PAN_TRACKS_OPEN = 0
      ∧ aget t.tcmds d = none ∧ (t.ptRuns.all fun r => !(r.1 == d)) = true
      ∧ ∀ p < 4, poolOn s d p = true → poolFree t d p = 0 ∧ poolScrb t d p = poolPages s d p ∧ poolRsvd t d p = 0
          ∧ poolUsed t d p = 0)
  ∧ (∀ s d p, s.ok = true → d < 4 → p < 4 → s.fb (panBase d) Fld.PAN_STS_READY = true → poolOn s d p = true → 0 < poolScrb s d p
      → 0 < s.fg (panBase d) Fld.PAN_SCRUB_RATE →
    let a := pageAddr s d p (leNat (metaBytes s d (ringEntry s d p (poolFree s d p)) 4).1 % 2 ^ 24)
    Next (.scrubPage d p) s fun t => poolScrb t d p = poolScrb s d p - 1 ∧ poolFree t d p = (poolFree s d p + 1) % 2 ^ 24
      ∧ (∀ x, a ≤ x → x < a + pageBytes s d p → t.mb x = 0)
      ∧ (∀ x, (x < a ∨ a + pageBytes s d p ≤ x) → t.mb x = s.mb x))
  ∧ (∀ i ∈ [Instr.tcmdOpen, .tcmdReset, .tcmdClose, .tcmdQuery, .tcmdCloseCtx], ∀ s ini d l,
      Admits s ini (panBase d + Reg.PAN_TCMD_GO) l
      → s.fb (panBase d) Fld.PAN_STS_READY = false ∨ (aget s.tcmds d).isSome = true →
    Next (i ini d) s fun t => t.fg (panBase d) Fld.PAN_TCMD_STS_RESULT = 1
      ∧ JustRegs (· = panBase d + Reg.PAN_TCMD_STS) s t)

/-- Each track command of R166 to R171 completes on a ready Pantry: OPEN of a free track takes the first free run of table
units, QUERY answers USED and COUNT, RESET, CLOSE and CLOSE_CTX run until their tracks' leases have ended, and then
their tracks are drained; a track that fails the command's checks is answered by its code. The model's own readings of
the spec here: log entry 38. -/
def Obligations.TrackCommandsRun : Prop :=
  (∀ s ini d l u p r y, Admits s ini (panBase d + Reg.PAN_TCMD_GO) l → s.fb (panBase d) Fld.PAN_STS_READY = true
      → aget s.tcmds d = none → (entryRead s d (s.fg (panBase d) Fld.PAN_TCMD_ARG0_TRACK)).1.state = 0
      → s.fg (panBase d) Fld.PAN_TCMD_ARG1_POOL = p → s.fg (panBase d) Fld.PAN_TCMD_ARG1_RING_M1 + 1 = r
      → s.fg (panBase d) Fld.PAN_TCMD_ARG1_LAYERS_M1 + 1 = y → poolOn s d p = true → 2 ≤ r
      → 0 < s.fg (panBase d) Fld.PAN_TCMD_ARG1_WINDOW → s.fg (panBase d) Fld.PAN_TCMD_ARG1_WINDOW ≤ (r - 1) * 32
      → poolRsvd s d p + y * r ≤ poolPages s d p → findRun s d (cdiv (y * blockSize r) 256) = some u →
    Next (.tcmdOpen ini d) s fun t =>
      t.ptRuns = s.ptRuns ++ [(d, u, cdiv (y * blockSize r) 256)]
      ∧ t.fb (panBase d) Fld.PAN_TCMD_STS_BUSY = false)
  ∧ (∀ s ini d l, Admits s ini (panBase d + Reg.PAN_TCMD_GO) l → s.fb (panBase d) Fld.PAN_STS_READY = true
      → aget s.tcmds d = none → trackCheck s d (entryRead s d (s.fg (panBase d) Fld.PAN_TCMD_ARG0_TRACK)).1 = 0 →
    let e := entryRead s d (s.fg (panBase d) Fld.PAN_TCMD_ARG0_TRACK)
    let b := blockRead e.2 d e.1 0
    Next (.tcmdQuery ini d) s fun t => t.rd (panBase d + Reg.PAN_TCMD_RES0) = e.1.used % 2 ^ 32
      ∧ t.rd (panBase d + Reg.PAN_TCMD_RES1) = b.1.1 % 2 ^ 32 ∧ t.fg (panBase d) Fld.PAN_TCMD_STS_RESULT = 0
      ∧ JustRegs (fun a => a = panBase d + Reg.PAN_TCMD_RES0 ∨ a = panBase d + Reg.PAN_TCMD_RES1
          ∨ a = panBase d + Reg.PAN_TCMD_STS ∨ a = panBase d + Reg.PAN_STS) b.2 t)
  ∧ (∀ r ∈ [(Instr.tcmdReset, 2), (.tcmdClose, 3)], ∀ s ini d l, Admits s ini (panBase d + Reg.PAN_TCMD_GO) l
      → s.fb (panBase d) Fld.PAN_STS_READY = true → aget s.tcmds d = none
      → trackCheck s d (entryRead s d (s.fg (panBase d) Fld.PAN_TCMD_ARG0_TRACK)).1 = 0 →
    Next (r.1 ini d) s fun t => aget t.tcmds d = some ⟨r.2, [s.fg (panBase d) Fld.PAN_TCMD_ARG0_TRACK], none⟩
      ∧ t.fb (panBase d) Fld.PAN_TCMD_STS_BUSY = true)
  ∧ (∀ s ini d l, Admits s ini (panBase d + Reg.PAN_TCMD_GO) l → s.fb (panBase d) Fld.PAN_STS_READY = true
      → aget s.tcmds d = none →
    Next (.tcmdCloseCtx ini d) s fun t =>
      aget t.tcmds d = some ⟨5, tracksOf s d (s.fg (panBase d) Fld.PAN_TCMD_ARG0_CTX), none⟩
      ∧ t.fb (panBase d) Fld.PAN_TCMD_STS_BUSY = true)
  ∧ (∀ r ∈ [Instr.tcmdReset, .tcmdClose, .tcmdQuery], ∀ s ini d l, Admits s ini (panBase d + Reg.PAN_TCMD_GO) l
      → s.fb (panBase d) Fld.PAN_STS_READY = true → aget s.tcmds d = none
      → trackCheck s d (entryRead s d (s.fg (panBase d) Fld.PAN_TCMD_ARG0_TRACK)).1 ≠ 0 →
    let e := entryRead s d (s.fg (panBase d) Fld.PAN_TCMD_ARG0_TRACK)
    Next (r ini d) s fun t => t.fg (panBase d) Fld.PAN_TCMD_STS_RESULT = trackCheck s d e.1
      ∧ JustRegs (fun a => a = panBase d + Reg.PAN_TCMD_STS ∨ a = panBase d + Reg.PAN_STS) e.2 t)
  ∧ (∀ s d c, aget s.tcmds d = some c → (∀ t ∈ c.tracks, trackBusy s d t = false) →
    Next (.tcmdLeasesDrained d) s fun t => t.tcmds = adel s.tcmds d)
  ∧ (∀ s d c t0, aget s.tcmds d = some c → t0 ∈ c.tracks → trackBusy s d t0 = true →
    Next (.tcmdLeasesDrained d) s fun t => t = s)

/-- A post enters its cluster's queue of commands and leaves it for its pipeline; SEQ_RST sets every expected sequence
value to 1. The model's own readings of the spec here: log entries 36 and 37. -/
def Obligations.AttentionPostsAndStarts : Prop :=
  (∀ s k m slot (data : List Byte), m < 2 → slot < 16 → data.length = 64
      → (accCheck s (coreIni k (m + 1)) (landBase (k / 8) + ringStart + k % 8 * 0x400 + slot * 64) 64 true).1 = none
      → space s (landBase (k / 8) + ringStart + k % 8 * 0x400 + slot * 64)
          = .landing (k / 8) (ringStart + k % 8 * 0x400 + slot * 64) →
    Next (.attnPost k m slot data) s fun t => t = slotPosted (sramWrite s
      (landBase (k / 8) + ringStart + k % 8 * 0x400 + slot * 64) data) k true data)
  ∧ (∀ s k raw im, s.ok = true → rSeq raw = seqExpect s (k / 8) (k % 8) → seqRun s k = true
      → postedBy (s.att (k / 8)) (fun p => p.core == k) < 16 → s.fb (cluBase (k / 8)) Fld.CLU_CTL_ATTN_EN = true
      → imageOnCore (seqSet s (k / 8) (k % 8) (if seqExpect s (k / 8) (k % 8) = 255 then 1
          else seqExpect s (k / 8) (k % 8) + 1)) k = some im
      → imgAttn (seqSet s (k / 8) (k % 8) (if seqExpect s (k / 8) (k % 8) = 255 then 1
          else seqExpect s (k / 8) (k % 8) + 1)) im = true →
    ∃ p, ((slotPosted s k true raw).att (k / 8)).posts = (s.att (k / 8)).posts ++ [p] ∧ p.core = k ∧ p.raw = raw)
  ∧ (∀ s c p r u, s.ok = true → nextPost (s.att c) = some p → startRun s c (newRun p (appendTurn s (c / 8))) = (r, u) →
    Next (.attnCommandStart c) s fun t => (t.att c).posts = (s.att c).posts.erase p
      ∧ (if rOp p.raw = 1 then (t.att c).app = some r else (t.att c).att = some r) ∧ SameMem u t)
  ∧ (∀ s ini c l (v : Word), Admits s ini (attBase c + Reg.PAN_ATT_CTL) l → bit v.toNat 0 = true →
    Next (.panAttSeqRst ini c v) s fun t => t.rd (attBase c + Reg.PAN_ATT_SEQ0) = 0x01010101
      ∧ t.rd (attBase c + Reg.PAN_ATT_SEQ1) = 0x01010101
      ∧ JustRegs (fun a => a = attBase c + Reg.PAN_ATT_SEQ0 ∨ a = attBase c + Reg.PAN_ATT_SEQ1) s t)

/-- Appends run to their end or wait for leases; an attention over no token writes +0 and answers EMPTY; a table outside
its rules ends the command with its status; a decided command completes: its completion word is written and its
pipeline is free. The model's own readings of the spec here: log entries 36 and 37. -/
def Obligations.AttentionCommandsComplete : Prop :=
  (∀ s c r, s.ok = true → (s.att c).app = some r → r.status = none → appendAhead s c r = false → r.row ≠ 0
      → rN r.post.raw ≤ r.row →
    Next (.attnAppend c) s fun t => (t.att c).app = some { r with status := some 0, total := r.row })
  ∧ (∀ s c r, (s.att c).app = some r → r.waits = [] → Next (.pageRecycleResume c) s fun t => t = appendGo s c)
  ∧ (∀ s c r w ws, (s.att c).app = some r → r.waits = w :: ws → Next (.pageRecycleResume c) s fun t => t = s)
  ∧ (∀ s c r, s.ok = true → attending s c 2 = some r → visibleBlocks s (c / 8) r = [] →
    Next (.attnSelf c) s fun t => (t.att c).att = some { r with status := some 1 }
      ∧ (∀ a, cmBase r.post.core + rOut r.post.raw ≤ a
          → a < cmBase r.post.core + rOut r.post.raw + rN r.post.raw * rH r.post.raw
              * outLen r.post.raw (poolD s (c / 8) r.pool) * outSize r.post.raw → t.mb a = 0)
      ∧ (∀ a, (a < cmBase r.post.core + rOut r.post.raw
          ∨ cmBase r.post.core + rOut r.post.raw + rN r.post.raw * rH r.post.raw
              * outLen r.post.raw (poolD s (c / 8) r.pool) * outSize r.post.raw ≤ a) → t.mb a = s.mb a))
  ∧ (∀ s c r bs u, attending s c 2 = some r → visibleBlocks s (c / 8) r ≠ []
      → readBlocks c r.post.ctx (fmtOf (poolFmt s (c / 8) r.pool)) (poolD s (c / 8) r.pool) (visibleBlocks s (c / 8) r) [] s
          = (.ok bs, u) →
    Next (.attnSelf c) s fun t => t = finishAttend c (attCompute u c r (poolD s (c / 8) r.pool) bs))
  ∧ (∀ s c r tbl, s.ok = true → attending s c 3 = some r → attSram s (landBase c + rSeg r.post.raw) 128 = (.ok tbl, s)
      → (∃ g ∈ segmentsOf r.post.raw tbl, rTok r.post.raw < g.1 + g.2) →
    Next (.attnCross c) s fun t => (t.att c).att = some (r.fail 0x11) ∧ SameMem s t)
  ∧ (∀ s c r tbl, s.ok = true → attending s c 3 = some r → attSram s (landBase c + rSeg r.post.raw) 128 = (.ok tbl, s)
      → (∀ g ∈ segmentsOf r.post.raw tbl, g.2 = 0 ∧ g.1 ≤ rTok r.post.raw) →
    Next (.attnCross c) s fun t => (t.att c).att = some { r with status := some 1 })
  ∧ (∀ s c b r st, s.ok = true → (if b then (s.att c).att else (s.att c).app) = some r → r.status = some st → st < 256
      → earlierRuns (if b then (s.att c).app else (s.att c).att) r = false
      → rDone r.post.raw % 4 = 0 → rDone r.post.raw + 4 ≤ cmSize →
    Next (.attnComplete c b) s fun t => (if b then (t.att c).att else (t.att c).app) = none
      ∧ t.mnat (cmBase r.post.core + rDone r.post.raw) 4
          = rSeq r.post.raw + st * 256 + min (if st < 0x10 then r.total else 0) 0xFFFF * 65536
      ∧ ∀ a, (a < cmBase r.post.core + rDone r.post.raw ∨ cmBase r.post.core + rDone r.post.raw + 4 ≤ a) → t.mb a = s.mb a)

/-! ### The system cache and the memory ports (R194 to R222) -/

/-- The system cache answers a read whose lines it holds, with the bytes of the writes that have passed it, and sends
other requests on to the memory port. A channel serves the line that its scheduler picks; a request of one line that
waits alone is served and answered: with its data, poisoned where its line or a queue's parity is bad, or with its
acknowledgement once its bytes are stored. A write whose sector the cache holds first sends an invalidate, which the
cache acknowledges. An idle row closes. The model's own readings of the spec here: log entries 14, 34 and 78. -/
def Obligations.MemoryPortsServe : Prop :=
  (∀ s r, s.ok = true → firstReq s .iod none = some r → r.write = false → scOn s = false →
    Next .scRead s fun t => t = toPort s r)
  ∧ (∀ s r, s.ok = true → firstReq s .iod none = some r → r.write = false → r.dead = false → scOn s = true
      → (∀ l ∈ reqLines s r, ∃ x, scFind s l = some x ∧ x.mark = 0) →
    Next .scRead s fun t => t.reqs = s.reqs.erase r ∧ SameMem s t
      ∧ t.resps = s.resps ++ [r.resp s .data 0 (cachedBytes s (physOf s r.addr) r.len)])
  ∧ (∀ s r, firstReq s .iod none = some r → r.write = true →
    Next .scWrite s fun t => t.reqs = (toPort s r).reqs ∧ t.resps = s.resps ∧ SameMem s t)
  ∧ (∀ s d ch par r l u, schedule (grantAll d s.reqs.length s) d ch = (some (r, l), u) → r.write = false →
    Next (.dramRead ⟨d, ch, par⟩) s fun t => t = burstDone (readLine u r l par) d ch false l)
  ∧ (∀ s d ch r l, s.ok = true → (ksorted none s.openRows = true ∨ rowIsOpen s l = true) → aloneAt s d ch r l
      → r.write = false → r.data = [] → (getD 0 s.dram l = 0 ∨ eccOn s d = false) →
    Next (.dramRead ⟨d, ch, false⟩) s fun t => t.reqs = [] ∧ SameMem s t
      ∧ t.resps = s.resps ++ [r.resp s .data 0 (s.mrd (physOf s r.addr) r.len)])
  ∧ (∀ s d ch par r l, s.ok = true → (ksorted none s.openRows = true ∨ rowIsOpen s l = true) → aloneAt s d ch r l
      → r.write = false → scServes s r.ini l = false → getD 0 s.dram l = 2 → eccOn s d = true →
    Next (.dramRead ⟨d, ch, par⟩) s fun t => t.reqs = [] ∧ t.resps = s.resps ++ [r.resp s .poison 0 []]
      ∧ t.fb (memBase d) Fld.MEM_DIE_ERR_UE_DATA = true)
  ∧ (∀ s d ch r l, s.ok = true → (ksorted none s.openRows = true ∨ rowIsOpen s l = true) → aloneAt s d ch r l
      → r.write = false → scServes s r.ini l = false → (getD 0 s.dram l = 0 ∨ eccOn s d = false) →
    Next (.dramRead ⟨d, ch, true⟩) s fun t => t.reqs = [] ∧ t.resps = s.resps ++ [r.resp s .poison 0 []]
      ∧ t.fb (memBase d) Fld.MEM_DIE_ERR_UE_ADDR = true)
  ∧ (∀ s d ch r l u, schedule (grantAll d s.reqs.length s) d ch = (some (r, l), u) → r.write = true →
    Next (.dramWrite ⟨d, ch⟩) s fun t => t = burstDone (writeLine u r l) d ch true l)
  ∧ (∀ s d ch r l, s.ok = true → (ksorted none s.openRows = true ∨ rowIsOpen s l = true) → aloneAt s d ch r l
      → r.write = true → r.data.length = r.len → ((scGroup r.ini).isSome = true ∨ s.scSects.contains (l / 64) = false) →
    Next (.dramWrite ⟨d, ch⟩) s fun t => t.mrd (physOf s r.addr) r.len = r.data
      ∧ (∀ a, (a < physOf s r.addr ∨ physOf s r.addr + r.len ≤ a) → t.mb a = s.mb a)
      ∧ t.reqs = [] ∧ t.resps = s.resps ++ [r.resp s .ack 0 []])
  ∧ (∀ s d ch r l, s.ok = true → (ksorted none s.openRows = true ∨ rowIsOpen s l = true) → aloneAt s d ch r l
      → r.write = true → r.data.length = r.len → scGroup r.ini = none → s.scSects.contains (l / 64) = true →
    Next (.dramWrite ⟨d, ch⟩) s fun t => t.mrd (physOf s r.addr) r.len = r.data
      ∧ (∃ g, t.reqs = [{ r with todo := [], stage := .inv, grant := g }]) ∧ t.resps = s.resps)
  ∧ (∀ s r, firstReq s .inv none = some r → canPass s [5 * reqDie s r + 4] 0 (invMsgs s 4 r).1 = true →
    Next .inv s fun t => t.reqs = (restage s r .ack).reqs ∧ (∀ x ∈ t.sc, x.line ∉ reqLines s r) ∧ SameMem s t)
  ∧ (∀ s d r, firstReq s .ack (some d) = some r → r.dead = false → canPass s [20 + d] 1 (invMsgs s 9 r).1 = true →
    Next (.invack d) s fun t => t.reqs = s.reqs.erase r ∧ t.resps = s.resps ++ [r.resp s .ack 0 []] ∧ SameMem s t)
  ∧ (∀ s d ch bank, bankWaits s d ch bank = false →
    Next (.rowIdleClose d ch bank) s fun t => t = { s with
      openRows := setD 0 s.openRows (256 * d + 16 * ch + bank) 0, checkBurst := setD 0 s.checkBurst (256 * d + 16 * ch + bank) 0 })

/-- Refresh counts and closes the channel's rows, the patrol reads its next line, INIT trains and its end leaves the die
initialised (zero where ECC is active), the error log clears, the window and the cache's invalidation are set. The
model's own readings of the spec here: log entries 34 and 35. -/
def Obligations.MemoryIsMaintained : Prop :=
  (∀ s d ch mr4, s.ok = true → dieHeld s d = false → s.fb (memBase d + 0x100 * ch) Fld.MEM_CH_STS_TRAINED = true
      → s.fb (memBase d + 0x100 * ch) Fld.MEM_CH_STS_SR = false
      → (s.fg (memBase d + 0x100 * ch) Fld.MEM_CH_REFCNT_COUNT + 1) % 8 ≠ 0 →
    Next (.refreshWindow d ch mr4) s fun t =>
      t.fg (memBase d + 0x100 * ch) Fld.MEM_CH_REFCNT_COUNT
        = (s.fg (memBase d + 0x100 * ch) Fld.MEM_CH_REFCNT_COUNT + 1) % 2 ^ 32
      ∧ t.openRows = kdrop (fun k => k / 16 == 16 * d + ch) s.openRows
      ∧ t.checkBurst = kdrop (fun k => k / 16 == 16 * d + ch) s.checkBurst
      ∧ t = { s with regs := t.regs, openRows := t.openRows, checkBurst := t.checkBurst }
      ∧ OnlyRegs (· = memBase d + 0x100 * ch + Reg.MEM_CH_REFCNT) s t)
  ∧ (∀ s d ch, s.fb (memBase d) Fld.MEM_DIE_CTL_PATROL_EN = true → s.fb (memBase d) Fld.MEM_DIE_STS_INIT_DONE = true
      → max 1 (s.fg (memBase d) Fld.MEM_PATROL_INTERVAL)
          ≤ (2 ^ 32 + refCnt s d ch - getD 0 s.patrolRef (16 * d + ch)) % 2 ^ 32 →
    Next (.patrolRead d ch) s fun t => t = patrolRead s d ch)
  ∧ (∀ s ini d l, Admits s ini (memBase d + Reg.MEM_DIE_CTL) l → s.fb (memBase d) Fld.MEM_DIE_STS_INIT_DONE = false
      → (s.training.any fun x => x.1 == d) = false →
    Next (.memInit ini d) s fun t => t.training = s.training ++ [(d, s.fb (memBase d) Fld.MEM_DIE_CTL_ECC_EN)]
      ∧ t = { s with regs := t.regs, training := t.training } ∧ OnlyRegs (· = memBase d + Reg.MEM_DIE_CTL) s t)
  ∧ (∀ s d ecc, d < 4 → s.ok = true → (s.training.find? fun x => x.1 == d) = some (d, ecc) →
    Next (.memInitDone d 0) s fun t => t.fb (memBase d) Fld.MEM_DIE_STS_INIT_DONE = true
      ∧ t.fb (memBase d) Fld.MEM_DIE_STS_ECC_ACTIVE = ecc
      ∧ (∀ c < 16, t.fb (memBase d + 0x100 * c) Fld.MEM_CH_STS_TRAINED = true)
      ∧ (ecc = true → ∀ a, d * 0x800000000 ≤ a → a < (d + 1) * 0x800000000 → t.mb a = 0)
      ∧ ∀ a, (a < d * 0x800000000 ∨ (d + 1) * 0x800000000 ≤ a) → t.mb a = s.mb a)
  ∧ (∀ s d fail, d < 4 → s.ok = true → (s.training.any fun x => x.1 == d) = true → fail % 65536 ≠ 0 →
    Next (.memInitDone d fail) s fun t => t.fg (memBase d) Fld.MEM_DIE_STS_CH_FAIL = fail % 65536
      ∧ t.fb (memBase d) Fld.MEM_DIE_ERR_TRAIN_FAIL = true ∧ SameMem s t)
  ∧ (∀ s ini d l, Admits s ini (memBase d + Reg.MEM_ELOG_CLR) l →
    Next (.elogClear ini d) s fun t => t.fg (memBase d) Fld.MEM_ELOG_STS_COUNT = 0 ∧ t.fg (memBase d) Fld.MEM_ELOG_STS_OVF = 0
      ∧ JustRegs (· = memBase d + Reg.MEM_ELOG_STS) s t)
  ∧ (∀ s ini l (v : Word), Admits s ini (memIBase + Reg.MEM_IL_CTL) l → bit (s.rd (memIBase + Reg.MEM_IL_CTL)) 0 = false
      → (bit v.toNat 0 = true → ilValid s (bits v.toNat 6 1) (bits v.toNat 12 8) = true) →
    Next (.ilWindowWrite ini v) s fun t =>
      t.rd (memIBase + Reg.MEM_IL_CTL) = b2n (bit v.toNat 0) + 2 * bits v.toNat 6 1 + 2 ^ 8 * bits v.toNat 12 8
      ∧ t.fg memIBase Fld.MEM_IL_STS_SYNC = 0
      ∧ JustRegs (fun a => a = memIBase + Reg.MEM_IL_CTL ∨ a = memIBase + Reg.MEM_IL_STS) s t)
  ∧ (∀ s ini l (v : Word), Admits s ini (memIBase + Reg.MEM_SC_CTL) l → bit v.toNat 1 = true →
    Next (.scInvalidateAll ini v) s fun t => t.sc = [] ∧ t.scSects = [] ∧ t.fb memIBase Fld.MEM_SC_CTL_INV_BUSY = true
      ∧ t = { s with regs := t.regs, sc := [], scSects := [] } ∧ OnlyRegs (· = memIBase + Reg.MEM_SC_CTL) s t)

/-! ### Links (R226 to R260, R343) -/

/-- A module trains, comes up with all its lanes and full credits, drops to a half when a lane fails, on a die link and
on the host port, retrains when a retrain is due, goes down; the latched ledger terms are compared and cleared; a route
change waits for the open diagonal requests. The model's own readings of the spec here: log entries 30, 31 and 77. -/
def Obligations.LinksTrainAndChange : Prop :=
  (∀ s e, s.ok = true → e < 26 → endFitted s e = true → mayTrain s e = true → s.fg (portBase e) Fld.DDL_STS_STATE = 0 →
    Next (.linkTraining e) s fun t => t = setLinkState s e 1 0 ∧ t.fg (portBase e) Fld.DDL_STS_STATE = 1)
  ∧ (∀ s e f rx tx, s.ok = true → farEnd s e = some f → s.fg (portBase e) Fld.DDL_STS_STATE = 1
      → failedInto s e rx = 0 → failedFrom s e tx = 0 → (linkEnd s e).unacked = [] → (linkEnd s f).unacked = [] → Quiet s →
    Next (.linkUp e rx tx) s fun t => t.fg (portBase e) Fld.DDL_STS_STATE = 2 ∧ t.fg (portBase f) Fld.DDL_STS_STATE = 2
      ∧ linkEnd t e = { LinkEnd.down with creds := bufSizes e } ∧ linkEnd t f = { LinkEnd.down with creds := bufSizes f }
      ∧ SameMem s t)
  ∧ (∀ s e f rx tx, farEnd s e = some f → s.fg (portBase e) Fld.DDL_STS_STATE = 1 →
    Next (.linkUp e rx tx) s fun t => t = settleFabric (linkTrained s e f rx tx))
  ∧ (∀ s e lane lock m, s.ok = true → endFitted s e = true → e < 26 → lane < 68 → s.fg (portBase e) Fld.DDL_STS_STATE = 2
      → (lock = true ∨ laneNamed s e lane = true) → laneFor s e lane = some m → bit (s.fg secBase Fld.SEC_UNITS_DEAD) 3 = false →
    Next (.laneHardFail e ⟨lane, lock⟩) s fun t => t.fg (portBase e) Fld.DDL_STS_STATE = 3
      ∧ t.fg (portBase e) Fld.DDL_STS_HALF_HI = b2n (decide (m < 32)) ∧ t.fb (portBase e) Fld.DDL_ERR_LANE_HARD = true)
  ∧ (∀ s e lane lock m, s.ok = true → 26 ≤ e → e < 30 → s.fg (hostBase (e - 26)) Fld.HP_MOD_STS_STATE = 2
      → (lock = true ∨ laneNamed s e lane = true) → laneFor s e lane = some m → bit (s.fg secBase Fld.SEC_UNITS_DEAD) 3 = false →
    Next (.laneHardFail e ⟨lane, lock⟩) s fun t => t.fg (hostBase (e - 26)) Fld.HP_MOD_STS_STATE = 3
      ∧ t.fg (hostBase (e - 26)) Fld.HP_MOD_STS_HALF_HI = b2n (decide (m < 32)) ∧ SameMem s t)
  ∧ (∀ s e lane, laneNamed s e lane = false → Next (.laneHardFail e ⟨lane, false⟩) s fun t => t = s)
  ∧ (∀ s e, s.ok = true → endFitted s e = true → e < 26 → linkUp s e = true → mayRetrain s e = true →
    Next (.linkRetrain e true) s fun t => t.fb (portBase e) Fld.DDL_ERR_RETRAIN = true
      ∧ (linkEnd t e).retries = [] ∧ (linkEnd t e).retrain = false)
  ∧ (∀ s e, endFitted s e = true → e < 26 → s.fg (portBase e) Fld.DDL_STS_STATE ≠ 0 →
    Next (.moduleDown e) s fun t => t = moduleDown s e)
  ∧ (∀ s ini d l (v : Word), d < 4 → Admits s ini (ddlBase d + Reg.DDL_ROUTE) l →
    Next (.routeChange ini d v) s fun t => t.fg (ddlBase d) Fld.DDL_ROUTE_MODE = v.toNat % 4
      ∧ ((List.range 2).map (curVia t d) ≠ (List.range 2).map (curVia s d) →
          t.fg (ddlBase d) Fld.DDL_ROUTE_CHG_BUSY = b2n (diagonalOpen s d))
      ∧ t = { s with regs := t.regs, routes := t.routes } ∧ OnlyRegs (· = ddlBase d + Reg.DDL_ROUTE) s t)
  ∧ (∀ s e f terms, s.ok = true → farEnd s e = some f
      → (∀ v < 4, ((linkEnd s e).txLatch.getD v 0 + (linkEnd s f).rxLatch.getD v 0) % 2 ^ 32 = (bufSizes e).getD v 0)
      → (∀ v < 4, ((linkEnd s f).txLatch.getD v 0 + (linkEnd s e).rxLatch.getD v 0) % 2 ^ 32 = (bufSizes f).getD v 0) →
    Next (.ledgerSidebandExchange e terms) s fun t => t = { s with links := t.links }
      ∧ (linkEnd t e).txLatch = [] ∧ (linkEnd t e).rxLatch = [] ∧ (linkEnd t f).txLatch = [] ∧ (linkEnd t f).rxLatch = [])

/-- Flits with the expected SEQ are taken in order and a good one moves the receiver on, after 16 or 64 of them with an
acknowledgement; one that fails its CRC or comes out of order asks for a replay; an acknowledgement, a NAK or a time-out
moves the replay buffer; a MSG passes on VC3. The model's own readings of the spec here: log entries 30, 73 and 77. -/
def Obligations.FlitsAreRetried : Prop :=
  (∀ s e (b : List Byte) lanes ce ms p, s.ok = true → Quiet s → linkUp s e = true → b.length = 256
      → bits (byteAt b 1) 7 4 = 0 → (injected (fecCount s e ce false) e (leAt b 0 2 % 4096)).1 = false
      → crc64 (b.take 248) = leAt b 248 8 → leAt b 0 2 % 4096 = (linkEnd s e).rxSeq
      → parsePayload (linkKind e) ((b.drop 8).take 240) (linkEnd s e) = some (ms, p)
      → (∀ m ∈ mates e, (linkEnd s m).unacked = []) → (linkEnd s e).ackDue + 1 < ackEvery e →
    Next (.flitReceive e ⟨b, lanes, ce, false⟩) s fun t => (linkEnd t e).rxSeq = ((linkEnd s e).rxSeq + 1) % 4096
      ∧ (linkEnd t e).ackDue = (linkEnd s e).ackDue + 1 ∧ (linkEnd t e).nakSent = false ∧ (linkEnd t e).heard = true
      ∧ t.emits = s.emits ++ (ms.filter (·.vc.isSome)).map (fun m => ⟨"MESSAGE", e, flitWords m.bytes⟩) ∧ SameMem s t)
  ∧ (∀ s e (b : List Byte) lanes ce ms p, s.ok = true → Quiet s → linkUp s e = true → b.length = 256
      → bits (byteAt b 1) 7 4 = 0 → (injected (fecCount s e ce false) e (leAt b 0 2 % 4096)).1 = false
      → crc64 (b.take 248) = leAt b 248 8 → leAt b 0 2 % 4096 = (linkEnd s e).rxSeq
      → parsePayload (linkKind e) ((b.drop 8).take 240) (linkEnd s e) = some (ms, p)
      → (∀ m ∈ mates e, (linkEnd s m).unacked = []) → ackEvery e ≤ (linkEnd s e).ackDue + 1 →
    Next (.flitReceive e ⟨b, lanes, ce, false⟩) s fun t => (linkEnd t e).rxSeq = ((linkEnd s e).rxSeq + 1) % 4096
      ∧ (linkEnd t e).ackDue = 0 ∧ SameMem s t
      ∧ ∃ f, t.emits.getLast? = some ⟨"FLIT", e, flitWords f⟩ ∧ byteAt f 1 / 16 = 1
          ∧ leAt f 2 2 % 4096 = leAt b 0 2 % 4096)
  ∧ (∀ s e (b : List Byte) lanes ce, s.ok = true → Quiet s → linkUp s e = true → b.length = 256
      → bits (byteAt b 1) 7 4 = 0 → (injected (fecCount s e ce false) e (leAt b 0 2 % 4096)).1 = false
      → crc64 (b.take 248) = leAt b 248 8 → leAt b 0 2 % 4096 ≠ (linkEnd s e).rxSeq → (linkEnd s e).nakSent = false →
    Next (.flitReceive e ⟨b, lanes, ce, false⟩) s fun t => (linkEnd t e).nakSent = true
      ∧ (linkEnd t e).rxSeq = (linkEnd s e).rxSeq ∧ SameMem s t
      ∧ ∃ f, t.emits = s.emits ++ [⟨"FLIT", e, flitWords f⟩] ∧ byteAt f 1 / 16 = 2
          ∧ leAt f 2 2 % 4096 = ((linkEnd s e).rxSeq + 4095) % 4096)
  ∧ (∀ s e (b : List Byte) lanes ce unc, linkUp s e = true → b.length = 256 → bits (byteAt b 1) 7 4 ≠ 0
      → (unc = true ∨ crc64 (b.take 248) ≠ leAt b 248 8) →
    Next (.flitReceive e ⟨b, lanes, ce, unc⟩) s fun t =>
      t = settleFabric (sendNak (crcError (nameLanes (fecCount s e ce unc) e lanes) e) e))
  ∧ (∀ s e seq, s.ok = true → linkUp s e = true → (ackUpTo s.nowUs (linkEnd s e) seq).unacked ≠ [] →
    Next (.nakReceive e seq) s fun t =>
      (linkEnd t e).unacked = (ackUpTo s.nowUs (linkEnd s e) seq).unacked.map (fun f => { f with bad := false })
      ∧ (linkEnd t e).since = s.nowUs ∧ (linkEnd t e).creds = (linkEnd s e).creds
      ∧ t.emits = s.emits ++ (ackUpTo s.nowUs (linkEnd s e) seq).unacked.map
          (fun f => ⟨"FLIT", e, flitWords (flitBytes (linkEnd s e) 0 f.seq [0, 0, 0, 0] f.payload false)⟩)
      ∧ t = { s with regs := t.regs, links := t.links, emits := t.emits })
  ∧ (∀ s e, s.ok = true → linkUp s e = true → (linkEnd s e).unacked ≠ [] → (linkEnd s e).since + replayAfter e ≤ s.nowUs →
    Next (.replayTimeout e) s fun t => (linkEnd t e).unacked = (linkEnd s e).unacked.map (fun f => { f with bad := false })
      ∧ (e < 26 → t.fb (portBase e) Fld.DDL_ERR_REPLAY_TO = true)
      ∧ t.emits = s.emits ++ (linkEnd s e).unacked.map
          (fun f => ⟨"FLIT", e, flitWords (flitBytes (linkEnd s e) 0 f.seq [0, 0, 0, 0] f.payload false)⟩)
      ∧ t = { s with regs := t.regs, links := t.links, emits := t.emits })
  ∧ (∀ s e, s.nowUs < (linkEnd s e).since + replayAfter e → Next (.replayTimeout e) s fun t => t = s)
  ∧ (∀ s e, s.ok = true → linkUp s e = true → holdsVc0 s e = false →
    Next (.ackSend e) s fun t => (linkEnd t e).ackDue = 0
      ∧ (linkEnd t e).owed = (linkEnd s e).owed.map (fun x => x - min x 255)
      ∧ t = { s with regs := t.regs, links := t.links, emits := t.emits }
      ∧ ∃ f, t.emits = s.emits ++ [⟨"FLIT", e, flitWords f⟩] ∧ byteAt f 1 / 16 = 1
          ∧ leAt f 2 2 % 4096 = ((linkEnd s e).rxSeq + 4095) % 4096)
  ∧ (∀ s f d ws, dieMsgCan s f d = true →
    Next (.msg f d ws) s fun t => t = sendDieMsg s f d ws ∧ t.emits.getLast? = some ⟨"MSG", d, f :: ws⟩ ∧ SameMem s t
      ∧ (f = d → t = s.emit "MSG" d (f :: ws)))
  ∧ (∀ s f d ws, dieMsgCan s f d = false → Next (.msg f d ws) s fun t => t = s)

/-- Span links train to the width that their lanes give and send CAP, exchange CAP, discover routes, and take messages:
an expired TTL drops, a request outside every window is refused with 0x03, a SEM in a window reaches its unit, a response
is delivered. The model's own readings of the spec here: log entries 32, 73 and 77. -/
def Obligations.SpanLinksWork : Prop :=
  (∀ s x opn shrt pol rev, x < 4 → s.ok = true → s.fb spnBase Fld.SPN_CTL_EN = true → spanLanes s x ≠ 0 → spanUp s x = false
      → bit (s.fg secBase Fld.SEC_UNITS_DEAD) 3 = false → spanWidth (spanLanes s x) (Nat.lor opn shrt) ≠ []
      → (linkEnd s (30 + x)).unacked = [] →
    Next (.spanLinkTrain x opn shrt pol rev) s fun t => spanUp t x = true
      ∧ t.fg (subBase x) Fld.SPN_S_STS_WIDTH = (spanWidth (spanLanes s x) (Nat.lor opn shrt)).length
      ∧ (linkEnd t (30 + x)).txSeq = 1 ∧ (linkEnd t (30 + x)).rxSeq = 0
      ∧ (linkEnd t (30 + x)).unacked.map (fun f => (f.seq, f.vc, f.units)) = [(0, 3, 5)]
      ∧ t.emits.getLast? = some ⟨"CAP", x, capWords t x⟩ ∧ SameMem s t)
  ∧ (∀ s x pkg part, s.ok = true → spanUp s x = true → pkg < 4096 → pkg ≠ s.fg spnBase Fld.SPN_PKG_ID_ID →
    Next (.cap x pkg part 1) s fun t => t.fg (subBase x) Fld.SPN_S_STS_PEER_PKG = pkg
      ∧ JustRegs (· = subBase x + Reg.SPN_S_STS) s t)
  ∧ (∀ s x part, x < 4 → s.ok = true → spanUp s x = true →
    Next (.cap x (s.fg spnBase Fld.SPN_PKG_ID_ID) part 1) s fun t => t.fg (subBase x) Fld.SPN_S_STS_STATE = 4
      ∧ t.fb spnBase Fld.SPN_ERR_DUP_ID = true ∧ SameMem s t)
  ∧ (∀ s x lane, x < 4 → lane < 4 → s.ok = true → spanUp s x = true
      → bit (s.rd (subBase x + Reg.SPN_S_LANE)) (4 * lane + 3) = true →
    Next (.spanLaneFault x lane) s fun t => t.fb (subBase x) Fld.SPN_S_ERR_LANE = true
      ∧ bit (t.rd (subBase x + Reg.SPN_S_LANE)) (4 * lane + 1) = true ∧ SameMem s t)
  ∧ (∀ s ini l, Admits s ini (spnBase + Reg.SPN_CTL) l →
    Next (.spanDiscovery ini) s fun t => t.discovering = true ∧ t.fb spnBase Fld.SPN_STS_DISC_DONE = false ∧ SameMem s t)
  ∧ (∀ s routes, s.ok = true → s.discovering = true →
    Next (.spanDiscoveryDone routes) s fun t => t.discovering = false ∧ t.fb spnBase Fld.SPN_STS_DISC_DONE = true
      ∧ t.fb dspBase Fld.DSP_CTL_ROT_EN = decide (t.reachable.length < 2) ∧ SameMem s t)
  ∧ (∀ s x dst src mt tx a n data sem op cnt cls urg rini, s.ok = true → spanUp s x = true
      → dst ≠ s.fg spnBase Fld.SPN_PKG_ID_ID →
    Next (.spanMessageIn x dst ⟨src, rini, cls, urg⟩ 0 mt tx a n data sem ⟨op, cnt⟩) s fun t =>
      t.fb spnBase Fld.SPN_ERR_TTL_DROP = true ∧ JustRegs (· = spnBase + Reg.SPN_ERR) s t)
  ∧ (∀ s x src ttl tx a n data sem op cnt cls urg rini, s.ok = true → spanUp s x = true
      → (∀ i < 8, spanAdmits s ⟨x, s.fg spnBase Fld.SPN_PKG_ID_ID, src, ttl, 1, tx, a, n, data, sem, op, cnt, cls, urg, rini⟩ i = false) →
    Next (.spanMessageIn x (s.fg spnBase Fld.SPN_PKG_ID_ID) ⟨src, rini, cls, urg⟩ ttl 1 tx a n data sem ⟨op, cnt⟩) s fun t =>
      t.fb spnBase Fld.SPN_ERR_WIN_REJECT = true
      ∧ (∃ r : Resp, t.resps = s.resps ++ [r] ∧ r.ini = 0x806 + x / 2 ∧ r.txid = tx ∧ r.kind = .err ∧ r.code = 3
          ∧ r.mod = x + 4 * src)
      ∧ t = { s with regs := t.regs, resps := t.resps } ∧ OnlyRegs (fun a => a = spnBase + Reg.SPN_ERR ∨ spanUrgReg a) s t)
  ∧ (∀ s x src ttl tx a n data sem op cnt cls urg rini i, i < 8 → spanUp s x = true
      → spanAdmits s ⟨x, s.fg spnBase Fld.SPN_PKG_ID_ID, src, ttl, 3, tx, a, n, data, sem, op, cnt, cls, urg, rini⟩ i = true →
    Next (.spanMessageIn x (s.fg spnBase Fld.SPN_PKG_ID_ID) ⟨src, rini, cls, urg⟩ ttl 3 tx a n data sem ⟨op, cnt⟩) s fun t =>
      t.semMsgs = s.semMsgs ++ [⟨.span (x + 4 * src) tx, sem, op, false, 0, 0, cls, 0, if op = 3 then cnt else 1, 0, 0⟩]
      ∧ t = { s with regs := t.regs, semMsgs := t.semMsgs } ∧ OnlyRegs spanUrgReg s t)
  ∧ (∀ s x src ttl mt tx a n data sem op cnt cls urg rini, spanUp s x = true → isSpanReq mt = false →
    Next (.spanMessageIn x (s.fg spnBase Fld.SPN_PKG_ID_ID) ⟨src, rini, cls, urg⟩ ttl mt tx a n data sem ⟨op, cnt⟩) s fun t =>
      t = s.emit "SPAN_DELIVER" x (src :: mt :: tx :: data.map (·.toNat)))

/-! ### The host port (R256 to R272, R295) -/

/-- A host module trains once both sides speak version 1; the sideband carries its parameters; a request that a window
admits goes to its memory or waits at the port for credits, one that none admits is refused with 0x01 and recorded, one of
a wrong size with 0x05; when the last module goes down every host request is dropped, and while another is up that one
answers them. The model's own readings of the spec here: log entries 33 and 77. -/
def Obligations.HostPortAdmits : Prop :=
  (∀ s m rx tx, m < 4 → s.ok = true → bit (s.fg hpBase Fld.HP_CTL_MOD_EN) m = true → linkUp s (26 + m) = false
      → s.hostProto ≠ some 1 →
    Next (.hostModuleTrain m rx tx) s fun t => t.fg (hostBase m) Fld.HP_MOD_STS_STATE = 1
      ∧ JustRegs (· = hostBase m + Reg.HP_MOD_STS) s t)
  ∧ (∀ s m rx tx, m < 4 → s.ok = true → bit (s.fg hpBase Fld.HP_CTL_MOD_EN) m = true → linkUp s (26 + m) = false
      → s.hostProto = some 1 → failedInto s (26 + m) rx = 0 → failedFrom s (26 + m) tx = 0 →
    Next (.hostModuleTrain m rx tx) s fun t => t.fg (hostBase m) Fld.HP_MOD_STS_STATE = 2)
  ∧ (∀ s v, s.ok = true → Next (.sidebandParam 0 v) s fun t => t.hostProto = some v
      ∧ t.fg hpBase Fld.HP_STS_PROTO_MISMATCH = b2n (!(v == 1))
      ∧ t = { s with regs := t.regs, hostProto := t.hostProto, emits := t.emits })
  ∧ (∀ s m req tx wr a n (data : List Byte), HostFlows s m
      → hostSizeOk ⟨m, reqField s req, tx, wr, a, n, if wr then data else []⟩ = true
      → hostAdmits s ⟨m, reqField s req, tx, wr, a, n, if wr then data else []⟩ = true
      → (accCheck s (0xE00 + reqField s req) a n wr).1 = none
      → reqWaits s (hostRequest s ⟨m, reqField s req, tx, wr, a, n, if wr then data else []⟩) = false →
    Next (.hostRequest m req tx wr a n data) s fun t =>
      t.reqs = s.reqs ++ [{ hostRequest s ⟨m, reqField s req, tx, wr, a, n, if wr then data else []⟩ with
        stage := .iod, path := reqPath s (0xE00 + reqField s req) a }] ∧ SameMem s t)
  ∧ (∀ s m req tx wr a n (data : List Byte), HostFlows s m
      → hostSizeOk ⟨m, reqField s req, tx, wr, a, n, if wr then data else []⟩ = true
      → hostAdmits s ⟨m, reqField s req, tx, wr, a, n, if wr then data else []⟩ = true
      → (accCheck s (0xE00 + reqField s req) a n wr).1 = none
      → reqWaits s (hostRequest s ⟨m, reqField s req, tx, wr, a, n, if wr then data else []⟩) = true →
    Next (.hostRequest m req tx wr a n data) s fun t =>
      t = { s with reqs := s.reqs ++ [hostRequest s ⟨m, reqField s req, tx, wr, a, n, if wr then data else []⟩] })
  ∧ (∀ s m req tx wr a n (data : List Byte), s.ok = true → HostFlows s m
      → hostSizeOk ⟨m, reqField s req, tx, wr, a, n, if wr then data else []⟩ = true
      → hostAdmits s ⟨m, reqField s req, tx, wr, a, n, if wr then data else []⟩ = false →
    Next (.hostRequest m req tx wr a n data) s fun t => t.fb hpBase Fld.HP_ERR_FW_REJECT = true
      ∧ t.fb hpBase Fld.HP_FW_LOG1_VALID = true
      ∧ (∃ r : Resp, t.resps = s.resps ++ [r] ∧ r.ini = 0xE00 + reqField s req ∧ r.txid = tx ∧ r.kind = .err ∧ r.code = 1
          ∧ r.mod = m)
      ∧ t = { s with regs := t.regs, resps := t.resps })
  ∧ (∀ s m req tx a n, s.ok = true → HostFlows s m
      → hostSizeOk ⟨m, reqField s req, tx, false, a, n, []⟩ = false →
    Next (.hostRequest m req tx false a n []) s fun t => t.fb hpBase Fld.HP_ERR_PROTO = true
      ∧ (∃ r : Resp, t.resps = s.resps ++ [r] ∧ r.ini = 0xE00 + reqField s req ∧ r.txid = tx ∧ r.kind = .err ∧ r.code = 5
          ∧ r.mod = m)
      ∧ t = { s with regs := t.regs, resps := t.resps })
  ∧ (∀ s m, m < 4 → s.ok = true → linkUp s (26 + m) = true → (∀ j < 4, j ≠ m → linkUp s (26 + j) = false) →
    Next (.hostModuleDown m) s fun t => t.fg (hostBase m) Fld.HP_MOD_STS_STATE = 0
      ∧ t.reqs = s.reqs.filter (fun r => !isHost r.ini) ∧ t.resps = s.resps.filter (fun r => !isHost r.ini)
      ∧ t.vc0 = [] ∧ t.notifyQ = [] ∧ SameMem s t)
  ∧ (∀ s m j, m < 4 → s.ok = true → linkUp s (26 + m) = true → j < 4 → j ≠ m → linkUp s (26 + j) = true →
    Next (.hostModuleDown m) s fun t => t.fg (hostBase m) Fld.HP_MOD_STS_STATE = 0 ∧ t.fb hpBase Fld.HP_ERR_MOD_DOWN = true
      ∧ (∀ r ∈ t.resps, isHost r.ini = true → r.mod % 4 ≠ m) ∧ SameMem s t)
  ∧ (∀ s, s.cellar = 2 → Next .hWake s fun t => t = { s with cellar := 3 })

/-! ### The queue manager (R271 to R299) -/

/-- A doorbell on a cached queue sets PRODUCER and makes the queue ready; on another it waits for the descriptor; one that
the queue manager does not take is an error; while the port is stalled, while earlier WRs of its requester are under way
and while an activation owes its reply it waits in its buffer. The model's own readings of the spec here: log entry 45. -/
def Obligations.DoorbellsReachQueues : Prop :=
  (∀ s m req q i d, s.ok = true → DbellFlows s m req → qmTakes s = true
      → (s.pendDb.any fun p => p.queue == q) = false → qHit s q = some d → d.state = 0 → ahead i d.producer ≠ 0
      → ahead i d.producer < 2 ^ 31 → ahead i d.consumer ≤ 2 ^ d.log2 →
    Next (.dbellQueue ⟨m, req⟩ q i) s fun t => aget t.qcache q = some { d with producer := i % 2 ^ 32 } ∧ q ∈ t.qready)
  ∧ (∀ s m req q i, DbellFlows s m req → qmTakes s = true → qHit s q = none →
    Next (.dbellQueue ⟨m, req⟩ q i) s fun t => t.pendDb = s.pendDb ++ [⟨q, i⟩] ∧ SameMem s t
      ∧ (Uninjected s 4 → t = { s with regs := t.regs, pendDb := t.pendDb }))
  ∧ (∀ s m req q i, s.ok = true → DbellFlows s m req → qmTakes s = false →
    Next (.dbellQueue ⟨m, req⟩ q i) s fun t => t.fb hpBase Fld.HP_ERR_DB_BAD = true
      ∧ JustRegs (· = hpBase + Reg.HP_ERR) s t)
  ∧ (∀ s m req q i, linkUp s (26 + m) = true → 512 ≤ s.pendDb.length →
    Next (.dbellQueue ⟨m, req⟩ q i) s fun t => t = { s with vc0 := s.vc0 ++ [.dbell m (reqField s req) q i] })
  ∧ (∀ s m req q i, HostFlows s m → (hostWrites s m (reqField s req) = true ∨ s.act.isSome = true) →
    Next (.dbellQueue ⟨m, req⟩ q i) s fun t => t = { s with vc0 := [.dbell m (reqField s req) q i] })
  ∧ (∀ s m req c i, s.ok = true → ksorted none s.cqs = true → DbellFlows s m req → (cqRec s c).valid = true
      → qmTakes s = true → ahead i (cqRec s c).head ≠ 0 → ahead i (cqRec s c).head < 2 ^ 31
      → ahead i (cqRec s c).head ≤ ahead (cqRec s c).tail (cqRec s c).head →
    Next (.dbellCqHead ⟨m, req⟩ c i) s fun t => getD CqRec.absent t.cqs c = { cqRec s c with head := i % 2 ^ 32 })
  ∧ (∀ s p ps d u, s.fb qmBase Fld.QM_CTL_EN = true → s.pendDb = p :: ps → s.vc0 = []
      → fetchQ (poolUpdate { s with pendDb := ps } 4 10 0) p.queue = (some d, u) →
    Next .pendingDoorbellApply s fun t => t = applyDbell u p.queue p.index d)

/-- A packet of one entry becomes a parsed command under the lowest free tag, or is answered BAD_VERSION; a finished
command's reply frees its tag, or is held while its ring is full; notifications and events leave; PAUSED follows
PAUSE. The model's own readings of the spec here: log entries 45, 46 and 47. -/
def Obligations.QueueManagerParsesAndReplies : Prop :=
  (∀ s q tag d b u w, s.fb cmdBase Fld.CMD_CTL_EN = true → s.fb cmdBase Fld.CMD_CTL_PAUSE = false
      → s.fb qmBase Fld.QM_CTL_EN = true → freeTag s = some tag → pickQueue s = some q → fetchQ s q = (some d, u)
      → d.state = 0 → readEntries d 1 d.consumer u = (some b, w) → byteAt b 3 = 1 → byteAt b 2 = 1 → 4 ≤ d.log2
      → bit (byteAt b 1) 1 = false → packetCheck (takePacket w q d b 1 tag) d.ctx b = none →
    Next .packetParse s fun t => ∃ c, t.cmd? tag = some c ∧ c.phase = .parsed ∧ c.opcode = byteAt b 0
      ∧ c.cookie = leAt b 8 8 ∧ c.packet = b ∧ c.queue = q ∧ c.ctx = d.ctx ∧ t.orderNext = w.orderNext + 1)
  ∧ (∀ s q tag d b u w, s.fb cmdBase Fld.CMD_CTL_EN = true → s.fb cmdBase Fld.CMD_CTL_PAUSE = false
      → s.fb qmBase Fld.QM_CTL_EN = true → freeTag s = some tag → pickQueue s = some q → fetchQ s q = (some d, u)
      → d.state = 0 → readEntries d 1 d.consumer u = (some b, w) → byteAt b 3 ≠ 1 →
    Next .packetParse s fun t => Replied t tag 0x12 (byteAt b 3) 0)
  ∧ (∀ s tg c, s.cmd? tg = some c → c.phase = .reply → (cqRec s c.cq).valid = true → heldBefore s c = false
      → cqRoom (cqRec s c.cq) = true →
    Next (.replyWrite tg) s fun t => t = freeCmd (cqWrite s c.cq (replyBytes s tg c) c.notify) tg c
      ∧ t.cmd? tg = none)
  ∧ (∀ s tg c, s.ok = true → s.cmd? tg = some c → c.phase = .reply → c.held = none → (cqRec s c.cq).valid = true
      → cqRoom (cqRec s c.cq) = false →
    Next (.replyWrite tg) s fun t => (∃ n, t.cmd? tg = some { c with held := some n })
      ∧ t.fb cmdBase Fld.CMD_ERR_CQ_HELD = true ∧ RegsCmds (fun a => a = cmdBase + Reg.CMD_ERR ∨ a = cmdBase + Reg.CMD_HELD) s t)
  ∧ (∀ s cq m, s.ok = true → ksorted none s.cqs = true → (cqRec s cq).valid = true → 0 < (cqRec s cq).unnotified
      → 0 < (cqRec s cq).coalUs → (cqRec s cq).oldest + (cqRec s cq).coalUs ≤ s.nowUs → hostModule s = some m
      → s.notifyQ = [] → canSend s (26 + m) 3 1 = true →
    Next (.notifyCoalTimeout cq) s fun t => t.emits.getLast? = some ⟨"NOTIFY", m, [(cqRec s cq).vector, cq]⟩
      ∧ getD CqRec.absent t.cqs cq = { cqRec s cq with unnotified := 0 } ∧ t.notifyQ = [] ∧ SameMem s t)
  ∧ (∀ s cq m, (getD CqRec.absent s.cqs cq).valid = true → 0 < (cqRec s cq).unnotified
      → 0 < (cqRec s cq).coalUs → (cqRec s cq).oldest + (cqRec s cq).coalUs ≤ s.nowUs → hostModule s = some m
      → canSend s (26 + m) 3 1 = false →
    Next (.notifyCoalTimeout cq) s fun t => t.notifyQ = s.notifyQ ++ [((cqRec s cq).vector, cq)]
      ∧ t.cqs = setD CqRec.absent s.cqs cq { cqRec s cq with unnotified := 0 }
      ∧ t = { s with cqs := t.cqs, cqUsed := t.cqUsed, notifyQ := t.notifyQ })
  ∧ (∀ s e es, s.fb cmdBase Fld.CMD_EVT_CQ_VALID = true → cqRoom (cqRec s (s.fg cmdBase Fld.CMD_EVT_CQ_CQ)) = true
      → s.eventsLost = 0 → s.events = e :: es →
    Next .eventWrite s fun t => es <+: t.events ∧ t.eventSeq = (s.eventSeq + 1) % 2 ^ 64)
  ∧ (∀ s, s.fb cmdBase Fld.CMD_EVT_CQ_VALID = true → cqRoom (cqRec s (s.fg cmdBase Fld.CMD_EVT_CQ_CQ)) = true
      → 0 < s.eventsLost →
    Next .eventWrite s fun t => t.eventsLost = 0 ∧ s.events <+: t.events ∧ t.eventSeq = (s.eventSeq + 1) % 2 ^ 64)
  ∧ (∀ s ini l (v : Word), Admits s ini (cmdBase + Reg.CMD_CTL) l →
    Next (.cmdPause ini v) s fun t =>
      t.fg cmdBase Fld.CMD_CTL_PAUSE = bits v.toNat Fld.CMD_CTL_PAUSE.hi Fld.CMD_CTL_PAUSE.lo
      ∧ t.fg cmdBase Fld.CMD_STS_PAUSED = bits v.toNat Fld.CMD_CTL_PAUSE.hi Fld.CMD_CTL_PAUSE.lo
      ∧ JustRegs (fun a => a = cmdBase + Reg.CMD_CTL ∨ a = cmdBase + Reg.CMD_STS) s t)

/-! ### Pahal commands: contexts, queues, rings, windows (R277 to R299) -/

/-- NOP, BARRIER, CANCEL, the contexts, DEVICE_INFO and the windows. The model's own readings of the spec here: log
entries 48 and 49. -/
def Obligations.SimpleCommandsReply : Prop :=
  (∀ s tg c, s.cmd? tg = some c → c.phase = .parsed → c.opcode = 0x01 →
    Next (.nop tg) s fun t => Replied t tg 0 0 0 ∧ JustCmds s t)
  ∧ (∀ s tg c, s.cmd? tg = some c → c.phase = .parsed → c.opcode = 0x02 → cmdEarlier s c.queue c.order = false →
    Next (.barrier tg) s fun t => Replied t tg 0 0 0 ∧ JustCmds s t)
  ∧ (∀ s tg c, s.cmd? tg = some c → c.phase = .parsed → c.opcode = 0x02 → cmdEarlier s c.queue c.order = true →
    Next (.barrier tg) s fun t => t = s)
  ∧ (∀ s tg c, s.cmd? tg = some c → c.phase = .parsed → c.opcode = 0x03
      → (∀ e ∈ s.cmds, unstarted e.2 = true → e.1 ≠ tg → e.2.queue = c.queue →
          Nat.land e.2.cookie (c.par 24 8) ≠ Nat.land (c.par 16 8) (c.par 24 8)) →
    Next (.cancel tg) s fun t => Replied t tg 0 0 0 ∧ JustCmds s t)
  ∧ (∀ s tg c, Parsed s tg 0x04 c → 0 < c.par 16 2 → c.par 19 1 ≤ 6 → (s.ctx (c.par 16 2)).live = false →
    Next (.ctxCreate tg) s fun t => Replied t tg 0 0 (s.ctx (c.par 16 2)).gen
      ∧ t.ctx (c.par 16 2) = { s.ctx (c.par 16 2) with
          live := true, priv := c.par 18 1 % 16, maxClass := c.par 19 1, teardown := false }
      ∧ t = { s with cmds := t.cmds, ctxs := t.ctxs })
  ∧ (∀ s tg c, Parsed s tg 0x04 c → 0 < c.par 16 2 → c.par 19 1 ≤ 6 → (s.ctx (c.par 16 2)).live = true →
    Next (.ctxCreate tg) s fun t => Replied t tg 0x1C 0 0)
  ∧ (∀ s tg c, Parsed s tg 0x05 c → tdWaits s tg c = false → s.fb qmBase Fld.QM_CTL_EN = true → c.par 16 2 = 0 →
    Next (.ctxDestroy tg) s fun t => Replied t tg 0x13 16 0)
  ∧ (∀ s tg c, Parsed s tg 0x05 c → tdWaits s tg c = false → s.fb qmBase Fld.QM_CTL_EN = true → c.par 16 2 ≠ 0
      → (s.ctx (c.par 16 2)).live = true →
    Next (.ctxDestroy tg) s fun t => t = teardown s tg (c.par 16 2))
  ∧ (∀ s tg c, Parsed s tg 0x0D c →
    Next (.deviceInfo tg) s fun t => Replied t tg 0 0 ((match s.part with | .dvx2300 => 0 | .dvx1150 => 1) + 0xB0 * 2 ^ 8
      + (2 ^ s.part.dies - 1) * 2 ^ 16 + s.pkgId * 2 ^ 20 + usableMib s * 2 ^ 32) ∧ JustCmds s t)
  ∧ (∀ s tg c, Parsed s tg 0x0B c → 1 ≤ c.par 16 1 → c.par 16 1 ≤ 15 → c.par 20 6 % 2 ^ 20 = 0 → c.par 28 4 < 2 ^ 18
      → c.par 32 2 ≤ 0x1FF → c.par 34 2 ≤ 0x1FF
      → windowForbidden s (c.par 20 6) (c.par 28 4 * 2 ^ 20) (bit (c.par 17 1) 1) = false →
    Next (.windowSet tg) s fun t => Replied t tg 0 0 0
      ∧ t.rd (winBase (c.par 16 1) + Reg.HP_WIN_W0) = c.par 20 6 / 2 ^ 20
      ∧ t.rd (winBase (c.par 16 1) + Reg.HP_WIN_W1) = c.par 28 4
      ∧ t.fb (winBase (c.par 16 1)) Fld.HP_WIN_W3_EN = true
      ∧ RegsCmds (fun a => winBase (c.par 16 1) + Reg.HP_WIN_W0 ≤ a ∧ a ≤ winBase (c.par 16 1) + Reg.HP_WIN_W3) s t)
  ∧ (∀ s tg c, Parsed s tg 0x0C c → 1 ≤ c.par 16 1 → c.par 16 1 ≤ 15 →
    Next (.windowClear tg) s fun t => Replied t tg 0 0 0 ∧ t.fb (winBase (c.par 16 1)) Fld.HP_WIN_W3_EN = false
      ∧ RegsCmds (· = winBase (c.par 16 1) + Reg.HP_WIN_W3) s t)
  ∧ (∀ s tg c, Parsed s tg 0x0C c → c.par 16 1 = 0 →
    Next (.windowClear tg) s fun t => Replied t tg 0x13 16 0
      ∧ t.rd (cmdBase + Reg.CMD_LAST_REFUSE) = c.queue % 2 ^ 20 + 0x13 * 2 ^ 20
      ∧ t.fb cmdBase Fld.CMD_ERR_REFUSED = true)

/-- QUEUE_CREATE stores a new descriptor, QUEUE_DESTROY stops the queue, QUEUE_PIN holds or frees its descriptor in the
cache, CQ_CREATE and CQ_DESTROY set and clear a ring's record. The model's own readings of the spec here: log entry
48. -/
def Obligations.QueueCommandsReply : Prop :=
  (∀ s tg c u, Parsed s tg 0x06 c → s.fb qmBase Fld.QM_CTL_EN = true → queueCreateCheck s c = none
      → fetchQ s (c.par 16 4) = (none, u) →
    Next (.queueCreate tg) s fun t => Replied t tg 0 0 0 ∧ aget t.qcache (c.par 16 4) = some (newQueue u c))
  ∧ (∀ s tg c st de, Parsed s tg 0x06 c → s.fb qmBase Fld.QM_CTL_EN = true → queueCreateCheck s c = some (st, de) →
    Next (.queueCreate tg) s fun t => Replied t tg st de 0)
  ∧ (∀ s tg c d, Parsed s tg 0x06 c → s.fb qmBase Fld.QM_CTL_EN = true → queueCreateCheck s c = none
      → qHit s (c.par 16 4) = some d → Next (.queueCreate tg) s fun t => Replied t tg 0x1C 0 0)
  ∧ (∀ s tg c d, Parsed s tg 0x07 c → s.fb qmBase Fld.QM_CTL_EN = true → qHit s (c.par 16 4) = some d → d.state = 0
      → (∀ e ∈ s.cmds, e.1 ≠ tg → e.2.queue ≠ c.par 16 4) →
    Next (.queueDestroy tg) s fun t => aget t.qcache (c.par 16 4) = some { d with state := 1 } ∧ c.par 16 4 ∉ t.qready)
  ∧ (∀ s tg c d, Parsed s tg 0x07 c → s.fb qmBase Fld.QM_CTL_EN = true → qHit s (c.par 16 4) = some d
      → d.state = 1 ∨ d.state = 2 → Next (.queueDestroy tg) s fun t => Replied t tg 0x1A 0 0)
  ∧ (∀ s tg c d, Parsed s tg 0x08 c → s.fb qmBase Fld.QM_CTL_EN = true → bit (c.par 20 1) 0 = true
      → qHit s (c.par 16 4) = some d → d.pinned = false → (qFront s (c.par 16 4) d).fg qmBase Fld.QM_STS_PINNED < 512 →
    Next (.queuePin tg) s fun t => Replied t tg 0 0 0 ∧ aget t.qcache (c.par 16 4) = some { d with pinned := true })
  ∧ (∀ s tg c d, Parsed s tg 0x08 c → s.fb qmBase Fld.QM_CTL_EN = true → bit (c.par 20 1) 0 = false
      → qHit s (c.par 16 4) = some d → d.pinned = true →
    Next (.queueUnpin tg) s fun t => Replied t tg 0 0 0 ∧ aget t.qcache (c.par 16 4) = some { d with pinned := false })
  ∧ (∀ s tg c, Parsed s tg 0x09 c → ksorted none s.cqs = true → s.fb qmBase Fld.QM_CTL_EN = true → cqCreateCheck s c = none →
    Next (.cqCreate tg) s fun t => Replied t tg 0 0 0
      ∧ getD CqRec.absent t.cqs (c.par 16 2) = ⟨true, bit (c.par 19 1) 0, c.par 18 1, c.ctx, c.par 28 2, c.par 30 1,
          c.par 20 6, c.par 32 4, 0, 0, 0, 0⟩)
  ∧ (∀ s tg c, Parsed s tg 0x0A c → ksorted none s.cqs = true → s.fb qmBase Fld.QM_CTL_EN = true
      → (cqRec s (c.par 16 2)).valid = true
      → (∀ e ∈ queuesOf s, e.2.cq ≠ c.par 16 2) → (∀ e ∈ s.cmds, e.2.cq = c.par 16 2 → e.2.phase ≠ .reply) →
    Next (.cqDestroy tg) s fun t => Replied t tg 0 0 0 ∧ (cqRec t (c.par 16 2)).valid = false)
  ∧ (∀ s tg c, Parsed s tg 0x0A c → s.fb qmBase Fld.QM_CTL_EN = true → (cqRec s (c.par 16 2)).valid = false →
    Next (.cqDestroy tg) s fun t => Replied t tg 0x16 16 0)

/-! ### Images, steps and reservations (R135, R136, R280, R281, R307, R308) -/

/-- IMAGE_REGISTER answers the lowest free handle; IMAGE_UNREGISTER drops an image no step, table or reservation names; a
STEP whose bindings pass R281 goes to Threshold, one that names no image is answered BAD_HANDLE; RESERVE holds a group
of cores and answers its number; UNRESERVE closes it. The model's own readings of the spec here: log entries 40 and
42. -/
def Obligations.ImagesStepsAndReservations : Prop :=
  (∀ s tg c h w, Parsed s tg 0x10 c → 4096 ≤ c.par 24 4 → pkgUsable s (c.par 16 6) (c.par 24 4) = true
      → cpReads s c.ctx (c.par 16 6) (c.par 24 4) = (false, w) → imageCheck w (c.par 16 6) (c.par 24 4) = 0
      → (1 ≤ h ∧ h ≤ 4096 ∧ aget w.images h = none ∧ ∀ j < h, 1 ≤ j → (aget w.images j).isSome = true) →
    Next (.imageRegister tg) s fun t => t.images = aput w.images h
        ⟨c.par 16 6, c.par 24 4, preemptNs w (c.par 16 6)⟩
      ∧ t = finishCmd { w with images := t.images } tg 0 0 h)
  ∧ (∀ s tg c, Parsed s tg 0x10 c → c.par 24 4 < 4096 → Next (.imageRegister tg) s fun t => Replied t tg 0x17 1 0)
  ∧ (∀ s tg c, Parsed s tg 0x11 c → (aget s.images (c.par 16 4)).isSome = true → imageNamed s (c.par 16 4) = false →
    Next (.imageUnregister tg) s fun t => Replied t tg 0 0 0 ∧ t = { s with images := adel s.images (c.par 16 4), cmds := t.cmds })
  ∧ (∀ s tg c, Parsed s tg 0x11 c → (aget s.images (c.par 16 4)).isSome = true → imageNamed s (c.par 16 4) = true →
    Next (.imageUnregister tg) s fun t => Replied t tg 0x1A 0 0)
  ∧ (∀ s tg c im w, Parsed s tg 0x18 c → aget s.images (stepOfPacket c).image = some im → imgGolden s im.addr = false
      → (stepOfPacket c).bases.length = (imgFind s im.addr 2).count → (stepOfPacket c).sems.length = (imgFind s im.addr 6).count
      → c.par 26 2 = imgArgSize s im.addr → bindingBad s (bound s (stepOfPacket c)) = none
      → bindingOverlap s (bound s (stepOfPacket c)) = none → kvBad c.ctx c.ctxGen (bound s (stepOfPacket c)) s = (none, w) →
    Next (.step tg) s fun t => t = w.setCmd tg { c with phase := .admitting, step := some (stepOfPacket c) })
  ∧ (∀ s tg c im i, Parsed s tg 0x18 c → aget s.images (stepOfPacket c).image = some im → imgGolden s im.addr = false
      → (stepOfPacket c).bases.length = (imgFind s im.addr 2).count → (stepOfPacket c).sems.length = (imgFind s im.addr 6).count
      → c.par 26 2 = imgArgSize s im.addr → bindingBad s (bound s (stepOfPacket c)) = some i →
    Next (.step tg) s fun t => Replied t tg 0x18 i 0)
  ∧ (∀ s tg c, Parsed s tg 0x18 c → aget s.images (c.par 16 4) = none → Next (.step tg) s fun t => Replied t tg 0x16 16 0)
  ∧ (∀ s tg c slot d gs, Parsed s tg 0x19 c → inTurn s c.order = true → c.par 28 1 ≠ 0 → c.par 20 4 ≠ 0
      → (aget s.images (c.par 16 4)).isSome = true → s.fb admBase Fld.ADM_CTL_EN = true → (s.ctx c.ctx).teardown = false
      → chargeUs s (imgAddr s (c.par 16 4)) ≤ c.par 24 4
      → (1 ≤ slot ∧ slot ≤ 1023 ∧ aget s.resvs slot = none ∧ ∀ j < slot, 1 ≤ j → (aget s.resvs j).isSome = true)
      → rsvGroups s (imgGroup s (imgAddr s (c.par 16 4))) (c.par 28 1) = some (d, gs)
      → (cdiv (goldWin s) (c.par 20 4) + 1) * chargeUs s (imgAddr s (c.par 16 4)) ≤ goldWin s - s.fg admBase Fld.ADM_GOLD_US →
    Next (.reserve tg) s fun t => Replied t tg 0 0 (slot + 1024 * d)
      ∧ t.resvs = aput s.resvs slot ⟨c.ctx, c.ctxGen, c.par 16 4, c.par 24 4, d, gs, false⟩)
  ∧ (∀ s tg c, Parsed s tg 0x19 c → inTurn s c.order = true → c.par 28 1 ≠ 0 → c.par 20 4 ≠ 0
      → (aget s.images (c.par 16 4)).isSome = true → s.fb admBase Fld.ADM_CTL_EN = true → (s.ctx c.ctx).teardown = false
      → c.par 24 4 < chargeUs s (imgAddr s (c.par 16 4)) →
    Next (.reserve tg) s fun t => Replied t tg 0x20 (min (chargeUs s (imgAddr s (c.par 16 4)) - c.par 24 4) 0xFFFF) 0)
  ∧ (∀ s tg c v, Parsed s tg 0x1A c → inTurn s c.order = true → aget s.resvs (c.par 16 4 % 1024) = some v → v.ctx = c.ctx
      → v.ctxGen = c.ctxGen → c.par 16 4 / 1024 = v.die → v.closing = false →
    Next (.unreserve tg) s fun t => t = settleResvs (finishCmd
      { s with resvs := aput s.resvs (c.par 16 4 % 1024) { v with closing := true } } tg 0 0 0))
  ∧ (∀ s tg c, Parsed s tg 0x1A c → inTurn s c.order = true → aget s.resvs (c.par 16 4 % 1024) = none →
    Next (.unreserve tg) s fun t => Replied t tg 0x16 16 0)

/-! ### Semaphore, track and pool commands (R158, R163, R170, R330) -/

/-- SEM_INIT gives a semaphore its value and owner, SEM_SIGNAL sends a signal-n to the unit, SEM_QUERY answers the value
and the waiters; the track commands fill PAN_TCMD_ARG0 to ARG2 and start, or are refused BUSY; POOL_SET and PANTRY_SET
write the registers of R158 and R163. The model's own readings of the spec here: log entries 43 and 50. -/
def Obligations.SemaphoreAndPantryCommands : Prop :=
  (∀ s tg c, Parsed s tg 0x20 c → semReach s (c.par 16 2) = none → c.par 20 4 < 2 ^ 31 → semOwned s (c.par 16 2) = false →
    Next (.semInit tg) s fun t => Replied t tg 0 0 0 ∧ semValue t (c.par 16 2) = c.par 20 4
      ∧ semOwned t (c.par 16 2) = true
      ∧ t.fg (semBase (c.par 16 2)) Fld.SYN_SEM_W1_CTX = c.ctx % 2 ^ 16
      ∧ t.fg (semBase (c.par 16 2)) Fld.SYN_SEM_W3_SIGNALS = 0 ∧ t.fg (semBase (c.par 16 2)) Fld.SYN_SEM_W5_GRANTS = 0)
  ∧ (∀ s tg c, Parsed s tg 0x20 c → semReach s (c.par 16 2) = none → c.par 20 4 < 2 ^ 31 → semOwned s (c.par 16 2) = true
      → semHeld s (c.par 16 2) = true → Next (.semInit tg) s fun t => Replied t tg 0x1A 0 0)
  ∧ (∀ s tg c, Parsed s tg 0x21 c → c.par 20 4 ≠ 0 → semUsable s c (c.par 16 2) = none →
    Next (.semSignal tg) s fun t => t.cmd? tg = some { c with phase := .waiting }
      ∧ t.semMsgs = s.semMsgs ++ [⟨.cmd tg, c.par 16 2, 3, false, 0, 0, c.cls, 0, c.par 20 4, c.ctx, c.ctxGen⟩]
      ∧ t = { s with cmds := t.cmds, semMsgs := t.semMsgs })
  ∧ (∀ s tg c, Parsed s tg 0x22 c → semUsable s c (c.par 16 2) = none →
    Next (.semQuery tg) s fun t => Replied t tg 0 0 (semValue s (c.par 16 2)
      + s.fg (semBase (c.par 16 2)) Fld.SYN_SEM_W6_WAITERS % 2 ^ 16 * 2 ^ 32) ∧ JustCmds s t)
  ∧ (∀ s tg c, Parsed s tg 0x28 c → panReach s (c.par 18 1) 18 = none → c.par 19 1 ≤ 3 → c.par 20 1 ≤ 63 → c.par 22 2 ≤ 0x1FFF →
    Next (.trackOpen tg) s fun t => t = trackCmd s tg c 1 (c.par 18 1)
      (c.par 19 1 + c.par 20 1 * 4 + c.par 21 1 * 2 ^ 8 + c.par 22 2 * 2 ^ 16))
  ∧ (∀ r ∈ [(Instr.trackReset, 0x29, 2), (.trackClose, 0x2A, 3), (.trackQuery, 0x2B, 4)], ∀ s tg c, Parsed s tg r.2.1 c
      → panReach s (c.par 18 1) 18 = none →
    Next (r.1 tg) s fun t => t = trackCmd s tg c r.2.2 (c.par 18 1) 0)
  ∧ (∀ r ∈ [(Instr.trackOpen, 0x28), (.trackReset, 0x29), (.trackClose, 0x2A), (.trackQuery, 0x2B)], ∀ s tg c,
      Parsed s tg r.2 c → s.part.fitted (c.par 18 1) = false → Next (r.1 tg) s fun t => Replied t tg 0x13 18 0)
  ∧ (∀ s tg c, Parsed s tg 0x2C c → panReach s (c.par 16 1) 16 = none → c.par 17 1 ≤ 3 → bit (c.par 20 1) 3 = false
      → c.par 24 6 % 2 ^ 21 = 0 → s.fb (panBase (c.par 16 1)) Fld.PAN_CTL_EN = false →
    Next (.poolSet tg) s fun t => Replied t tg 0 0 0
      ∧ t.rd (poolReg (c.par 16 1) (c.par 17 1) + Reg.PAN_POOL_BASE) = c.par 24 6 / 2 ^ 21
      ∧ t.rd (poolReg (c.par 16 1) (c.par 17 1) + Reg.PAN_POOL_CFG) = c.par 20 4
      ∧ RegsCmds (fun a => a = poolReg (c.par 16 1) (c.par 17 1) + Reg.PAN_POOL_BASE
          ∨ a = poolReg (c.par 16 1) (c.par 17 1) + Reg.PAN_POOL_CFG) s t)
  ∧ (∀ s tg c, Parsed s tg 0x2C c → panReach s (c.par 16 1) 16 = none → c.par 17 1 ≤ 3 → bit (c.par 20 1) 3 = false
      → c.par 24 6 % 2 ^ 21 = 0 → s.fb (panBase (c.par 16 1)) Fld.PAN_CTL_EN = true →
    Next (.poolSet tg) s fun t => Replied t tg 0x1A 0 0)
  ∧ (∀ s tg c, Parsed s tg 0x2D c → panReach s (c.par 16 1) 16 = none → bit (c.par 17 1) 0 = false →
    Next (.pantrySet tg) s fun t => Replied t tg 0 0 0 ∧ t.fb (panBase (c.par 16 1)) Fld.PAN_CTL_EN = false
      ∧ t.fb (panBase (c.par 16 1)) Fld.PAN_STS_READY = false)
  ∧ (∀ s tg c, Parsed s tg 0x2D c → panReach s (c.par 16 1) 16 = none → bit (c.par 17 1) 0 = true → c.par 24 6 % 2 ^ 21 = 0
      → s.fb (panBase (c.par 16 1)) Fld.PAN_CTL_EN = false
      → placementOk (s.wr (panBase (c.par 16 1) + Reg.PAN_META_BASE) (c.par 24 6 / 2 ^ 21)) (c.par 16 1) = true →
    Next (.pantrySet tg) s fun t => Replied t tg 0 0 0 ∧ t.fb (panBase (c.par 16 1)) Fld.PAN_CTL_EN = true
      ∧ t.fb (panBase (c.par 16 1)) Fld.PAN_STS_READY = false)

/-! ### Sensor, trigger and calibration commands (R373, R379, R385, R395 to R398, R413) -/

/-- SENSOR_CONFIG enables a port, whose record then reads back, or begins its disabling; CAMERA_RESTART waits for the
link; TRIGGER_SET takes effect at once, or at the next base period of a running generator; a refused record names its
field. The model's own readings of the spec here: log entry 53. -/
def Obligations.SensorAndTriggerCommands : Prop :=
  (∀ s tg up loss peer pal c, Parsed s tg 0x30 c → sensorCheck s c = none → bit (c.par 42 1) 0 = true →
    Next (.sensorConfig tg up loss peer pal) s fun t => Replied t tg 0 0 0 ∧ (t.port (c.par 16 2)).on = true
      ∧ (t.port (c.par 16 2)).ctx = c.ctx ∧ (t.port (c.par 16 2)).recs = []
      ∧ ∀ i < 256, t.rd (recArea (c.par 16 2) + 4 * i) = leAt ((c.packet.drop 32).take (c.par 20 4)) (4 * i) 4)
  ∧ (∀ s tg up loss peer pal c, Parsed s tg 0x30 c → sensorCheck s c = none → bit (c.par 42 1) 0 = false
      → (s.port (c.par 16 2)).on = false →
    Next (.sensorConfig tg up loss peer pal) s fun t => Replied t tg 0 0 0 ∧ JustCmds s t)
  ∧ (∀ s tg up loss peer pal c, Parsed s tg 0x30 c → sensorCheck s c = none → bit (c.par 42 1) 0 = false
      → (s.port (c.par 16 2)).on = true →
    Next (.sensorConfig tg up loss peer pal) s fun t => t.cmd? tg = some { c with phase := .waiting }
      ∧ t.port (c.par 16 2) = { s.port (c.par 16 2) with
          draining := true, recs := (s.port (c.par 16 2)).recs.take 1, disTags := (s.port (c.par 16 2)).disTags ++ [tg] })
  ∧ (∀ s tg up loss peer pal c st de, Parsed s tg 0x30 c → sensorCheck s c = some (st, de) →
    Next (.sensorConfig tg up loss peer pal) s fun t => Replied t tg st de 0)
  ∧ (∀ s p, s.ok = true → (s.port p).draining = true → (s.port p).recs = [] →
    Next (.portDisableDone p) s fun t => (t.port p).on = false ∧ (t.port p).draining = false
      ∧ ∀ g ∈ (s.port p).disTags, (s.cmd? g).isSome = true → Replied t g 0 0 0)
  ∧ (∀ s tg c, Parsed s tg 0x31 c → c.par 16 1 ≤ 15 → dieHeld s 5 = false → (s.port (c.par 16 1)).restart = none
      → (s.port (c.par 16 1)).draining = false → (s.port (c.par 16 1)).on = true →
    Next (.cameraRestart tg) s fun t => t.cmd? tg = some { c with phase := .waiting }
      ∧ (t.port (c.par 16 1)).restart = some tg ∧ (t.port (c.par 16 1)).trigHeld = true
      ∧ t.fb (camBase (c.par 16 1)) Fld.PCH_CAM_STS_RESTARTING = true ∧ t.fb (camBase (c.par 16 1)) Fld.PCH_CAM_STS_LINK = false)
  ∧ (∀ s tg c, Parsed s tg 0x31 c → 15 < c.par 16 1 → Next (.cameraRestart tg) s fun t => Replied t tg 0x13 16 0)
  ∧ (∀ s n tg loss peer pal, s.ok = true → n < 16 → (s.port n).restart = some tg → (s.cmd? tg).isSome = true →
    Next (.cameraRestartDone n true loss peer pal) s fun t => Replied t tg 0 0 0 ∧ (t.port n).restart = none
      ∧ t.fb (camBase n) Fld.PCH_CAM_STS_RESTARTING = false ∧ t.fb (camBase n) Fld.PCH_CAM_STS_LINK = true)
  ∧ (∀ s n tg loss peer pal, s.ok = true → n < 16 → (s.port n).restart = some tg → (s.cmd? tg).isSome = true →
    Next (.cameraRestartDone n false loss peer pal) s fun t => Replied t tg 0x4A n 0 ∧ (t.port n).on = false
      ∧ t.fb (camBase n) Fld.PCH_CAM_STS_UNALIGNED = true ∧ t.fb (camBase n) Fld.PCH_CAM_STS_LINK = false)
  ∧ (∀ s tg c, Parsed s tg 0x32 c → c.par 20 4 = 272 → dieHeld s 5 = false → trigBad c = none → trigRun s = false
      → s.trigNext = none →
    Next (.triggerSet tg) s fun t => Replied t tg 0 0 0 ∧ trigRun t = bit (c.par 36 1) 0
      ∧ ∀ i < 68, t.rd (trigArea + 4 * i) = leAt ((c.packet.drop 32).take 272) (4 * i) 4)
  ∧ (∀ s tg c, Parsed s tg 0x32 c → c.par 20 4 = 272 → dieHeld s 5 = false → trigBad c = none → trigRun s = true
      → s.trigNext = none →
    Next (.triggerSet tg) s fun t => t.cmd? tg = some { c with phase := .waiting }
      ∧ t.trigNext = some ⟨(c.packet.drop 32).take 272, [tg]⟩ ∧ t = { s with cmds := t.cmds, trigNext := t.trigNext })
  ∧ (∀ s tg c o, Parsed s tg 0x32 c → c.par 20 4 = 272 → dieHeld s 5 = false → trigBad c = some o →
    Next (.triggerSet tg) s fun t => Replied t tg 0x13 o 0)

/-- CALIB_LOAD of each kind: a camera's, a lidar's, an IMU's or the wheels' record is in effect at once, or waits for the
tick of a running integrator; KIND 4 and 5 start or stop the integrator and the projection unit; a refusal sets
FUS_ERR.CFG. The model's own readings of the spec here: log entry 57. -/
def Obligations.CalibrationCommands : Prop :=
  (∀ r ∈ [(Instr.calibCamera, 0), (.calibLidar, 1)], ∀ s tg c, Parsed s tg 0x33 c → c.par 32 1 = r.2 → calCheck s r.2 c = none →
    Next (r.1 tg) s fun t => Replied t tg 0 0 0 ∧ calIsOn t (calKey r.2 (c.par 33 1)) = bit (c.par 34 1) 0)
  ∧ (∀ r ∈ [(Instr.calibImu, 2), (.calibWheel, 3)], ∀ s tg c, Parsed s tg 0x33 c → c.par 32 1 = r.2 → calCheck s r.2 c = none
      → s.integ = none →
    Next (r.1 tg) s fun t => Replied t tg 0 0 0 ∧ calIsOn t (calKey r.2 (c.par 33 1)) = bit (c.par 34 1) 0)
  ∧ (∀ r ∈ [(Instr.calibImu, 2), (.calibWheel, 3)], ∀ s tg c, Parsed s tg 0x33 c → c.par 32 1 = r.2 → calCheck s r.2 c = none
      → s.integ.isSome = true →
    Next (r.1 tg) s fun t => t.cmd? tg = some { c with phase := .waiting }
      ∧ t.calPend = s.calPend ++ [⟨tg, calKey r.2 (c.par 33 1), bit (c.par 34 1) 0, c.ctx, c.ctxGen,
          (c.packet.drop 40).take (bodyLen r.2)⟩] ∧ t = { s with cmds := t.cmds, calPend := t.calPend })
  ∧ (∀ s tg c, Parsed s tg 0x33 c → c.par 32 1 = 4 → calCheck s 4 c = none → bit (c.par 34 1) 0 = true →
    Next (.calibIntegrator tg) s fun t => Replied t tg 0 0 0
      ∧ t.integ = some (Integ.start c.ctx c.ctxGen (pchTime s / 1000000)) ∧ t.fb fusBase Fld.FUS_STS_INT_RUN = true)
  ∧ (∀ s tg c, Parsed s tg 0x33 c → c.par 32 1 = 4 → calCheck s 4 c = none → bit (c.par 34 1) 0 = false →
    Next (.calibIntegrator tg) s fun t => Replied t tg 0 0 0 ∧ t.integ = none ∧ t.calPend = []
      ∧ t.fb fusBase Fld.FUS_STS_INT_RUN = false)
  ∧ (∀ s tg c, Parsed s tg 0x33 c → c.par 32 1 = 5 → calCheck s 5 c = none → bit (c.par 34 1) 0 = true →
    Next (.calibProjection tg) s fun t => Replied t tg 0 0 0 ∧ t.proj = some ⟨c.ctx, c.ctxGen, 0, 0, false, [], false⟩
      ∧ t.fb fusBase Fld.FUS_STS_PROJ_RUN = true)
  ∧ (∀ s tg c, Parsed s tg 0x33 c → c.par 32 1 = 5 → calCheck s 5 c = none → bit (c.par 34 1) 0 = false → s.proj.isSome = true
      → s.jobs = [] →
    Next (.calibProjection tg) s fun t => Replied t tg 0 0 0 ∧ t.proj = none ∧ t.lidIn = [])
  ∧ (∀ r ∈ [(Instr.calibCamera, 0), (.calibLidar, 1), (.calibImu, 2), (.calibWheel, 3), (.calibIntegrator, 4),
        (.calibProjection, 5)], ∀ s tg c st de, Parsed s tg 0x33 c → c.par 32 1 = r.2 → calCheck s r.2 c = some (st, de) →
    Next (r.1 tg) s fun t => Replied t tg st de 0 ∧ t.fb fusBase Fld.FUS_ERR_CFG = true)
  ∧ (∀ s tg c, Parsed s tg 0x33 c → 5 < c.par 32 1 →
    Next (.calibCamera tg) s fun t => Replied t tg 0x13 32 0 ∧ t.fb fusBase Fld.FUS_ERR_CFG = true)

/-! ### Policy commands and SAFE_ACK (R424, R430 to R432) -/

/-- POLICY_WRITE to one island replaces the entry, to both it prepares and then commits or aborts; an island drops a
prepare it has held for 10 ms; POLICY_READ copies an entry; SAFE_ACK acknowledges a latched event; an island that
refuses answers POLICY_REJECTED with its number. The model's own readings of the spec here: log entry 59. -/
def Obligations.PolicyCommands : Prop :=
  (∀ s tg c i, Parsed s tg 0x38 c → c.par 16 1 = i → i < 2 → policyAccepts s i c = true →
    Next (.policyWrite tg) s fun t => Replied t tg 0 0 0
      ∧ aget t.policy (2 ^ 16 * i + 2 ^ 8 * c.par 17 1 + c.par 18 2) = some (recordImage c)
      ∧ t.rd (acnBase i + Reg.ACN_POLICY_SEQ) = c.par 36 4 ∧ t.fb (acnBase i) Fld.ACN_STS_POLICY_DEFAULT = false)
  ∧ (∀ s tg c i, Parsed s tg 0x38 c → c.par 16 1 = i → i < 2 → policyAccepts s i c = false →
    Next (.policyWrite tg) s fun t => Replied t tg 0x4C i 0 ∧ JustCmds s t)
  ∧ (∀ s tg c, Parsed s tg 0x38 c → c.par 16 1 = 2 → policyAccepts s 0 c = true → policyAccepts s 1 c = true →
    Next (.policyWrite tg) s fun t => t.cmd? tg = some { c with phase := .waiting }
      ∧ (∀ i < 2, ∃ p, (t.isl i).prep = some p ∧ p.tag = tg ∧ p.image = recordImage c ∧ p.seqno = c.par 36 4)
      ∧ t = { s with cmds := t.cmds, islands := t.islands })
  ∧ (∀ s tg c p, s.ok = true → s.cmd? tg = some c → c.phase = .waiting → c.opcode = 0x38 → (s.isl 0).prep = some p
      → (s.isl 1).prep = some p → p.tag = tg →
    Next (.policyWrite tg) s fun t => Replied t tg 0 0 0 ∧ (t.isl 0).prep = none ∧ (t.isl 1).prep = none
      ∧ ∀ i < 2, aget t.policy (2 ^ 16 * i + 2 ^ 8 * p.table + p.entry) = some p.image)
  ∧ (∀ s tg c p, s.ok = true → s.cmd? tg = some c → c.phase = .waiting → c.opcode = 0x38 → (s.isl 0).prep = some p
      → p.tag = tg → (s.isl 1).prep = none →
    Next (.policyWrite tg) s fun t => Replied t tg 0x4C 1 0 ∧ (t.isl 0).prep = none ∧ t.policy = s.policy)
  ∧ (∀ s i p, s.ok = true → (s.isl i).prep = some p → islRuns s i = true → 10000 ≤ acnSince s i p.since →
    Next (.policyPrepareTimeout i) s fun t => (t.isl i).prep = none ∧ t = { s with islands := t.islands })
  ∧ (∀ s tg c, Parsed s tg 0x39 c → c.par 16 1 ≤ 1 → c.par 17 1 ≤ 4 → c.par 18 2 < policyEntries (c.par 17 1)
      → inWin0 s (c.par 24 6) (c.par 32 4) = true → (s.isl (c.par 16 1)).powered = true →
    Next (.policyRead tg) s fun t => Replied t tg 0 0 (min (c.par 32 4) 128)
      ∧ t = finishCmd (cpWrites s c.ctx (c.par 24 6) ((policyImage s (c.par 16 1) (c.par 17 1) (c.par 18 2)).take
          (min (c.par 32 4) 128))) tg 0 0 (min (c.par 32 4) 128))
  ∧ (∀ s tg c, Parsed s tg 0x39 c → c.par 16 1 ≤ 1 → 4 < c.par 17 1 → Next (.policyRead tg) s fun t => Replied t tg 0x13 17 0)
  ∧ (∀ s tg c, Parsed s tg 0x3A c → c.par 16 1 ≤ 1 → islRuns s (c.par 16 1) = true
      → authorised s (c.par 16 1) c.ctx c.ctxGen = true
      → (∃ e ∈ (s.isl (c.par 16 1)).latch, e.seq = c.par 20 4 ∧ e.acked = false) →
    Next (.safeAck tg) s fun t => Replied t tg 0 0 0
      ∧ ∀ e ∈ (t.isl (c.par 16 1)).latch, e.seq = c.par 20 4 → e.acked = true)
  ∧ (∀ s tg c, Parsed s tg 0x3A c → c.par 16 1 ≤ 1 → islRuns s (c.par 16 1) = false →
    Next (.safeAck tg) s fun t => Replied t tg 0x4C (c.par 16 1) 0 ∧ JustCmds s t)

/-! ### Power states, limits, units and dumps (R222, R465, R474, R505 to R509) -/

/-- POWER_STATE of each TARGET; the power of a withdrawn cluster goes once it holds nothing; POWER_LIMIT answers the limit
it stores; UNIT_FENCE, UNIT_RETURN and UNIT_RESET act on the cores of the unit; DUMP starts the dump engine. The
model's own readings of the spec here: log entry 67. -/
def Obligations.PowerAndUnitCommands : Prop :=
  (∀ s tg c, Parsed s tg 0x40 c → c.par 16 1 = 0 → s.fg rstIBase Fld.RST_PKG_STS_CAUSE ≠ 3 →
    Next (.powerStateActive tg) s fun t => Replied t tg 0 0 0
      ∧ ∀ x ∈ namedClusters s c, t.fg (cluBase x) Fld.CLU_STS_PWR = 0 ∧ x ∉ t.napWait ∧ x ∉ t.dozeHold)
  ∧ (∀ s tg c, Parsed s tg 0x40 c → c.par 16 1 = 1 →
    Next (.powerStateDoze tg) s fun t => Replied t tg 0 0 0 ∧ ∀ x ∈ namedClusters s c, x ∈ t.dozeHold)
  ∧ (∀ s tg c, Parsed s tg 0x40 c → c.par 16 1 = 2 → (∀ x ∈ namedClusters s c, cluReserved s x = false) →
    Next (.powerStateNap tg) s fun t => ∀ x ∈ namedClusters s c,
      bit (t.fg (dieBase (x / 8)) Fld.CLU_DIE_CTL_CLUSTER_EN) (x % 8) = false
      ∧ (s.fg (cluBase x) Fld.CLU_STS_PWR < 2 → x ∈ t.napWait))
  ∧ (∀ s tg c, Parsed s tg 0x40 c → c.par 16 1 = 2 → (∃ x ∈ namedClusters s c, cluReserved s x = true) →
    Next (.powerStateNap tg) s fun t => Replied t tg 0x1A 0 0)
  ∧ (∀ s tg c, Parsed s tg 0x40 c → c.par 16 1 = 3 → anyStep s = false → s.upd = none →
    Next (.powerStateCellar tg) s fun t => Replied t tg 0 0 0 ∧ t = { s with cmds := t.cmds, cellar := 1 })
  ∧ (∀ s tg c, Parsed s tg 0x40 c → c.par 16 1 = 3 → anyStep s = true →
    Next (.powerStateCellar tg) s fun t => Replied t tg 0x1A 0 0)
  ∧ (∀ s tg, s.cellar = 1 → s.cmd? tg = none → anyStep s = false →
    Next (.powerStateCellar tg) s fun t => t = cellarEnter s ∧ t.cellar = 2)
  ∧ (∀ s, s.ok = true → (∀ c ∈ s.napWait, c < 32) →
    Next .napGate s fun t => ∀ c ∈ s.napWait, cluHolds s c = false → dieHeld s (c / 8) = false →
      c ∉ t.napWait ∧ t.fg (cluBase c) Fld.CLU_STS_PWR = 2)
  ∧ (∀ s fails late gold, s.cellar = 3 →
    Next (.cellarExit fails late gold) s fun t => t = mpStart false fails late gold (cellarLeave fails s))
  ∧ (∀ s tg c, Parsed s tg 0x41 c →
    Next (.powerLimit tg) s fun t => Replied t tg 0 0 (max 60 (min s.part.pCont (c.par 16 4)))
      ∧ t.fg hthBase Fld.HTH_LIMIT_LIMIT_W = max 60 (min s.part.pCont (c.par 16 4))
      ∧ RegsCmds (· = hthBase + Reg.HTH_LIMIT) s t)
  ∧ (∀ s tg c, Parsed s tg 0x48 c → unitCheck s (c.par 16 2) = none →
    Next (.unitFence tg) s fun t => t = settleWaiting ((unitFence s (c.par 16 2)).setCmd tg { c with phase := .waiting })
      ∧ ∀ k ∈ coresOfUnit (c.par 16 2), t.fb (coreBase k) Fld.CORE_CTL_FENCE = true)
  ∧ (∀ s tg c, Parsed s tg 0x49 c → unitCheck s (c.par 16 2) = none → bits (c.par 16 2) 15 14 < 2 →
    Next (.unitReturn tg) s fun t =>
      t = settleWaiting (((coresOfUnit (c.par 16 2)).foldl beginSeries s).setCmd tg { c with phase := .waiting }))
  ∧ (∀ s tg c, Parsed s tg 0x4A c → unitCheck s (c.par 16 2) = none → bits (c.par 16 2) 15 14 = 0 →
    Next (.unitReset tg) s fun t => ∃ w,
      w = coreResetDo (unitFence s (c.par 16 2)) (64 * bits (c.par 16 2) 13 12 + 8 * bits (c.par 16 2) 11 9 + bits (c.par 16 2) 8 6)
      ∧ t = finishCmd w tg 0 0
          (w.coreGen (64 * bits (c.par 16 2) 13 12 + 8 * bits (c.par 16 2) 11 9 + bits (c.par 16 2) 8 6)))
  ∧ (∀ r ∈ [(Instr.unitFence, 0x48), (.unitReturn, 0x49), (.unitReset, 0x4A)], ∀ s tg c st de, Parsed s tg r.2 c
      → unitCheck s (c.par 16 2) = some (st, de) → Next (r.1 tg) s fun t => Replied t tg st de 0)
  ∧ (∀ s tg c, Parsed s tg 0x4B c → s.dump = none →
    Next (.dump tg) s fun t => t.cmd? tg = some { c with phase := .waiting } ∧ t.fb rstIBase Fld.RST_DUMP_STS_BUSY = true
      ∧ (∃ r, t.dump = some r ∧ r.tag = some tg ∧ r.left = allUnits false)
      ∧ t = { s with regs := t.regs, cmds := t.cmds, dump := t.dump })
  ∧ (∀ s tg c, Parsed s tg 0x4B c → s.dump.isSome = true → Next (.dump tg) s fun t => Replied t tg 0x1A 0 0)

/-! ### Attestation, updates, spans and telemetry (R248, R253, R504, R531 to R537, R556) -/

/-- ATTEST writes its report; an update is begun, staged, verified in two parts and activated; SPAN_CONFIG and SPAN_WINDOW
set the span registers; TELEMETRY writes at most DEST_SIZE bytes and answers how many. The model's own readings of the
spec here: log entries 7, 32, 68 and 72. -/
def Obligations.UpdateSpanAndTelemetryCommands : Prop :=
  (∀ s tg c, Parsed s tg 0x50 c → inWin0 s (c.par 48 6) (c.par 56 4) = true → 50880 ≤ c.par 56 4 →
    Next (.attest tg) s fun t => Replied t tg 0 0 50880
      ∧ t = finishCmd (cpWrites s c.ctx (c.par 48 6) (attestReport s ((List.range 32).map fun i => byteAt c.packet (16 + i))))
          tg 0 0 50880)
  ∧ (∀ s tg c, Parsed s tg 0x50 c → inWin0 s (c.par 48 6) (c.par 56 4) = true → c.par 56 4 < 50880 →
    Next (.attest tg) s fun t => Replied t tg 0x13 56 0)
  ∧ (∀ s tg c, Parsed s tg 0x51 c → 0 < c.par 16 4 → c.par 16 4 ≤ 127 → c.par 20 4 ≤ 0x4000000 → s.upd = none →
    Next (.updateBegin tg) s fun t => Replied t tg 0 0 (nextSession s.updNum)
      ∧ t.upd = some ⟨nextSession s.updNum, c.par 16 4, c.par 20 4, [], 1, []⟩ ∧ t.fg secBase Fld.SEC_STS_SESSION = 1)
  ∧ (∀ s tg c u, Parsed s tg 0x51 c → 0 < c.par 16 4 → c.par 16 4 ≤ 127 → c.par 20 4 ≤ 0x4000000 → s.upd = some u →
    Next (.updateBegin tg) s fun t => Replied t tg (if 3 ≤ u.stage then 0x1A else 0x1B) 0 0)
  ∧ (∀ s tg c u, Parsed s tg 0x52 c → sessionOf s c = some u → c.par 20 4 % 16 = 0 → 16 ≤ c.par 20 4 → c.par 20 4 ≤ 8160
      → c.par 24 8 % 16 = 0 → c.par 24 8 + c.par 20 4 ≤ u.total → u.stage < 2 →
    Next (.updateBlock tg) s fun t => Replied t tg 0 0 0
      ∧ t.upd = some { u with got := u.got ++ [(c.par 24 8 / 16, (c.par 24 8 + c.par 20 4) / 16)] }
      ∧ t.mem = (dramWrite s (stageAddr s (c.par 24 8)) ((c.packet.drop 32).take (c.par 20 4)) ⟨0x800, 0, false⟩).mem)
  ∧ (∀ s tg bad c u slots, Parsed s tg 0x53 c → sessionOf s c = some u → u.stage < 2 → staged u = true
      → splitStage s u.total (unitsOf u.units) 0 0 [] = .ok slots →
    Next (.updateVerify tg bad) s fun t => t.cmd? tg = some { c with phase := .waiting }
      ∧ t.upd = some { u with stage := 3, slots := slots } ∧ t.flash = s.flash)
  ∧ (∀ s tg bad c u, Parsed s tg 0x53 c → sessionOf s c = some u → u.stage < 2 → staged u = false →
    Next (.updateVerify tg bad) s fun t => Replied t tg 0x4B 0 0 ∧ JustCmds s t)
  ∧ (∀ s tg bad c u w, s.cmd? tg = some c → c.opcode = 0x53 → c.phase = .waiting → sessionOf s c = some u
      → bootHeld s = false → writeSlots bad u.slots s = (none, w) →
    Next (.updateVerify tg bad) s fun t => Replied t tg 0 0 0 ∧ t.upd = some { u with stage := 4 } ∧ t.flash = w.flash)
  ∧ (∀ s tg late gold c u, Parsed s tg 0x54 c → sessionOf s c = some u → u.stage = 4 → anyStep s = false →
    Next (.updateActivate tg late gold) s fun t =>
      t = warmReset 1 late gold { s with act := some (actRecord s tg c u.units) })
  ∧ (∀ s tg late gold c u, Parsed s tg 0x54 c → sessionOf s c = some u → u.stage ≠ 4 →
    Next (.updateActivate tg late gold) s fun t => Replied t tg 0x1A 0 0)
  ∧ (∀ s a m, s.act = some a → hostModule s = some m → (∀ u ∈ unitsOf a.units, unitSettled s a u = true) →
    Next .updateActivateReply s fun t => t.act = none ∧ ∃ es, t.emits = es ++ [⟨"NOTIFY", m, [a.vector, a.cq]⟩])
  ∧ (∀ s tg c, Parsed s tg 0x58 c → c.par 16 2 ≠ 0xFFF
      → (s.spnFixed = false ∨ c.par 16 2 = s.fg spnBase Fld.SPN_PKG_ID_ID) → c.par 18 1 ≤ 2 → c.par 19 1 ≤ 2
      → c.par 20 4 < 2 ^ 20 →
    Next (.spanConfig tg) s fun t => t.fg spnBase Fld.SPN_PKG_ID_ID = c.par 16 2 % 2 ^ 12 ∧ t.spnFixed = true
      ∧ t.rd (spnBase + Reg.SPN_LAT_BUDGET) = c.par 20 4
      ∧ (if bit (c.par 24 1) 0 then t.cmd? tg = some { c with phase := .waiting } ∧ t.discovering = true
         else Replied t tg 0 0 (s.fg spnBase Fld.SPN_STS_REACH)))
  ∧ (∀ s tg c, Parsed s tg 0x58 c → c.par 16 2 = 0xFFF → Next (.spanConfig tg) s fun t => Replied t tg 0x13 16 0)
  ∧ (∀ s tg c, Parsed s tg 0x59 c → c.par 16 1 ≤ 7 → c.par 20 6 % 2 ^ 20 = 0
      → (c.par 20 6 + c.par 28 4 * 2 ^ 20 ≤ 0x002000000000
          ∨ 0x004000000000 ≤ c.par 20 6 ∧ c.par 20 6 + c.par 28 4 * 2 ^ 20 ≤ 0x004800000000)
      → windowForbidden s (c.par 20 6) (c.par 28 4 * 2 ^ 20) false = false → c.par 28 4 < 2 ^ 18 →
    Next (.spanWindow tg) s fun t => Replied t tg 0 0 0
      ∧ t.rd (spnBase + 16 * c.par 16 1 + Reg.SPN_WIN_W0) = c.par 20 6 / 2 ^ 20
      ∧ t.rd (spnBase + 16 * c.par 16 1 + Reg.SPN_WIN_W1) = c.par 28 4
      ∧ t.fb (spnBase + 16 * c.par 16 1) Fld.SPN_WIN_W2_EN = decide (0 < c.par 28 4)
      ∧ RegsCmds (fun a => spnBase + 16 * c.par 16 1 + Reg.SPN_WIN_W0 ≤ a ∧ a ≤ spnBase + 16 * c.par 16 1 + Reg.SPN_WIN_W2) s t)
  ∧ (∀ r ∈ [(Instr.telemetryCounters, 0), (.telemetryPower, 1), (.telemetryErrorLogs, 2)], ∀ s tg c, Parsed s tg 0x60 c
      → telemetryCheck s c = none → c.par 28 1 = r.2 →
    Next (r.1 tg) s fun t => ∃ n, n ≤ c.par 24 4 ∧ Replied t tg 0 0 n
      ∧ (r.2 = 2 → t.fb rstIBase Fld.RST_DUMP_STS_FRESH = false))
  ∧ (∀ r ∈ [(Instr.telemetryCounters, 0), (.telemetryPower, 1), (.telemetryErrorLogs, 2)], ∀ s tg c st de, Parsed s tg 0x60 c
      → telemetryCheck s c = some (st, de) → Next (r.1 tg) s fun t => Replied t tg st de 0)

/-! ### Threshold (R303 to R325) -/

/-- A step without LINK is queued, booked or refused by the checks of R303; the members of a group that stays incomplete
are refused, each with its own failure or else with the group's KEY; a booking begins, also early; the dispatcher resumes and places; overruns are recorded; guarantees are
suspended and resumed; ADM_FAULT is written. The model's own readings of the spec here: log entry 41. -/
def Obligations.ThresholdDecides : Prop :=
  (∀ s tg c r, s.ok = true → s.cmd? tg = some c → c.step = some r → c.phase = .admitting → r.link = 0
      → inTurn s c.order = true → admitCheck s c r = none → r.budget = 0 →
    Next (.admissionDecision tg) s fun t =>
      t.cmd? tg = some { c with phase := .queued, step := some { r with decided := s.nowUs, effClass := c.cls } })
  ∧ (∀ s tg c r a ks, s.ok = true → s.cmd? tg = some c → c.step = some r → c.phase = .admitting → r.link = 0
      → inTurn s c.order = true → admitCheck s c r = none → 0 < r.budget → fit s s.nowUs [needOf s r []] = some (a, [ks])
      → fitFull s [ks] = false → a + chargeUs s (stepImg s r) ≤ s.nowUs + r.budget →
    Next (.admissionDecision tg) s fun t =>
      t.cmd? tg = some { c with phase := .booked,
                                step := some { r with decided := s.nowUs, start := a, charge := chargeUs s (stepImg s r),
                                                      promised := a + chargeUs s (stepImg s r), booking := true,
                                                      cores := ks, effClass := c.cls } })
  ∧ (∀ s tg c r a ks, s.ok = true → s.cmd? tg = some c → c.step = some r → c.phase = .admitting → r.link = 0
      → inTurn s c.order = true → admitCheck s c r = none → 0 < r.budget → fit s s.nowUs [needOf s r []] = some (a, [ks])
      → fitFull s [ks] = true →
    Next (.admissionDecision tg) s fun t => Replied t tg 0x21 0 0 ∧ t.fb admBase Fld.ADM_ERR_CAL_FULL = true)
  ∧ (∀ s tg c r, s.ok = true → s.cmd? tg = some c → c.step = some r → c.phase = .admitting → r.link = 0
      → inTurn s c.order = true → admitCheck s c r = none → 0 < r.budget → fit s s.nowUs [needOf s r []] = none →
    Next (.admissionDecision tg) s fun t => Replied t tg 0x21 0 0)
  ∧ (∀ s tg c r st de, s.ok = true → s.cmd? tg = some c → c.step = some r → c.phase = .admitting → r.link = 0
      → inTurn s c.order = true → admitCheck s c r = some (st, de) →
    Next (.admissionDecision tg) s fun t => Replied t tg st (min de 0xFFFF) 0)
  ∧ (∀ s tg c r, ksorted none s.cmds = true → s.cmd? tg = some c → c.step = some r → c.phase = .admitting
      → heldForLink s tg c r = true
      → s.fg admBase Fld.ADM_PAIR_US ≤ s.nowUs - (linkGroup s tg c r).foldl (fun m x => min m x.2.1.parsedUs) c.parsedUs →
    Next (.linkGroupTimeout tg) s fun t => ∀ m ∈ linkGroup s tg c r,
      match admitFirst s m.2.1 m.2.2 with
      | some f => Replied t m.1 f.1 (min f.2 0xFFFF) 0
      | none => Replied t m.1 0x24 (min ((unpairedKey s (linkGroup s tg c r)).getD 0) 0xFFFF) 0)
  ∧ (∀ s tg c r, s.cmd? tg = some c → c.step = some r → c.phase = .booked → r.booking = true → r.begun = false
      → r.start ≤ s.nowUs → heldByBooked s tg r = false → s.fb dspBase Fld.DSP_CTL_EN = true → victimsOf s tg r = []
      → conflictSet s r = [] →
    Next (.bookingStart tg) s fun t => t.cmd? tg = some { c with phase := .loading,
                                                                 step := some { r with begun := true, victims := [], conflict := [] } })
  ∧ (∀ s tg c r, s.cmd? tg = some c → c.step = some r → c.phase = .booked → r.booking = true → r.begun = false
      → s.nowUs < r.start → (∀ k ∈ r.cores, coreFree s tg k = true) → resourcesFree s tg r r.cores = true
      → otherBefore s tg r r.start = false → s.fb dspBase Fld.DSP_CTL_EN = true →
    Next (.bookedEarlyStart tg) s fun t => t.cmd? tg = some { c with phase := .loading, step := some { r with begun := true } }
      ∧ t = { s with regs := t.regs, cmds := t.cmds })
  ∧ (∀ s ps, bestResume s = none → s.fb dspBase Fld.DSP_CTL_EN = true → nextPlacement s = some ps →
    Next .queuedPlace s fun t => t = syncDsp (ps.foldl startLoading s)
      ∧ ∀ p ∈ ps, ∃ c, t.cmd? p.1.1 = some c ∧ c.phase = .loading)
  ∧ (∀ s e, bestResume s = some e → Next (.victimResume e.1) s fun t => t = e.2.2.saved.foldl resumeCore s)
  ∧ (∀ s tg c r, s.ok = true → s.cmd? tg = some c → c.step = some r → c.phase = .running → r.booking = true
      → r.start + r.charge ≤ s.nowUs →
    Next (.bookingOverrun tg) s fun t => t.fb admBase Fld.ADM_ERR_OVERRUN = true ∧ t.fb dspBase Fld.DSP_ERR_OVERRUN = true
      ∧ JustRegs (fun a => a = admBase + Reg.ADM_ERR ∨ a = dspBase + Reg.DSP_ERR) s t)
  ∧ (∀ s, s.ok = true → ksorted none s.cmds = true → suspendCause s = true → s.fb admBase Fld.ADM_STS_SUSPENDED = false →
    Next .guaranteeSuspend s fun t => t.fb admBase Fld.ADM_STS_SUSPENDED = true
      ∧ ∀ tg c r, s.cmd? tg = some c → c.step = some r → c.phase = .booked → r.begun = false →
          ∃ d, t.cmd? tg = some d ∧ d.phase = .queued ∧ d.breach = true)
  ∧ (∀ s tg c r, s.ok = true → ksorted none s.cmds = true → suspendCause s = true → s.fb admBase Fld.ADM_STS_SUSPENDED = false
      → s.cmd? tg = some c → c.step = some r → c.phase = .booked → r.begun = true →
    Next .guaranteeSuspend s fun t => ∃ d q, t.cmd? tg = some d ∧ d.step = some q ∧ d.phase = .booked ∧ d.breach = true
      ∧ q.booking = false ∧ q.cores = r.cores)
  ∧ (∀ s, s.ok = true → suspendCause s = false → s.fb admBase Fld.ADM_STS_SUSPENDED = true →
    Next .guaranteeResume s fun t => t.fb admBase Fld.ADM_STS_SUSPENDED = false ∧ t.pastBooked = [])
  ∧ (∀ s ini l (v : Word), Admits s ini (admBase + Reg.ADM_FAULT) l →
    Next (.admFaultWrite ini v) s fun t => t.rd (admBase + Reg.ADM_FAULT) = v.toNat % 64
      ∧ RegsCmds (· = admBase + Reg.ADM_FAULT) s t)

/-! ### The semaphore units (R331 to R338, R349, R352) -/

/-- A wait takes a token or joins the waiters, a try-wait takes one or answers WOULD_BLOCK, signals add tokens or
overflow, an owner that does not match is answered NOT_OWNER, a unit that cannot be reached UNREACHABLE; a cancel removes the waiter; a released tag leaves no
waiter; an inheritance run ends at its limit; a write of VALUE is taken only without waiters and holders. The model's
own readings of the spec here: log entry 43. -/
def Obligations.SemaphoreUnitsServe : Prop :=
  (∀ s d m k, s.ok = true → firstSem s d = some m → m.op = 0 → m.src = .core k → semReached s m = true
      → mayOperate s m = true → m.hold = false → 0 < semValue s m.sem →
    Next (.semunitWait d) s fun t => semValue t m.sem = semValue s m.sem - 1
      ∧ t.semRsps = s.semRsps ++ [⟨m.sem / 4096, k, m.tag, m.gen, m.dgen, semResult 0 (semValue s m.sem - 1)⟩]
      ∧ t.semMsgs = s.semMsgs.erase m ∧ t.waiters = s.waiters)
  ∧ (∀ s d m k, s.ok = true → firstSem s d = some m → m.op = 0 → m.src = .core k → semReached s m = true
      → mayOperate s m = true → m.hold = false → semValue s m.sem = 0 →
    Next (.semunitWait d) s fun t => t.waiters = s.waiters ++ [⟨m.sem, k, false, m.tag, m.gen, m.cls, m.dgen, false⟩]
      ∧ t.semRsps = s.semRsps ∧ semValue t m.sem = 0)
  ∧ (∀ s d m k, s.ok = true → firstSem s d = some m → m.op = 2 → m.src = .core k → semReached s m = true → mayOperate s m = true
      → semValue s m.sem = 0 →
    Next (.semunitTryWait d) s fun t => t.semMsgs = s.semMsgs.erase m
      ∧ t.semRsps = s.semRsps ++ [⟨m.sem / 4096, k, m.tag, m.gen, m.dgen, semResult 1 0⟩]
      ∧ t.waiters = s.waiters ∧ semValue t m.sem = 0
      ∧ (k / 64 = m.sem / 4096 → t = { s with regs := t.regs, semMsgs := t.semMsgs, semRsps := t.semRsps }
          ∧ OnlyRegs spanUrgReg s t))
  ∧ (∀ s d m k, s.ok = true → firstSem s d = some m → m.op = 2 → m.src = .core k → semReached s m = true
      → mayOperate s m = true → m.hold = false → 0 < semValue s m.sem →
    Next (.semunitTryWait d) s fun t => semValue t m.sem = semValue s m.sem - 1
      ∧ t.semRsps = s.semRsps ++ [⟨m.sem / 4096, k, m.tag, m.gen, m.dgen, semResult 0 (semValue s m.sem - 1)⟩])
  ∧ (∀ s d m k, s.ok = true → firstSem s d = some m → m.op = 1 → m.src = .core k → semReached s m = true
      → mayOperate s m = true → semValue s m.sem + 1 < 2 ^ 31 → s.waiters = [] → holdRec s m.sem m.tag m.gen = none
      → s.cmd? m.tag = none →
    Next (.semunitSignal d) s fun t => semValue t m.sem = semValue s m.sem + 1
      ∧ t.semRsps = s.semRsps ++ [⟨m.sem / 4096, k, m.tag, m.gen, m.dgen, semResult 0 (semValue s m.sem + 1)⟩])
  ∧ (∀ s d m g, s.ok = true → firstSem s d = some m → m.op = 3 → m.src = .cmd g → semReached s m = true
      → mayOperate s m = true → semValue s m.sem + m.count < 2 ^ 31 → s.waiters = [] → (s.cmd? g).isSome = true →
    Next (.semunitSignalN d) s fun t => semValue t m.sem = semValue s m.sem + m.count ∧ Replied t g 0 0 0)
  ∧ (∀ s d m k, s.ok = true → firstSem s d = some m → m.op = 3 → m.src = .core k → semReached s m = true
      → mayOperate s m = true → 2 ^ 31 ≤ semValue s m.sem + m.count →
    Next (.semunitSignalN d) s fun t => t.fb (synBase (m.sem / 4096)) Fld.SYN_ERR_OVERFLOW = true
      ∧ semValue t m.sem = semValue s m.sem
      ∧ t.semRsps = s.semRsps ++ [⟨m.sem / 4096, k, m.tag, m.gen, m.dgen, semResult 0x12 0⟩])
  ∧ (∀ r ∈ [(Instr.semunitWait, 0), (.semunitSignal, 1), (.semunitTryWait, 2), (.semunitSignalN, 3)], ∀ s d m k, s.ok = true
      → firstSem s d = some m → m.op = r.2 → m.src = .core k → semReached s m = true → mayOperate s m = false →
    Next (r.1 d) s fun t => t.fb (synBase (m.sem / 4096)) Fld.SYN_ERR_NOT_OWNER = true
      ∧ t.semRsps = s.semRsps ++ [⟨m.sem / 4096, k, m.tag, m.gen, m.dgen, semResult 0x11 0⟩]
      ∧ t.waiters = s.waiters)
  ∧ (∀ r ∈ [(Instr.semunitWait, 0), (.semunitSignal, 1), (.semunitTryWait, 2), (.semunitSignalN, 3)], ∀ s d m k, s.ok = true
      → firstSem s d = some m → m.op = r.2 → m.src = .core k → semReached s m = false →
    Next (r.1 d) s fun t => t.semRsps = s.semRsps ++ [⟨m.sem / 4096, k, m.tag, m.gen, m.dgen, semResult 0x13 0⟩]
      ∧ t.semMsgs = s.semMsgs.erase m ∧ t.waiters = s.waiters ∧ semValue t m.sem = semValue s m.sem)
  ∧ (∀ s d m k w, firstSem s d = some m → m.op = 4 → m.src = .core k → semReached s m = true
      → (s.waiters.find? fun x => x.sem == m.sem && x.core == k && x.tag == m.tag && x.gen == m.gen) = some w →
    Next (.semCancel d) s fun t => t.waiters = s.waiters.erase w ∧ t.semMsgs = s.semMsgs.erase m)
  ∧ (∀ s tg r, (s.tagReleases.find? fun x => x.1 == tg) = some r →
    Next (.tagRelease tg) s fun t => t.tagReleases = s.tagReleases.erase r
      ∧ ∀ w ∈ t.waiters, w.sem / 4096 < s.part.dies → ¬(w.tag = r.1 ∧ w.gen = r.2))
  ∧ (∀ s tg c r t0, s.cmd? tg = some c → c.step = some r → r.inheritSince = some t0
      → s.fg admBase Fld.ADM_HOLD_NS ≤ 1000 * (s.nowUs - t0) →
    Next (.inheritanceTimeout tg) s fun t => ∃ d q, t.cmd? tg = some d ∧ d.step = some q ∧ q.inheritSince = none ∧ q.inheritFor = [])
  ∧ (∀ s ini n l (v : Word), Admits s ini (semBase n + Reg.SYN_SEM_W0) l → n < 4096 * s.part.dies
      → s.fg (semBase n) Fld.SYN_SEM_W6_WAITERS = 0 → s.fg (semBase n) Fld.SYN_SEM_W6_HOLDERS = 0 →
    Next (.synSemWrite ini n v) s fun t => semValue t n = v.toNat % 2 ^ 31
      ∧ t.fg (semBase n) Fld.SYN_SEM_W3_SIGNALS = 0 ∧ t.fg (semBase n) Fld.SYN_SEM_W5_GRANTS = 0)
  ∧ (∀ s ini n l (v : Word), Admits s ini (semBase n + Reg.SYN_SEM_W0) l → n < 4096 * s.part.dies
      → s.fg (semBase n) Fld.SYN_SEM_W6_HOLDERS ≠ 0 → Next (.synSemWrite ini n v) s fun t => t = s)

/-! ### Floors, arrivals and records (R357, R368, R369, R383, R390, R391) -/

/-- A floor write is taken when the floors still fit the path; frames and bursts that a port takes and its buffer holds
become records with their stamps, an arrival that the buffer cannot hold is dropped; records drain to their slots and
commit. The model's own readings of the spec here: log entries 51 and 52. -/
def Obligations.ArrivalsBecomeRecords : Prop :=
  (∀ s ini d p r l (v : Word) a w, a = (if r < 5 then fixAddr d p r else clsAddr d p (r - 5))
      → w = s.wr a (setBits (s.rd a) 19 0 v.toNat) → d < 4 → p < 11 → r < 13 → Admits s ini a l
      → (regAt s.part l).isSome = true → fixSum w d p + clsSum w d p ≤ pathCap w d p →
    Next (.bwrFloorWrite ini d p r v) s fun t => t.rd a % 2 ^ 20 = v.toNat % 2 ^ 20)
  ∧ (∀ s ini d p r l (v : Word) a w, a = (if r < 5 then fixAddr d p r else clsAddr d p (r - 5))
      → w = s.wr a (setBits (s.rd a) 19 0 v.toNat) → d < 4 → p < 11 → r < 13 → Admits s ini a l
      → (regAt s.part l).isSome = true → pathCap w d p < fixSum w d p + clsSum w d p →
    Next (.bwrFloorWrite ini d p r v) s fun t => t.rd a = s.rd a ∧ t.fb (bwrBase d) Fld.BWR_ERR_CFG = true
      ∧ JustRegs (· = bwrBase d + Reg.BWR_ERR) s t)
  ∧ (∀ s n fine dt emb lines stride (data : List Byte) crc e es, n < 16 → s.ok = true → s.fb pchBase Fld.PCH_CTL_EN = true
      → (s.port n).on = true → s.fb (camBase n) Fld.PCH_CAM_STS_LINK = true → (s.port n).restart = none
      → (s.port n).draining = false → bit (portNum s n 97 1) (bits dt 7 6) = true → openFrame s n = none
      → (s.port n).edges = e :: es → data.length ≤ slotRoom s n → bufFill s n + data.length ≤ bufCap s n →
    Next (.cameraFrame n fine true false dt emb lines stride data crc) s fun t => (t.port n).edges = es
      ∧ ∃ r ∈ (t.port n).recs, r.payload = data ∧ r.tArr = stampAt s fine ∧ r.idx = e.1 ∧ r.tTrig = e.2 ∧ r.ended = false)
  ∧ (∀ s n e es, s.ok = true → (s.port n).edges = e :: es → portTakes s n = true → (s.port n).restart = none
      → e.2 + 2 * camPeriod s n ≤ pchTime s →
    Next (.cameraFrameMissing n) s fun t => (t.port n).edges = es
      ∧ ∃ r, (t.port n).recs = (s.port n).recs ++ [r] ∧ r.idx = e.1 ∧ r.tTrig = e.2 ∧ r.ended = true ∧ bit r.flags 1 = true)
  ∧ (∀ s m fine (frame : List Byte) crc, m < 6 → s.ok = true → portTakes s (16 + m) = true
      → s.fb (ethBase m) Fld.PCH_ETH_STS_LINK = true → ethKept s (16 + m) frame = true
      → bufFill s (bufOf (16 + m)) + min frame.length (slotRoom s (16 + m)) ≤ bufCap s (bufOf (16 + m)) →
    Next (.ethFrame m fine frame crc) s fun t => ∃ r, (t.port (16 + m)).recs = (s.port (16 + m)).recs ++ [r]
      ∧ r.payload = frame.take (slotRoom s (16 + m)) ∧ r.tArr = stampAt s fine ∧ r.id = endNum true frame 12 2 ∧ r.ended = true)
  ∧ (∀ s m fine (frame : List Byte) crc, m < 6 → s.ok = true → portTakes s (16 + m) = true
      → s.fb (ethBase m) Fld.PCH_ETH_STS_LINK = true → ethKept s (16 + m) frame = true
      → bufCap s (bufOf (16 + m)) < bufFill s (bufOf (16 + m)) + min frame.length (slotRoom s (16 + m)) →
    Next (.ethFrame m fine frame crc) s fun t => (t.port (16 + m)).recs = (s.port (16 + m)).recs
      ∧ (t.port (16 + m)).ovfNext = true ∧ t.fb pchBase Fld.PCH_ERR_OVERFLOW = true)
  ∧ (∀ s k fine id (data : List Byte) cnt, k < 4 → s.ok = true → portTakes s (24 + k) = true
      → s.fb (canBase k) Fld.PCH_CAN_STS_BUS_OFF = false → canKept s (24 + k) id = true
      → bufFill s 21 + min data.length (slotRoom s (24 + k)) ≤ bufCap s 21 →
    Next (.canFrame k fine id data false cnt false) s fun t => ∃ r, (t.port (24 + k)).recs = (s.port (24 + k)).recs ++ [r]
      ∧ r.payload = data.take (slotRoom s (24 + k)) ∧ r.tArr = stampAt s fine
      ∧ r.id = id % 2 ^ 29 + 2 ^ 31 * b2n (bit id 31))
  ∧ (∀ s k fine id (data : List Byte) cnt, k < 4 → s.ok = true → portTakes s (24 + k) = true
      → s.fb (canBase k) Fld.PCH_CAN_STS_BUS_OFF = false →
    Next (.canFrame k fine id data true cnt true) s fun t => t.fb (canBase k) Fld.PCH_CAN_STS_BUS_OFF = true
      ∧ JustRegs (· = canBase k + Reg.PCH_CAN_STS) s t)
  ∧ (∀ s j fine (data : List Byte), j < 2 → s.ok = true → portTakes s (28 + j) = true
      → bufFill s 21 + min (min (portNum s (28 + j) 98 1) data.length) (slotRoom s (28 + j)) ≤ bufCap s 21 →
    Next (.imuBurst j fine data) s fun t => ∃ r, (t.port (28 + j)).recs = (s.port (28 + j)).recs ++ [r]
      ∧ r.payload = (data.take (portNum s (28 + j) 98 1)).take (slotRoom s (28 + j)) ∧ r.tArr = stampAt s fine
      ∧ r.tExp = stampAt s fine)
  ∧ (∀ s k p r w, nextBuf s = some (false, k) → bufNext s k = some (p, r) → r.drained ≠ 0
      → writeBytes { s with drainNorm := k } 0xA00 (s.port p).ctx (headSlot s p + 64 + r.drained)
          ((r.payload.drop r.drained).take 4096) = (true, w) →
    Next .ingestDrain s fun t =>
      t = syncUrg (setRec w p { r with drained := r.drained + ((r.payload.drop r.drained).take 4096).length }) k)
  ∧ (∀ s p r rs w, s.ok = true → (s.port p).recs = r :: rs → r.ended = true → r.lost = false → r.drained = r.payload.length
      → r.payload ≠ []
      → commitHead s 0xA00 (s.port p).ctx (headSlot s p) (recHeader p r) ((s.port p).seq + 1) (statusAddr s p)
          ((s.port p).seq % slotCount s p) = (true, true, w) →
    Next (.recordCommit p) s fun t => (t.port p).seq = (s.port p).seq + 1 ∧ (t.port p).recs = rs)

/-! ### Time, the trigger generator and the Porch's pins (R24, R376 to R388, R574 to R576) -/

/-- A Sync message locks the clock; missed ones lead to holdover and then to unsynchronised time; a base period advances
the index and its edges go out; pin samples set the fields of R386 to R388; link and clock failures are recorded. The
model's own readings of the spec here: log entries 51, 53 and 54. -/
def Obligations.PorchTimeTriggersAndPins : Prop :=
  (∀ s ofs, s.ok = true → (s.port 0x20).on = true → timeState s = 1 →
    Next (.ptpSync ofs) s fun t => timeState t = 1 ∧ t.slew = ofs ∧ t.lastSync = s.nowUs
      ∧ t.rd (pchBase + Reg.PCH_TIME_OFS) = ofSigned 32 (clampI (-(2 ^ 31)) (2 ^ 31 - 1) ofs) ∧ pchTime t = pchTime s)
  ∧ (∀ s ofs, s.ok = true → (s.port 0x20).on = true → timeState s ≠ 1 → portNum s 0x20 100 4 < ofs.natAbs →
    Next (.ptpSync ofs) s fun t => timeState t = 1 ∧ t.slew = 0
      ∧ (pchTime t : Int) = ((pchTime s : Int) + ofs) % (2 ^ 64 : Int)
      ∧ ∀ p < 30, portOk p = true → (t.port p).stepNext = true)
  ∧ (∀ s, s.ok = true → timeState s = 1 → s.lastSync + 375000 ≤ s.nowUs →
    Next .timeHoldover s fun t => timeState t = 2 ∧ t.holdSince = s.nowUs ∧ t.slew = 0)
  ∧ (∀ s, s.ok = true → timeState s = 2 → s.holdSince + portNum s 0x20 98 2 * 1000000 ≤ s.nowUs →
    Next .timeUnsync s fun t => timeState t = 0 ∧ JustRegs (· = pchBase + Reg.PCH_TIME_STS) s t)
  ∧ (∀ s fine, s.ok = true → trigRun s = true → s.trigNext = none →
    Next (.triggerPeriod fine) s fun t => trigIdx t = (trigIdx s + 1) % 2 ^ 32 ∧ t.trigAt = stampAt s fine ∧ trigRun t = true
      ∧ ∀ n < 16, (s.port n).restart = none → (t.port n).trigHeld = false)
  ∧ (∀ s fine x, s.ok = true → trigRun s = true → s.trigNext = some x →
    Next (.triggerPeriod fine) s fun t => t.trigNext = none ∧ ∀ i < 68, t.rd (trigArea + 4 * i) = leAt x.body (4 * i) 4)
  ∧ (∀ s i fine ua k, i < 32 → edgeIndex s (outWord s i) = some k → trigRun s = true → bit (outWord s i) 0 = true
      → outHeld s i = false → getD 0 s.trigFired i ≠ k + 1 → bit (outWord s i) 2 = true → i ∉ s.trigHiz →
    Next (.triggerEdge i fine ua) s fun t => t.trigFired = setD 0 s.trigFired i (k + 1)
      ∧ ⟨"TRIG_OUT", i, [stampAt s fine, bits (outWord s i) 1 1, outWidth (outWord s i)]⟩ ∈ t.emits)
  ∧ (∀ s n code, n < 16 → s.ok = true → (s.port n).on = true → (s.port n).ocRun = 2
      → portNum s n 124 2 < min 0xFFFF (code * portNum s n 122 2 / 1000) →
    Next (.pocSample n code) s fun t => t.fg (camBase n) Fld.PCH_CAM_POC_MA = min 0xFFFF (code * portNum s n 122 2 / 1000)
      ∧ t.fb (camBase n) Fld.PCH_CAM_STS_OC = true
      ∧ (s.fb pchBase Fld.PCH_CTL_OC_CUT = true → (t.port n).poc = false))
  ∧ (∀ s m sqi, m < 6 → s.ok = true → s.fb (ethBase m) Fld.PCH_ETH_STS_LINK = true → sqi < 8 →
    Next (.ethQualitySample m sqi) s fun t => t.fg (ethBase m) Fld.PCH_ETH_STS_SQI = sqi
      ∧ JustRegs (· = ethBase m + Reg.PCH_ETH_STS) s t)
  ∧ (∀ s m result dist, m < 6 → s.ok = true → (s.port (16 + m)).diag = true → result < 4 →
    Next (.ethCableDiag m result dist) s fun t => t.fg (ethBase m) Fld.PCH_ETH_DIAG_RESULT = result
      ∧ t.fg (ethBase m) Fld.PCH_ETH_DIAG_DIST_DM = min 1023 dist ∧ (t.port (16 + m)).diag = false)
  ∧ (∀ s i, i < 32 → s.ok = true →
    Next (.trigPinShort i 0) s fun t => bit (t.rd (pchBase + Reg.PCH_PIN_TSHORT)) i = true
      ∧ JustRegs (· = pchBase + Reg.PCH_PIN_TSHORT) s t)
  ∧ (∀ s i, i < 32 → s.ok = true → bit (s.rd (pchBase + Reg.PCH_PIN_TSHORT)) i = true → i ∉ s.trigHiz →
    Next (.trigPinShort i 1) s fun t => t = { s with trigHiz := s.trigHiz ++ [i] })
  ∧ (∀ s i, i < 32 → s.ok = true →
    Next (.trigPinShort i 3) s fun t => bit (t.rd (pchBase + Reg.PCH_PIN_TSHORT)) i = false ∧ i ∉ t.trigHiz)
  ∧ (∀ s k on, k < 4 → s.ok = true →
    Next (.canPinFault k 1 on) s fun t => bit (t.rd (pchBase + Reg.PCH_PIN_CAN)) (4 * k + 1) = on
      ∧ JustRegs (· = pchBase + Reg.PCH_PIN_CAN) s t)
  ∧ (∀ s n, n < 16 → s.ok = true → openFrame s n = none →
    Next (.cameraLinkDown n) s fun t => t.fb (camBase n) Fld.PCH_CAM_STS_LINK = false
      ∧ JustRegs (· = camBase n + Reg.PCH_CAM_STS) s t)
  ∧ (∀ s m up inv, m < 6 → s.ok = true → (s.port (16 + m)).on = true →
    Next (.ethLinkChange m up inv) s fun t => t.fb (ethBase m) Fld.PCH_ETH_STS_LINK = up
      ∧ (up = true → t.fb (ethBase m) Fld.PCH_ETH_STS_POL_INV = inv))
  ∧ (∀ s, s.ok = true → s.trigNext = none →
    Next .triggerClockFault s fun t => trigRun t = false ∧ t.fb pchBase Fld.PCH_TRIG_STS_CLK_FAULT = true ∧ t.trigBad = true
      ∧ ∀ i < 2, (s.isl i).powered = true → t.fb (acnBase i) Fld.ACN_CLK_TRIG_OK = false)

/-! ### The fusion units (R399 to R411) -/

/-- A tick of the integrator, the decoding of a lidar record, and the projection of a waiting point. The model's own
readings of the spec here: log entries 56 and 57. -/
def Obligations.FusionUnitsRun : Prop :=
  (∀ s x, s.integ = some x → pchTime s / 1000000 ≠ x.lastT →
    Next .integratorTick s fun t => t = intTick s x (pchTime s / 1000000 * 1000000)
      ∧ ∃ y, t.integ = some y ∧ y.tick = x.tick + 1 ∧ y.lastT = pchTime s / 1000000)
  ∧ (∀ s x, s.integ = some x → pchTime s / 1000000 = x.lastT → Next .integratorTick s fun t => t = s)
  ∧ (∀ s x r rs, s.ok = true → s.proj = some x → x.stopping = false → s.lidIn = r :: rs →
    Next .lidarRecordProcess s fun t => t.lidIn = rs
      ∧ t.fg fusBase Fld.FUS_PTS_IN_COUNT = (s.fg fusBase Fld.FUS_PTS_IN_COUNT
          + (lidPoints (calBody s (calKey 1 r.lidar) 64) r.data r.tArr s.nowUs (bodyNum (calBody s (calKey 1 r.lidar) 64) 72 2)
              0).1.length) % 2 ^ 32)
  ∧ (∀ s j pt ps, (s.jobs.find? fun x => (match x.points with | p :: _ => covered s x p | [] => false)) = some j
      → j.points = pt :: ps → ps ≠ [] →
    Next .pointProject s fun t => t = projectPoint s j false ∧ ∃ k ∈ t.jobs, k.points = ps ∧ k.lidar = j.lidar)
  ∧ (∀ s j, s.ok = true
      → (s.jobs.find? fun x => (match x.points with | p :: _ => decide (p.since + waitUs s ≤ s.nowUs) | [] => false)) = some j →
    Next .pointWaitTimeout s fun t => t = projectPoint s j true
      ∧ t.fg fusBase Fld.FUS_EXTRAP_COUNT = (s.fg fusBase Fld.FUS_EXTRAP_COUNT + 1) % 2 ^ 32)

/-! ### The Acina islands, clocks, rails and heartbeats (R417 to R425, R461) -/

/-- Halts, lost heartbeats, reported events with their log and their levels, clamp holds and the readback, boot, and the
conditions of clocks, rails and monitor wires. The model's own readings of the spec here: log entries 58 and 59. -/
def Obligations.IslandsWatch : Prop :=
  (∀ s i, s.ok = true → (s.isl i).powered = true → islState s i ≠ 4 →
    Next (.lockstepMismatch i) s fun t => islState t i = 4 ∧ t.fb (acnBase i) Fld.ACN_STS_SAFE_OUT = true ∧ (t.isl i).prep = none)
  ∧ (∀ s i src, s.ok = true → islRuns s i = true → hbLive s i src = true
      → hbTimeout s i src ≤ acnSince s i ((aget (s.isl i).beats src).getD 0) →
    Next (.heartbeatLost i src) s fun t => hbLive t i src = false
      ∧ t.reports = s.reports ++ [⟨i, (hbEvent src).1, (hbEvent src).2⟩])
  ∧ (∀ s i r, s.ok = true → i < 2 → (s.reports.find? fun x => x.island == i) = some r → islRuns s i = true
      → evaluates i r.event = true →
    Next (.islandEvent i) s fun t => t.reports = takeReport i s.reports
      ∧ t.rd (acnBase i + Reg.ACN_EVT_SEQ) = (s.rd (acnBase i + Reg.ACN_EVT_SEQ) + 1) % 2 ^ 32
      ∧ t.rd (acnBase i + Reg.ACN_EVTLOG_W0 + 16 * ((t.rd (acnBase i + Reg.ACN_EVT_SEQ) + 255) % 256))
          = t.rd (acnBase i + Reg.ACN_EVT_SEQ)
      ∧ (2 ≤ islLevel s i r.event → t.fb (acnBase i) Fld.ACN_STS_CLAMP = true)
      ∧ (3 ≤ islLevel s i r.event → t.fb (acnBase i) Fld.ACN_STS_SAFE_OUT = true ∧ islState t i = 3))
  ∧ (∀ s i r, (s.reports.find? fun x => x.island == i) = some r → (islRuns s i && evaluates i r.event) = false →
    Next (.islandEvent i) s fun t => t = { s with reports := takeReport i s.reports })
  ∧ (∀ s i, s.ok = true → islRuns s i = true
      → (∀ c ∈ (s.isl i).clamps, occurs s i c.event c.unit c.read = false ∧ 1000 * c.hold ≤ acnSince s i c.since) →
    Next (.clampHoldExpiry i) s fun t => (t.isl i).clamps = [] ∧ t.fb (acnBase i) Fld.ACN_STS_CLAMP = false)
  ∧ (∀ s i, s.ok = true → i < 2 → islRuns s i = true → s.fb (acnBase i) Fld.ACN_STS_CLAMP = true → (s.isl i).readDone = false
      → 5 ≤ acnSince s i (s.isl i).clampAt → s.fb admBase Fld.ADM_STS_SUSPENDED = false →
    Next (.clampReadback i) s fun t => t.fb (acnBase i) Fld.ACN_STS_SAFE_OUT = true ∧ islState t i = 3
      ∧ (t.isl i).readDone = true)
  ∧ (∀ s i u, s.ok = true → i < 2 → (s.isl i).powered = true → islState s i = 1 → s.fg secBase Fld.SEC_STS_STAGE = 1
      → aget s.unitImgs (4 + i) = some u →
    Next (.islandBoot i) s fun t => if Config.authentic 4 (u.message ++ u.signature) then islState t i = 2 else t = unitDead s (4 + i))
  ∧ (∀ s pll, s.ok = true → (if pll then s.pllBad else s.mainBad) = false →
    Next (.clockFault pll) s fun t => (if pll then t.pllBad else t.mainBad) = true
      ∧ t.reports = s.reports ++ [⟨0, 0x02, 0⟩, ⟨1, 0x02, 0⟩]
      ∧ ∀ i < 2, (s.isl i).powered = true →
          t.fb (acnBase i) (if pll then Fld.ACN_CLK_PLL_OK else Fld.ACN_CLK_MAIN_OK) = false)
  ∧ (∀ s which, s.ok = true →
    Next (.clockFaultCleared which) s fun t =>
      (match which with | 0 => t.mainBad | 1 => t.pllBad | _ => t.trigBad) = false
      ∧ ∀ i < 2, (s.isl i).powered = true →
          t.fb (acnBase i) (match which with | 0 => Fld.ACN_CLK_MAIN_OK | 1 => Fld.ACN_CLK_PLL_OK | _ => Fld.ACN_CLK_TRIG_OK) = true)
  ∧ (∀ s r, r ∉ s.railsBad →
    Next (.railOutOfRange r) s fun t => t = { s with
      railsBad := s.railsBad ++ [r], reports := s.reports ++ [⟨0, 0x11, 0⟩, ⟨1, 0x11, 0⟩] })
  ∧ (∀ s r, Next (.railBackInRange r) s fun t => r ∉ t.railsBad)
  ∧ (∀ s, s.ok = true → islRuns s 0 = true → (s.isl 1).powered = true → islState s 1 ≠ 4 →
    Next (.heartbeatToggle 7) s fun t => hbLive t 1 7 = true ∧ 7 ∈ (t.isl 1).seen
      ∧ aget (t.isl 1).beats 7 = some (s.fg (acnBase 1) Fld.ACN_US_COUNT))

/-! ### Checkers, self-tests and golden steps (R442 to R451) -/

/-- The decision after a mismatch, the selection, start and end of a checker test, island B's watch over them, golden
steps and their windows. The model's own readings of the spec here: log entries 17 and 44. -/
def Obligations.CheckersAndGoldenSteps : Prop :=
  (∀ s tg c r k ks, s.cmd? tg = some c → c.step = some r → r.reexec = .undecided → r.mmCores = k :: ks → reexecOk s r = false →
    Next (.mismatchDecision tg) s fun t =>
      t = settleStep (quarCheck (s.setCmd tg { c with step := some { r with reexec := .refused } }) k) tg)
  ∧ (∀ s tg c r k ks, s.cmd? tg = some c → c.step = some r → r.reexec = .undecided → r.mmCores = k :: ks → reexecOk s r = true
      → r.booking = false →
    Next (.mismatchDecision tg) s fun t =>
      t = settleStep (quarCheck (s.setCmd tg { c with step := some { r with reexec := .booked, rerun := [] } }) k) tg)
  ∧ (∀ s, s.ok = true → islRuns s 0 = true
      → (s.isl 0).testAt = none ∨ (∃ a, (s.isl 0).testAt = some a ∧ 1000 ≤ acnSince s 0 a) →
    Next .selfTestSelect s fun t => (t.isl 0).tests = (s.isl 0).tests + 1
      ∧ (t.isl 0).testCore = ((s.isl 0).testCore % (64 * s.part.dies) + 1) % (64 * s.part.dies)
      ∧ (t.isl 0).testAt = some (s.fg (acnBase 0) Fld.ACN_US_COUNT))
  ∧ (∀ s ini k l (v : Word), Admits s ini (chkBase k + Reg.CHK_ST) l → bit v.toNat 0 = true →
    Next (.checkerSelfTest ini k v) s fun t => (t.core k).selfTest = true ∧ aget t.stGo k = some s.nowUs
      ∧ t.fb (chkBase k) Fld.CHK_ST_DONE = false ∧ t.fb (chkBase k) Fld.CHK_ST_PASS = false)
  ∧ (∀ s k ok a, s.ok = true → aget s.stGo k = some a → (s.core k).selfTest = true → a + 100 ≤ s.nowUs →
    Next (.selfTestPattern k ok) s fun t => aget t.stGo k = none ∧ t.stDone = s.stDone + 1
      ∧ t.fb (chkBase k) Fld.CHK_ST_DONE = true ∧ t.fb (chkBase k) Fld.CHK_ST_PASS = ok ∧ t.fb (chkBase k) Fld.CHK_ST_PATTERN = true
      ∧ (ok = false → t.fg (chkBase k) Fld.CHK_QSTS_STATE = 3))
  ∧ (∀ s, s.ok = true → islRuns s 1 = true → (s.isl 1).stalled = false
      → policyField s 1 2 0 48 4 ≤ acnSince s 1 (s.isl 1).countAt →
    Next .selfTestStall s fun t => (t.isl 1).stalled = true ∧ t.reports = s.reports ++ [⟨1, 0x0D, 0⟩]
      ∧ t = { s with islands := t.islands, reports := t.reports })
  ∧ (∀ s k g, (s.core k).golden = some g → g.waits = none → g.loaded = false →
    Next (.goldenPlace k) s fun t => t = goldLoad s k g)
  ∧ (∀ s k e, (s.core k).golden = none → nextGold s k = some e → goldPlaceable s k (goldInterval s e) = true →
    Next (.goldenPlace k) s fun t => t = goldPlace s k e)
  ∧ (∀ s, s.goldNext ≤ s.nowUs / goldWin s → Next .goldenWindowEnd s fun t => t.goldNext = s.goldNext + 1)

/-! ### Hearth and the die agents (R465 to R474) -/

/-- The package budget is computed; reports are taken and answered; budgets, silence and clamp messages act on the agents;
an agent reduces its die while it draws above its budget or pays back what it drew, raises it, and holds a ramp with filler;
a budget that stays short becomes an emergency; an idle cluster dozes. The model's
own readings of the spec here: log entries 61, 62 and
81. -/
def Obligations.HearthBudgetsAct : Prop :=
  (∀ s p, s.ok = true → s.fb hthBase Fld.HTH_CTL_EN = true → dieHeld s 4 = false →
    Next (.budgetRecompute p) s fun t => t.hthBudget = pkgBudget s
      ∧ t.fg hthBase Fld.HTH_STS_BUDGET_W = min 1023 (pkgBudget s / 10)
      ∧ (emergency s = true → t.hthBudget = 600))
  ∧ (∀ s d pw, d < 6 → s.ok = true → dieHeld s d = false → (d < 4 → s.part.fitted d = true) → s.fb hthBase Fld.HTH_CTL_EN = true
      → dieHeld s 4 = false → dieMsgCan s d 4 = true →
    Next (.agentReport d pw) s fun t => t.fb (hthBase + 8 * d) Fld.HTH_DIE_W1_REPORT_OK = true
      ∧ ∃ m, t.budgetMsgs = s.budgetMsgs ++ [m] ∧ m.die = d)
  ∧ (∀ s d pw, d < 6 → s.ok = true → dieHeld s d = false → (d < 4 → s.part.fitted d = true) → dieMsgCan s d 4 = false →
    Next (.agentReport d pw) s fun t => t.fg (agBase d) Fld.HTH_AG_STS_POWER_DW = pw % 2 ^ 12
      ∧ t = { s with regs := t.regs, agSeq := t.agSeq })
  ∧ (∀ s d pw, d < 6 → s.ok = true → dieHeld s d = false → (d < 4 → s.part.fitted d = true) → s.fb hthBase Fld.HTH_CTL_EN = false →
    Next (.agentReport d pw) s fun t => t.fg (agBase d) Fld.HTH_AG_STS_POWER_DW = pw % 2 ^ 12 ∧ t.budgetMsgs = s.budgetMsgs)
  ∧ (∀ s d m, d < 6 → s.ok = true → (s.budgetMsgs.find? fun x => x.die == d) = some m → dieHeld s d = false
      → dieMsgCan s 4 d = true →
    Next (.budgetMsg d) s fun t => t.budgetMsgs = takeBudget d s.budgetMsgs
      ∧ t.fg (agBase d) Fld.HTH_AG_STS_BUDGET_DW = m.budget % 2 ^ 12
      ∧ t.fb (agBase d) Fld.HTH_AG_STS_SURVIVAL = bit m.flags 0 ∧ t.fb (agBase d) Fld.HTH_AG_STS_THERMAL = bit m.flags 1
      ∧ (bit m.flags 1 = true → d < 4 → ∀ c ∈ clustersOn d, tgtMhz t c ≤ 800 ∧ duty t c = 0))
  ∧ (∀ s d m, (s.budgetMsgs.find? fun x => x.die == d) = some m → dieHeld s d = true →
    Next (.budgetMsg d) s fun t => t = { s with budgetMsgs := takeBudget d s.budgetMsgs })
  ∧ (∀ s d, d < 6 → s.ok = true → dieHeld s d = false → s.fb (agBase d) Fld.HTH_AG_STS_SURVIVAL = false
      → getD 0 s.agBudgetAt d + 1000 ≤ s.nowUs →
    Next (.budgetStale d) s fun t => t.fg (agBase d) Fld.HTH_AG_STS_BUDGET_DW = survival s.part d
      ∧ t.fb (agBase d) Fld.HTH_AG_STS_SURVIVAL = true ∧ JustRegs (· = agBase d + Reg.HTH_AG_STS) s t)
  ∧ (∀ s d r, d < 6 → s.ok = true → s.fb hthBase Fld.HTH_CTL_EN = true → dieHeld s 4 = false → d ∈ agents s → aget s.dieReps d = some r
      → r.since + 300 ≤ s.nowUs →
    Next (.reportMiss d) s fun t => t.fb (hthBase + 8 * d) Fld.HTH_DIE_W1_REPORT_OK = false
      ∧ t.fb hthBase Fld.HTH_ERR_REPORT_MISS = true
      ∧ JustRegs (fun a => a = hthBase + 8 * d + Reg.HTH_DIE_W1 ∨ a = hthBase + Reg.HTH_ERR) s t)
  ∧ (∀ s d, d < 6 → s.ok = true → d ∈ s.clampMsgs → dieHeld s d = false → dieMsgCan s 4 d = true →
    Next (.clampMsg d) s fun t => d ∉ t.clampMsgs ∧ (∀ c ∈ t.filler, c / 8 ≠ d)
      ∧ t.fg (agBase d) Fld.HTH_AG_STS_BUDGET_DW = survival s.part d ∧ t.fb (agBase d) Fld.HTH_AG_STS_SURVIVAL = true)
  ∧ (∀ s d b e es room fall, s.ok = true → s.part.fitted d = true → dieHeld s d = false
      → s.fg (agBase d) Fld.HTH_AG_STS_BUDGET_DW = b → b < e → reduceOnce (noteDraw s d b e) d = none →
    Next (.agentPowerSample d (e :: es) ⟨room, fall⟩) s fun t =>
      d ∈ t.shortBy ∧ t.fb hthBase Fld.HTH_STS_BUDGET_SHORT = true)
  ∧ (∀ s d b e e' w room fall, s.ok = true → s.part.fitted d = true → dieHeld s d = false
      → s.fg (agBase d) Fld.HTH_AG_STS_BUDGET_DW = b → b < e ∨ (e = b ∧ 0 < b ∧ paysBack (noteDraw s d b e) d b = true)
      → e' < b → reduceOnce (noteDraw s d b e) d = some w →
    Next (.agentPowerSample d [e, e'] ⟨room, fall⟩) s fun t => t = setShort w d false ∧ d ∉ t.shortBy)
  ∧ (∀ s d b e es, s.part.fitted d = true → dieHeld s d = false → s.fg (agBase d) Fld.HTH_AG_STS_BUDGET_DW = b → e ≤ b
      → paysBack (noteDraw s d b e) d b = false → (∀ c ∈ s.rampFill, c / 8 ≠ d) →
    Next (.agentPowerSample d (e :: es) ⟨true, false⟩) s fun t => t = raiseOnce (setShort (noteDraw s d b e) d false) d)
  ∧ (∀ s d b e es c cs, s.ok = true → s.part.fitted d = true → dieHeld s d = false
      → s.fg (agBase d) Fld.HTH_AG_STS_BUDGET_DW = b → e ≤ b → paysBack (noteDraw s d b e) d b = false
      → rampFree s d = c :: cs →
    Next (.agentPowerSample d (e :: es) ⟨false, true⟩) s fun t => c ∈ t.filler ∧ t.rampFill = s.rampFill ++ [c])
  ∧ (∀ s, s.ok = true → s.fb hthBase Fld.HTH_STS_BUDGET_SHORT = true
      → s.shortSince + 1000 * s.fg hthBase Fld.HTH_MISC_GRACE_MS < s.nowUs →
    Next .budgetGraceExpiry s fun t => t.fb hthBase Fld.HTH_ERR_GRACE = true ∧ t.fb hthBase Fld.HTH_STS_THERMAL = true
      ∧ t.fb admBase Fld.ADM_STS_SUSPENDED = true ∧ t.filler = [])
  ∧ (∀ s c, s.ok = true → 10 ≤ (aget s.cluIdle c).getD 0 → cluRuns s c = false → c ∉ s.filler
      → s.fg (cluBase c) Fld.CLU_STS_PWR = 0 → dieHeld s (c / 8) = false →
    Next (.dozeEntry c) s fun t => t.fg (cluBase c) Fld.CLU_STS_PWR = 1 ∧ JustRegs (· = cluBase c + Reg.CLU_STS) s t)

/-! ### Temperatures, hot memory and coolant (R211 to R214, R475 to R483) -/

/-- Sensor readings are stored and a faulty sensor is excluded; emergencies end by their rules; hot memory lowers and
raises the die's cap; coolant readings, silence and regulators' telemetry are recorded. The model's own readings of
the spec here: log entries 27, 28 and 62. -/
def Obligations.ThermalAndCoolantAct : Prop :=
  (∀ s d ts fl i, d < 6 → s.ok = true → dieHeld s d = false → (d < 4 → s.part.fitted d = true) → i < snsCount d → i < ts.length →
    Next (.thermalSample d ts fl) s fun t => t.rd (snsAddr d i) % 2 ^ 16 = enc16 (ts.getD i 0)
      ∧ (1600 < ts.getD i 0 ∨ ts.getD i 0 < -600 ∨ fl.getD i 0 % 4 ≠ 0 →
          32 * d + i ∈ t.snsExcl ∧ bit (t.rd (snsAddr d i)) 16 = false))
  ∧ (∀ s, s.ok = true → s.fb hthBase Fld.HTH_STS_THERMAL = true → (∀ d < 6, (aget s.hotAt d).getD 0 + 1000000 ≤ s.nowUs)
      → anyRef4 s = false → s.fg hthBase Fld.HTH_STS_COOL ≠ 2 →
    Next .thermalEmergencyEnd s fun t => t.fb hthBase Fld.HTH_STS_THERMAL = false ∧ t.thermDies = []
      ∧ t.fb admBase Fld.ADM_CTL_SUSPEND = false ∧ ∀ d ∈ agents s, t.fb (agBase d) Fld.HTH_AG_STS_THERMAL = false)
  ∧ (∀ s d, s.ok = true → hotChannel s d = true → getD 0 s.capAt d + 10000 ≤ s.nowUs →
    Next (.dramHotDerate d) s fun t => t.fb hthBase Fld.HTH_ERR_DRAM_HOT = true
      ∧ t.dieCap = setD 0 s.dieCap d
          (min (dieFull s.part - dieFloor s d (s.fg admBase Fld.ADM_CLK_GUAR_MHZ)) (getD 0 s.dieCap d + 40))
      ∧ t.capAt = setD 0 s.capAt d s.nowUs ∧ t = { s with regs := t.regs, dieCap := t.dieCap, capAt := t.capAt })
  ∧ (∀ s d, (∀ c < 16, s.fb (memBase d + 0x100 * c) Fld.MEM_CH_STS_REF2X = false) → getD 0 s.capAt d + 100000 ≤ s.nowUs
      → 0 < getD 0 s.dieCap d →
    Next (.dramHotCapRaise d) s fun t => t = { s with
      dieCap := setD 0 s.dieCap d (getD 0 s.dieCap d - 40), capAt := setD 0 s.capAt d s.nowUs })
  ∧ (∀ s rs, s.ok = true → dieHeld s 4 = false → 50 * s.fg hthBase Fld.HTH_THERM_RNOM < rs.getD 0 0 →
    Next (.coolantSample rs) s fun t => t.fg hthBase Fld.HTH_COOL_IN_T0 = 0x8000 ∧ t.fb hthBase Fld.HTH_ERR_THERM_EXCL = true)
  ∧ (∀ s rs, s.ok = true → dieHeld s 4 = false → rs.getD 1 0 ≤ 50 * s.fg hthBase Fld.HTH_THERM_RNOM
      → s.fg hthBase Fld.HTH_THERM_RNOM ≤ 50 * rs.getD 1 0 →
    Next (.coolantSample rs) s fun t => t.fg hthBase Fld.HTH_COOL_IN_T1
      = enc16 (Config.ntcTemp (rs.getD 1 0) (s.fg hthBase Fld.HTH_THERM_RNOM) (s.fg hthBase Fld.HTH_THERM_BETA)))
  ∧ (∀ s, s.ok = true → dieHeld s 4 = false → flowOn s ≠ [] → (∀ i ∈ flowOn s, flowSilent s i = true)
      → s.fg hthBase Fld.HTH_STS_COOL ≠ 2 →
    Next .coolantNoFlow s fun t => t.fb hthBase Fld.HTH_ERR_NO_FLOW = true ∧ t.fg hthBase Fld.HTH_STS_COOL = 2
      ∧ t.fg hthBase Fld.HTH_COOL_FLOW_DUTY = 100 ∧ t.clampMsgs = agents s ∧ t.fb admBase Fld.ADM_STS_SUSPENDED = true)
  ∧ (∀ s, s.ok = true → s.fg hthBase Fld.HTH_STS_COOL = 2 → s.coolBadAt + 2000000 ≤ s.nowUs
      → s.fb hthBase Fld.HTH_STS_THERMAL = false →
    Next .coolantEmergencyEnd s fun t => t.fg hthBase Fld.HTH_STS_COOL = 0 ∧ t.fb admBase Fld.ADM_CTL_SUSPEND = false)
  ∧ (∀ s i iout con dw, s.ok = true → s.fb hthBase Fld.HTH_CTL_EN = true → s.fb (hthBase + 4 * i) Fld.HTH_REG_EN = true
      → s.fb (hthBase + 4 * i) Fld.HTH_REG_AVS = false →
    Next (.pmbusTelemetry i true iout con dw) s fun t => t.fg (hthBase + 4 * i) Fld.HTH_REG_IOUT_DA = iout % 2 ^ 16
      ∧ aget t.charges con = some dw ∧ con ∉ t.busBad)
  ∧ (∀ s i iout con dw, s.ok = true → s.fb hthBase Fld.HTH_CTL_EN = true → s.fb (hthBase + 4 * i) Fld.HTH_REG_EN = true
      → s.fb (hthBase + 4 * i) Fld.HTH_REG_AVS = false →
    Next (.pmbusTelemetry i false iout con dw) s fun t => con ∈ t.busBad ∧ t.fb hthBase Fld.HTH_ERR_BUS_FAULT = true
      ∧ t = { s with regs := t.regs, busBad := t.busBad })
  ∧ (∀ s i a, aget s.flowLast i = some a →
    Next (.flowPulse i) s fun t => aget t.flowLast i = some s.nowUs ∧ ⟨i, s.nowUs, s.nowUs - a⟩ ∈ t.flowPeriods
      ∧ t = { s with flowLast := t.flowLast, flowPeriods := t.flowPeriods })

/-! ### Resets, teardowns and dumps (R489 to R514, R569) -/

/-- POR, package warm reset, die, cluster and core resets by their registers, the islands' own resets, the stages of a
teardown, request timeouts, lost dies, the MP watchdog, faults cleared, notices from peers, and the dump engine. The
model's own readings of the spec here: log entries 65, 66, 67 and 72. -/
def Obligations.ResetsTeardownsAndDumps : Prop :=
  (∀ s fails late gold, s.powerOff = false →
    Next (.por fails late gold) s fun t => t = mpStart true fails late gold (porTake s) ∧ (porTake s).cmds = []
      ∧ (porTake s).otp = s.otp ∧ (porTake s).flash = s.flash)
  ∧ (∀ s ini v late gold l, Admits s ini (rstIBase + Reg.RST_PKG_CTL) l → bit v.toNat 0 = true →
    Next (.packageWarmReset ini v late gold) s fun t => t = mpStart false [] late gold (warmTake 1 s)
      ∧ (warmTake 1 s).cmds = [] ∧ (warmTake 1 s).otp = s.otp)
  ∧ (∀ s ini v l, Admits s ini (rstIBase + Reg.RST_DIE_CMD) l → bit v.toNat 8 = true → resettable s (v.toNat % 8) = true →
    Next (.dieReset ini v) s fun t => t
      = dieResetGo (regStore s (rstIBase + Reg.RST_DIE_CMD) v.toNat (regAt s.part l)) (v.toNat % 8))
  ∧ (∀ s ini v l, Admits s ini (rstIBase + Reg.RST_DIE_CMD) l → bit v.toNat 8 = true → resettable s (v.toNat % 8) = true
      → getD 0 s.dieRst (v.toNat % 8) = 2 → v.toNat % 8 < 4 → s.cmds = [] →
    Next (.dieReset ini v) s fun t => bit (t.rd (rstIBase + Reg.RST_DIE_STS)) (v.toNat % 8) = false)
  ∧ (∀ s ini k l, k < 256 → Admits s ini (rstBase (k / 64) + Reg.RST_CMD) l →
    Next (.coreReset ini k) s fun t => t
      = coreResetDo (regStore s (rstBase (k / 64) + Reg.RST_CMD) (0x100 + k % 8 + 8 * (k / 8 % 8)) (regAt s.part l)) k)
  ∧ (∀ s ini c l, c < 32 → Admits s ini (rstBase (c / 8) + Reg.RST_CMD) l →
    Next (.clusterReset ini c) s fun t => t
      = clusterResetDo (regStore s (rstBase (c / 8) + Reg.RST_CMD) (0x140 + 8 * (c % 8)) (regAt s.part l)) c)
  ∧ (∀ s k n, k < 256 → n < 32 → s.ok = true → (resetCore s k).rd (sregAddr k n) = 0
      ∧ (resetCore s k).coreGen k = (s.coreGen k + 1) % 256)
  ∧ (∀ s i, i < 2 → (s.isl i).rails = true →
    Next (.acinaReset i) s fun t => t = clockMonitor (islDrop s i Island.reset) i)
  ∧ (∀ s i, (s.isl i).rails = false → Next (.acinaReset i) s fun t => t = s)
  ∧ (∀ s i, s.ok = true →
    Next (.acinaSupplyLoss i true) s fun t => (t.isl i).rails = true ∧ (t.isl i).powered = (s.isl i).powered
      ∧ t = { s with islands := t.islands })
  ∧ (∀ s i, i < 2 →
    Next (.acinaSupplyLoss i false) s fun t => t = islDrop s i { Island.reset with powered := false, rails := false })
  ∧ (∀ s r, s.ok = true → s.td = some r → closeCtxAll s r.ctx = s → tdOver s r = true → tdHolds s = false →
    Next .teardownComplete s fun t => t = tdEnd (if r.esc = 1 then tdNotices s r else s) r ∧ t.td = none ∧ (t.ctx r.ctx).live = false)
  ∧ (∀ s r, s.td = some r → r.esc = 0 → r.since + s.fg rstIBase Fld.RST_TD_LIMIT_VALUE ≤ s.nowUs → tdHolds s = true →
    Next .teardownEscalate s fun t => ∃ x, t.td = some x ∧ x.esc = 1 ∧ x.ctx = r.ctx ∧ x.gen = r.gen)
  ∧ (∀ s r, s.td = some r → r.esc = 1 → r.escAt + 1000 ≤ s.nowUs →
    Next .teardownEscalate s fun t => t.td = some { r with esc := 2 })
  ∧ (∀ s ini txid r, s.ok = true → (s.reqs.find? fun x => x.ini == ini && x.txid == txid && !x.dead) = some r
      → 0 < s.fg (portRst ini) Fld.RST_REQ_TO_US → r.since + s.fg (portRst ini) Fld.RST_REQ_TO_US ≤ s.nowUs →
    Next (.requestTimeout ini txid) s fun t => (∃ x : Resp, t.resps = s.resps ++ [x] ∧ x.ini = ini ∧ x.txid = txid ∧ x.kind = .err ∧ x.code = 1
          ∧ x.mod = r.mod)
      ∧ t.fb (portRst ini) Fld.RST_ERR_REQ_TO = true ∧ (∃ h ∈ t.txHold, h.ini = ini ∧ h.txid = txid ∧ h.since = s.nowUs))
  ∧ (∀ s d, dcLost s d = true →
    Next (.dcLost d) s fun t => t = dieResetStart (faultDie (s.notice 0x05 (unitOfDie d) 0 0) d) d)
  ∧ (∀ s, dieHeld s 5 = false → Next .porchLost s fun t => t = dieResetStart s 5)
  ∧ (∀ s ini v l, Admits s ini (rstIBase + Reg.RST_MP_WDOG) l → bit v.toNat 16 = true →
    Next (.mpWatchdogKick ini v) s fun t => t.mpKick = s.nowUs
      ∧ t = { regStore s (rstIBase + Reg.RST_MP_WDOG) v.toNat (regAt s.part l) with mpKick := t.mpKick })
  ∧ (∀ s, s.ok = true → s.fb rstIBase Fld.RST_MP_WDOG_EN = true → s.wdogDump = false → s.dump = none
      → s.mpKick + 1000 * s.fg rstIBase Fld.RST_MP_WDOG_MS ≤ s.nowUs →
    Next .mpWatchdogExpiry s fun t => t.wdogDump = true ∧ t.fb rstIBase Fld.RST_DUMP_STS_BUSY = true
      ∧ ∃ r, t.dump = some r ∧ r.cause = 1 ∧ r.left = allUnits true)
  ∧ (∀ s d, d < 6 → s.ok = true → bit (s.rd (admBase + Reg.ADM_FAULT)) d = true → faultOver s d = true →
    Next (.faultClear d) s fun t => bit (t.rd (admBase + Reg.ADM_FAULT)) d = false ∧ t.linkEvAt = adel s.linkEvAt d)
  ∧ (∀ s cls w, s.ok = true →
    Next (.peerNotice cls w) s fun t =>
      t.rd (rstIBase + Reg.RST_NOTICE_RX) = (s.rd (rstIBase + Reg.RST_NOTICE_RX) + 1) % 2 ^ 32)
  ∧ (∀ s ini v l, Admits s ini (rstIBase + Reg.RST_DUMP_CTL) l → bit v.toNat 0 = true → s.dump = none →
    Next (.dumpGo ini v) s fun t => t.fb rstIBase Fld.RST_DUMP_STS_BUSY = true
      ∧ ∃ r, t.dump = some r ∧ r.cause = 0 ∧ r.tag = none ∧ r.left = allUnits false)
  ∧ (∀ s n r, s.dump = some r → Next (.dumpUnitTimeout n) s fun t => t = passDump (dumpNext true (dumpMany n s)))
  ∧ (∀ s r late gold, s.dump = some r → s.wdogDump = false → s.dieRst = [] →
    Next (.dumpComplete late gold) s fun t => t = dumpEnd (dumpMany r.left.length s) ∧ t.dump = none)
  ∧ (∀ s r late gold, s.dump = some r → s.wdogDump = true →
    Next (.dumpComplete late gold) s fun t =>
      t = warmReset 2 late gold (passDump (dumpEnd (dumpMany r.left.length s))))

/-! ### The flash device, the OTP lock, the TAP, test slots and supplies (R516, R517, R542 to R554, R566 to R568) -/

/-- A flash operation starts by its register while the processor runs from ROM, else it is denied; it ends with its bytes
erased, programmed or free; the OTP lock; each TAP instruction; test slots and their lock; power-up, power-down and
loss. The model's own readings of the spec here: log entries 55, 69, 70, 71 and 73. -/
def Obligations.FlashTapTestAndSupplies : Prop :=
  (∀ s op l, op < 3 → Admits s 0x800 (secBase + Reg.SEC_FLASH_CMD) l → mpInRom s = true → s.flashOp = none →
    Next ([Instr.flashErase 0x800, .flashProgram 0x800, .flashReadStatus 0x800].getD op .supplyLoss) s fun t =>
      t.flashOp = some (op, s.fg secBase Fld.SEC_FLASH_ADDR_ADDR) ∧ t.fb secBase Fld.SEC_FLASH_STS_BUSY = true
        ∧ t.fb secBase Fld.SEC_FLASH_STS_FAIL = false ∧ t = { s with regs := t.regs, flashOp := t.flashOp })
  ∧ (∀ s op l, op < 3 → Admits s 0x800 (secBase + Reg.SEC_FLASH_CMD) l → mpInRom s = false →
    Next ([Instr.flashErase 0x800, .flashProgram 0x800, .flashReadStatus 0x800].getD op .supplyLoss) s fun t =>
      t.fb secBase Fld.SEC_ERR_FLASH_DENY = true ∧ JustRegs (· = secBase + Reg.SEC_ERR) s t)
  ∧ (∀ s addr a, s.ok = true → s.flashOp = some (0, addr) → kwf (fun _ => 0xFF) s.flash = true →
    Next (.flashOpDone false) s fun t => t.flashOp = none ∧ t.fb secBase Fld.SEC_FLASH_STS_BUSY = false
      ∧ getD 0xFF t.flash a = if addr / 0x10000 = a / 0x10000 then 0xFF else getD 0xFF s.flash a)
  ∧ (∀ s addr a, s.flashOp = some (1, addr) → kwf (fun _ => 0xFF) s.flash = true →
    Next (.flashOpDone false) s fun t => t.flashOp = none
      ∧ getD 0xFF t.flash a = if addr / 256 = a / 256
          then getD 0xFF s.flash a &&& s.mb (secureBase s + s.fg secBase Fld.SEC_FLASH_SRC_OFF * 256 + a % 256)
          else getD 0xFF s.flash a)
  ∧ (∀ s op addr, s.ok = true → s.flashOp = some (op, addr) →
    Next (.flashOpDone true) s fun t => t.flashOp = none ∧ t.fb secBase Fld.SEC_FLASH_STS_BUSY = false
      ∧ t.fb secBase Fld.SEC_FLASH_STS_FAIL = true ∧ t.fb secBase Fld.SEC_ERR_FLASH_IO = true)
  ∧ (∀ s ini l, Admits s ini (secBase + Reg.SEC_OTP_LOCK) l →
    Next (.otpLock ini) s fun t => t.fb secBase Fld.SEC_OTP_LOCK_LOCK = true ∧ t.fb secBase Fld.SEC_STS_OTP_LOCKED = true
      ∧ JustRegs (fun a => a = secBase + Reg.SEC_OTP_LOCK ∨ a = secBase + Reg.SEC_STS) s t)
  ∧ (∀ s, tapOn s = true → Next .tapIdcode s fun t =>
      t = ({ s with tapIr := 0x01 } : State).emit "TDO" 0 [if s.part = .dvx2300 then 0xB2300A3F else 0xB1150A3F])
  ∧ (∀ s v, tapOn s = true → Next (.tapSamplePreload v) s fun t => t = { s with tapIr := 0x02, tapBsr := v })
  ∧ (∀ s i x, tapOn s = true
      → (i, x) ∈ [(Instr.tapExtest, 0x03), (.tapClamp, 0x04), (.tapHighz, 0x05), (.tapBypass, 0xFF)] →
    Next i s fun t => t = { s with tapIr := x })
  ∧ (∀ s bs, tapOn s = true → lifecycle s ≠ 3 →
    Next (.tapLcToken bs) s fun t => t = { s with tapIr := 0x10, mailbox := bs.take 0x8000 })
  ∧ (∀ s bs, tapOn s = true → lifecycle s = 3 → Next (.tapLcToken bs) s fun t => t = { s with tapIr := 0xFF })
  ∧ (∀ s w a v, tapOn s = true → s.fb secBase Fld.SEC_STS_TEST_UNLOCKED = false →
    Next (.tapIjtag w a v) s fun t => t = { s with tapIr := 0x20 })
  ∧ (∀ s a v, tapOn s = true → s.fb secBase Fld.SEC_STS_TEST_UNLOCKED = true →
    Next (.tapIjtag true a v) s fun t =>
      t = (regPort { s with tapIr := 0x20 } 0x808 a 4 v.toNat).2.emit "TDO"
          (regPort { s with tapIr := 0x20 } 0x808 a 4 v.toNat).1 [])
  ∧ (∀ s, Next (.tapReset true) s fun t => t = { s with tapHeld := true, tapIr := 1 })
  ∧ (∀ s, Next (.tapReset false) s fun t => t = { s with tapHeld := false })
  ∧ (∀ s d, s.ok = true → s.fb secBase Fld.SEC_STS_TEST_UNLOCKED = true → islRuns s 0 = true → d < 6
      → (d < 4 → s.part.fitted d = true) → dieHeld s d = false →
    Next .tstLockClear s fun t => t.fb (tstBase d) Fld.TST_LOCK_LOCKED = false)
  ∧ (∀ s ini d i w v l, d < 6 → i < 4 → w < 2 → Admits s ini (pertAt d i + 4 * w) l → s.fb (tstBase d) Fld.TST_LOCK_LOCKED = false
      → (w = 0 → pertRefused d v.toNat = false) →
    Next (.tstPertWrite ini d i w v) s fun t =>
      t.rd (pertAt d i + 4 * w) = (regStore s (pertAt d i + 4 * w) v.toNat (regAt s.part l)).rd (pertAt d i + 4 * w)
        ∧ JustRegs (fun a => a = pertAt d i + 4 * w ∨ a = tstBase d + Reg.TST_STS ∨ a = tstBase d + Reg.TST_ERR) s t)
  ∧ (∀ s ini d i v l, d < 6 → i < 4 → Admits s ini (pertAt d i) l → s.fb (tstBase d) Fld.TST_LOCK_LOCKED = false
      → pertRefused d v.toNat = true →
    Next (.tstPertWrite ini d i 0 v) s fun t => t.fb (tstBase d) Fld.TST_ERR_CFG = true ∧ JustRegs (· = tstBase d + Reg.TST_ERR) s t)
  ∧ (∀ s ini d i w v l, d < 6 → i < 4 → w < 4 → Admits s ini (injAt d i + 4 * w) l → s.fb (tstBase d) Fld.TST_LOCK_LOCKED = false
      → (w = 0 → d < 4 → bits v.toNat 8 4 = 3 → s.fb (memBase d) Fld.MEM_DIE_STS_ECC_ACTIVE = true) →
    Next (.tstInjWrite ini d i w v) s fun t =>
      t.rd (injAt d i + 4 * w) = (regStore s (injAt d i + 4 * w) v.toNat (regAt s.part l)).rd (injAt d i + 4 * w)
        ∧ t.injCount = setD 0 s.injCount (4 * d + i) 0)
  ∧ (∀ s ini d i w v, d < 6 → i < 4 → w < 2 → (accCheck s ini (pertAt d i + 4 * w) 4 true).1 = none
      → s.fb (tstBase d) Fld.TST_LOCK_LOCKED = true → isAcina ini = false →
    Next (.tstPertWrite ini d i w v) s fun t => t = accessError (fwLog s ini (pertAt d i + 4 * w)) ini 1)
  ∧ (∀ s fails late gold, s.powerOff = true →
    Next (.powerUp fails late gold) s fun t => t
      = mpStart true fails late gold (porTake { s with powerOff := false, porstLow := false, dark := [] }))
  ∧ (∀ s, s.powerOff = false → Next .powerDown s fun t => t.porstLow = true ∧ t.powerOff = true ∧ t.tapHeld = true)
  ∧ (∀ s, s.powerOff = false → Next .supplyLoss s fun t => t.powerOff = true ∧ t.tapHeld = true ∧ t.cmds = []
      ∧ t.islands = s.islands ∧ t.mailbox = [] ∧ t.otp = s.otp ∧ t.flash = s.flash)

/-! ### The state after reset, and what every step keeps -/

/-- After reset the maps are in canonical form, no command waits, every register reads its reset value, memory reads as
nothing written, and no request, command or step is open. That memory reads 0 there is the model's choice (log entry 1). -/
def Obligations.ResetSatisfiesInvariant : Prop :=
  State.reset.ok = true ∧ State.reset.pending = [] ∧ (∀ a, State.reset.rd a = (regDefault State.reset.part a).toNat)
    ∧ (∀ a, State.reset.mb a = 0) ∧ State.reset.reqs = [] ∧ State.reset.cmds = [] ∧ State.reset.resvs = []

/-- Every step from a state in canonical form leads to one in canonical form, on the same part, whatever the command. -/
def Obligations.StepKeepsInvariant : Prop := ∀ s t, s.ok = true → step s = .next t → t.ok = true ∧ t.part = s.part

/-- OTP bits never clear: every bit that is burnt before a step is burnt after it, whatever the command. -/
def Obligations.OtpBitsNeverClear : Prop := ∀ s t, s.ok = true → step s = .next t → OtpGrows s t

/-- A command leaves the queue of waiting commands alone: only the step takes from it, one command from its front. -/
def Obligations.CommandsLeaveTheQueue : Prop :=
  (∀ i s t, exec i s = .next t → t.pending = s.pending)
  ∧ (∀ s t, step s = .next t → t.pending = s.pending.drop 1)
end

