-- ==== Sys2Proof/Laws/Bits.lean ====
section
/-!
SUPPORT. Laws/Bits.lean: reading a field after writing one, and the sparse maps: reading after writing, and that every
operation keeps their canonical form.
-/
namespace Sys2Proof.Machine

/-! ### Bit fields -/

/-- A number is its part above a field, the field, and its part below. -/
theorem setBits_eq (w hi lo v : Nat) (h : lo ≤ hi) :
    setBits w hi lo v = w / 2 ^ (hi + 1) * 2 ^ (hi + 1) + v % 2 ^ (hi + 1 - lo) * 2 ^ lo + w % 2 ^ lo := by
  unfold setBits bits
  have e : 2 ^ (hi + 1) = 2 ^ lo * 2 ^ (hi + 1 - lo) := by rw [← pow_add]; congr 1; omega
  have h1 : w = 2 ^ lo * (w / 2 ^ lo) + w % 2 ^ lo := (Nat.div_add_mod w (2 ^ lo)).symm
  have h2 : w / 2 ^ lo = 2 ^ (hi + 1 - lo) * (w / 2 ^ (hi + 1)) + w / 2 ^ lo % 2 ^ (hi + 1 - lo) := by
    rw [e, ← Nat.div_div_eq_div_mul]; exact (Nat.div_add_mod _ _).symm
  generalize w / 2 ^ lo % 2 ^ (hi + 1 - lo) = f at *
  generalize w / 2 ^ (hi + 1) = u at *
  generalize w % 2 ^ lo = r at *
  rw [h2] at h1
  rw [h1, e, Nat.mul_add]
  have h3 : 2 ^ lo * (2 ^ (hi + 1 - lo) * u) + 2 ^ lo * f + r - f * 2 ^ lo
      = u * (2 ^ lo * 2 ^ (hi + 1 - lo)) + r := by
    have : 2 ^ lo * (2 ^ (hi + 1 - lo) * u) = u * (2 ^ lo * 2 ^ (hi + 1 - lo)) := by ring
    rw [this, Nat.mul_comm f]; omega
  rw [h3]; ring

/-- The field just set reads as the value, cut to the field. -/
theorem bits_setBits_same (w hi lo v : Nat) (h : lo ≤ hi) : bits (setBits w hi lo v) hi lo = v % 2 ^ (hi + 1 - lo) := by
  rw [setBits_eq w hi lo v h]
  unfold bits
  have e : 2 ^ (hi + 1) = 2 ^ lo * 2 ^ (hi + 1 - lo) := by rw [← pow_add]; congr 1; omega
  have h1 : w / 2 ^ (hi + 1) * 2 ^ (hi + 1) + v % 2 ^ (hi + 1 - lo) * 2 ^ lo + w % 2 ^ lo
      = 2 ^ lo * (w / 2 ^ (hi + 1) * 2 ^ (hi + 1 - lo) + v % 2 ^ (hi + 1 - lo)) + w % 2 ^ lo := by rw [e]; ring
  rw [h1, Nat.mul_add_div (Nat.two_pow_pos lo), Nat.div_eq_of_lt (Nat.mod_lt _ (Nat.two_pow_pos lo)), Nat.add_zero,
    Nat.mul_comm _ (2 ^ (hi + 1 - lo)), Nat.mul_add_mod]
  exact Nat.mod_mod _ _

/-- A field below the one set keeps its value. -/
theorem bits_setBits_below (w hi lo v hi' lo' : Nat) (h : lo ≤ hi) (h' : hi' < lo) :
    bits (setBits w hi lo v) hi' lo' = bits w hi' lo' := by
  rw [setBits_eq w hi lo v h]
  unfold bits
  rcases Nat.lt_or_ge hi' lo' with c | c
  · have : hi' + 1 - lo' = 0 := by omega
    rw [this]; simp [Nat.mod_one]
  have e : 2 ^ (hi + 1) = 2 ^ lo * 2 ^ (hi + 1 - lo) := by rw [← pow_add]; congr 1; omega
  have h1 : w / 2 ^ (hi + 1) * 2 ^ (hi + 1) + v % 2 ^ (hi + 1 - lo) * 2 ^ lo + w % 2 ^ lo
      = w % 2 ^ lo + 2 ^ lo * (w / 2 ^ (hi + 1) * 2 ^ (hi + 1 - lo) + v % 2 ^ (hi + 1 - lo)) := by rw [e]; ring
  rw [h1]
  generalize w / 2 ^ (hi + 1) * 2 ^ (hi + 1 - lo) + v % 2 ^ (hi + 1 - lo) = q
  have hm : ∀ x y : Nat, x % 2 ^ lo = y % 2 ^ lo → x / 2 ^ lo' % 2 ^ (hi' + 1 - lo') = y / 2 ^ lo' % 2 ^ (hi' + 1 - lo') := by
    intro x y hxy
    apply Nat.eq_of_testBit_eq
    intro i
    simp only [Nat.testBit_mod_two_pow, Nat.testBit_div_two_pow]
    by_cases hi : i < hi' + 1 - lo'
    · have hb : (x % 2 ^ lo).testBit (i + lo') = (y % 2 ^ lo).testBit (i + lo') := by rw [hxy]
      simp only [Nat.testBit_mod_two_pow] at hb
      have hl : i + lo' < lo := by omega
      simpa [hl, hi] using hb
    · simp [hi]
  apply hm
  rw [Nat.add_mul_mod_self_left, Nat.mod_mod]

/-- A field above the one set keeps its value. -/
theorem bits_setBits_above (w hi lo v hi' lo' : Nat) (h : lo ≤ hi) (h' : hi < lo') :
    bits (setBits w hi lo v) hi' lo' = bits w hi' lo' := by
  rw [setBits_eq w hi lo v h]
  unfold bits
  have e : 2 ^ (hi + 1) = 2 ^ lo * 2 ^ (hi + 1 - lo) := by rw [← pow_add]; congr 1; omega
  have e' : 2 ^ lo' = 2 ^ (hi + 1) * 2 ^ (lo' - (hi + 1)) := by rw [← pow_add]; congr 1; omega
  have hlt : v % 2 ^ (hi + 1 - lo) * 2 ^ lo + w % 2 ^ lo < 2 ^ (hi + 1) := by
    have a := Nat.mod_lt v (Nat.two_pow_pos (hi + 1 - lo))
    have b := Nat.mod_lt w (Nat.two_pow_pos lo)
    rw [e]
    calc v % 2 ^ (hi + 1 - lo) * 2 ^ lo + w % 2 ^ lo
        < v % 2 ^ (hi + 1 - lo) * 2 ^ lo + 2 ^ lo := by omega
      _ = (v % 2 ^ (hi + 1 - lo) + 1) * 2 ^ lo := by ring
      _ ≤ 2 ^ (hi + 1 - lo) * 2 ^ lo := Nat.mul_le_mul_right _ a
      _ = 2 ^ lo * 2 ^ (hi + 1 - lo) := Nat.mul_comm _ _
  congr 1
  rw [e', ← Nat.div_div_eq_div_mul, ← Nat.div_div_eq_div_mul, Nat.add_assoc, Nat.mul_comm (w / 2 ^ (hi + 1)),
    Nat.mul_add_div (Nat.two_pow_pos _), Nat.div_eq_of_lt hlt, Nat.add_zero]

/-- A field set in a word of `n` bits leaves a word of `n` bits. -/
theorem setBits_lt (w hi lo v n : Nat) (h : lo ≤ hi) (hn : hi < n) (hw : w < 2 ^ n) : setBits w hi lo v < 2 ^ n := by
  rw [setBits_eq w hi lo v h]
  have e : 2 ^ n = 2 ^ (hi + 1) * 2 ^ (n - (hi + 1)) := by rw [← pow_add]; congr 1; omega
  have e1 : 2 ^ (hi + 1) = 2 ^ lo * 2 ^ (hi + 1 - lo) := by rw [← pow_add]; congr 1; omega
  have hq : w / 2 ^ (hi + 1) < 2 ^ (n - (hi + 1)) := by
    apply Nat.div_lt_of_lt_mul; rw [← e]; exact hw
  have a := Nat.mod_lt v (Nat.two_pow_pos (hi + 1 - lo))
  have b := Nat.mod_lt w (Nat.two_pow_pos lo)
  have c : v % 2 ^ (hi + 1 - lo) * 2 ^ lo + w % 2 ^ lo < 2 ^ (hi + 1) := by
    rw [e1]
    calc v % 2 ^ (hi + 1 - lo) * 2 ^ lo + w % 2 ^ lo
        < v % 2 ^ (hi + 1 - lo) * 2 ^ lo + 2 ^ lo := by omega
      _ = (v % 2 ^ (hi + 1 - lo) + 1) * 2 ^ lo := by ring
      _ ≤ 2 ^ (hi + 1 - lo) * 2 ^ lo := Nat.mul_le_mul_right _ a
      _ = 2 ^ lo * 2 ^ (hi + 1 - lo) := Nat.mul_comm _ _
  calc w / 2 ^ (hi + 1) * 2 ^ (hi + 1) + v % 2 ^ (hi + 1 - lo) * 2 ^ lo + w % 2 ^ lo
      < w / 2 ^ (hi + 1) * 2 ^ (hi + 1) + 2 ^ (hi + 1) := by omega
    _ = (w / 2 ^ (hi + 1) + 1) * 2 ^ (hi + 1) := by ring
    _ ≤ 2 ^ (n - (hi + 1)) * 2 ^ (hi + 1) := Nat.mul_le_mul_right _ hq
    _ = 2 ^ n := by rw [e, Nat.mul_comm]

/-! ### Sparse maps -/

variable {V : Type} [DecidableEq V] {d : Nat → V}

omit [DecidableEq V] in
theorem kget_nil (k : Nat) : kget d [] k = d k := rfl

omit [DecidableEq V] in
/-- In a sorted map whose keys all lie above `k`, `k` is unlisted. -/
theorem kget_below : ∀ (m : List (Nat × V)) (lo k : Nat), ksorted (some lo) m = true → k ≤ lo → kget d m k = d k
  | [], _, _, _, _ => rfl
  | (k', v) :: m, lo, k, h, hk => by
    simp only [ksorted, Bool.and_eq_true, decide_eq_true_eq] at h
    have h1 : k ≠ k' := by omega
    have h2 : k < k' := by omega
    simp [kget, h1, h2]

omit [DecidableEq V] in
theorem ksorted_weaken : ∀ (m : List (Nat × V)) (a b : Nat), a ≤ b → ksorted (some b) m = true → ksorted (some a) m = true
  | [], _, _, _, _ => rfl
  | (k', v) :: m, a, b, h, hs => by
    simp only [ksorted, Bool.and_eq_true, decide_eq_true_eq] at hs ⊢
    exact ⟨by omega, hs.2⟩

omit [DecidableEq V] in
theorem ksorted_none : ∀ (m : List (Nat × V)) (a : Nat), ksorted (some a) m = true → ksorted none m = true
  | [], _, _ => rfl
  | (k', v) :: m, a, hs => by
    simp only [ksorted, Bool.and_eq_true, decide_eq_true_eq] at hs ⊢
    exact ⟨trivial, hs.2⟩

/-- Reading the key just written. -/
theorem kget_kset_same : ∀ (m : List (Nat × V)) (lo : Option Nat) (k : Nat) (v : V), ksorted lo m = true →
    kget d (kset d m k v) k = v
  | [], lo, k, v, _ => by
    by_cases h : v = d k
    · simp [kset, h, kget]
    · simp [kset, h, kget]
  | (k', v') :: m, lo, k, v, hs => by
    have hs' : ksorted (some k') m = true := by
      cases lo <;> simp only [ksorted, Bool.and_eq_true] at hs <;> exact hs.2
    rcases Nat.lt_trichotomy k k' with c | c | c
    · by_cases h : v = d k
      · simp [kset, c, h, kget, Nat.ne_of_lt c]
      · simp [kset, c, h, kget]
    · subst c
      by_cases h : v = d k
      · simp only [kset, lt_irrefl, if_false, h, if_true]
        exact kget_below m k k hs' le_rfl
      · simp [kset, h, kget]
    · have h1 : ¬ k < k' := by omega
      have h2 : k ≠ k' := by omega
      simp only [kset, h1, h2, if_false, kget]
      exact kget_kset_same m (some k') k v hs'

/-- Every other key reads as before. -/
theorem kget_kset_other : ∀ (m : List (Nat × V)) (lo : Option Nat) (k j : Nat) (v : V), ksorted lo m = true → j ≠ k →
    kget d (kset d m k v) j = kget d m j
  | [], lo, k, j, v, _, hj => by
    by_cases h : v = d k
    · simp [kset, h]
    · simp [kset, h, kget, hj]
  | (k', v') :: m, lo, k, j, v, hs, hj => by
    have hs' : ksorted (some k') m = true := by
      cases lo <;> simp only [ksorted, Bool.and_eq_true] at hs <;> exact hs.2
    rcases Nat.lt_trichotomy k k' with c | c | c
    · by_cases h : v = d k
      · simp [kset, c, h]
      · simp only [kset, c, if_true, h, if_false, kget, hj]
        by_cases h1 : j < k
        · have h2 : j ≠ k' := by omega
          have h3 : j < k' := by omega
          simp [h1, h2, h3]
        · simp [h1]
    · subst c
      by_cases h : v = d k
      · simp only [kset, lt_irrefl, if_false, h, if_true, kget, hj]
        by_cases h1 : j < k
        · simp only [h1, if_true]; exact kget_below m k j hs' (by omega)
        · simp [h1]
      · simp [kset, h, kget, hj]
    · have h1 : ¬ k < k' := by omega
      have h2 : k ≠ k' := by omega
      simp only [kset, h1, h2, if_false, kget]
      by_cases h3 : j = k'
      · simp [h3]
      · by_cases h4 : j < k'
        · simp [h3, h4]
        · simp only [h3, h4, if_false]
          exact kget_kset_other m (some k') k j v hs' hj

theorem ksorted_kset : ∀ (m : List (Nat × V)) (lo : Option Nat) (k : Nat) (v : V), ksorted lo m = true →
    (∀ l, lo = some l → l < k) → ksorted lo (kset d m k v) = true
  | [], lo, k, v, _, hl => by
    by_cases h : v = d k
    · simp [kset, h, ksorted]
    · cases lo with
      | none => simp [kset, h, ksorted]
      | some l => simp [kset, h, ksorted, hl l rfl]
  | (k', v') :: m, lo, k, v, hs, hl => by
    have hs' : ksorted (some k') m = true := by
      cases lo <;> simp only [ksorted, Bool.and_eq_true] at hs <;> exact hs.2
    rcases Nat.lt_trichotomy k k' with c | c | c
    · by_cases h : v = d k
      · simpa [kset, c, h] using hs
      · cases lo with
        | none => simp [kset, c, h, ksorted, hs']
        | some l => simp [kset, c, h, ksorted, hs', hl l rfl]
    · subst c
      by_cases h : v = d k
      · simp only [kset, lt_irrefl, if_false, h, if_true]
        cases lo with
        | none => exact ksorted_none m k hs'
        | some l => exact ksorted_weaken m l k (by have := hl l rfl; omega) hs'
      · cases lo with
        | none => simp [kset, h, ksorted, hs']
        | some l => simp [kset, h, ksorted, hs', hl l rfl]
    · have h1 : ¬ k < k' := by omega
      have h2 : k ≠ k' := by omega
      have ih := ksorted_kset m (some k') k v hs' (by intro l hl'; cases hl'; exact c)
      cases lo with
      | none => simp [kset, h1, h2, ksorted, ih]
      | some l =>
        simp only [ksorted, Bool.and_eq_true, decide_eq_true_eq] at hs
        simp [kset, h1, h2, ksorted, ih, hs.1]

theorem all_kset : ∀ (m : List (Nat × V)) (k : Nat) (v : V), (m.all fun e => !decide (e.2 = d e.1)) = true →
    ((kset d m k v).all fun e => !decide (e.2 = d e.1)) = true
  | [], k, v, _ => by
    by_cases h : v = d k
    · simp [kset, h]
    · simp [kset, h]
  | (k', v') :: m, k, v, ha => by
    simp only [List.all_cons, Bool.and_eq_true] at ha
    rcases Nat.lt_trichotomy k k' with c | c | c
    · by_cases h : v = d k
      · simp only [kset, c, if_true, h, List.all_cons, Bool.and_eq_true]; exact ha
      · simp only [kset, c, if_true, h, if_false, List.all_cons, Bool.and_eq_true]
        exact ⟨by simp, ha.1, ha.2⟩
    · subst c
      by_cases h : v = d k
      · simp only [kset, lt_irrefl, if_false, h, if_true]; exact ha.2
      · simp only [kset, lt_irrefl, if_false, h, List.all_cons, Bool.and_eq_true, if_true]
        exact ⟨by simp, ha.2⟩
    · have h1 : ¬ k < k' := by omega
      have h2 : k ≠ k' := by omega
      simp only [kset, h1, h2, if_false, List.all_cons, Bool.and_eq_true]
      exact ⟨ha.1, all_kset m k v ha.2⟩

/-- Writing keeps the canonical form. -/
theorem kwf_kset (m : List (Nat × V)) (k : Nat) (v : V) (h : kwf d m = true) : kwf d (kset d m k v) = true := by
  unfold kwf at h ⊢
  simp only [Bool.and_eq_true] at h ⊢
  exact ⟨ksorted_kset m none k v h.1 (by intro l hl; cases hl), all_kset m k v h.2⟩

omit [DecidableEq V] in
theorem ksorted_filter (p : Nat × V → Bool) : ∀ (m : List (Nat × V)) (lo : Option Nat), ksorted lo m = true →
    ksorted lo (m.filter p) = true
  | [], _, _ => rfl
  | (k', v') :: m, lo, hs => by
    have hs' : ksorted (some k') m = true := by
      cases lo <;> simp only [ksorted, Bool.and_eq_true] at hs <;> exact hs.2
    by_cases h : p (k', v') = true
    · rw [List.filter_cons_of_pos h]
      have ih := ksorted_filter p m (some k') hs'
      cases lo with
      | none => simp [ksorted, ih]
      | some l =>
        simp only [ksorted, Bool.and_eq_true, decide_eq_true_eq] at hs
        simp [ksorted, ih, hs.1]
    · rw [List.filter_cons_of_neg h]
      apply ksorted_filter p m lo
      cases lo with
      | none => exact ksorted_none m k' hs'
      | some l =>
        simp only [ksorted, Bool.and_eq_true, decide_eq_true_eq] at hs
        exact ksorted_weaken m l k' (by omega) hs'

/-- Forgetting keys keeps the canonical form. -/
theorem kwf_kdrop (p : Nat → Bool) (m : List (Nat × V)) (h : kwf d m = true) : kwf d (kdrop p m) = true := by
  unfold kwf at h ⊢
  simp only [Bool.and_eq_true] at h ⊢
  refine ⟨ksorted_filter _ m none h.1, ?_⟩
  rw [List.all_eq_true] at h ⊢
  intro e he
  exact h.2 e (List.mem_of_mem_filter he)

omit [DecidableEq V] in
theorem kget_filter (p : Nat → Bool) : ∀ (m : List (Nat × V)) (lo : Option Nat) (k : Nat), ksorted lo m = true →
    kget d (kdrop p m) k = if p k then d k else kget d m k
  | [], _, k, _ => by simp [kdrop, kget]
  | (k', v') :: m, lo, k, hs => by
    have hs' : ksorted (some k') m = true := by
      cases lo <;> simp only [ksorted, Bool.and_eq_true] at hs <;> exact hs.2
    have ih := kget_filter p m (some k') k hs'
    unfold kdrop at ih ⊢
    by_cases h : p k' = true
    · rw [List.filter_cons_of_neg (by simp [h]), ih]
      by_cases e : k = k'
      · subst e; simp [h]
      · by_cases l : k < k'
        · rw [kget_below m k' k hs' (by omega)]; simp [kget, e, l]
        · simp [kget, e, l]
    · rw [List.filter_cons_of_pos (by simp [h])]
      by_cases e : k = k'
      · subst e; simp [kget, h]
      · by_cases l : k < k'
        · simp [kget, e, l]
        · simp only [kget, e, l, if_false]; exact ih

theorem kwf_sorted (m : List (Nat × V)) (h : kwf d m = true) : ksorted none m = true := by
  unfold kwf at h; simp only [Bool.and_eq_true] at h; exact h.1

theorem kwf_nil : kwf d ([] : List (Nat × V)) = true := rfl

/-! ### Records by key -/

theorem aget_aput_same {R : Type} : ∀ (m : List (Nat × R)) (k : Nat) (v : R), aget (aput m k v) k = some v
  | [], k, v => by simp [aput, aget]
  | (k', v') :: m, k, v => by
    rcases Nat.lt_trichotomy k k' with c | c | c
    · simp [aput, c, aget]
    · subst c; simp [aput, aget]
    · have h1 : ¬ k < k' := by omega
      have h2 : k ≠ k' := by omega
      simp only [aput, h1, h2, if_false, aget]
      exact aget_aput_same m k v

theorem aget_aput_other {R : Type} : ∀ (m : List (Nat × R)) (k j : Nat) (v : R), j ≠ k →
    aget (aput m k v) j = aget m j
  | [], k, j, v, h => by simp [aput, aget, h]
  | (k', v') :: m, k, j, v, h => by
    rcases Nat.lt_trichotomy k k' with c | c | c
    · simp [aput, c, aget, h]
    · subst c; simp [aput, aget, h]
    · have h1 : ¬ k < k' := by omega
      have h2 : k ≠ k' := by omega
      simp only [aput, h1, h2, if_false, aget]
      by_cases e : j = k'
      · simp [e]
      · simp only [e, if_false]; exact aget_aput_other m k j v h

end Sys2Proof.Machine
end

