-- ==== Sys2Proof/Laws/State.lean ====
section
/-!
SUPPORT. Laws/State.lean: which fields each update of the state leaves alone, one lemma per field per update, so that no
proof unfolds a record update.
-/
namespace Sys2Proof.Machine

open Sys2Proof

/-! ### State.wr -/

@[simp] theorem State.wr_part (s : State) (a v : Nat) : (s.wr a v).part = s.part := rfl
@[simp] theorem State.wr_pending (s : State) (a v : Nat) : (s.wr a v).pending = s.pending := rfl
@[simp] theorem State.wr_mem (s : State) (a v : Nat) : (s.wr a v).mem = s.mem := rfl
@[simp] theorem State.wr_undef (s : State) (a v : Nat) : (s.wr a v).undef = s.undef := rfl
@[simp] theorem State.wr_fresh (s : State) (a v : Nat) : (s.wr a v).fresh = s.fresh := rfl
@[simp] theorem State.wr_latched (s : State) (a v : Nat) : (s.wr a v).latched = s.latched := rfl
@[simp] theorem State.wr_sram (s : State) (a v : Nat) : (s.wr a v).sram = s.sram := rfl
@[simp] theorem State.wr_dram (s : State) (a v : Nat) : (s.wr a v).dram = s.dram := rfl
@[simp] theorem State.wr_elogSeq (s : State) (a v : Nat) : (s.wr a v).elogSeq = s.elogSeq := rfl
@[simp] theorem State.wr_injCount (s : State) (a v : Nat) : (s.wr a v).injCount = s.injCount := rfl
@[simp] theorem State.wr_openRows (s : State) (a v : Nat) : (s.wr a v).openRows = s.openRows := rfl
@[simp] theorem State.wr_patrolPos (s : State) (a v : Nat) : (s.wr a v).patrolPos = s.patrolPos := rfl
@[simp] theorem State.wr_patrolRef (s : State) (a v : Nat) : (s.wr a v).patrolRef = s.patrolRef := rfl
@[simp] theorem State.wr_checkBurst (s : State) (a v : Nat) : (s.wr a v).checkBurst = s.checkBurst := rfl
@[simp] theorem State.wr_scheds (s : State) (a v : Nat) : (s.wr a v).scheds = s.scheds := rfl
@[simp] theorem State.wr_training (s : State) (a v : Nat) : (s.wr a v).training = s.training := rfl
@[simp] theorem State.wr_sc (s : State) (a v : Nat) : (s.wr a v).sc = s.sc := rfl
@[simp] theorem State.wr_scSects (s : State) (a v : Nat) : (s.wr a v).scSects = s.scSects := rfl
@[simp] theorem State.wr_engs (s : State) (a v : Nat) : (s.wr a v).engs = s.engs := rfl
@[simp] theorem State.wr_cores (s : State) (a v : Nat) : (s.wr a v).cores = s.cores := rfl
@[simp] theorem State.wr_panHead (s : State) (a v : Nat) : (s.wr a v).panHead = s.panHead := rfl
@[simp] theorem State.wr_ptRuns (s : State) (a v : Nat) : (s.wr a v).ptRuns = s.ptRuns := rfl
@[simp] theorem State.wr_tcmds (s : State) (a v : Nat) : (s.wr a v).tcmds = s.tcmds := rfl
@[simp] theorem State.wr_atts (s : State) (a v : Nat) : (s.wr a v).atts = s.atts := rfl
@[simp] theorem State.wr_cmds (s : State) (a v : Nat) : (s.wr a v).cmds = s.cmds := rfl
@[simp] theorem State.wr_tagGens (s : State) (a v : Nat) : (s.wr a v).tagGens = s.tagGens := rfl
@[simp] theorem State.wr_orderNext (s : State) (a v : Nat) : (s.wr a v).orderNext = s.orderNext := rfl
@[simp] theorem State.wr_ctxs (s : State) (a v : Nat) : (s.wr a v).ctxs = s.ctxs := rfl
@[simp] theorem State.wr_qcache (s : State) (a v : Nat) : (s.wr a v).qcache = s.qcache := rfl
@[simp] theorem State.wr_qready (s : State) (a v : Nat) : (s.wr a v).qready = s.qready := rfl
@[simp] theorem State.wr_cqs (s : State) (a v : Nat) : (s.wr a v).cqs = s.cqs := rfl
@[simp] theorem State.wr_cqUsed (s : State) (a v : Nat) : (s.wr a v).cqUsed = s.cqUsed := rfl
@[simp] theorem State.wr_cqNotes (s : State) (a v : Nat) : (s.wr a v).cqNotes = s.cqNotes := rfl
@[simp] theorem State.wr_pendDb (s : State) (a v : Nat) : (s.wr a v).pendDb = s.pendDb := rfl
@[simp] theorem State.wr_vc0 (s : State) (a v : Nat) : (s.wr a v).vc0 = s.vc0 := rfl
@[simp] theorem State.wr_images (s : State) (a v : Nat) : (s.wr a v).images = s.images := rfl
@[simp] theorem State.wr_resvs (s : State) (a v : Nat) : (s.wr a v).resvs = s.resvs := rfl
@[simp] theorem State.wr_events (s : State) (a v : Nat) : (s.wr a v).events = s.events := rfl
@[simp] theorem State.wr_eventsLost (s : State) (a v : Nat) : (s.wr a v).eventsLost = s.eventsLost := rfl
@[simp] theorem State.wr_eventSeq (s : State) (a v : Nat) : (s.wr a v).eventSeq = s.eventSeq := rfl
@[simp] theorem State.wr_semMsgs (s : State) (a v : Nat) : (s.wr a v).semMsgs = s.semMsgs := rfl
@[simp] theorem State.wr_waiters (s : State) (a v : Nat) : (s.wr a v).waiters = s.waiters := rfl
@[simp] theorem State.wr_semRsps (s : State) (a v : Nat) : (s.wr a v).semRsps = s.semRsps := rfl
@[simp] theorem State.wr_strKeys (s : State) (a v : Nat) : (s.wr a v).strKeys = s.strKeys := rfl
@[simp] theorem State.wr_hangLevel (s : State) (a v : Nat) : (s.wr a v).hangLevel = s.hangLevel := rfl
@[simp] theorem State.wr_dcWire (s : State) (a v : Nat) : (s.wr a v).dcWire = s.dcWire := rfl
@[simp] theorem State.wr_strSegs (s : State) (a v : Nat) : (s.wr a v).strSegs = s.strSegs := rfl
@[simp] theorem State.wr_strCreds (s : State) (a v : Nat) : (s.wr a v).strCreds = s.strCreds := rfl
@[simp] theorem State.wr_ledgerMute (s : State) (a v : Nat) : (s.wr a v).ledgerMute = s.ledgerMute := rfl
@[simp] theorem State.wr_tagReleases (s : State) (a v : Nat) : (s.wr a v).tagReleases = s.tagReleases := rfl
@[simp] theorem State.wr_dozeHold (s : State) (a v : Nat) : (s.wr a v).dozeHold = s.dozeHold := rfl
@[simp] theorem State.wr_rotAt (s : State) (a v : Nat) : (s.wr a v).rotAt = s.rotAt := rfl
@[simp] theorem State.wr_goldNext (s : State) (a v : Nat) : (s.wr a v).goldNext = s.goldNext := rfl
@[simp] theorem State.wr_pastBooked (s : State) (a v : Nat) : (s.wr a v).pastBooked = s.pastBooked := rfl
@[simp] theorem State.wr_policy (s : State) (a v : Nat) : (s.wr a v).policy = s.policy := rfl
@[simp] theorem State.wr_buckets (s : State) (a v : Nat) : (s.wr a v).buckets = s.buckets := rfl
@[simp] theorem State.wr_turns (s : State) (a v : Nat) : (s.wr a v).turns = s.turns := rfl
@[simp] theorem State.wr_routes (s : State) (a v : Nat) : (s.wr a v).routes = s.routes := rfl
@[simp] theorem State.wr_notifyQ (s : State) (a v : Nat) : (s.wr a v).notifyQ = s.notifyQ := rfl
@[simp] theorem State.wr_links (s : State) (a v : Nat) : (s.wr a v).links = s.links := rfl
@[simp] theorem State.wr_laneOtp (s : State) (a v : Nat) : (s.wr a v).laneOtp = s.laneOtp := rfl
@[simp] theorem State.wr_hostProto (s : State) (a v : Nat) : (s.wr a v).hostProto = s.hostProto := rfl
@[simp] theorem State.wr_spnFixed (s : State) (a v : Nat) : (s.wr a v).spnFixed = s.spnFixed := rfl
@[simp] theorem State.wr_discovering (s : State) (a v : Nat) : (s.wr a v).discovering = s.discovering := rfl
@[simp] theorem State.wr_sports (s : State) (a v : Nat) : (s.wr a v).sports = s.sports := rfl
@[simp] theorem State.wr_pchOrd (s : State) (a v : Nat) : (s.wr a v).pchOrd = s.pchOrd := rfl
@[simp] theorem State.wr_drainUrg (s : State) (a v : Nat) : (s.wr a v).drainUrg = s.drainUrg := rfl
@[simp] theorem State.wr_drainNorm (s : State) (a v : Nat) : (s.wr a v).drainNorm = s.drainNorm := rfl
@[simp] theorem State.wr_trigNext (s : State) (a v : Nat) : (s.wr a v).trigNext = s.trigNext := rfl
@[simp] theorem State.wr_trigFired (s : State) (a v : Nat) : (s.wr a v).trigFired = s.trigFired := rfl
@[simp] theorem State.wr_trigPast (s : State) (a v : Nat) : (s.wr a v).trigPast = s.trigPast := rfl
@[simp] theorem State.wr_trigHiz (s : State) (a v : Nat) : (s.wr a v).trigHiz = s.trigHiz := rfl
@[simp] theorem State.wr_trigAt (s : State) (a v : Nat) : (s.wr a v).trigAt = s.trigAt := rfl
@[simp] theorem State.wr_trigLen (s : State) (a v : Nat) : (s.wr a v).trigLen = s.trigLen := rfl
@[simp] theorem State.wr_slew (s : State) (a v : Nat) : (s.wr a v).slew = s.slew := rfl
@[simp] theorem State.wr_slewTicks (s : State) (a v : Nat) : (s.wr a v).slewTicks = s.slewTicks := rfl
@[simp] theorem State.wr_lastSync (s : State) (a v : Nat) : (s.wr a v).lastSync = s.lastSync := rfl
@[simp] theorem State.wr_holdSince (s : State) (a v : Nat) : (s.wr a v).holdSince = s.holdSince := rfl
@[simp] theorem State.wr_calOn (s : State) (a v : Nat) : (s.wr a v).calOn = s.calOn := rfl
@[simp] theorem State.wr_calPend (s : State) (a v : Nat) : (s.wr a v).calPend = s.calPend := rfl
@[simp] theorem State.wr_imuIn (s : State) (a v : Nat) : (s.wr a v).imuIn = s.imuIn := rfl
@[simp] theorem State.wr_wheels (s : State) (a v : Nat) : (s.wr a v).wheels = s.wheels := rfl
@[simp] theorem State.wr_integ (s : State) (a v : Nat) : (s.wr a v).integ = s.integ := rfl
@[simp] theorem State.wr_poses (s : State) (a v : Nat) : (s.wr a v).poses = s.poses := rfl
@[simp] theorem State.wr_lidIn (s : State) (a v : Nat) : (s.wr a v).lidIn = s.lidIn := rfl
@[simp] theorem State.wr_jobs (s : State) (a v : Nat) : (s.wr a v).jobs = s.jobs := rfl
@[simp] theorem State.wr_proj (s : State) (a v : Nat) : (s.wr a v).proj = s.proj := rfl
@[simp] theorem State.wr_islands (s : State) (a v : Nat) : (s.wr a v).islands = s.islands := rfl
@[simp] theorem State.wr_mainBad (s : State) (a v : Nat) : (s.wr a v).mainBad = s.mainBad := rfl
@[simp] theorem State.wr_pllBad (s : State) (a v : Nat) : (s.wr a v).pllBad = s.pllBad := rfl
@[simp] theorem State.wr_trigBad (s : State) (a v : Nat) : (s.wr a v).trigBad = s.trigBad := rfl
@[simp] theorem State.wr_railsBad (s : State) (a v : Nat) : (s.wr a v).railsBad = s.railsBad := rfl
@[simp] theorem State.wr_stGo (s : State) (a v : Nat) : (s.wr a v).stGo = s.stGo := rfl
@[simp] theorem State.wr_stDone (s : State) (a v : Nat) : (s.wr a v).stDone = s.stDone := rfl
@[simp] theorem State.wr_unitImgs (s : State) (a v : Nat) : (s.wr a v).unitImgs = s.unitImgs := rfl
@[simp] theorem State.wr_otp (s : State) (a v : Nat) : (s.wr a v).otp = s.otp := rfl
@[simp] theorem State.wr_otpBad (s : State) (a v : Nat) : (s.wr a v).otpBad = s.otpBad := rfl
@[simp] theorem State.wr_flash (s : State) (a v : Nat) : (s.wr a v).flash = s.flash := rfl
@[simp] theorem State.wr_flashMb (s : State) (a v : Nat) : (s.wr a v).flashMb = s.flashMb := rfl
@[simp] theorem State.wr_flashOp (s : State) (a v : Nat) : (s.wr a v).flashOp = s.flashOp := rfl
@[simp] theorem State.wr_damaged (s : State) (a v : Nat) : (s.wr a v).damaged = s.damaged := rfl
@[simp] theorem State.wr_mailbox (s : State) (a v : Nat) : (s.wr a v).mailbox = s.mailbox := rfl
@[simp] theorem State.wr_upd (s : State) (a v : Nat) : (s.wr a v).upd = s.upd := rfl
@[simp] theorem State.wr_updNum (s : State) (a v : Nat) : (s.wr a v).updNum = s.updNum := rfl
@[simp] theorem State.wr_act (s : State) (a v : Nat) : (s.wr a v).act = s.act := rfl
@[simp] theorem State.wr_dieRst (s : State) (a v : Nat) : (s.wr a v).dieRst = s.dieRst := rfl
@[simp] theorem State.wr_rewrite (s : State) (a v : Nat) : (s.wr a v).rewrite = s.rewrite := rfl
@[simp] theorem State.wr_beatAt (s : State) (a v : Nat) : (s.wr a v).beatAt = s.beatAt := rfl
@[simp] theorem State.wr_linkEvAt (s : State) (a v : Nat) : (s.wr a v).linkEvAt = s.linkEvAt := rfl
@[simp] theorem State.wr_hardFault (s : State) (a v : Nat) : (s.wr a v).hardFault = s.hardFault := rfl
@[simp] theorem State.wr_td (s : State) (a v : Nat) : (s.wr a v).td = s.td := rfl
@[simp] theorem State.wr_dump (s : State) (a v : Nat) : (s.wr a v).dump = s.dump := rfl
@[simp] theorem State.wr_wdogDump (s : State) (a v : Nat) : (s.wr a v).wdogDump = s.wdogDump := rfl
@[simp] theorem State.wr_mpKick (s : State) (a v : Nat) : (s.wr a v).mpKick = s.mpKick := rfl
@[simp] theorem State.wr_txHold (s : State) (a v : Nat) : (s.wr a v).txHold = s.txHold := rfl
@[simp] theorem State.wr_powerOff (s : State) (a v : Nat) : (s.wr a v).powerOff = s.powerOff := rfl
@[simp] theorem State.wr_porstLow (s : State) (a v : Nat) : (s.wr a v).porstLow = s.porstLow := rfl
@[simp] theorem State.wr_tapIr (s : State) (a v : Nat) : (s.wr a v).tapIr = s.tapIr := rfl
@[simp] theorem State.wr_tapHeld (s : State) (a v : Nat) : (s.wr a v).tapHeld = s.tapHeld := rfl
@[simp] theorem State.wr_tapBsr (s : State) (a v : Nat) : (s.wr a v).tapBsr = s.tapBsr := rfl
@[simp] theorem State.wr_cluIdle (s : State) (a v : Nat) : (s.wr a v).cluIdle = s.cluIdle := rfl
@[simp] theorem State.wr_stallUs (s : State) (a v : Nat) : (s.wr a v).stallUs = s.stallUs := rfl
@[simp] theorem State.wr_filler (s : State) (a v : Nat) : (s.wr a v).filler = s.filler := rfl
@[simp] theorem State.wr_rampFill (s : State) (a v : Nat) : (s.wr a v).rampFill = s.rampFill := rfl
@[simp] theorem State.wr_railMv (s : State) (a v : Nat) : (s.wr a v).railMv = s.railMv := rfl
@[simp] theorem State.wr_tripped (s : State) (a v : Nat) : (s.wr a v).tripped = s.tripped := rfl
@[simp] theorem State.wr_snsExcl (s : State) (a v : Nat) : (s.wr a v).snsExcl = s.snsExcl := rfl
@[simp] theorem State.wr_pairT (s : State) (a v : Nat) : (s.wr a v).pairT = s.pairT := rfl
@[simp] theorem State.wr_hotAt (s : State) (a v : Nat) : (s.wr a v).hotAt = s.hotAt := rfl
@[simp] theorem State.wr_thermDies (s : State) (a v : Nat) : (s.wr a v).thermDies = s.thermDies := rfl
@[simp] theorem State.wr_noBook (s : State) (a v : Nat) : (s.wr a v).noBook = s.noBook := rfl
@[simp] theorem State.wr_agSeq (s : State) (a v : Nat) : (s.wr a v).agSeq = s.agSeq := rfl
@[simp] theorem State.wr_agBudgetAt (s : State) (a v : Nat) : (s.wr a v).agBudgetAt = s.agBudgetAt := rfl
@[simp] theorem State.wr_holdSig (s : State) (a v : Nat) : (s.wr a v).holdSig = s.holdSig := rfl
@[simp] theorem State.wr_draws (s : State) (a v : Nat) : (s.wr a v).draws = s.draws := rfl
@[simp] theorem State.wr_overAt (s : State) (a v : Nat) : (s.wr a v).overAt = s.overAt := rfl
@[simp] theorem State.wr_owing (s : State) (a v : Nat) : (s.wr a v).owing = s.owing := rfl
@[simp] theorem State.wr_agRot (s : State) (a v : Nat) : (s.wr a v).agRot = s.agRot := rfl
@[simp] theorem State.wr_dieReps (s : State) (a v : Nat) : (s.wr a v).dieReps = s.dieReps := rfl
@[simp] theorem State.wr_budgetMsgs (s : State) (a v : Nat) : (s.wr a v).budgetMsgs = s.budgetMsgs := rfl
@[simp] theorem State.wr_clampMsgs (s : State) (a v : Nat) : (s.wr a v).clampMsgs = s.clampMsgs := rfl
@[simp] theorem State.wr_hthBudget (s : State) (a v : Nat) : (s.wr a v).hthBudget = s.hthBudget := rfl
@[simp] theorem State.wr_charges (s : State) (a v : Nat) : (s.wr a v).charges = s.charges := rfl
@[simp] theorem State.wr_busBad (s : State) (a v : Nat) : (s.wr a v).busBad = s.busBad := rfl
@[simp] theorem State.wr_dieCap (s : State) (a v : Nat) : (s.wr a v).dieCap = s.dieCap := rfl
@[simp] theorem State.wr_capAt (s : State) (a v : Nat) : (s.wr a v).capAt = s.capAt := rfl
@[simp] theorem State.wr_shortBy (s : State) (a v : Nat) : (s.wr a v).shortBy = s.shortBy := rfl
@[simp] theorem State.wr_shortSince (s : State) (a v : Nat) : (s.wr a v).shortSince = s.shortSince := rfl
@[simp] theorem State.wr_flowPeriods (s : State) (a v : Nat) : (s.wr a v).flowPeriods = s.flowPeriods := rfl
@[simp] theorem State.wr_flowLast (s : State) (a v : Nat) : (s.wr a v).flowLast = s.flowLast := rfl
@[simp] theorem State.wr_flowExcl (s : State) (a v : Nat) : (s.wr a v).flowExcl = s.flowExcl := rfl
@[simp] theorem State.wr_outSamples (s : State) (a v : Nat) : (s.wr a v).outSamples = s.outSamples := rfl
@[simp] theorem State.wr_advs (s : State) (a v : Nat) : (s.wr a v).advs = s.advs := rfl
@[simp] theorem State.wr_coolBadAt (s : State) (a v : Nat) : (s.wr a v).coolBadAt = s.coolBadAt := rfl
@[simp] theorem State.wr_napWait (s : State) (a v : Nat) : (s.wr a v).napWait = s.napWait := rfl
@[simp] theorem State.wr_cellar (s : State) (a v : Nat) : (s.wr a v).cellar = s.cellar := rfl
@[simp] theorem State.wr_dark (s : State) (a v : Nat) : (s.wr a v).dark = s.dark := rfl
@[simp] theorem State.wr_reports (s : State) (a v : Nat) : (s.wr a v).reports = s.reports := rfl
@[simp] theorem State.wr_mpEvents (s : State) (a v : Nat) : (s.wr a v).mpEvents = s.mpEvents := rfl
@[simp] theorem State.wr_emits (s : State) (a v : Nat) : (s.wr a v).emits = s.emits := rfl
@[simp] theorem State.wr_reqs (s : State) (a v : Nat) : (s.wr a v).reqs = s.reqs := rfl
@[simp] theorem State.wr_resps (s : State) (a v : Nat) : (s.wr a v).resps = s.resps := rfl

/-! ### State.fs -/

@[simp] theorem State.fs_part (s : State) (b : Nat) (f : Fld) (v : Nat) : (s.fs b f v).part = s.part := rfl
@[simp] theorem State.fs_pending (s : State) (b : Nat) (f : Fld) (v : Nat) : (s.fs b f v).pending = s.pending := rfl
@[simp] theorem State.fs_mem (s : State) (b : Nat) (f : Fld) (v : Nat) : (s.fs b f v).mem = s.mem := rfl
@[simp] theorem State.fs_undef (s : State) (b : Nat) (f : Fld) (v : Nat) : (s.fs b f v).undef = s.undef := rfl
@[simp] theorem State.fs_fresh (s : State) (b : Nat) (f : Fld) (v : Nat) : (s.fs b f v).fresh = s.fresh := rfl
@[simp] theorem State.fs_latched (s : State) (b : Nat) (f : Fld) (v : Nat) : (s.fs b f v).latched = s.latched := rfl
@[simp] theorem State.fs_sram (s : State) (b : Nat) (f : Fld) (v : Nat) : (s.fs b f v).sram = s.sram := rfl
@[simp] theorem State.fs_dram (s : State) (b : Nat) (f : Fld) (v : Nat) : (s.fs b f v).dram = s.dram := rfl
@[simp] theorem State.fs_elogSeq (s : State) (b : Nat) (f : Fld) (v : Nat) : (s.fs b f v).elogSeq = s.elogSeq := rfl
@[simp] theorem State.fs_injCount (s : State) (b : Nat) (f : Fld) (v : Nat) : (s.fs b f v).injCount = s.injCount := rfl
@[simp] theorem State.fs_openRows (s : State) (b : Nat) (f : Fld) (v : Nat) : (s.fs b f v).openRows = s.openRows := rfl
@[simp] theorem State.fs_patrolPos (s : State) (b : Nat) (f : Fld) (v : Nat) : (s.fs b f v).patrolPos = s.patrolPos := rfl
@[simp] theorem State.fs_patrolRef (s : State) (b : Nat) (f : Fld) (v : Nat) : (s.fs b f v).patrolRef = s.patrolRef := rfl
@[simp] theorem State.fs_checkBurst (s : State) (b : Nat) (f : Fld) (v : Nat) : (s.fs b f v).checkBurst = s.checkBurst := rfl
@[simp] theorem State.fs_scheds (s : State) (b : Nat) (f : Fld) (v : Nat) : (s.fs b f v).scheds = s.scheds := rfl
@[simp] theorem State.fs_training (s : State) (b : Nat) (f : Fld) (v : Nat) : (s.fs b f v).training = s.training := rfl
@[simp] theorem State.fs_sc (s : State) (b : Nat) (f : Fld) (v : Nat) : (s.fs b f v).sc = s.sc := rfl
@[simp] theorem State.fs_scSects (s : State) (b : Nat) (f : Fld) (v : Nat) : (s.fs b f v).scSects = s.scSects := rfl
@[simp] theorem State.fs_engs (s : State) (b : Nat) (f : Fld) (v : Nat) : (s.fs b f v).engs = s.engs := rfl
@[simp] theorem State.fs_cores (s : State) (b : Nat) (f : Fld) (v : Nat) : (s.fs b f v).cores = s.cores := rfl
@[simp] theorem State.fs_panHead (s : State) (b : Nat) (f : Fld) (v : Nat) : (s.fs b f v).panHead = s.panHead := rfl
@[simp] theorem State.fs_ptRuns (s : State) (b : Nat) (f : Fld) (v : Nat) : (s.fs b f v).ptRuns = s.ptRuns := rfl
@[simp] theorem State.fs_tcmds (s : State) (b : Nat) (f : Fld) (v : Nat) : (s.fs b f v).tcmds = s.tcmds := rfl
@[simp] theorem State.fs_atts (s : State) (b : Nat) (f : Fld) (v : Nat) : (s.fs b f v).atts = s.atts := rfl
@[simp] theorem State.fs_cmds (s : State) (b : Nat) (f : Fld) (v : Nat) : (s.fs b f v).cmds = s.cmds := rfl
@[simp] theorem State.fs_tagGens (s : State) (b : Nat) (f : Fld) (v : Nat) : (s.fs b f v).tagGens = s.tagGens := rfl
@[simp] theorem State.fs_orderNext (s : State) (b : Nat) (f : Fld) (v : Nat) : (s.fs b f v).orderNext = s.orderNext := rfl
@[simp] theorem State.fs_ctxs (s : State) (b : Nat) (f : Fld) (v : Nat) : (s.fs b f v).ctxs = s.ctxs := rfl
@[simp] theorem State.fs_qcache (s : State) (b : Nat) (f : Fld) (v : Nat) : (s.fs b f v).qcache = s.qcache := rfl
@[simp] theorem State.fs_qready (s : State) (b : Nat) (f : Fld) (v : Nat) : (s.fs b f v).qready = s.qready := rfl
@[simp] theorem State.fs_cqs (s : State) (b : Nat) (f : Fld) (v : Nat) : (s.fs b f v).cqs = s.cqs := rfl
@[simp] theorem State.fs_cqUsed (s : State) (b : Nat) (f : Fld) (v : Nat) : (s.fs b f v).cqUsed = s.cqUsed := rfl
@[simp] theorem State.fs_cqNotes (s : State) (b : Nat) (f : Fld) (v : Nat) : (s.fs b f v).cqNotes = s.cqNotes := rfl
@[simp] theorem State.fs_pendDb (s : State) (b : Nat) (f : Fld) (v : Nat) : (s.fs b f v).pendDb = s.pendDb := rfl
@[simp] theorem State.fs_vc0 (s : State) (b : Nat) (f : Fld) (v : Nat) : (s.fs b f v).vc0 = s.vc0 := rfl
@[simp] theorem State.fs_images (s : State) (b : Nat) (f : Fld) (v : Nat) : (s.fs b f v).images = s.images := rfl
@[simp] theorem State.fs_resvs (s : State) (b : Nat) (f : Fld) (v : Nat) : (s.fs b f v).resvs = s.resvs := rfl
@[simp] theorem State.fs_events (s : State) (b : Nat) (f : Fld) (v : Nat) : (s.fs b f v).events = s.events := rfl
@[simp] theorem State.fs_eventsLost (s : State) (b : Nat) (f : Fld) (v : Nat) : (s.fs b f v).eventsLost = s.eventsLost := rfl
@[simp] theorem State.fs_eventSeq (s : State) (b : Nat) (f : Fld) (v : Nat) : (s.fs b f v).eventSeq = s.eventSeq := rfl
@[simp] theorem State.fs_semMsgs (s : State) (b : Nat) (f : Fld) (v : Nat) : (s.fs b f v).semMsgs = s.semMsgs := rfl
@[simp] theorem State.fs_waiters (s : State) (b : Nat) (f : Fld) (v : Nat) : (s.fs b f v).waiters = s.waiters := rfl
@[simp] theorem State.fs_semRsps (s : State) (b : Nat) (f : Fld) (v : Nat) : (s.fs b f v).semRsps = s.semRsps := rfl
@[simp] theorem State.fs_strKeys (s : State) (b : Nat) (f : Fld) (v : Nat) : (s.fs b f v).strKeys = s.strKeys := rfl
@[simp] theorem State.fs_hangLevel (s : State) (b : Nat) (f : Fld) (v : Nat) : (s.fs b f v).hangLevel = s.hangLevel := rfl
@[simp] theorem State.fs_dcWire (s : State) (b : Nat) (f : Fld) (v : Nat) : (s.fs b f v).dcWire = s.dcWire := rfl
@[simp] theorem State.fs_strSegs (s : State) (b : Nat) (f : Fld) (v : Nat) : (s.fs b f v).strSegs = s.strSegs := rfl
@[simp] theorem State.fs_strCreds (s : State) (b : Nat) (f : Fld) (v : Nat) : (s.fs b f v).strCreds = s.strCreds := rfl
@[simp] theorem State.fs_ledgerMute (s : State) (b : Nat) (f : Fld) (v : Nat) : (s.fs b f v).ledgerMute = s.ledgerMute := rfl
@[simp] theorem State.fs_tagReleases (s : State) (b : Nat) (f : Fld) (v : Nat) : (s.fs b f v).tagReleases = s.tagReleases := rfl
@[simp] theorem State.fs_dozeHold (s : State) (b : Nat) (f : Fld) (v : Nat) : (s.fs b f v).dozeHold = s.dozeHold := rfl
@[simp] theorem State.fs_rotAt (s : State) (b : Nat) (f : Fld) (v : Nat) : (s.fs b f v).rotAt = s.rotAt := rfl
@[simp] theorem State.fs_goldNext (s : State) (b : Nat) (f : Fld) (v : Nat) : (s.fs b f v).goldNext = s.goldNext := rfl
@[simp] theorem State.fs_pastBooked (s : State) (b : Nat) (f : Fld) (v : Nat) : (s.fs b f v).pastBooked = s.pastBooked := rfl
@[simp] theorem State.fs_policy (s : State) (b : Nat) (f : Fld) (v : Nat) : (s.fs b f v).policy = s.policy := rfl
@[simp] theorem State.fs_buckets (s : State) (b : Nat) (f : Fld) (v : Nat) : (s.fs b f v).buckets = s.buckets := rfl
@[simp] theorem State.fs_turns (s : State) (b : Nat) (f : Fld) (v : Nat) : (s.fs b f v).turns = s.turns := rfl
@[simp] theorem State.fs_routes (s : State) (b : Nat) (f : Fld) (v : Nat) : (s.fs b f v).routes = s.routes := rfl
@[simp] theorem State.fs_notifyQ (s : State) (b : Nat) (f : Fld) (v : Nat) : (s.fs b f v).notifyQ = s.notifyQ := rfl
@[simp] theorem State.fs_links (s : State) (b : Nat) (f : Fld) (v : Nat) : (s.fs b f v).links = s.links := rfl
@[simp] theorem State.fs_laneOtp (s : State) (b : Nat) (f : Fld) (v : Nat) : (s.fs b f v).laneOtp = s.laneOtp := rfl
@[simp] theorem State.fs_hostProto (s : State) (b : Nat) (f : Fld) (v : Nat) : (s.fs b f v).hostProto = s.hostProto := rfl
@[simp] theorem State.fs_spnFixed (s : State) (b : Nat) (f : Fld) (v : Nat) : (s.fs b f v).spnFixed = s.spnFixed := rfl
@[simp] theorem State.fs_discovering (s : State) (b : Nat) (f : Fld) (v : Nat) : (s.fs b f v).discovering = s.discovering := rfl
@[simp] theorem State.fs_sports (s : State) (b : Nat) (f : Fld) (v : Nat) : (s.fs b f v).sports = s.sports := rfl
@[simp] theorem State.fs_pchOrd (s : State) (b : Nat) (f : Fld) (v : Nat) : (s.fs b f v).pchOrd = s.pchOrd := rfl
@[simp] theorem State.fs_drainUrg (s : State) (b : Nat) (f : Fld) (v : Nat) : (s.fs b f v).drainUrg = s.drainUrg := rfl
@[simp] theorem State.fs_drainNorm (s : State) (b : Nat) (f : Fld) (v : Nat) : (s.fs b f v).drainNorm = s.drainNorm := rfl
@[simp] theorem State.fs_trigNext (s : State) (b : Nat) (f : Fld) (v : Nat) : (s.fs b f v).trigNext = s.trigNext := rfl
@[simp] theorem State.fs_trigFired (s : State) (b : Nat) (f : Fld) (v : Nat) : (s.fs b f v).trigFired = s.trigFired := rfl
@[simp] theorem State.fs_trigPast (s : State) (b : Nat) (f : Fld) (v : Nat) : (s.fs b f v).trigPast = s.trigPast := rfl
@[simp] theorem State.fs_trigHiz (s : State) (b : Nat) (f : Fld) (v : Nat) : (s.fs b f v).trigHiz = s.trigHiz := rfl
@[simp] theorem State.fs_trigAt (s : State) (b : Nat) (f : Fld) (v : Nat) : (s.fs b f v).trigAt = s.trigAt := rfl
@[simp] theorem State.fs_trigLen (s : State) (b : Nat) (f : Fld) (v : Nat) : (s.fs b f v).trigLen = s.trigLen := rfl
@[simp] theorem State.fs_slew (s : State) (b : Nat) (f : Fld) (v : Nat) : (s.fs b f v).slew = s.slew := rfl
@[simp] theorem State.fs_slewTicks (s : State) (b : Nat) (f : Fld) (v : Nat) : (s.fs b f v).slewTicks = s.slewTicks := rfl
@[simp] theorem State.fs_lastSync (s : State) (b : Nat) (f : Fld) (v : Nat) : (s.fs b f v).lastSync = s.lastSync := rfl
@[simp] theorem State.fs_holdSince (s : State) (b : Nat) (f : Fld) (v : Nat) : (s.fs b f v).holdSince = s.holdSince := rfl
@[simp] theorem State.fs_calOn (s : State) (b : Nat) (f : Fld) (v : Nat) : (s.fs b f v).calOn = s.calOn := rfl
@[simp] theorem State.fs_calPend (s : State) (b : Nat) (f : Fld) (v : Nat) : (s.fs b f v).calPend = s.calPend := rfl
@[simp] theorem State.fs_imuIn (s : State) (b : Nat) (f : Fld) (v : Nat) : (s.fs b f v).imuIn = s.imuIn := rfl
@[simp] theorem State.fs_wheels (s : State) (b : Nat) (f : Fld) (v : Nat) : (s.fs b f v).wheels = s.wheels := rfl
@[simp] theorem State.fs_integ (s : State) (b : Nat) (f : Fld) (v : Nat) : (s.fs b f v).integ = s.integ := rfl
@[simp] theorem State.fs_poses (s : State) (b : Nat) (f : Fld) (v : Nat) : (s.fs b f v).poses = s.poses := rfl
@[simp] theorem State.fs_lidIn (s : State) (b : Nat) (f : Fld) (v : Nat) : (s.fs b f v).lidIn = s.lidIn := rfl
@[simp] theorem State.fs_jobs (s : State) (b : Nat) (f : Fld) (v : Nat) : (s.fs b f v).jobs = s.jobs := rfl
@[simp] theorem State.fs_proj (s : State) (b : Nat) (f : Fld) (v : Nat) : (s.fs b f v).proj = s.proj := rfl
@[simp] theorem State.fs_islands (s : State) (b : Nat) (f : Fld) (v : Nat) : (s.fs b f v).islands = s.islands := rfl
@[simp] theorem State.fs_mainBad (s : State) (b : Nat) (f : Fld) (v : Nat) : (s.fs b f v).mainBad = s.mainBad := rfl
@[simp] theorem State.fs_pllBad (s : State) (b : Nat) (f : Fld) (v : Nat) : (s.fs b f v).pllBad = s.pllBad := rfl
@[simp] theorem State.fs_trigBad (s : State) (b : Nat) (f : Fld) (v : Nat) : (s.fs b f v).trigBad = s.trigBad := rfl
@[simp] theorem State.fs_railsBad (s : State) (b : Nat) (f : Fld) (v : Nat) : (s.fs b f v).railsBad = s.railsBad := rfl
@[simp] theorem State.fs_stGo (s : State) (b : Nat) (f : Fld) (v : Nat) : (s.fs b f v).stGo = s.stGo := rfl
@[simp] theorem State.fs_stDone (s : State) (b : Nat) (f : Fld) (v : Nat) : (s.fs b f v).stDone = s.stDone := rfl
@[simp] theorem State.fs_unitImgs (s : State) (b : Nat) (f : Fld) (v : Nat) : (s.fs b f v).unitImgs = s.unitImgs := rfl
@[simp] theorem State.fs_otp (s : State) (b : Nat) (f : Fld) (v : Nat) : (s.fs b f v).otp = s.otp := rfl
@[simp] theorem State.fs_otpBad (s : State) (b : Nat) (f : Fld) (v : Nat) : (s.fs b f v).otpBad = s.otpBad := rfl
@[simp] theorem State.fs_flash (s : State) (b : Nat) (f : Fld) (v : Nat) : (s.fs b f v).flash = s.flash := rfl
@[simp] theorem State.fs_flashMb (s : State) (b : Nat) (f : Fld) (v : Nat) : (s.fs b f v).flashMb = s.flashMb := rfl
@[simp] theorem State.fs_flashOp (s : State) (b : Nat) (f : Fld) (v : Nat) : (s.fs b f v).flashOp = s.flashOp := rfl
@[simp] theorem State.fs_damaged (s : State) (b : Nat) (f : Fld) (v : Nat) : (s.fs b f v).damaged = s.damaged := rfl
@[simp] theorem State.fs_mailbox (s : State) (b : Nat) (f : Fld) (v : Nat) : (s.fs b f v).mailbox = s.mailbox := rfl
@[simp] theorem State.fs_upd (s : State) (b : Nat) (f : Fld) (v : Nat) : (s.fs b f v).upd = s.upd := rfl
@[simp] theorem State.fs_updNum (s : State) (b : Nat) (f : Fld) (v : Nat) : (s.fs b f v).updNum = s.updNum := rfl
@[simp] theorem State.fs_act (s : State) (b : Nat) (f : Fld) (v : Nat) : (s.fs b f v).act = s.act := rfl
@[simp] theorem State.fs_dieRst (s : State) (b : Nat) (f : Fld) (v : Nat) : (s.fs b f v).dieRst = s.dieRst := rfl
@[simp] theorem State.fs_rewrite (s : State) (b : Nat) (f : Fld) (v : Nat) : (s.fs b f v).rewrite = s.rewrite := rfl
@[simp] theorem State.fs_beatAt (s : State) (b : Nat) (f : Fld) (v : Nat) : (s.fs b f v).beatAt = s.beatAt := rfl
@[simp] theorem State.fs_linkEvAt (s : State) (b : Nat) (f : Fld) (v : Nat) : (s.fs b f v).linkEvAt = s.linkEvAt := rfl
@[simp] theorem State.fs_hardFault (s : State) (b : Nat) (f : Fld) (v : Nat) : (s.fs b f v).hardFault = s.hardFault := rfl
@[simp] theorem State.fs_td (s : State) (b : Nat) (f : Fld) (v : Nat) : (s.fs b f v).td = s.td := rfl
@[simp] theorem State.fs_dump (s : State) (b : Nat) (f : Fld) (v : Nat) : (s.fs b f v).dump = s.dump := rfl
@[simp] theorem State.fs_wdogDump (s : State) (b : Nat) (f : Fld) (v : Nat) : (s.fs b f v).wdogDump = s.wdogDump := rfl
@[simp] theorem State.fs_mpKick (s : State) (b : Nat) (f : Fld) (v : Nat) : (s.fs b f v).mpKick = s.mpKick := rfl
@[simp] theorem State.fs_txHold (s : State) (b : Nat) (f : Fld) (v : Nat) : (s.fs b f v).txHold = s.txHold := rfl
@[simp] theorem State.fs_powerOff (s : State) (b : Nat) (f : Fld) (v : Nat) : (s.fs b f v).powerOff = s.powerOff := rfl
@[simp] theorem State.fs_porstLow (s : State) (b : Nat) (f : Fld) (v : Nat) : (s.fs b f v).porstLow = s.porstLow := rfl
@[simp] theorem State.fs_tapIr (s : State) (b : Nat) (f : Fld) (v : Nat) : (s.fs b f v).tapIr = s.tapIr := rfl
@[simp] theorem State.fs_tapHeld (s : State) (b : Nat) (f : Fld) (v : Nat) : (s.fs b f v).tapHeld = s.tapHeld := rfl
@[simp] theorem State.fs_tapBsr (s : State) (b : Nat) (f : Fld) (v : Nat) : (s.fs b f v).tapBsr = s.tapBsr := rfl
@[simp] theorem State.fs_cluIdle (s : State) (b : Nat) (f : Fld) (v : Nat) : (s.fs b f v).cluIdle = s.cluIdle := rfl
@[simp] theorem State.fs_stallUs (s : State) (b : Nat) (f : Fld) (v : Nat) : (s.fs b f v).stallUs = s.stallUs := rfl
@[simp] theorem State.fs_filler (s : State) (b : Nat) (f : Fld) (v : Nat) : (s.fs b f v).filler = s.filler := rfl
@[simp] theorem State.fs_rampFill (s : State) (b : Nat) (f : Fld) (v : Nat) : (s.fs b f v).rampFill = s.rampFill := rfl
@[simp] theorem State.fs_railMv (s : State) (b : Nat) (f : Fld) (v : Nat) : (s.fs b f v).railMv = s.railMv := rfl
@[simp] theorem State.fs_tripped (s : State) (b : Nat) (f : Fld) (v : Nat) : (s.fs b f v).tripped = s.tripped := rfl
@[simp] theorem State.fs_snsExcl (s : State) (b : Nat) (f : Fld) (v : Nat) : (s.fs b f v).snsExcl = s.snsExcl := rfl
@[simp] theorem State.fs_pairT (s : State) (b : Nat) (f : Fld) (v : Nat) : (s.fs b f v).pairT = s.pairT := rfl
@[simp] theorem State.fs_hotAt (s : State) (b : Nat) (f : Fld) (v : Nat) : (s.fs b f v).hotAt = s.hotAt := rfl
@[simp] theorem State.fs_thermDies (s : State) (b : Nat) (f : Fld) (v : Nat) : (s.fs b f v).thermDies = s.thermDies := rfl
@[simp] theorem State.fs_noBook (s : State) (b : Nat) (f : Fld) (v : Nat) : (s.fs b f v).noBook = s.noBook := rfl
@[simp] theorem State.fs_agSeq (s : State) (b : Nat) (f : Fld) (v : Nat) : (s.fs b f v).agSeq = s.agSeq := rfl
@[simp] theorem State.fs_agBudgetAt (s : State) (b : Nat) (f : Fld) (v : Nat) : (s.fs b f v).agBudgetAt = s.agBudgetAt := rfl
@[simp] theorem State.fs_holdSig (s : State) (b : Nat) (f : Fld) (v : Nat) : (s.fs b f v).holdSig = s.holdSig := rfl
@[simp] theorem State.fs_draws (s : State) (b : Nat) (f : Fld) (v : Nat) : (s.fs b f v).draws = s.draws := rfl
@[simp] theorem State.fs_overAt (s : State) (b : Nat) (f : Fld) (v : Nat) : (s.fs b f v).overAt = s.overAt := rfl
@[simp] theorem State.fs_owing (s : State) (b : Nat) (f : Fld) (v : Nat) : (s.fs b f v).owing = s.owing := rfl
@[simp] theorem State.fs_agRot (s : State) (b : Nat) (f : Fld) (v : Nat) : (s.fs b f v).agRot = s.agRot := rfl
@[simp] theorem State.fs_dieReps (s : State) (b : Nat) (f : Fld) (v : Nat) : (s.fs b f v).dieReps = s.dieReps := rfl
@[simp] theorem State.fs_budgetMsgs (s : State) (b : Nat) (f : Fld) (v : Nat) : (s.fs b f v).budgetMsgs = s.budgetMsgs := rfl
@[simp] theorem State.fs_clampMsgs (s : State) (b : Nat) (f : Fld) (v : Nat) : (s.fs b f v).clampMsgs = s.clampMsgs := rfl
@[simp] theorem State.fs_hthBudget (s : State) (b : Nat) (f : Fld) (v : Nat) : (s.fs b f v).hthBudget = s.hthBudget := rfl
@[simp] theorem State.fs_charges (s : State) (b : Nat) (f : Fld) (v : Nat) : (s.fs b f v).charges = s.charges := rfl
@[simp] theorem State.fs_busBad (s : State) (b : Nat) (f : Fld) (v : Nat) : (s.fs b f v).busBad = s.busBad := rfl
@[simp] theorem State.fs_dieCap (s : State) (b : Nat) (f : Fld) (v : Nat) : (s.fs b f v).dieCap = s.dieCap := rfl
@[simp] theorem State.fs_capAt (s : State) (b : Nat) (f : Fld) (v : Nat) : (s.fs b f v).capAt = s.capAt := rfl
@[simp] theorem State.fs_shortBy (s : State) (b : Nat) (f : Fld) (v : Nat) : (s.fs b f v).shortBy = s.shortBy := rfl
@[simp] theorem State.fs_shortSince (s : State) (b : Nat) (f : Fld) (v : Nat) : (s.fs b f v).shortSince = s.shortSince := rfl
@[simp] theorem State.fs_flowPeriods (s : State) (b : Nat) (f : Fld) (v : Nat) : (s.fs b f v).flowPeriods = s.flowPeriods := rfl
@[simp] theorem State.fs_flowLast (s : State) (b : Nat) (f : Fld) (v : Nat) : (s.fs b f v).flowLast = s.flowLast := rfl
@[simp] theorem State.fs_flowExcl (s : State) (b : Nat) (f : Fld) (v : Nat) : (s.fs b f v).flowExcl = s.flowExcl := rfl
@[simp] theorem State.fs_outSamples (s : State) (b : Nat) (f : Fld) (v : Nat) : (s.fs b f v).outSamples = s.outSamples := rfl
@[simp] theorem State.fs_advs (s : State) (b : Nat) (f : Fld) (v : Nat) : (s.fs b f v).advs = s.advs := rfl
@[simp] theorem State.fs_coolBadAt (s : State) (b : Nat) (f : Fld) (v : Nat) : (s.fs b f v).coolBadAt = s.coolBadAt := rfl
@[simp] theorem State.fs_napWait (s : State) (b : Nat) (f : Fld) (v : Nat) : (s.fs b f v).napWait = s.napWait := rfl
@[simp] theorem State.fs_cellar (s : State) (b : Nat) (f : Fld) (v : Nat) : (s.fs b f v).cellar = s.cellar := rfl
@[simp] theorem State.fs_dark (s : State) (b : Nat) (f : Fld) (v : Nat) : (s.fs b f v).dark = s.dark := rfl
@[simp] theorem State.fs_reports (s : State) (b : Nat) (f : Fld) (v : Nat) : (s.fs b f v).reports = s.reports := rfl
@[simp] theorem State.fs_mpEvents (s : State) (b : Nat) (f : Fld) (v : Nat) : (s.fs b f v).mpEvents = s.mpEvents := rfl
@[simp] theorem State.fs_emits (s : State) (b : Nat) (f : Fld) (v : Nat) : (s.fs b f v).emits = s.emits := rfl
@[simp] theorem State.fs_reqs (s : State) (b : Nat) (f : Fld) (v : Nat) : (s.fs b f v).reqs = s.reqs := rfl
@[simp] theorem State.fs_resps (s : State) (b : Nat) (f : Fld) (v : Nat) : (s.fs b f v).resps = s.resps := rfl

/-! ### State.faddSat -/

@[simp] theorem State.faddSat_part (s : State) (b : Nat) (f : Fld) (n : Nat) : (s.faddSat b f n).part = s.part := rfl
@[simp] theorem State.faddSat_pending (s : State) (b : Nat) (f : Fld) (n : Nat) : (s.faddSat b f n).pending = s.pending := rfl
@[simp] theorem State.faddSat_mem (s : State) (b : Nat) (f : Fld) (n : Nat) : (s.faddSat b f n).mem = s.mem := rfl
@[simp] theorem State.faddSat_undef (s : State) (b : Nat) (f : Fld) (n : Nat) : (s.faddSat b f n).undef = s.undef := rfl
@[simp] theorem State.faddSat_fresh (s : State) (b : Nat) (f : Fld) (n : Nat) : (s.faddSat b f n).fresh = s.fresh := rfl
@[simp] theorem State.faddSat_latched (s : State) (b : Nat) (f : Fld) (n : Nat) : (s.faddSat b f n).latched = s.latched := rfl
@[simp] theorem State.faddSat_sram (s : State) (b : Nat) (f : Fld) (n : Nat) : (s.faddSat b f n).sram = s.sram := rfl
@[simp] theorem State.faddSat_dram (s : State) (b : Nat) (f : Fld) (n : Nat) : (s.faddSat b f n).dram = s.dram := rfl
@[simp] theorem State.faddSat_elogSeq (s : State) (b : Nat) (f : Fld) (n : Nat) : (s.faddSat b f n).elogSeq = s.elogSeq := rfl
@[simp] theorem State.faddSat_injCount (s : State) (b : Nat) (f : Fld) (n : Nat) : (s.faddSat b f n).injCount = s.injCount := rfl
@[simp] theorem State.faddSat_openRows (s : State) (b : Nat) (f : Fld) (n : Nat) : (s.faddSat b f n).openRows = s.openRows := rfl
@[simp] theorem State.faddSat_patrolPos (s : State) (b : Nat) (f : Fld) (n : Nat) : (s.faddSat b f n).patrolPos = s.patrolPos := rfl
@[simp] theorem State.faddSat_patrolRef (s : State) (b : Nat) (f : Fld) (n : Nat) : (s.faddSat b f n).patrolRef = s.patrolRef := rfl
@[simp] theorem State.faddSat_checkBurst (s : State) (b : Nat) (f : Fld) (n : Nat) : (s.faddSat b f n).checkBurst = s.checkBurst := rfl
@[simp] theorem State.faddSat_scheds (s : State) (b : Nat) (f : Fld) (n : Nat) : (s.faddSat b f n).scheds = s.scheds := rfl
@[simp] theorem State.faddSat_training (s : State) (b : Nat) (f : Fld) (n : Nat) : (s.faddSat b f n).training = s.training := rfl
@[simp] theorem State.faddSat_sc (s : State) (b : Nat) (f : Fld) (n : Nat) : (s.faddSat b f n).sc = s.sc := rfl
@[simp] theorem State.faddSat_scSects (s : State) (b : Nat) (f : Fld) (n : Nat) : (s.faddSat b f n).scSects = s.scSects := rfl
@[simp] theorem State.faddSat_engs (s : State) (b : Nat) (f : Fld) (n : Nat) : (s.faddSat b f n).engs = s.engs := rfl
@[simp] theorem State.faddSat_cores (s : State) (b : Nat) (f : Fld) (n : Nat) : (s.faddSat b f n).cores = s.cores := rfl
@[simp] theorem State.faddSat_panHead (s : State) (b : Nat) (f : Fld) (n : Nat) : (s.faddSat b f n).panHead = s.panHead := rfl
@[simp] theorem State.faddSat_ptRuns (s : State) (b : Nat) (f : Fld) (n : Nat) : (s.faddSat b f n).ptRuns = s.ptRuns := rfl
@[simp] theorem State.faddSat_tcmds (s : State) (b : Nat) (f : Fld) (n : Nat) : (s.faddSat b f n).tcmds = s.tcmds := rfl
@[simp] theorem State.faddSat_atts (s : State) (b : Nat) (f : Fld) (n : Nat) : (s.faddSat b f n).atts = s.atts := rfl
@[simp] theorem State.faddSat_cmds (s : State) (b : Nat) (f : Fld) (n : Nat) : (s.faddSat b f n).cmds = s.cmds := rfl
@[simp] theorem State.faddSat_tagGens (s : State) (b : Nat) (f : Fld) (n : Nat) : (s.faddSat b f n).tagGens = s.tagGens := rfl
@[simp] theorem State.faddSat_orderNext (s : State) (b : Nat) (f : Fld) (n : Nat) : (s.faddSat b f n).orderNext = s.orderNext := rfl
@[simp] theorem State.faddSat_ctxs (s : State) (b : Nat) (f : Fld) (n : Nat) : (s.faddSat b f n).ctxs = s.ctxs := rfl
@[simp] theorem State.faddSat_qcache (s : State) (b : Nat) (f : Fld) (n : Nat) : (s.faddSat b f n).qcache = s.qcache := rfl
@[simp] theorem State.faddSat_qready (s : State) (b : Nat) (f : Fld) (n : Nat) : (s.faddSat b f n).qready = s.qready := rfl
@[simp] theorem State.faddSat_cqs (s : State) (b : Nat) (f : Fld) (n : Nat) : (s.faddSat b f n).cqs = s.cqs := rfl
@[simp] theorem State.faddSat_cqUsed (s : State) (b : Nat) (f : Fld) (n : Nat) : (s.faddSat b f n).cqUsed = s.cqUsed := rfl
@[simp] theorem State.faddSat_cqNotes (s : State) (b : Nat) (f : Fld) (n : Nat) : (s.faddSat b f n).cqNotes = s.cqNotes := rfl
@[simp] theorem State.faddSat_pendDb (s : State) (b : Nat) (f : Fld) (n : Nat) : (s.faddSat b f n).pendDb = s.pendDb := rfl
@[simp] theorem State.faddSat_vc0 (s : State) (b : Nat) (f : Fld) (n : Nat) : (s.faddSat b f n).vc0 = s.vc0 := rfl
@[simp] theorem State.faddSat_images (s : State) (b : Nat) (f : Fld) (n : Nat) : (s.faddSat b f n).images = s.images := rfl
@[simp] theorem State.faddSat_resvs (s : State) (b : Nat) (f : Fld) (n : Nat) : (s.faddSat b f n).resvs = s.resvs := rfl
@[simp] theorem State.faddSat_events (s : State) (b : Nat) (f : Fld) (n : Nat) : (s.faddSat b f n).events = s.events := rfl
@[simp] theorem State.faddSat_eventsLost (s : State) (b : Nat) (f : Fld) (n : Nat) : (s.faddSat b f n).eventsLost = s.eventsLost := rfl
@[simp] theorem State.faddSat_eventSeq (s : State) (b : Nat) (f : Fld) (n : Nat) : (s.faddSat b f n).eventSeq = s.eventSeq := rfl
@[simp] theorem State.faddSat_semMsgs (s : State) (b : Nat) (f : Fld) (n : Nat) : (s.faddSat b f n).semMsgs = s.semMsgs := rfl
@[simp] theorem State.faddSat_waiters (s : State) (b : Nat) (f : Fld) (n : Nat) : (s.faddSat b f n).waiters = s.waiters := rfl
@[simp] theorem State.faddSat_semRsps (s : State) (b : Nat) (f : Fld) (n : Nat) : (s.faddSat b f n).semRsps = s.semRsps := rfl
@[simp] theorem State.faddSat_strKeys (s : State) (b : Nat) (f : Fld) (n : Nat) : (s.faddSat b f n).strKeys = s.strKeys := rfl
@[simp] theorem State.faddSat_hangLevel (s : State) (b : Nat) (f : Fld) (n : Nat) : (s.faddSat b f n).hangLevel = s.hangLevel := rfl
@[simp] theorem State.faddSat_dcWire (s : State) (b : Nat) (f : Fld) (n : Nat) : (s.faddSat b f n).dcWire = s.dcWire := rfl
@[simp] theorem State.faddSat_strSegs (s : State) (b : Nat) (f : Fld) (n : Nat) : (s.faddSat b f n).strSegs = s.strSegs := rfl
@[simp] theorem State.faddSat_strCreds (s : State) (b : Nat) (f : Fld) (n : Nat) : (s.faddSat b f n).strCreds = s.strCreds := rfl
@[simp] theorem State.faddSat_ledgerMute (s : State) (b : Nat) (f : Fld) (n : Nat) : (s.faddSat b f n).ledgerMute = s.ledgerMute := rfl
@[simp] theorem State.faddSat_tagReleases (s : State) (b : Nat) (f : Fld) (n : Nat) : (s.faddSat b f n).tagReleases = s.tagReleases := rfl
@[simp] theorem State.faddSat_dozeHold (s : State) (b : Nat) (f : Fld) (n : Nat) : (s.faddSat b f n).dozeHold = s.dozeHold := rfl
@[simp] theorem State.faddSat_rotAt (s : State) (b : Nat) (f : Fld) (n : Nat) : (s.faddSat b f n).rotAt = s.rotAt := rfl
@[simp] theorem State.faddSat_goldNext (s : State) (b : Nat) (f : Fld) (n : Nat) : (s.faddSat b f n).goldNext = s.goldNext := rfl
@[simp] theorem State.faddSat_pastBooked (s : State) (b : Nat) (f : Fld) (n : Nat) : (s.faddSat b f n).pastBooked = s.pastBooked := rfl
@[simp] theorem State.faddSat_policy (s : State) (b : Nat) (f : Fld) (n : Nat) : (s.faddSat b f n).policy = s.policy := rfl
@[simp] theorem State.faddSat_buckets (s : State) (b : Nat) (f : Fld) (n : Nat) : (s.faddSat b f n).buckets = s.buckets := rfl
@[simp] theorem State.faddSat_turns (s : State) (b : Nat) (f : Fld) (n : Nat) : (s.faddSat b f n).turns = s.turns := rfl
@[simp] theorem State.faddSat_routes (s : State) (b : Nat) (f : Fld) (n : Nat) : (s.faddSat b f n).routes = s.routes := rfl
@[simp] theorem State.faddSat_notifyQ (s : State) (b : Nat) (f : Fld) (n : Nat) : (s.faddSat b f n).notifyQ = s.notifyQ := rfl
@[simp] theorem State.faddSat_links (s : State) (b : Nat) (f : Fld) (n : Nat) : (s.faddSat b f n).links = s.links := rfl
@[simp] theorem State.faddSat_laneOtp (s : State) (b : Nat) (f : Fld) (n : Nat) : (s.faddSat b f n).laneOtp = s.laneOtp := rfl
@[simp] theorem State.faddSat_hostProto (s : State) (b : Nat) (f : Fld) (n : Nat) : (s.faddSat b f n).hostProto = s.hostProto := rfl
@[simp] theorem State.faddSat_spnFixed (s : State) (b : Nat) (f : Fld) (n : Nat) : (s.faddSat b f n).spnFixed = s.spnFixed := rfl
@[simp] theorem State.faddSat_discovering (s : State) (b : Nat) (f : Fld) (n : Nat) : (s.faddSat b f n).discovering = s.discovering := rfl
@[simp] theorem State.faddSat_sports (s : State) (b : Nat) (f : Fld) (n : Nat) : (s.faddSat b f n).sports = s.sports := rfl
@[simp] theorem State.faddSat_pchOrd (s : State) (b : Nat) (f : Fld) (n : Nat) : (s.faddSat b f n).pchOrd = s.pchOrd := rfl
@[simp] theorem State.faddSat_drainUrg (s : State) (b : Nat) (f : Fld) (n : Nat) : (s.faddSat b f n).drainUrg = s.drainUrg := rfl
@[simp] theorem State.faddSat_drainNorm (s : State) (b : Nat) (f : Fld) (n : Nat) : (s.faddSat b f n).drainNorm = s.drainNorm := rfl
@[simp] theorem State.faddSat_trigNext (s : State) (b : Nat) (f : Fld) (n : Nat) : (s.faddSat b f n).trigNext = s.trigNext := rfl
@[simp] theorem State.faddSat_trigFired (s : State) (b : Nat) (f : Fld) (n : Nat) : (s.faddSat b f n).trigFired = s.trigFired := rfl
@[simp] theorem State.faddSat_trigPast (s : State) (b : Nat) (f : Fld) (n : Nat) : (s.faddSat b f n).trigPast = s.trigPast := rfl
@[simp] theorem State.faddSat_trigHiz (s : State) (b : Nat) (f : Fld) (n : Nat) : (s.faddSat b f n).trigHiz = s.trigHiz := rfl
@[simp] theorem State.faddSat_trigAt (s : State) (b : Nat) (f : Fld) (n : Nat) : (s.faddSat b f n).trigAt = s.trigAt := rfl
@[simp] theorem State.faddSat_trigLen (s : State) (b : Nat) (f : Fld) (n : Nat) : (s.faddSat b f n).trigLen = s.trigLen := rfl
@[simp] theorem State.faddSat_slew (s : State) (b : Nat) (f : Fld) (n : Nat) : (s.faddSat b f n).slew = s.slew := rfl
@[simp] theorem State.faddSat_slewTicks (s : State) (b : Nat) (f : Fld) (n : Nat) : (s.faddSat b f n).slewTicks = s.slewTicks := rfl
@[simp] theorem State.faddSat_lastSync (s : State) (b : Nat) (f : Fld) (n : Nat) : (s.faddSat b f n).lastSync = s.lastSync := rfl
@[simp] theorem State.faddSat_holdSince (s : State) (b : Nat) (f : Fld) (n : Nat) : (s.faddSat b f n).holdSince = s.holdSince := rfl
@[simp] theorem State.faddSat_calOn (s : State) (b : Nat) (f : Fld) (n : Nat) : (s.faddSat b f n).calOn = s.calOn := rfl
@[simp] theorem State.faddSat_calPend (s : State) (b : Nat) (f : Fld) (n : Nat) : (s.faddSat b f n).calPend = s.calPend := rfl
@[simp] theorem State.faddSat_imuIn (s : State) (b : Nat) (f : Fld) (n : Nat) : (s.faddSat b f n).imuIn = s.imuIn := rfl
@[simp] theorem State.faddSat_wheels (s : State) (b : Nat) (f : Fld) (n : Nat) : (s.faddSat b f n).wheels = s.wheels := rfl
@[simp] theorem State.faddSat_integ (s : State) (b : Nat) (f : Fld) (n : Nat) : (s.faddSat b f n).integ = s.integ := rfl
@[simp] theorem State.faddSat_poses (s : State) (b : Nat) (f : Fld) (n : Nat) : (s.faddSat b f n).poses = s.poses := rfl
@[simp] theorem State.faddSat_lidIn (s : State) (b : Nat) (f : Fld) (n : Nat) : (s.faddSat b f n).lidIn = s.lidIn := rfl
@[simp] theorem State.faddSat_jobs (s : State) (b : Nat) (f : Fld) (n : Nat) : (s.faddSat b f n).jobs = s.jobs := rfl
@[simp] theorem State.faddSat_proj (s : State) (b : Nat) (f : Fld) (n : Nat) : (s.faddSat b f n).proj = s.proj := rfl
@[simp] theorem State.faddSat_islands (s : State) (b : Nat) (f : Fld) (n : Nat) : (s.faddSat b f n).islands = s.islands := rfl
@[simp] theorem State.faddSat_mainBad (s : State) (b : Nat) (f : Fld) (n : Nat) : (s.faddSat b f n).mainBad = s.mainBad := rfl
@[simp] theorem State.faddSat_pllBad (s : State) (b : Nat) (f : Fld) (n : Nat) : (s.faddSat b f n).pllBad = s.pllBad := rfl
@[simp] theorem State.faddSat_trigBad (s : State) (b : Nat) (f : Fld) (n : Nat) : (s.faddSat b f n).trigBad = s.trigBad := rfl
@[simp] theorem State.faddSat_railsBad (s : State) (b : Nat) (f : Fld) (n : Nat) : (s.faddSat b f n).railsBad = s.railsBad := rfl
@[simp] theorem State.faddSat_stGo (s : State) (b : Nat) (f : Fld) (n : Nat) : (s.faddSat b f n).stGo = s.stGo := rfl
@[simp] theorem State.faddSat_stDone (s : State) (b : Nat) (f : Fld) (n : Nat) : (s.faddSat b f n).stDone = s.stDone := rfl
@[simp] theorem State.faddSat_unitImgs (s : State) (b : Nat) (f : Fld) (n : Nat) : (s.faddSat b f n).unitImgs = s.unitImgs := rfl
@[simp] theorem State.faddSat_otp (s : State) (b : Nat) (f : Fld) (n : Nat) : (s.faddSat b f n).otp = s.otp := rfl
@[simp] theorem State.faddSat_otpBad (s : State) (b : Nat) (f : Fld) (n : Nat) : (s.faddSat b f n).otpBad = s.otpBad := rfl
@[simp] theorem State.faddSat_flash (s : State) (b : Nat) (f : Fld) (n : Nat) : (s.faddSat b f n).flash = s.flash := rfl
@[simp] theorem State.faddSat_flashMb (s : State) (b : Nat) (f : Fld) (n : Nat) : (s.faddSat b f n).flashMb = s.flashMb := rfl
@[simp] theorem State.faddSat_flashOp (s : State) (b : Nat) (f : Fld) (n : Nat) : (s.faddSat b f n).flashOp = s.flashOp := rfl
@[simp] theorem State.faddSat_damaged (s : State) (b : Nat) (f : Fld) (n : Nat) : (s.faddSat b f n).damaged = s.damaged := rfl
@[simp] theorem State.faddSat_mailbox (s : State) (b : Nat) (f : Fld) (n : Nat) : (s.faddSat b f n).mailbox = s.mailbox := rfl
@[simp] theorem State.faddSat_upd (s : State) (b : Nat) (f : Fld) (n : Nat) : (s.faddSat b f n).upd = s.upd := rfl
@[simp] theorem State.faddSat_updNum (s : State) (b : Nat) (f : Fld) (n : Nat) : (s.faddSat b f n).updNum = s.updNum := rfl
@[simp] theorem State.faddSat_act (s : State) (b : Nat) (f : Fld) (n : Nat) : (s.faddSat b f n).act = s.act := rfl
@[simp] theorem State.faddSat_dieRst (s : State) (b : Nat) (f : Fld) (n : Nat) : (s.faddSat b f n).dieRst = s.dieRst := rfl
@[simp] theorem State.faddSat_rewrite (s : State) (b : Nat) (f : Fld) (n : Nat) : (s.faddSat b f n).rewrite = s.rewrite := rfl
@[simp] theorem State.faddSat_beatAt (s : State) (b : Nat) (f : Fld) (n : Nat) : (s.faddSat b f n).beatAt = s.beatAt := rfl
@[simp] theorem State.faddSat_linkEvAt (s : State) (b : Nat) (f : Fld) (n : Nat) : (s.faddSat b f n).linkEvAt = s.linkEvAt := rfl
@[simp] theorem State.faddSat_hardFault (s : State) (b : Nat) (f : Fld) (n : Nat) : (s.faddSat b f n).hardFault = s.hardFault := rfl
@[simp] theorem State.faddSat_td (s : State) (b : Nat) (f : Fld) (n : Nat) : (s.faddSat b f n).td = s.td := rfl
@[simp] theorem State.faddSat_dump (s : State) (b : Nat) (f : Fld) (n : Nat) : (s.faddSat b f n).dump = s.dump := rfl
@[simp] theorem State.faddSat_wdogDump (s : State) (b : Nat) (f : Fld) (n : Nat) : (s.faddSat b f n).wdogDump = s.wdogDump := rfl
@[simp] theorem State.faddSat_mpKick (s : State) (b : Nat) (f : Fld) (n : Nat) : (s.faddSat b f n).mpKick = s.mpKick := rfl
@[simp] theorem State.faddSat_txHold (s : State) (b : Nat) (f : Fld) (n : Nat) : (s.faddSat b f n).txHold = s.txHold := rfl
@[simp] theorem State.faddSat_powerOff (s : State) (b : Nat) (f : Fld) (n : Nat) : (s.faddSat b f n).powerOff = s.powerOff := rfl
@[simp] theorem State.faddSat_porstLow (s : State) (b : Nat) (f : Fld) (n : Nat) : (s.faddSat b f n).porstLow = s.porstLow := rfl
@[simp] theorem State.faddSat_tapIr (s : State) (b : Nat) (f : Fld) (n : Nat) : (s.faddSat b f n).tapIr = s.tapIr := rfl
@[simp] theorem State.faddSat_tapHeld (s : State) (b : Nat) (f : Fld) (n : Nat) : (s.faddSat b f n).tapHeld = s.tapHeld := rfl
@[simp] theorem State.faddSat_tapBsr (s : State) (b : Nat) (f : Fld) (n : Nat) : (s.faddSat b f n).tapBsr = s.tapBsr := rfl
@[simp] theorem State.faddSat_cluIdle (s : State) (b : Nat) (f : Fld) (n : Nat) : (s.faddSat b f n).cluIdle = s.cluIdle := rfl
@[simp] theorem State.faddSat_stallUs (s : State) (b : Nat) (f : Fld) (n : Nat) : (s.faddSat b f n).stallUs = s.stallUs := rfl
@[simp] theorem State.faddSat_filler (s : State) (b : Nat) (f : Fld) (n : Nat) : (s.faddSat b f n).filler = s.filler := rfl
@[simp] theorem State.faddSat_rampFill (s : State) (b : Nat) (f : Fld) (n : Nat) : (s.faddSat b f n).rampFill = s.rampFill := rfl
@[simp] theorem State.faddSat_railMv (s : State) (b : Nat) (f : Fld) (n : Nat) : (s.faddSat b f n).railMv = s.railMv := rfl
@[simp] theorem State.faddSat_tripped (s : State) (b : Nat) (f : Fld) (n : Nat) : (s.faddSat b f n).tripped = s.tripped := rfl
@[simp] theorem State.faddSat_snsExcl (s : State) (b : Nat) (f : Fld) (n : Nat) : (s.faddSat b f n).snsExcl = s.snsExcl := rfl
@[simp] theorem State.faddSat_pairT (s : State) (b : Nat) (f : Fld) (n : Nat) : (s.faddSat b f n).pairT = s.pairT := rfl
@[simp] theorem State.faddSat_hotAt (s : State) (b : Nat) (f : Fld) (n : Nat) : (s.faddSat b f n).hotAt = s.hotAt := rfl
@[simp] theorem State.faddSat_thermDies (s : State) (b : Nat) (f : Fld) (n : Nat) : (s.faddSat b f n).thermDies = s.thermDies := rfl
@[simp] theorem State.faddSat_noBook (s : State) (b : Nat) (f : Fld) (n : Nat) : (s.faddSat b f n).noBook = s.noBook := rfl
@[simp] theorem State.faddSat_agSeq (s : State) (b : Nat) (f : Fld) (n : Nat) : (s.faddSat b f n).agSeq = s.agSeq := rfl
@[simp] theorem State.faddSat_agBudgetAt (s : State) (b : Nat) (f : Fld) (n : Nat) : (s.faddSat b f n).agBudgetAt = s.agBudgetAt := rfl
@[simp] theorem State.faddSat_holdSig (s : State) (b : Nat) (f : Fld) (n : Nat) : (s.faddSat b f n).holdSig = s.holdSig := rfl
@[simp] theorem State.faddSat_draws (s : State) (b : Nat) (f : Fld) (n : Nat) : (s.faddSat b f n).draws = s.draws := rfl
@[simp] theorem State.faddSat_overAt (s : State) (b : Nat) (f : Fld) (n : Nat) : (s.faddSat b f n).overAt = s.overAt := rfl
@[simp] theorem State.faddSat_owing (s : State) (b : Nat) (f : Fld) (n : Nat) : (s.faddSat b f n).owing = s.owing := rfl
@[simp] theorem State.faddSat_agRot (s : State) (b : Nat) (f : Fld) (n : Nat) : (s.faddSat b f n).agRot = s.agRot := rfl
@[simp] theorem State.faddSat_dieReps (s : State) (b : Nat) (f : Fld) (n : Nat) : (s.faddSat b f n).dieReps = s.dieReps := rfl
@[simp] theorem State.faddSat_budgetMsgs (s : State) (b : Nat) (f : Fld) (n : Nat) : (s.faddSat b f n).budgetMsgs = s.budgetMsgs := rfl
@[simp] theorem State.faddSat_clampMsgs (s : State) (b : Nat) (f : Fld) (n : Nat) : (s.faddSat b f n).clampMsgs = s.clampMsgs := rfl
@[simp] theorem State.faddSat_hthBudget (s : State) (b : Nat) (f : Fld) (n : Nat) : (s.faddSat b f n).hthBudget = s.hthBudget := rfl
@[simp] theorem State.faddSat_charges (s : State) (b : Nat) (f : Fld) (n : Nat) : (s.faddSat b f n).charges = s.charges := rfl
@[simp] theorem State.faddSat_busBad (s : State) (b : Nat) (f : Fld) (n : Nat) : (s.faddSat b f n).busBad = s.busBad := rfl
@[simp] theorem State.faddSat_dieCap (s : State) (b : Nat) (f : Fld) (n : Nat) : (s.faddSat b f n).dieCap = s.dieCap := rfl
@[simp] theorem State.faddSat_capAt (s : State) (b : Nat) (f : Fld) (n : Nat) : (s.faddSat b f n).capAt = s.capAt := rfl
@[simp] theorem State.faddSat_shortBy (s : State) (b : Nat) (f : Fld) (n : Nat) : (s.faddSat b f n).shortBy = s.shortBy := rfl
@[simp] theorem State.faddSat_shortSince (s : State) (b : Nat) (f : Fld) (n : Nat) : (s.faddSat b f n).shortSince = s.shortSince := rfl
@[simp] theorem State.faddSat_flowPeriods (s : State) (b : Nat) (f : Fld) (n : Nat) : (s.faddSat b f n).flowPeriods = s.flowPeriods := rfl
@[simp] theorem State.faddSat_flowLast (s : State) (b : Nat) (f : Fld) (n : Nat) : (s.faddSat b f n).flowLast = s.flowLast := rfl
@[simp] theorem State.faddSat_flowExcl (s : State) (b : Nat) (f : Fld) (n : Nat) : (s.faddSat b f n).flowExcl = s.flowExcl := rfl
@[simp] theorem State.faddSat_outSamples (s : State) (b : Nat) (f : Fld) (n : Nat) : (s.faddSat b f n).outSamples = s.outSamples := rfl
@[simp] theorem State.faddSat_advs (s : State) (b : Nat) (f : Fld) (n : Nat) : (s.faddSat b f n).advs = s.advs := rfl
@[simp] theorem State.faddSat_coolBadAt (s : State) (b : Nat) (f : Fld) (n : Nat) : (s.faddSat b f n).coolBadAt = s.coolBadAt := rfl
@[simp] theorem State.faddSat_napWait (s : State) (b : Nat) (f : Fld) (n : Nat) : (s.faddSat b f n).napWait = s.napWait := rfl
@[simp] theorem State.faddSat_cellar (s : State) (b : Nat) (f : Fld) (n : Nat) : (s.faddSat b f n).cellar = s.cellar := rfl
@[simp] theorem State.faddSat_dark (s : State) (b : Nat) (f : Fld) (n : Nat) : (s.faddSat b f n).dark = s.dark := rfl
@[simp] theorem State.faddSat_reports (s : State) (b : Nat) (f : Fld) (n : Nat) : (s.faddSat b f n).reports = s.reports := rfl
@[simp] theorem State.faddSat_mpEvents (s : State) (b : Nat) (f : Fld) (n : Nat) : (s.faddSat b f n).mpEvents = s.mpEvents := rfl
@[simp] theorem State.faddSat_emits (s : State) (b : Nat) (f : Fld) (n : Nat) : (s.faddSat b f n).emits = s.emits := rfl
@[simp] theorem State.faddSat_reqs (s : State) (b : Nat) (f : Fld) (n : Nat) : (s.faddSat b f n).reqs = s.reqs := rfl
@[simp] theorem State.faddSat_resps (s : State) (b : Nat) (f : Fld) (n : Nat) : (s.faddSat b f n).resps = s.resps := rfl

/-! ### State.faddWrap -/

@[simp] theorem State.faddWrap_part (s : State) (b : Nat) (f : Fld) (n : Nat) : (s.faddWrap b f n).part = s.part := rfl
@[simp] theorem State.faddWrap_pending (s : State) (b : Nat) (f : Fld) (n : Nat) : (s.faddWrap b f n).pending = s.pending := rfl
@[simp] theorem State.faddWrap_mem (s : State) (b : Nat) (f : Fld) (n : Nat) : (s.faddWrap b f n).mem = s.mem := rfl
@[simp] theorem State.faddWrap_undef (s : State) (b : Nat) (f : Fld) (n : Nat) : (s.faddWrap b f n).undef = s.undef := rfl
@[simp] theorem State.faddWrap_fresh (s : State) (b : Nat) (f : Fld) (n : Nat) : (s.faddWrap b f n).fresh = s.fresh := rfl
@[simp] theorem State.faddWrap_latched (s : State) (b : Nat) (f : Fld) (n : Nat) : (s.faddWrap b f n).latched = s.latched := rfl
@[simp] theorem State.faddWrap_sram (s : State) (b : Nat) (f : Fld) (n : Nat) : (s.faddWrap b f n).sram = s.sram := rfl
@[simp] theorem State.faddWrap_dram (s : State) (b : Nat) (f : Fld) (n : Nat) : (s.faddWrap b f n).dram = s.dram := rfl
@[simp] theorem State.faddWrap_elogSeq (s : State) (b : Nat) (f : Fld) (n : Nat) : (s.faddWrap b f n).elogSeq = s.elogSeq := rfl
@[simp] theorem State.faddWrap_injCount (s : State) (b : Nat) (f : Fld) (n : Nat) : (s.faddWrap b f n).injCount = s.injCount := rfl
@[simp] theorem State.faddWrap_openRows (s : State) (b : Nat) (f : Fld) (n : Nat) : (s.faddWrap b f n).openRows = s.openRows := rfl
@[simp] theorem State.faddWrap_patrolPos (s : State) (b : Nat) (f : Fld) (n : Nat) : (s.faddWrap b f n).patrolPos = s.patrolPos := rfl
@[simp] theorem State.faddWrap_patrolRef (s : State) (b : Nat) (f : Fld) (n : Nat) : (s.faddWrap b f n).patrolRef = s.patrolRef := rfl
@[simp] theorem State.faddWrap_checkBurst (s : State) (b : Nat) (f : Fld) (n : Nat) : (s.faddWrap b f n).checkBurst = s.checkBurst := rfl
@[simp] theorem State.faddWrap_scheds (s : State) (b : Nat) (f : Fld) (n : Nat) : (s.faddWrap b f n).scheds = s.scheds := rfl
@[simp] theorem State.faddWrap_training (s : State) (b : Nat) (f : Fld) (n : Nat) : (s.faddWrap b f n).training = s.training := rfl
@[simp] theorem State.faddWrap_sc (s : State) (b : Nat) (f : Fld) (n : Nat) : (s.faddWrap b f n).sc = s.sc := rfl
@[simp] theorem State.faddWrap_scSects (s : State) (b : Nat) (f : Fld) (n : Nat) : (s.faddWrap b f n).scSects = s.scSects := rfl
@[simp] theorem State.faddWrap_engs (s : State) (b : Nat) (f : Fld) (n : Nat) : (s.faddWrap b f n).engs = s.engs := rfl
@[simp] theorem State.faddWrap_cores (s : State) (b : Nat) (f : Fld) (n : Nat) : (s.faddWrap b f n).cores = s.cores := rfl
@[simp] theorem State.faddWrap_panHead (s : State) (b : Nat) (f : Fld) (n : Nat) : (s.faddWrap b f n).panHead = s.panHead := rfl
@[simp] theorem State.faddWrap_ptRuns (s : State) (b : Nat) (f : Fld) (n : Nat) : (s.faddWrap b f n).ptRuns = s.ptRuns := rfl
@[simp] theorem State.faddWrap_tcmds (s : State) (b : Nat) (f : Fld) (n : Nat) : (s.faddWrap b f n).tcmds = s.tcmds := rfl
@[simp] theorem State.faddWrap_atts (s : State) (b : Nat) (f : Fld) (n : Nat) : (s.faddWrap b f n).atts = s.atts := rfl
@[simp] theorem State.faddWrap_cmds (s : State) (b : Nat) (f : Fld) (n : Nat) : (s.faddWrap b f n).cmds = s.cmds := rfl
@[simp] theorem State.faddWrap_tagGens (s : State) (b : Nat) (f : Fld) (n : Nat) : (s.faddWrap b f n).tagGens = s.tagGens := rfl
@[simp] theorem State.faddWrap_orderNext (s : State) (b : Nat) (f : Fld) (n : Nat) : (s.faddWrap b f n).orderNext = s.orderNext := rfl
@[simp] theorem State.faddWrap_ctxs (s : State) (b : Nat) (f : Fld) (n : Nat) : (s.faddWrap b f n).ctxs = s.ctxs := rfl
@[simp] theorem State.faddWrap_qcache (s : State) (b : Nat) (f : Fld) (n : Nat) : (s.faddWrap b f n).qcache = s.qcache := rfl
@[simp] theorem State.faddWrap_qready (s : State) (b : Nat) (f : Fld) (n : Nat) : (s.faddWrap b f n).qready = s.qready := rfl
@[simp] theorem State.faddWrap_cqs (s : State) (b : Nat) (f : Fld) (n : Nat) : (s.faddWrap b f n).cqs = s.cqs := rfl
@[simp] theorem State.faddWrap_cqUsed (s : State) (b : Nat) (f : Fld) (n : Nat) : (s.faddWrap b f n).cqUsed = s.cqUsed := rfl
@[simp] theorem State.faddWrap_cqNotes (s : State) (b : Nat) (f : Fld) (n : Nat) : (s.faddWrap b f n).cqNotes = s.cqNotes := rfl
@[simp] theorem State.faddWrap_pendDb (s : State) (b : Nat) (f : Fld) (n : Nat) : (s.faddWrap b f n).pendDb = s.pendDb := rfl
@[simp] theorem State.faddWrap_vc0 (s : State) (b : Nat) (f : Fld) (n : Nat) : (s.faddWrap b f n).vc0 = s.vc0 := rfl
@[simp] theorem State.faddWrap_images (s : State) (b : Nat) (f : Fld) (n : Nat) : (s.faddWrap b f n).images = s.images := rfl
@[simp] theorem State.faddWrap_resvs (s : State) (b : Nat) (f : Fld) (n : Nat) : (s.faddWrap b f n).resvs = s.resvs := rfl
@[simp] theorem State.faddWrap_events (s : State) (b : Nat) (f : Fld) (n : Nat) : (s.faddWrap b f n).events = s.events := rfl
@[simp] theorem State.faddWrap_eventsLost (s : State) (b : Nat) (f : Fld) (n : Nat) : (s.faddWrap b f n).eventsLost = s.eventsLost := rfl
@[simp] theorem State.faddWrap_eventSeq (s : State) (b : Nat) (f : Fld) (n : Nat) : (s.faddWrap b f n).eventSeq = s.eventSeq := rfl
@[simp] theorem State.faddWrap_semMsgs (s : State) (b : Nat) (f : Fld) (n : Nat) : (s.faddWrap b f n).semMsgs = s.semMsgs := rfl
@[simp] theorem State.faddWrap_waiters (s : State) (b : Nat) (f : Fld) (n : Nat) : (s.faddWrap b f n).waiters = s.waiters := rfl
@[simp] theorem State.faddWrap_semRsps (s : State) (b : Nat) (f : Fld) (n : Nat) : (s.faddWrap b f n).semRsps = s.semRsps := rfl
@[simp] theorem State.faddWrap_strKeys (s : State) (b : Nat) (f : Fld) (n : Nat) : (s.faddWrap b f n).strKeys = s.strKeys := rfl
@[simp] theorem State.faddWrap_hangLevel (s : State) (b : Nat) (f : Fld) (n : Nat) : (s.faddWrap b f n).hangLevel = s.hangLevel := rfl
@[simp] theorem State.faddWrap_dcWire (s : State) (b : Nat) (f : Fld) (n : Nat) : (s.faddWrap b f n).dcWire = s.dcWire := rfl
@[simp] theorem State.faddWrap_strSegs (s : State) (b : Nat) (f : Fld) (n : Nat) : (s.faddWrap b f n).strSegs = s.strSegs := rfl
@[simp] theorem State.faddWrap_strCreds (s : State) (b : Nat) (f : Fld) (n : Nat) : (s.faddWrap b f n).strCreds = s.strCreds := rfl
@[simp] theorem State.faddWrap_ledgerMute (s : State) (b : Nat) (f : Fld) (n : Nat) : (s.faddWrap b f n).ledgerMute = s.ledgerMute := rfl
@[simp] theorem State.faddWrap_tagReleases (s : State) (b : Nat) (f : Fld) (n : Nat) : (s.faddWrap b f n).tagReleases = s.tagReleases := rfl
@[simp] theorem State.faddWrap_dozeHold (s : State) (b : Nat) (f : Fld) (n : Nat) : (s.faddWrap b f n).dozeHold = s.dozeHold := rfl
@[simp] theorem State.faddWrap_rotAt (s : State) (b : Nat) (f : Fld) (n : Nat) : (s.faddWrap b f n).rotAt = s.rotAt := rfl
@[simp] theorem State.faddWrap_goldNext (s : State) (b : Nat) (f : Fld) (n : Nat) : (s.faddWrap b f n).goldNext = s.goldNext := rfl
@[simp] theorem State.faddWrap_pastBooked (s : State) (b : Nat) (f : Fld) (n : Nat) : (s.faddWrap b f n).pastBooked = s.pastBooked := rfl
@[simp] theorem State.faddWrap_policy (s : State) (b : Nat) (f : Fld) (n : Nat) : (s.faddWrap b f n).policy = s.policy := rfl
@[simp] theorem State.faddWrap_buckets (s : State) (b : Nat) (f : Fld) (n : Nat) : (s.faddWrap b f n).buckets = s.buckets := rfl
@[simp] theorem State.faddWrap_turns (s : State) (b : Nat) (f : Fld) (n : Nat) : (s.faddWrap b f n).turns = s.turns := rfl
@[simp] theorem State.faddWrap_routes (s : State) (b : Nat) (f : Fld) (n : Nat) : (s.faddWrap b f n).routes = s.routes := rfl
@[simp] theorem State.faddWrap_notifyQ (s : State) (b : Nat) (f : Fld) (n : Nat) : (s.faddWrap b f n).notifyQ = s.notifyQ := rfl
@[simp] theorem State.faddWrap_links (s : State) (b : Nat) (f : Fld) (n : Nat) : (s.faddWrap b f n).links = s.links := rfl
@[simp] theorem State.faddWrap_laneOtp (s : State) (b : Nat) (f : Fld) (n : Nat) : (s.faddWrap b f n).laneOtp = s.laneOtp := rfl
@[simp] theorem State.faddWrap_hostProto (s : State) (b : Nat) (f : Fld) (n : Nat) : (s.faddWrap b f n).hostProto = s.hostProto := rfl
@[simp] theorem State.faddWrap_spnFixed (s : State) (b : Nat) (f : Fld) (n : Nat) : (s.faddWrap b f n).spnFixed = s.spnFixed := rfl
@[simp] theorem State.faddWrap_discovering (s : State) (b : Nat) (f : Fld) (n : Nat) : (s.faddWrap b f n).discovering = s.discovering := rfl
@[simp] theorem State.faddWrap_sports (s : State) (b : Nat) (f : Fld) (n : Nat) : (s.faddWrap b f n).sports = s.sports := rfl
@[simp] theorem State.faddWrap_pchOrd (s : State) (b : Nat) (f : Fld) (n : Nat) : (s.faddWrap b f n).pchOrd = s.pchOrd := rfl
@[simp] theorem State.faddWrap_drainUrg (s : State) (b : Nat) (f : Fld) (n : Nat) : (s.faddWrap b f n).drainUrg = s.drainUrg := rfl
@[simp] theorem State.faddWrap_drainNorm (s : State) (b : Nat) (f : Fld) (n : Nat) : (s.faddWrap b f n).drainNorm = s.drainNorm := rfl
@[simp] theorem State.faddWrap_trigNext (s : State) (b : Nat) (f : Fld) (n : Nat) : (s.faddWrap b f n).trigNext = s.trigNext := rfl
@[simp] theorem State.faddWrap_trigFired (s : State) (b : Nat) (f : Fld) (n : Nat) : (s.faddWrap b f n).trigFired = s.trigFired := rfl
@[simp] theorem State.faddWrap_trigPast (s : State) (b : Nat) (f : Fld) (n : Nat) : (s.faddWrap b f n).trigPast = s.trigPast := rfl
@[simp] theorem State.faddWrap_trigHiz (s : State) (b : Nat) (f : Fld) (n : Nat) : (s.faddWrap b f n).trigHiz = s.trigHiz := rfl
@[simp] theorem State.faddWrap_trigAt (s : State) (b : Nat) (f : Fld) (n : Nat) : (s.faddWrap b f n).trigAt = s.trigAt := rfl
@[simp] theorem State.faddWrap_trigLen (s : State) (b : Nat) (f : Fld) (n : Nat) : (s.faddWrap b f n).trigLen = s.trigLen := rfl
@[simp] theorem State.faddWrap_slew (s : State) (b : Nat) (f : Fld) (n : Nat) : (s.faddWrap b f n).slew = s.slew := rfl
@[simp] theorem State.faddWrap_slewTicks (s : State) (b : Nat) (f : Fld) (n : Nat) : (s.faddWrap b f n).slewTicks = s.slewTicks := rfl
@[simp] theorem State.faddWrap_lastSync (s : State) (b : Nat) (f : Fld) (n : Nat) : (s.faddWrap b f n).lastSync = s.lastSync := rfl
@[simp] theorem State.faddWrap_holdSince (s : State) (b : Nat) (f : Fld) (n : Nat) : (s.faddWrap b f n).holdSince = s.holdSince := rfl
@[simp] theorem State.faddWrap_calOn (s : State) (b : Nat) (f : Fld) (n : Nat) : (s.faddWrap b f n).calOn = s.calOn := rfl
@[simp] theorem State.faddWrap_calPend (s : State) (b : Nat) (f : Fld) (n : Nat) : (s.faddWrap b f n).calPend = s.calPend := rfl
@[simp] theorem State.faddWrap_imuIn (s : State) (b : Nat) (f : Fld) (n : Nat) : (s.faddWrap b f n).imuIn = s.imuIn := rfl
@[simp] theorem State.faddWrap_wheels (s : State) (b : Nat) (f : Fld) (n : Nat) : (s.faddWrap b f n).wheels = s.wheels := rfl
@[simp] theorem State.faddWrap_integ (s : State) (b : Nat) (f : Fld) (n : Nat) : (s.faddWrap b f n).integ = s.integ := rfl
@[simp] theorem State.faddWrap_poses (s : State) (b : Nat) (f : Fld) (n : Nat) : (s.faddWrap b f n).poses = s.poses := rfl
@[simp] theorem State.faddWrap_lidIn (s : State) (b : Nat) (f : Fld) (n : Nat) : (s.faddWrap b f n).lidIn = s.lidIn := rfl
@[simp] theorem State.faddWrap_jobs (s : State) (b : Nat) (f : Fld) (n : Nat) : (s.faddWrap b f n).jobs = s.jobs := rfl
@[simp] theorem State.faddWrap_proj (s : State) (b : Nat) (f : Fld) (n : Nat) : (s.faddWrap b f n).proj = s.proj := rfl
@[simp] theorem State.faddWrap_islands (s : State) (b : Nat) (f : Fld) (n : Nat) : (s.faddWrap b f n).islands = s.islands := rfl
@[simp] theorem State.faddWrap_mainBad (s : State) (b : Nat) (f : Fld) (n : Nat) : (s.faddWrap b f n).mainBad = s.mainBad := rfl
@[simp] theorem State.faddWrap_pllBad (s : State) (b : Nat) (f : Fld) (n : Nat) : (s.faddWrap b f n).pllBad = s.pllBad := rfl
@[simp] theorem State.faddWrap_trigBad (s : State) (b : Nat) (f : Fld) (n : Nat) : (s.faddWrap b f n).trigBad = s.trigBad := rfl
@[simp] theorem State.faddWrap_railsBad (s : State) (b : Nat) (f : Fld) (n : Nat) : (s.faddWrap b f n).railsBad = s.railsBad := rfl
@[simp] theorem State.faddWrap_stGo (s : State) (b : Nat) (f : Fld) (n : Nat) : (s.faddWrap b f n).stGo = s.stGo := rfl
@[simp] theorem State.faddWrap_stDone (s : State) (b : Nat) (f : Fld) (n : Nat) : (s.faddWrap b f n).stDone = s.stDone := rfl
@[simp] theorem State.faddWrap_unitImgs (s : State) (b : Nat) (f : Fld) (n : Nat) : (s.faddWrap b f n).unitImgs = s.unitImgs := rfl
@[simp] theorem State.faddWrap_otp (s : State) (b : Nat) (f : Fld) (n : Nat) : (s.faddWrap b f n).otp = s.otp := rfl
@[simp] theorem State.faddWrap_otpBad (s : State) (b : Nat) (f : Fld) (n : Nat) : (s.faddWrap b f n).otpBad = s.otpBad := rfl
@[simp] theorem State.faddWrap_flash (s : State) (b : Nat) (f : Fld) (n : Nat) : (s.faddWrap b f n).flash = s.flash := rfl
@[simp] theorem State.faddWrap_flashMb (s : State) (b : Nat) (f : Fld) (n : Nat) : (s.faddWrap b f n).flashMb = s.flashMb := rfl
@[simp] theorem State.faddWrap_flashOp (s : State) (b : Nat) (f : Fld) (n : Nat) : (s.faddWrap b f n).flashOp = s.flashOp := rfl
@[simp] theorem State.faddWrap_damaged (s : State) (b : Nat) (f : Fld) (n : Nat) : (s.faddWrap b f n).damaged = s.damaged := rfl
@[simp] theorem State.faddWrap_mailbox (s : State) (b : Nat) (f : Fld) (n : Nat) : (s.faddWrap b f n).mailbox = s.mailbox := rfl
@[simp] theorem State.faddWrap_upd (s : State) (b : Nat) (f : Fld) (n : Nat) : (s.faddWrap b f n).upd = s.upd := rfl
@[simp] theorem State.faddWrap_updNum (s : State) (b : Nat) (f : Fld) (n : Nat) : (s.faddWrap b f n).updNum = s.updNum := rfl
@[simp] theorem State.faddWrap_act (s : State) (b : Nat) (f : Fld) (n : Nat) : (s.faddWrap b f n).act = s.act := rfl
@[simp] theorem State.faddWrap_dieRst (s : State) (b : Nat) (f : Fld) (n : Nat) : (s.faddWrap b f n).dieRst = s.dieRst := rfl
@[simp] theorem State.faddWrap_rewrite (s : State) (b : Nat) (f : Fld) (n : Nat) : (s.faddWrap b f n).rewrite = s.rewrite := rfl
@[simp] theorem State.faddWrap_beatAt (s : State) (b : Nat) (f : Fld) (n : Nat) : (s.faddWrap b f n).beatAt = s.beatAt := rfl
@[simp] theorem State.faddWrap_linkEvAt (s : State) (b : Nat) (f : Fld) (n : Nat) : (s.faddWrap b f n).linkEvAt = s.linkEvAt := rfl
@[simp] theorem State.faddWrap_hardFault (s : State) (b : Nat) (f : Fld) (n : Nat) : (s.faddWrap b f n).hardFault = s.hardFault := rfl
@[simp] theorem State.faddWrap_td (s : State) (b : Nat) (f : Fld) (n : Nat) : (s.faddWrap b f n).td = s.td := rfl
@[simp] theorem State.faddWrap_dump (s : State) (b : Nat) (f : Fld) (n : Nat) : (s.faddWrap b f n).dump = s.dump := rfl
@[simp] theorem State.faddWrap_wdogDump (s : State) (b : Nat) (f : Fld) (n : Nat) : (s.faddWrap b f n).wdogDump = s.wdogDump := rfl
@[simp] theorem State.faddWrap_mpKick (s : State) (b : Nat) (f : Fld) (n : Nat) : (s.faddWrap b f n).mpKick = s.mpKick := rfl
@[simp] theorem State.faddWrap_txHold (s : State) (b : Nat) (f : Fld) (n : Nat) : (s.faddWrap b f n).txHold = s.txHold := rfl
@[simp] theorem State.faddWrap_powerOff (s : State) (b : Nat) (f : Fld) (n : Nat) : (s.faddWrap b f n).powerOff = s.powerOff := rfl
@[simp] theorem State.faddWrap_porstLow (s : State) (b : Nat) (f : Fld) (n : Nat) : (s.faddWrap b f n).porstLow = s.porstLow := rfl
@[simp] theorem State.faddWrap_tapIr (s : State) (b : Nat) (f : Fld) (n : Nat) : (s.faddWrap b f n).tapIr = s.tapIr := rfl
@[simp] theorem State.faddWrap_tapHeld (s : State) (b : Nat) (f : Fld) (n : Nat) : (s.faddWrap b f n).tapHeld = s.tapHeld := rfl
@[simp] theorem State.faddWrap_tapBsr (s : State) (b : Nat) (f : Fld) (n : Nat) : (s.faddWrap b f n).tapBsr = s.tapBsr := rfl
@[simp] theorem State.faddWrap_cluIdle (s : State) (b : Nat) (f : Fld) (n : Nat) : (s.faddWrap b f n).cluIdle = s.cluIdle := rfl
@[simp] theorem State.faddWrap_stallUs (s : State) (b : Nat) (f : Fld) (n : Nat) : (s.faddWrap b f n).stallUs = s.stallUs := rfl
@[simp] theorem State.faddWrap_filler (s : State) (b : Nat) (f : Fld) (n : Nat) : (s.faddWrap b f n).filler = s.filler := rfl
@[simp] theorem State.faddWrap_rampFill (s : State) (b : Nat) (f : Fld) (n : Nat) : (s.faddWrap b f n).rampFill = s.rampFill := rfl
@[simp] theorem State.faddWrap_railMv (s : State) (b : Nat) (f : Fld) (n : Nat) : (s.faddWrap b f n).railMv = s.railMv := rfl
@[simp] theorem State.faddWrap_tripped (s : State) (b : Nat) (f : Fld) (n : Nat) : (s.faddWrap b f n).tripped = s.tripped := rfl
@[simp] theorem State.faddWrap_snsExcl (s : State) (b : Nat) (f : Fld) (n : Nat) : (s.faddWrap b f n).snsExcl = s.snsExcl := rfl
@[simp] theorem State.faddWrap_pairT (s : State) (b : Nat) (f : Fld) (n : Nat) : (s.faddWrap b f n).pairT = s.pairT := rfl
@[simp] theorem State.faddWrap_hotAt (s : State) (b : Nat) (f : Fld) (n : Nat) : (s.faddWrap b f n).hotAt = s.hotAt := rfl
@[simp] theorem State.faddWrap_thermDies (s : State) (b : Nat) (f : Fld) (n : Nat) : (s.faddWrap b f n).thermDies = s.thermDies := rfl
@[simp] theorem State.faddWrap_noBook (s : State) (b : Nat) (f : Fld) (n : Nat) : (s.faddWrap b f n).noBook = s.noBook := rfl
@[simp] theorem State.faddWrap_agSeq (s : State) (b : Nat) (f : Fld) (n : Nat) : (s.faddWrap b f n).agSeq = s.agSeq := rfl
@[simp] theorem State.faddWrap_agBudgetAt (s : State) (b : Nat) (f : Fld) (n : Nat) : (s.faddWrap b f n).agBudgetAt = s.agBudgetAt := rfl
@[simp] theorem State.faddWrap_holdSig (s : State) (b : Nat) (f : Fld) (n : Nat) : (s.faddWrap b f n).holdSig = s.holdSig := rfl
@[simp] theorem State.faddWrap_draws (s : State) (b : Nat) (f : Fld) (n : Nat) : (s.faddWrap b f n).draws = s.draws := rfl
@[simp] theorem State.faddWrap_overAt (s : State) (b : Nat) (f : Fld) (n : Nat) : (s.faddWrap b f n).overAt = s.overAt := rfl
@[simp] theorem State.faddWrap_owing (s : State) (b : Nat) (f : Fld) (n : Nat) : (s.faddWrap b f n).owing = s.owing := rfl
@[simp] theorem State.faddWrap_agRot (s : State) (b : Nat) (f : Fld) (n : Nat) : (s.faddWrap b f n).agRot = s.agRot := rfl
@[simp] theorem State.faddWrap_dieReps (s : State) (b : Nat) (f : Fld) (n : Nat) : (s.faddWrap b f n).dieReps = s.dieReps := rfl
@[simp] theorem State.faddWrap_budgetMsgs (s : State) (b : Nat) (f : Fld) (n : Nat) : (s.faddWrap b f n).budgetMsgs = s.budgetMsgs := rfl
@[simp] theorem State.faddWrap_clampMsgs (s : State) (b : Nat) (f : Fld) (n : Nat) : (s.faddWrap b f n).clampMsgs = s.clampMsgs := rfl
@[simp] theorem State.faddWrap_hthBudget (s : State) (b : Nat) (f : Fld) (n : Nat) : (s.faddWrap b f n).hthBudget = s.hthBudget := rfl
@[simp] theorem State.faddWrap_charges (s : State) (b : Nat) (f : Fld) (n : Nat) : (s.faddWrap b f n).charges = s.charges := rfl
@[simp] theorem State.faddWrap_busBad (s : State) (b : Nat) (f : Fld) (n : Nat) : (s.faddWrap b f n).busBad = s.busBad := rfl
@[simp] theorem State.faddWrap_dieCap (s : State) (b : Nat) (f : Fld) (n : Nat) : (s.faddWrap b f n).dieCap = s.dieCap := rfl
@[simp] theorem State.faddWrap_capAt (s : State) (b : Nat) (f : Fld) (n : Nat) : (s.faddWrap b f n).capAt = s.capAt := rfl
@[simp] theorem State.faddWrap_shortBy (s : State) (b : Nat) (f : Fld) (n : Nat) : (s.faddWrap b f n).shortBy = s.shortBy := rfl
@[simp] theorem State.faddWrap_shortSince (s : State) (b : Nat) (f : Fld) (n : Nat) : (s.faddWrap b f n).shortSince = s.shortSince := rfl
@[simp] theorem State.faddWrap_flowPeriods (s : State) (b : Nat) (f : Fld) (n : Nat) : (s.faddWrap b f n).flowPeriods = s.flowPeriods := rfl
@[simp] theorem State.faddWrap_flowLast (s : State) (b : Nat) (f : Fld) (n : Nat) : (s.faddWrap b f n).flowLast = s.flowLast := rfl
@[simp] theorem State.faddWrap_flowExcl (s : State) (b : Nat) (f : Fld) (n : Nat) : (s.faddWrap b f n).flowExcl = s.flowExcl := rfl
@[simp] theorem State.faddWrap_outSamples (s : State) (b : Nat) (f : Fld) (n : Nat) : (s.faddWrap b f n).outSamples = s.outSamples := rfl
@[simp] theorem State.faddWrap_advs (s : State) (b : Nat) (f : Fld) (n : Nat) : (s.faddWrap b f n).advs = s.advs := rfl
@[simp] theorem State.faddWrap_coolBadAt (s : State) (b : Nat) (f : Fld) (n : Nat) : (s.faddWrap b f n).coolBadAt = s.coolBadAt := rfl
@[simp] theorem State.faddWrap_napWait (s : State) (b : Nat) (f : Fld) (n : Nat) : (s.faddWrap b f n).napWait = s.napWait := rfl
@[simp] theorem State.faddWrap_cellar (s : State) (b : Nat) (f : Fld) (n : Nat) : (s.faddWrap b f n).cellar = s.cellar := rfl
@[simp] theorem State.faddWrap_dark (s : State) (b : Nat) (f : Fld) (n : Nat) : (s.faddWrap b f n).dark = s.dark := rfl
@[simp] theorem State.faddWrap_reports (s : State) (b : Nat) (f : Fld) (n : Nat) : (s.faddWrap b f n).reports = s.reports := rfl
@[simp] theorem State.faddWrap_mpEvents (s : State) (b : Nat) (f : Fld) (n : Nat) : (s.faddWrap b f n).mpEvents = s.mpEvents := rfl
@[simp] theorem State.faddWrap_emits (s : State) (b : Nat) (f : Fld) (n : Nat) : (s.faddWrap b f n).emits = s.emits := rfl
@[simp] theorem State.faddWrap_reqs (s : State) (b : Nat) (f : Fld) (n : Nat) : (s.faddWrap b f n).reqs = s.reqs := rfl
@[simp] theorem State.faddWrap_resps (s : State) (b : Nat) (f : Fld) (n : Nat) : (s.faddWrap b f n).resps = s.resps := rfl

/-! ### State.dropRegs -/

@[simp] theorem State.dropRegs_part (s : State) (p : Nat → Bool) : (s.dropRegs p).part = s.part := rfl
@[simp] theorem State.dropRegs_pending (s : State) (p : Nat → Bool) : (s.dropRegs p).pending = s.pending := rfl
@[simp] theorem State.dropRegs_mem (s : State) (p : Nat → Bool) : (s.dropRegs p).mem = s.mem := rfl
@[simp] theorem State.dropRegs_undef (s : State) (p : Nat → Bool) : (s.dropRegs p).undef = s.undef := rfl
@[simp] theorem State.dropRegs_fresh (s : State) (p : Nat → Bool) : (s.dropRegs p).fresh = s.fresh := rfl
@[simp] theorem State.dropRegs_latched (s : State) (p : Nat → Bool) : (s.dropRegs p).latched = s.latched := rfl
@[simp] theorem State.dropRegs_sram (s : State) (p : Nat → Bool) : (s.dropRegs p).sram = s.sram := rfl
@[simp] theorem State.dropRegs_dram (s : State) (p : Nat → Bool) : (s.dropRegs p).dram = s.dram := rfl
@[simp] theorem State.dropRegs_elogSeq (s : State) (p : Nat → Bool) : (s.dropRegs p).elogSeq = s.elogSeq := rfl
@[simp] theorem State.dropRegs_injCount (s : State) (p : Nat → Bool) : (s.dropRegs p).injCount = s.injCount := rfl
@[simp] theorem State.dropRegs_openRows (s : State) (p : Nat → Bool) : (s.dropRegs p).openRows = s.openRows := rfl
@[simp] theorem State.dropRegs_patrolPos (s : State) (p : Nat → Bool) : (s.dropRegs p).patrolPos = s.patrolPos := rfl
@[simp] theorem State.dropRegs_patrolRef (s : State) (p : Nat → Bool) : (s.dropRegs p).patrolRef = s.patrolRef := rfl
@[simp] theorem State.dropRegs_checkBurst (s : State) (p : Nat → Bool) : (s.dropRegs p).checkBurst = s.checkBurst := rfl
@[simp] theorem State.dropRegs_scheds (s : State) (p : Nat → Bool) : (s.dropRegs p).scheds = s.scheds := rfl
@[simp] theorem State.dropRegs_training (s : State) (p : Nat → Bool) : (s.dropRegs p).training = s.training := rfl
@[simp] theorem State.dropRegs_sc (s : State) (p : Nat → Bool) : (s.dropRegs p).sc = s.sc := rfl
@[simp] theorem State.dropRegs_scSects (s : State) (p : Nat → Bool) : (s.dropRegs p).scSects = s.scSects := rfl
@[simp] theorem State.dropRegs_engs (s : State) (p : Nat → Bool) : (s.dropRegs p).engs = s.engs := rfl
@[simp] theorem State.dropRegs_cores (s : State) (p : Nat → Bool) : (s.dropRegs p).cores = s.cores := rfl
@[simp] theorem State.dropRegs_panHead (s : State) (p : Nat → Bool) : (s.dropRegs p).panHead = s.panHead := rfl
@[simp] theorem State.dropRegs_ptRuns (s : State) (p : Nat → Bool) : (s.dropRegs p).ptRuns = s.ptRuns := rfl
@[simp] theorem State.dropRegs_tcmds (s : State) (p : Nat → Bool) : (s.dropRegs p).tcmds = s.tcmds := rfl
@[simp] theorem State.dropRegs_atts (s : State) (p : Nat → Bool) : (s.dropRegs p).atts = s.atts := rfl
@[simp] theorem State.dropRegs_cmds (s : State) (p : Nat → Bool) : (s.dropRegs p).cmds = s.cmds := rfl
@[simp] theorem State.dropRegs_tagGens (s : State) (p : Nat → Bool) : (s.dropRegs p).tagGens = s.tagGens := rfl
@[simp] theorem State.dropRegs_orderNext (s : State) (p : Nat → Bool) : (s.dropRegs p).orderNext = s.orderNext := rfl
@[simp] theorem State.dropRegs_ctxs (s : State) (p : Nat → Bool) : (s.dropRegs p).ctxs = s.ctxs := rfl
@[simp] theorem State.dropRegs_qcache (s : State) (p : Nat → Bool) : (s.dropRegs p).qcache = s.qcache := rfl
@[simp] theorem State.dropRegs_qready (s : State) (p : Nat → Bool) : (s.dropRegs p).qready = s.qready := rfl
@[simp] theorem State.dropRegs_cqs (s : State) (p : Nat → Bool) : (s.dropRegs p).cqs = s.cqs := rfl
@[simp] theorem State.dropRegs_cqUsed (s : State) (p : Nat → Bool) : (s.dropRegs p).cqUsed = s.cqUsed := rfl
@[simp] theorem State.dropRegs_cqNotes (s : State) (p : Nat → Bool) : (s.dropRegs p).cqNotes = s.cqNotes := rfl
@[simp] theorem State.dropRegs_pendDb (s : State) (p : Nat → Bool) : (s.dropRegs p).pendDb = s.pendDb := rfl
@[simp] theorem State.dropRegs_vc0 (s : State) (p : Nat → Bool) : (s.dropRegs p).vc0 = s.vc0 := rfl
@[simp] theorem State.dropRegs_images (s : State) (p : Nat → Bool) : (s.dropRegs p).images = s.images := rfl
@[simp] theorem State.dropRegs_resvs (s : State) (p : Nat → Bool) : (s.dropRegs p).resvs = s.resvs := rfl
@[simp] theorem State.dropRegs_events (s : State) (p : Nat → Bool) : (s.dropRegs p).events = s.events := rfl
@[simp] theorem State.dropRegs_eventsLost (s : State) (p : Nat → Bool) : (s.dropRegs p).eventsLost = s.eventsLost := rfl
@[simp] theorem State.dropRegs_eventSeq (s : State) (p : Nat → Bool) : (s.dropRegs p).eventSeq = s.eventSeq := rfl
@[simp] theorem State.dropRegs_semMsgs (s : State) (p : Nat → Bool) : (s.dropRegs p).semMsgs = s.semMsgs := rfl
@[simp] theorem State.dropRegs_waiters (s : State) (p : Nat → Bool) : (s.dropRegs p).waiters = s.waiters := rfl
@[simp] theorem State.dropRegs_semRsps (s : State) (p : Nat → Bool) : (s.dropRegs p).semRsps = s.semRsps := rfl
@[simp] theorem State.dropRegs_strKeys (s : State) (p : Nat → Bool) : (s.dropRegs p).strKeys = s.strKeys := rfl
@[simp] theorem State.dropRegs_hangLevel (s : State) (p : Nat → Bool) : (s.dropRegs p).hangLevel = s.hangLevel := rfl
@[simp] theorem State.dropRegs_dcWire (s : State) (p : Nat → Bool) : (s.dropRegs p).dcWire = s.dcWire := rfl
@[simp] theorem State.dropRegs_strSegs (s : State) (p : Nat → Bool) : (s.dropRegs p).strSegs = s.strSegs := rfl
@[simp] theorem State.dropRegs_strCreds (s : State) (p : Nat → Bool) : (s.dropRegs p).strCreds = s.strCreds := rfl
@[simp] theorem State.dropRegs_ledgerMute (s : State) (p : Nat → Bool) : (s.dropRegs p).ledgerMute = s.ledgerMute := rfl
@[simp] theorem State.dropRegs_tagReleases (s : State) (p : Nat → Bool) : (s.dropRegs p).tagReleases = s.tagReleases := rfl
@[simp] theorem State.dropRegs_dozeHold (s : State) (p : Nat → Bool) : (s.dropRegs p).dozeHold = s.dozeHold := rfl
@[simp] theorem State.dropRegs_rotAt (s : State) (p : Nat → Bool) : (s.dropRegs p).rotAt = s.rotAt := rfl
@[simp] theorem State.dropRegs_goldNext (s : State) (p : Nat → Bool) : (s.dropRegs p).goldNext = s.goldNext := rfl
@[simp] theorem State.dropRegs_pastBooked (s : State) (p : Nat → Bool) : (s.dropRegs p).pastBooked = s.pastBooked := rfl
@[simp] theorem State.dropRegs_policy (s : State) (p : Nat → Bool) : (s.dropRegs p).policy = s.policy := rfl
@[simp] theorem State.dropRegs_buckets (s : State) (p : Nat → Bool) : (s.dropRegs p).buckets = s.buckets := rfl
@[simp] theorem State.dropRegs_turns (s : State) (p : Nat → Bool) : (s.dropRegs p).turns = s.turns := rfl
@[simp] theorem State.dropRegs_routes (s : State) (p : Nat → Bool) : (s.dropRegs p).routes = s.routes := rfl
@[simp] theorem State.dropRegs_notifyQ (s : State) (p : Nat → Bool) : (s.dropRegs p).notifyQ = s.notifyQ := rfl
@[simp] theorem State.dropRegs_links (s : State) (p : Nat → Bool) : (s.dropRegs p).links = s.links := rfl
@[simp] theorem State.dropRegs_laneOtp (s : State) (p : Nat → Bool) : (s.dropRegs p).laneOtp = s.laneOtp := rfl
@[simp] theorem State.dropRegs_hostProto (s : State) (p : Nat → Bool) : (s.dropRegs p).hostProto = s.hostProto := rfl
@[simp] theorem State.dropRegs_spnFixed (s : State) (p : Nat → Bool) : (s.dropRegs p).spnFixed = s.spnFixed := rfl
@[simp] theorem State.dropRegs_discovering (s : State) (p : Nat → Bool) : (s.dropRegs p).discovering = s.discovering := rfl
@[simp] theorem State.dropRegs_sports (s : State) (p : Nat → Bool) : (s.dropRegs p).sports = s.sports := rfl
@[simp] theorem State.dropRegs_pchOrd (s : State) (p : Nat → Bool) : (s.dropRegs p).pchOrd = s.pchOrd := rfl
@[simp] theorem State.dropRegs_drainUrg (s : State) (p : Nat → Bool) : (s.dropRegs p).drainUrg = s.drainUrg := rfl
@[simp] theorem State.dropRegs_drainNorm (s : State) (p : Nat → Bool) : (s.dropRegs p).drainNorm = s.drainNorm := rfl
@[simp] theorem State.dropRegs_trigNext (s : State) (p : Nat → Bool) : (s.dropRegs p).trigNext = s.trigNext := rfl
@[simp] theorem State.dropRegs_trigFired (s : State) (p : Nat → Bool) : (s.dropRegs p).trigFired = s.trigFired := rfl
@[simp] theorem State.dropRegs_trigPast (s : State) (p : Nat → Bool) : (s.dropRegs p).trigPast = s.trigPast := rfl
@[simp] theorem State.dropRegs_trigHiz (s : State) (p : Nat → Bool) : (s.dropRegs p).trigHiz = s.trigHiz := rfl
@[simp] theorem State.dropRegs_trigAt (s : State) (p : Nat → Bool) : (s.dropRegs p).trigAt = s.trigAt := rfl
@[simp] theorem State.dropRegs_trigLen (s : State) (p : Nat → Bool) : (s.dropRegs p).trigLen = s.trigLen := rfl
@[simp] theorem State.dropRegs_slew (s : State) (p : Nat → Bool) : (s.dropRegs p).slew = s.slew := rfl
@[simp] theorem State.dropRegs_slewTicks (s : State) (p : Nat → Bool) : (s.dropRegs p).slewTicks = s.slewTicks := rfl
@[simp] theorem State.dropRegs_lastSync (s : State) (p : Nat → Bool) : (s.dropRegs p).lastSync = s.lastSync := rfl
@[simp] theorem State.dropRegs_holdSince (s : State) (p : Nat → Bool) : (s.dropRegs p).holdSince = s.holdSince := rfl
@[simp] theorem State.dropRegs_calOn (s : State) (p : Nat → Bool) : (s.dropRegs p).calOn = s.calOn := rfl
@[simp] theorem State.dropRegs_calPend (s : State) (p : Nat → Bool) : (s.dropRegs p).calPend = s.calPend := rfl
@[simp] theorem State.dropRegs_imuIn (s : State) (p : Nat → Bool) : (s.dropRegs p).imuIn = s.imuIn := rfl
@[simp] theorem State.dropRegs_wheels (s : State) (p : Nat → Bool) : (s.dropRegs p).wheels = s.wheels := rfl
@[simp] theorem State.dropRegs_integ (s : State) (p : Nat → Bool) : (s.dropRegs p).integ = s.integ := rfl
@[simp] theorem State.dropRegs_poses (s : State) (p : Nat → Bool) : (s.dropRegs p).poses = s.poses := rfl
@[simp] theorem State.dropRegs_lidIn (s : State) (p : Nat → Bool) : (s.dropRegs p).lidIn = s.lidIn := rfl
@[simp] theorem State.dropRegs_jobs (s : State) (p : Nat → Bool) : (s.dropRegs p).jobs = s.jobs := rfl
@[simp] theorem State.dropRegs_proj (s : State) (p : Nat → Bool) : (s.dropRegs p).proj = s.proj := rfl
@[simp] theorem State.dropRegs_islands (s : State) (p : Nat → Bool) : (s.dropRegs p).islands = s.islands := rfl
@[simp] theorem State.dropRegs_mainBad (s : State) (p : Nat → Bool) : (s.dropRegs p).mainBad = s.mainBad := rfl
@[simp] theorem State.dropRegs_pllBad (s : State) (p : Nat → Bool) : (s.dropRegs p).pllBad = s.pllBad := rfl
@[simp] theorem State.dropRegs_trigBad (s : State) (p : Nat → Bool) : (s.dropRegs p).trigBad = s.trigBad := rfl
@[simp] theorem State.dropRegs_railsBad (s : State) (p : Nat → Bool) : (s.dropRegs p).railsBad = s.railsBad := rfl
@[simp] theorem State.dropRegs_stGo (s : State) (p : Nat → Bool) : (s.dropRegs p).stGo = s.stGo := rfl
@[simp] theorem State.dropRegs_stDone (s : State) (p : Nat → Bool) : (s.dropRegs p).stDone = s.stDone := rfl
@[simp] theorem State.dropRegs_unitImgs (s : State) (p : Nat → Bool) : (s.dropRegs p).unitImgs = s.unitImgs := rfl
@[simp] theorem State.dropRegs_otp (s : State) (p : Nat → Bool) : (s.dropRegs p).otp = s.otp := rfl
@[simp] theorem State.dropRegs_otpBad (s : State) (p : Nat → Bool) : (s.dropRegs p).otpBad = s.otpBad := rfl
@[simp] theorem State.dropRegs_flash (s : State) (p : Nat → Bool) : (s.dropRegs p).flash = s.flash := rfl
@[simp] theorem State.dropRegs_flashMb (s : State) (p : Nat → Bool) : (s.dropRegs p).flashMb = s.flashMb := rfl
@[simp] theorem State.dropRegs_flashOp (s : State) (p : Nat → Bool) : (s.dropRegs p).flashOp = s.flashOp := rfl
@[simp] theorem State.dropRegs_damaged (s : State) (p : Nat → Bool) : (s.dropRegs p).damaged = s.damaged := rfl
@[simp] theorem State.dropRegs_mailbox (s : State) (p : Nat → Bool) : (s.dropRegs p).mailbox = s.mailbox := rfl
@[simp] theorem State.dropRegs_upd (s : State) (p : Nat → Bool) : (s.dropRegs p).upd = s.upd := rfl
@[simp] theorem State.dropRegs_updNum (s : State) (p : Nat → Bool) : (s.dropRegs p).updNum = s.updNum := rfl
@[simp] theorem State.dropRegs_act (s : State) (p : Nat → Bool) : (s.dropRegs p).act = s.act := rfl
@[simp] theorem State.dropRegs_dieRst (s : State) (p : Nat → Bool) : (s.dropRegs p).dieRst = s.dieRst := rfl
@[simp] theorem State.dropRegs_rewrite (s : State) (p : Nat → Bool) : (s.dropRegs p).rewrite = s.rewrite := rfl
@[simp] theorem State.dropRegs_beatAt (s : State) (p : Nat → Bool) : (s.dropRegs p).beatAt = s.beatAt := rfl
@[simp] theorem State.dropRegs_linkEvAt (s : State) (p : Nat → Bool) : (s.dropRegs p).linkEvAt = s.linkEvAt := rfl
@[simp] theorem State.dropRegs_hardFault (s : State) (p : Nat → Bool) : (s.dropRegs p).hardFault = s.hardFault := rfl
@[simp] theorem State.dropRegs_td (s : State) (p : Nat → Bool) : (s.dropRegs p).td = s.td := rfl
@[simp] theorem State.dropRegs_dump (s : State) (p : Nat → Bool) : (s.dropRegs p).dump = s.dump := rfl
@[simp] theorem State.dropRegs_wdogDump (s : State) (p : Nat → Bool) : (s.dropRegs p).wdogDump = s.wdogDump := rfl
@[simp] theorem State.dropRegs_mpKick (s : State) (p : Nat → Bool) : (s.dropRegs p).mpKick = s.mpKick := rfl
@[simp] theorem State.dropRegs_txHold (s : State) (p : Nat → Bool) : (s.dropRegs p).txHold = s.txHold := rfl
@[simp] theorem State.dropRegs_powerOff (s : State) (p : Nat → Bool) : (s.dropRegs p).powerOff = s.powerOff := rfl
@[simp] theorem State.dropRegs_porstLow (s : State) (p : Nat → Bool) : (s.dropRegs p).porstLow = s.porstLow := rfl
@[simp] theorem State.dropRegs_tapIr (s : State) (p : Nat → Bool) : (s.dropRegs p).tapIr = s.tapIr := rfl
@[simp] theorem State.dropRegs_tapHeld (s : State) (p : Nat → Bool) : (s.dropRegs p).tapHeld = s.tapHeld := rfl
@[simp] theorem State.dropRegs_tapBsr (s : State) (p : Nat → Bool) : (s.dropRegs p).tapBsr = s.tapBsr := rfl
@[simp] theorem State.dropRegs_cluIdle (s : State) (p : Nat → Bool) : (s.dropRegs p).cluIdle = s.cluIdle := rfl
@[simp] theorem State.dropRegs_stallUs (s : State) (p : Nat → Bool) : (s.dropRegs p).stallUs = s.stallUs := rfl
@[simp] theorem State.dropRegs_filler (s : State) (p : Nat → Bool) : (s.dropRegs p).filler = s.filler := rfl
@[simp] theorem State.dropRegs_rampFill (s : State) (p : Nat → Bool) : (s.dropRegs p).rampFill = s.rampFill := rfl
@[simp] theorem State.dropRegs_railMv (s : State) (p : Nat → Bool) : (s.dropRegs p).railMv = s.railMv := rfl
@[simp] theorem State.dropRegs_tripped (s : State) (p : Nat → Bool) : (s.dropRegs p).tripped = s.tripped := rfl
@[simp] theorem State.dropRegs_snsExcl (s : State) (p : Nat → Bool) : (s.dropRegs p).snsExcl = s.snsExcl := rfl
@[simp] theorem State.dropRegs_pairT (s : State) (p : Nat → Bool) : (s.dropRegs p).pairT = s.pairT := rfl
@[simp] theorem State.dropRegs_hotAt (s : State) (p : Nat → Bool) : (s.dropRegs p).hotAt = s.hotAt := rfl
@[simp] theorem State.dropRegs_thermDies (s : State) (p : Nat → Bool) : (s.dropRegs p).thermDies = s.thermDies := rfl
@[simp] theorem State.dropRegs_noBook (s : State) (p : Nat → Bool) : (s.dropRegs p).noBook = s.noBook := rfl
@[simp] theorem State.dropRegs_agSeq (s : State) (p : Nat → Bool) : (s.dropRegs p).agSeq = s.agSeq := rfl
@[simp] theorem State.dropRegs_agBudgetAt (s : State) (p : Nat → Bool) : (s.dropRegs p).agBudgetAt = s.agBudgetAt := rfl
@[simp] theorem State.dropRegs_holdSig (s : State) (p : Nat → Bool) : (s.dropRegs p).holdSig = s.holdSig := rfl
@[simp] theorem State.dropRegs_draws (s : State) (p : Nat → Bool) : (s.dropRegs p).draws = s.draws := rfl
@[simp] theorem State.dropRegs_overAt (s : State) (p : Nat → Bool) : (s.dropRegs p).overAt = s.overAt := rfl
@[simp] theorem State.dropRegs_owing (s : State) (p : Nat → Bool) : (s.dropRegs p).owing = s.owing := rfl
@[simp] theorem State.dropRegs_agRot (s : State) (p : Nat → Bool) : (s.dropRegs p).agRot = s.agRot := rfl
@[simp] theorem State.dropRegs_dieReps (s : State) (p : Nat → Bool) : (s.dropRegs p).dieReps = s.dieReps := rfl
@[simp] theorem State.dropRegs_budgetMsgs (s : State) (p : Nat → Bool) : (s.dropRegs p).budgetMsgs = s.budgetMsgs := rfl
@[simp] theorem State.dropRegs_clampMsgs (s : State) (p : Nat → Bool) : (s.dropRegs p).clampMsgs = s.clampMsgs := rfl
@[simp] theorem State.dropRegs_hthBudget (s : State) (p : Nat → Bool) : (s.dropRegs p).hthBudget = s.hthBudget := rfl
@[simp] theorem State.dropRegs_charges (s : State) (p : Nat → Bool) : (s.dropRegs p).charges = s.charges := rfl
@[simp] theorem State.dropRegs_busBad (s : State) (p : Nat → Bool) : (s.dropRegs p).busBad = s.busBad := rfl
@[simp] theorem State.dropRegs_dieCap (s : State) (p : Nat → Bool) : (s.dropRegs p).dieCap = s.dieCap := rfl
@[simp] theorem State.dropRegs_capAt (s : State) (p : Nat → Bool) : (s.dropRegs p).capAt = s.capAt := rfl
@[simp] theorem State.dropRegs_shortBy (s : State) (p : Nat → Bool) : (s.dropRegs p).shortBy = s.shortBy := rfl
@[simp] theorem State.dropRegs_shortSince (s : State) (p : Nat → Bool) : (s.dropRegs p).shortSince = s.shortSince := rfl
@[simp] theorem State.dropRegs_flowPeriods (s : State) (p : Nat → Bool) : (s.dropRegs p).flowPeriods = s.flowPeriods := rfl
@[simp] theorem State.dropRegs_flowLast (s : State) (p : Nat → Bool) : (s.dropRegs p).flowLast = s.flowLast := rfl
@[simp] theorem State.dropRegs_flowExcl (s : State) (p : Nat → Bool) : (s.dropRegs p).flowExcl = s.flowExcl := rfl
@[simp] theorem State.dropRegs_outSamples (s : State) (p : Nat → Bool) : (s.dropRegs p).outSamples = s.outSamples := rfl
@[simp] theorem State.dropRegs_advs (s : State) (p : Nat → Bool) : (s.dropRegs p).advs = s.advs := rfl
@[simp] theorem State.dropRegs_coolBadAt (s : State) (p : Nat → Bool) : (s.dropRegs p).coolBadAt = s.coolBadAt := rfl
@[simp] theorem State.dropRegs_napWait (s : State) (p : Nat → Bool) : (s.dropRegs p).napWait = s.napWait := rfl
@[simp] theorem State.dropRegs_cellar (s : State) (p : Nat → Bool) : (s.dropRegs p).cellar = s.cellar := rfl
@[simp] theorem State.dropRegs_dark (s : State) (p : Nat → Bool) : (s.dropRegs p).dark = s.dark := rfl
@[simp] theorem State.dropRegs_reports (s : State) (p : Nat → Bool) : (s.dropRegs p).reports = s.reports := rfl
@[simp] theorem State.dropRegs_mpEvents (s : State) (p : Nat → Bool) : (s.dropRegs p).mpEvents = s.mpEvents := rfl
@[simp] theorem State.dropRegs_emits (s : State) (p : Nat → Bool) : (s.dropRegs p).emits = s.emits := rfl
@[simp] theorem State.dropRegs_reqs (s : State) (p : Nat → Bool) : (s.dropRegs p).reqs = s.reqs := rfl
@[simp] theorem State.dropRegs_resps (s : State) (p : Nat → Bool) : (s.dropRegs p).resps = s.resps := rfl

/-! ### State.setEng -/

@[simp] theorem State.setEng_part (s : State) (e : Nat) (v : Eng) : (s.setEng e v).part = s.part := rfl
@[simp] theorem State.setEng_pending (s : State) (e : Nat) (v : Eng) : (s.setEng e v).pending = s.pending := rfl
@[simp] theorem State.setEng_regs (s : State) (e : Nat) (v : Eng) : (s.setEng e v).regs = s.regs := rfl
@[simp] theorem State.setEng_mem (s : State) (e : Nat) (v : Eng) : (s.setEng e v).mem = s.mem := rfl
@[simp] theorem State.setEng_undef (s : State) (e : Nat) (v : Eng) : (s.setEng e v).undef = s.undef := rfl
@[simp] theorem State.setEng_fresh (s : State) (e : Nat) (v : Eng) : (s.setEng e v).fresh = s.fresh := rfl
@[simp] theorem State.setEng_latched (s : State) (e : Nat) (v : Eng) : (s.setEng e v).latched = s.latched := rfl
@[simp] theorem State.setEng_sram (s : State) (e : Nat) (v : Eng) : (s.setEng e v).sram = s.sram := rfl
@[simp] theorem State.setEng_dram (s : State) (e : Nat) (v : Eng) : (s.setEng e v).dram = s.dram := rfl
@[simp] theorem State.setEng_elogSeq (s : State) (e : Nat) (v : Eng) : (s.setEng e v).elogSeq = s.elogSeq := rfl
@[simp] theorem State.setEng_injCount (s : State) (e : Nat) (v : Eng) : (s.setEng e v).injCount = s.injCount := rfl
@[simp] theorem State.setEng_openRows (s : State) (e : Nat) (v : Eng) : (s.setEng e v).openRows = s.openRows := rfl
@[simp] theorem State.setEng_patrolPos (s : State) (e : Nat) (v : Eng) : (s.setEng e v).patrolPos = s.patrolPos := rfl
@[simp] theorem State.setEng_patrolRef (s : State) (e : Nat) (v : Eng) : (s.setEng e v).patrolRef = s.patrolRef := rfl
@[simp] theorem State.setEng_checkBurst (s : State) (e : Nat) (v : Eng) : (s.setEng e v).checkBurst = s.checkBurst := rfl
@[simp] theorem State.setEng_scheds (s : State) (e : Nat) (v : Eng) : (s.setEng e v).scheds = s.scheds := rfl
@[simp] theorem State.setEng_training (s : State) (e : Nat) (v : Eng) : (s.setEng e v).training = s.training := rfl
@[simp] theorem State.setEng_sc (s : State) (e : Nat) (v : Eng) : (s.setEng e v).sc = s.sc := rfl
@[simp] theorem State.setEng_scSects (s : State) (e : Nat) (v : Eng) : (s.setEng e v).scSects = s.scSects := rfl
@[simp] theorem State.setEng_cores (s : State) (e : Nat) (v : Eng) : (s.setEng e v).cores = s.cores := rfl
@[simp] theorem State.setEng_panHead (s : State) (e : Nat) (v : Eng) : (s.setEng e v).panHead = s.panHead := rfl
@[simp] theorem State.setEng_ptRuns (s : State) (e : Nat) (v : Eng) : (s.setEng e v).ptRuns = s.ptRuns := rfl
@[simp] theorem State.setEng_tcmds (s : State) (e : Nat) (v : Eng) : (s.setEng e v).tcmds = s.tcmds := rfl
@[simp] theorem State.setEng_atts (s : State) (e : Nat) (v : Eng) : (s.setEng e v).atts = s.atts := rfl
@[simp] theorem State.setEng_cmds (s : State) (e : Nat) (v : Eng) : (s.setEng e v).cmds = s.cmds := rfl
@[simp] theorem State.setEng_tagGens (s : State) (e : Nat) (v : Eng) : (s.setEng e v).tagGens = s.tagGens := rfl
@[simp] theorem State.setEng_orderNext (s : State) (e : Nat) (v : Eng) : (s.setEng e v).orderNext = s.orderNext := rfl
@[simp] theorem State.setEng_ctxs (s : State) (e : Nat) (v : Eng) : (s.setEng e v).ctxs = s.ctxs := rfl
@[simp] theorem State.setEng_qcache (s : State) (e : Nat) (v : Eng) : (s.setEng e v).qcache = s.qcache := rfl
@[simp] theorem State.setEng_qready (s : State) (e : Nat) (v : Eng) : (s.setEng e v).qready = s.qready := rfl
@[simp] theorem State.setEng_cqs (s : State) (e : Nat) (v : Eng) : (s.setEng e v).cqs = s.cqs := rfl
@[simp] theorem State.setEng_cqUsed (s : State) (e : Nat) (v : Eng) : (s.setEng e v).cqUsed = s.cqUsed := rfl
@[simp] theorem State.setEng_cqNotes (s : State) (e : Nat) (v : Eng) : (s.setEng e v).cqNotes = s.cqNotes := rfl
@[simp] theorem State.setEng_pendDb (s : State) (e : Nat) (v : Eng) : (s.setEng e v).pendDb = s.pendDb := rfl
@[simp] theorem State.setEng_vc0 (s : State) (e : Nat) (v : Eng) : (s.setEng e v).vc0 = s.vc0 := rfl
@[simp] theorem State.setEng_images (s : State) (e : Nat) (v : Eng) : (s.setEng e v).images = s.images := rfl
@[simp] theorem State.setEng_resvs (s : State) (e : Nat) (v : Eng) : (s.setEng e v).resvs = s.resvs := rfl
@[simp] theorem State.setEng_events (s : State) (e : Nat) (v : Eng) : (s.setEng e v).events = s.events := rfl
@[simp] theorem State.setEng_eventsLost (s : State) (e : Nat) (v : Eng) : (s.setEng e v).eventsLost = s.eventsLost := rfl
@[simp] theorem State.setEng_eventSeq (s : State) (e : Nat) (v : Eng) : (s.setEng e v).eventSeq = s.eventSeq := rfl
@[simp] theorem State.setEng_semMsgs (s : State) (e : Nat) (v : Eng) : (s.setEng e v).semMsgs = s.semMsgs := rfl
@[simp] theorem State.setEng_waiters (s : State) (e : Nat) (v : Eng) : (s.setEng e v).waiters = s.waiters := rfl
@[simp] theorem State.setEng_semRsps (s : State) (e : Nat) (v : Eng) : (s.setEng e v).semRsps = s.semRsps := rfl
@[simp] theorem State.setEng_strKeys (s : State) (e : Nat) (v : Eng) : (s.setEng e v).strKeys = s.strKeys := rfl
@[simp] theorem State.setEng_hangLevel (s : State) (e : Nat) (v : Eng) : (s.setEng e v).hangLevel = s.hangLevel := rfl
@[simp] theorem State.setEng_dcWire (s : State) (e : Nat) (v : Eng) : (s.setEng e v).dcWire = s.dcWire := rfl
@[simp] theorem State.setEng_strSegs (s : State) (e : Nat) (v : Eng) : (s.setEng e v).strSegs = s.strSegs := rfl
@[simp] theorem State.setEng_strCreds (s : State) (e : Nat) (v : Eng) : (s.setEng e v).strCreds = s.strCreds := rfl
@[simp] theorem State.setEng_ledgerMute (s : State) (e : Nat) (v : Eng) : (s.setEng e v).ledgerMute = s.ledgerMute := rfl
@[simp] theorem State.setEng_tagReleases (s : State) (e : Nat) (v : Eng) : (s.setEng e v).tagReleases = s.tagReleases := rfl
@[simp] theorem State.setEng_dozeHold (s : State) (e : Nat) (v : Eng) : (s.setEng e v).dozeHold = s.dozeHold := rfl
@[simp] theorem State.setEng_rotAt (s : State) (e : Nat) (v : Eng) : (s.setEng e v).rotAt = s.rotAt := rfl
@[simp] theorem State.setEng_goldNext (s : State) (e : Nat) (v : Eng) : (s.setEng e v).goldNext = s.goldNext := rfl
@[simp] theorem State.setEng_pastBooked (s : State) (e : Nat) (v : Eng) : (s.setEng e v).pastBooked = s.pastBooked := rfl
@[simp] theorem State.setEng_policy (s : State) (e : Nat) (v : Eng) : (s.setEng e v).policy = s.policy := rfl
@[simp] theorem State.setEng_buckets (s : State) (e : Nat) (v : Eng) : (s.setEng e v).buckets = s.buckets := rfl
@[simp] theorem State.setEng_turns (s : State) (e : Nat) (v : Eng) : (s.setEng e v).turns = s.turns := rfl
@[simp] theorem State.setEng_routes (s : State) (e : Nat) (v : Eng) : (s.setEng e v).routes = s.routes := rfl
@[simp] theorem State.setEng_notifyQ (s : State) (e : Nat) (v : Eng) : (s.setEng e v).notifyQ = s.notifyQ := rfl
@[simp] theorem State.setEng_links (s : State) (e : Nat) (v : Eng) : (s.setEng e v).links = s.links := rfl
@[simp] theorem State.setEng_laneOtp (s : State) (e : Nat) (v : Eng) : (s.setEng e v).laneOtp = s.laneOtp := rfl
@[simp] theorem State.setEng_hostProto (s : State) (e : Nat) (v : Eng) : (s.setEng e v).hostProto = s.hostProto := rfl
@[simp] theorem State.setEng_spnFixed (s : State) (e : Nat) (v : Eng) : (s.setEng e v).spnFixed = s.spnFixed := rfl
@[simp] theorem State.setEng_discovering (s : State) (e : Nat) (v : Eng) : (s.setEng e v).discovering = s.discovering := rfl
@[simp] theorem State.setEng_sports (s : State) (e : Nat) (v : Eng) : (s.setEng e v).sports = s.sports := rfl
@[simp] theorem State.setEng_pchOrd (s : State) (e : Nat) (v : Eng) : (s.setEng e v).pchOrd = s.pchOrd := rfl
@[simp] theorem State.setEng_drainUrg (s : State) (e : Nat) (v : Eng) : (s.setEng e v).drainUrg = s.drainUrg := rfl
@[simp] theorem State.setEng_drainNorm (s : State) (e : Nat) (v : Eng) : (s.setEng e v).drainNorm = s.drainNorm := rfl
@[simp] theorem State.setEng_trigNext (s : State) (e : Nat) (v : Eng) : (s.setEng e v).trigNext = s.trigNext := rfl
@[simp] theorem State.setEng_trigFired (s : State) (e : Nat) (v : Eng) : (s.setEng e v).trigFired = s.trigFired := rfl
@[simp] theorem State.setEng_trigPast (s : State) (e : Nat) (v : Eng) : (s.setEng e v).trigPast = s.trigPast := rfl
@[simp] theorem State.setEng_trigHiz (s : State) (e : Nat) (v : Eng) : (s.setEng e v).trigHiz = s.trigHiz := rfl
@[simp] theorem State.setEng_trigAt (s : State) (e : Nat) (v : Eng) : (s.setEng e v).trigAt = s.trigAt := rfl
@[simp] theorem State.setEng_trigLen (s : State) (e : Nat) (v : Eng) : (s.setEng e v).trigLen = s.trigLen := rfl
@[simp] theorem State.setEng_slew (s : State) (e : Nat) (v : Eng) : (s.setEng e v).slew = s.slew := rfl
@[simp] theorem State.setEng_slewTicks (s : State) (e : Nat) (v : Eng) : (s.setEng e v).slewTicks = s.slewTicks := rfl
@[simp] theorem State.setEng_lastSync (s : State) (e : Nat) (v : Eng) : (s.setEng e v).lastSync = s.lastSync := rfl
@[simp] theorem State.setEng_holdSince (s : State) (e : Nat) (v : Eng) : (s.setEng e v).holdSince = s.holdSince := rfl
@[simp] theorem State.setEng_calOn (s : State) (e : Nat) (v : Eng) : (s.setEng e v).calOn = s.calOn := rfl
@[simp] theorem State.setEng_calPend (s : State) (e : Nat) (v : Eng) : (s.setEng e v).calPend = s.calPend := rfl
@[simp] theorem State.setEng_imuIn (s : State) (e : Nat) (v : Eng) : (s.setEng e v).imuIn = s.imuIn := rfl
@[simp] theorem State.setEng_wheels (s : State) (e : Nat) (v : Eng) : (s.setEng e v).wheels = s.wheels := rfl
@[simp] theorem State.setEng_integ (s : State) (e : Nat) (v : Eng) : (s.setEng e v).integ = s.integ := rfl
@[simp] theorem State.setEng_poses (s : State) (e : Nat) (v : Eng) : (s.setEng e v).poses = s.poses := rfl
@[simp] theorem State.setEng_lidIn (s : State) (e : Nat) (v : Eng) : (s.setEng e v).lidIn = s.lidIn := rfl
@[simp] theorem State.setEng_jobs (s : State) (e : Nat) (v : Eng) : (s.setEng e v).jobs = s.jobs := rfl
@[simp] theorem State.setEng_proj (s : State) (e : Nat) (v : Eng) : (s.setEng e v).proj = s.proj := rfl
@[simp] theorem State.setEng_islands (s : State) (e : Nat) (v : Eng) : (s.setEng e v).islands = s.islands := rfl
@[simp] theorem State.setEng_mainBad (s : State) (e : Nat) (v : Eng) : (s.setEng e v).mainBad = s.mainBad := rfl
@[simp] theorem State.setEng_pllBad (s : State) (e : Nat) (v : Eng) : (s.setEng e v).pllBad = s.pllBad := rfl
@[simp] theorem State.setEng_trigBad (s : State) (e : Nat) (v : Eng) : (s.setEng e v).trigBad = s.trigBad := rfl
@[simp] theorem State.setEng_railsBad (s : State) (e : Nat) (v : Eng) : (s.setEng e v).railsBad = s.railsBad := rfl
@[simp] theorem State.setEng_stGo (s : State) (e : Nat) (v : Eng) : (s.setEng e v).stGo = s.stGo := rfl
@[simp] theorem State.setEng_stDone (s : State) (e : Nat) (v : Eng) : (s.setEng e v).stDone = s.stDone := rfl
@[simp] theorem State.setEng_unitImgs (s : State) (e : Nat) (v : Eng) : (s.setEng e v).unitImgs = s.unitImgs := rfl
@[simp] theorem State.setEng_otp (s : State) (e : Nat) (v : Eng) : (s.setEng e v).otp = s.otp := rfl
@[simp] theorem State.setEng_otpBad (s : State) (e : Nat) (v : Eng) : (s.setEng e v).otpBad = s.otpBad := rfl
@[simp] theorem State.setEng_flash (s : State) (e : Nat) (v : Eng) : (s.setEng e v).flash = s.flash := rfl
@[simp] theorem State.setEng_flashMb (s : State) (e : Nat) (v : Eng) : (s.setEng e v).flashMb = s.flashMb := rfl
@[simp] theorem State.setEng_flashOp (s : State) (e : Nat) (v : Eng) : (s.setEng e v).flashOp = s.flashOp := rfl
@[simp] theorem State.setEng_damaged (s : State) (e : Nat) (v : Eng) : (s.setEng e v).damaged = s.damaged := rfl
@[simp] theorem State.setEng_mailbox (s : State) (e : Nat) (v : Eng) : (s.setEng e v).mailbox = s.mailbox := rfl
@[simp] theorem State.setEng_upd (s : State) (e : Nat) (v : Eng) : (s.setEng e v).upd = s.upd := rfl
@[simp] theorem State.setEng_updNum (s : State) (e : Nat) (v : Eng) : (s.setEng e v).updNum = s.updNum := rfl
@[simp] theorem State.setEng_act (s : State) (e : Nat) (v : Eng) : (s.setEng e v).act = s.act := rfl
@[simp] theorem State.setEng_dieRst (s : State) (e : Nat) (v : Eng) : (s.setEng e v).dieRst = s.dieRst := rfl
@[simp] theorem State.setEng_rewrite (s : State) (e : Nat) (v : Eng) : (s.setEng e v).rewrite = s.rewrite := rfl
@[simp] theorem State.setEng_beatAt (s : State) (e : Nat) (v : Eng) : (s.setEng e v).beatAt = s.beatAt := rfl
@[simp] theorem State.setEng_linkEvAt (s : State) (e : Nat) (v : Eng) : (s.setEng e v).linkEvAt = s.linkEvAt := rfl
@[simp] theorem State.setEng_hardFault (s : State) (e : Nat) (v : Eng) : (s.setEng e v).hardFault = s.hardFault := rfl
@[simp] theorem State.setEng_td (s : State) (e : Nat) (v : Eng) : (s.setEng e v).td = s.td := rfl
@[simp] theorem State.setEng_dump (s : State) (e : Nat) (v : Eng) : (s.setEng e v).dump = s.dump := rfl
@[simp] theorem State.setEng_wdogDump (s : State) (e : Nat) (v : Eng) : (s.setEng e v).wdogDump = s.wdogDump := rfl
@[simp] theorem State.setEng_mpKick (s : State) (e : Nat) (v : Eng) : (s.setEng e v).mpKick = s.mpKick := rfl
@[simp] theorem State.setEng_txHold (s : State) (e : Nat) (v : Eng) : (s.setEng e v).txHold = s.txHold := rfl
@[simp] theorem State.setEng_powerOff (s : State) (e : Nat) (v : Eng) : (s.setEng e v).powerOff = s.powerOff := rfl
@[simp] theorem State.setEng_porstLow (s : State) (e : Nat) (v : Eng) : (s.setEng e v).porstLow = s.porstLow := rfl
@[simp] theorem State.setEng_tapIr (s : State) (e : Nat) (v : Eng) : (s.setEng e v).tapIr = s.tapIr := rfl
@[simp] theorem State.setEng_tapHeld (s : State) (e : Nat) (v : Eng) : (s.setEng e v).tapHeld = s.tapHeld := rfl
@[simp] theorem State.setEng_tapBsr (s : State) (e : Nat) (v : Eng) : (s.setEng e v).tapBsr = s.tapBsr := rfl
@[simp] theorem State.setEng_cluIdle (s : State) (e : Nat) (v : Eng) : (s.setEng e v).cluIdle = s.cluIdle := rfl
@[simp] theorem State.setEng_stallUs (s : State) (e : Nat) (v : Eng) : (s.setEng e v).stallUs = s.stallUs := rfl
@[simp] theorem State.setEng_filler (s : State) (e : Nat) (v : Eng) : (s.setEng e v).filler = s.filler := rfl
@[simp] theorem State.setEng_rampFill (s : State) (e : Nat) (v : Eng) : (s.setEng e v).rampFill = s.rampFill := rfl
@[simp] theorem State.setEng_railMv (s : State) (e : Nat) (v : Eng) : (s.setEng e v).railMv = s.railMv := rfl
@[simp] theorem State.setEng_tripped (s : State) (e : Nat) (v : Eng) : (s.setEng e v).tripped = s.tripped := rfl
@[simp] theorem State.setEng_snsExcl (s : State) (e : Nat) (v : Eng) : (s.setEng e v).snsExcl = s.snsExcl := rfl
@[simp] theorem State.setEng_pairT (s : State) (e : Nat) (v : Eng) : (s.setEng e v).pairT = s.pairT := rfl
@[simp] theorem State.setEng_hotAt (s : State) (e : Nat) (v : Eng) : (s.setEng e v).hotAt = s.hotAt := rfl
@[simp] theorem State.setEng_thermDies (s : State) (e : Nat) (v : Eng) : (s.setEng e v).thermDies = s.thermDies := rfl
@[simp] theorem State.setEng_noBook (s : State) (e : Nat) (v : Eng) : (s.setEng e v).noBook = s.noBook := rfl
@[simp] theorem State.setEng_agSeq (s : State) (e : Nat) (v : Eng) : (s.setEng e v).agSeq = s.agSeq := rfl
@[simp] theorem State.setEng_agBudgetAt (s : State) (e : Nat) (v : Eng) : (s.setEng e v).agBudgetAt = s.agBudgetAt := rfl
@[simp] theorem State.setEng_holdSig (s : State) (e : Nat) (v : Eng) : (s.setEng e v).holdSig = s.holdSig := rfl
@[simp] theorem State.setEng_draws (s : State) (e : Nat) (v : Eng) : (s.setEng e v).draws = s.draws := rfl
@[simp] theorem State.setEng_overAt (s : State) (e : Nat) (v : Eng) : (s.setEng e v).overAt = s.overAt := rfl
@[simp] theorem State.setEng_owing (s : State) (e : Nat) (v : Eng) : (s.setEng e v).owing = s.owing := rfl
@[simp] theorem State.setEng_agRot (s : State) (e : Nat) (v : Eng) : (s.setEng e v).agRot = s.agRot := rfl
@[simp] theorem State.setEng_dieReps (s : State) (e : Nat) (v : Eng) : (s.setEng e v).dieReps = s.dieReps := rfl
@[simp] theorem State.setEng_budgetMsgs (s : State) (e : Nat) (v : Eng) : (s.setEng e v).budgetMsgs = s.budgetMsgs := rfl
@[simp] theorem State.setEng_clampMsgs (s : State) (e : Nat) (v : Eng) : (s.setEng e v).clampMsgs = s.clampMsgs := rfl
@[simp] theorem State.setEng_hthBudget (s : State) (e : Nat) (v : Eng) : (s.setEng e v).hthBudget = s.hthBudget := rfl
@[simp] theorem State.setEng_charges (s : State) (e : Nat) (v : Eng) : (s.setEng e v).charges = s.charges := rfl
@[simp] theorem State.setEng_busBad (s : State) (e : Nat) (v : Eng) : (s.setEng e v).busBad = s.busBad := rfl
@[simp] theorem State.setEng_dieCap (s : State) (e : Nat) (v : Eng) : (s.setEng e v).dieCap = s.dieCap := rfl
@[simp] theorem State.setEng_capAt (s : State) (e : Nat) (v : Eng) : (s.setEng e v).capAt = s.capAt := rfl
@[simp] theorem State.setEng_shortBy (s : State) (e : Nat) (v : Eng) : (s.setEng e v).shortBy = s.shortBy := rfl
@[simp] theorem State.setEng_shortSince (s : State) (e : Nat) (v : Eng) : (s.setEng e v).shortSince = s.shortSince := rfl
@[simp] theorem State.setEng_flowPeriods (s : State) (e : Nat) (v : Eng) : (s.setEng e v).flowPeriods = s.flowPeriods := rfl
@[simp] theorem State.setEng_flowLast (s : State) (e : Nat) (v : Eng) : (s.setEng e v).flowLast = s.flowLast := rfl
@[simp] theorem State.setEng_flowExcl (s : State) (e : Nat) (v : Eng) : (s.setEng e v).flowExcl = s.flowExcl := rfl
@[simp] theorem State.setEng_outSamples (s : State) (e : Nat) (v : Eng) : (s.setEng e v).outSamples = s.outSamples := rfl
@[simp] theorem State.setEng_advs (s : State) (e : Nat) (v : Eng) : (s.setEng e v).advs = s.advs := rfl
@[simp] theorem State.setEng_coolBadAt (s : State) (e : Nat) (v : Eng) : (s.setEng e v).coolBadAt = s.coolBadAt := rfl
@[simp] theorem State.setEng_napWait (s : State) (e : Nat) (v : Eng) : (s.setEng e v).napWait = s.napWait := rfl
@[simp] theorem State.setEng_cellar (s : State) (e : Nat) (v : Eng) : (s.setEng e v).cellar = s.cellar := rfl
@[simp] theorem State.setEng_dark (s : State) (e : Nat) (v : Eng) : (s.setEng e v).dark = s.dark := rfl
@[simp] theorem State.setEng_reports (s : State) (e : Nat) (v : Eng) : (s.setEng e v).reports = s.reports := rfl
@[simp] theorem State.setEng_mpEvents (s : State) (e : Nat) (v : Eng) : (s.setEng e v).mpEvents = s.mpEvents := rfl
@[simp] theorem State.setEng_emits (s : State) (e : Nat) (v : Eng) : (s.setEng e v).emits = s.emits := rfl
@[simp] theorem State.setEng_reqs (s : State) (e : Nat) (v : Eng) : (s.setEng e v).reqs = s.reqs := rfl
@[simp] theorem State.setEng_resps (s : State) (e : Nat) (v : Eng) : (s.setEng e v).resps = s.resps := rfl

/-! ### State.setCore -/

@[simp] theorem State.setCore_part (s : State) (k : Nat) (v : CoreSt) : (s.setCore k v).part = s.part := rfl
@[simp] theorem State.setCore_pending (s : State) (k : Nat) (v : CoreSt) : (s.setCore k v).pending = s.pending := rfl
@[simp] theorem State.setCore_regs (s : State) (k : Nat) (v : CoreSt) : (s.setCore k v).regs = s.regs := rfl
@[simp] theorem State.setCore_mem (s : State) (k : Nat) (v : CoreSt) : (s.setCore k v).mem = s.mem := rfl
@[simp] theorem State.setCore_undef (s : State) (k : Nat) (v : CoreSt) : (s.setCore k v).undef = s.undef := rfl
@[simp] theorem State.setCore_fresh (s : State) (k : Nat) (v : CoreSt) : (s.setCore k v).fresh = s.fresh := rfl
@[simp] theorem State.setCore_latched (s : State) (k : Nat) (v : CoreSt) : (s.setCore k v).latched = s.latched := rfl
@[simp] theorem State.setCore_sram (s : State) (k : Nat) (v : CoreSt) : (s.setCore k v).sram = s.sram := rfl
@[simp] theorem State.setCore_dram (s : State) (k : Nat) (v : CoreSt) : (s.setCore k v).dram = s.dram := rfl
@[simp] theorem State.setCore_elogSeq (s : State) (k : Nat) (v : CoreSt) : (s.setCore k v).elogSeq = s.elogSeq := rfl
@[simp] theorem State.setCore_injCount (s : State) (k : Nat) (v : CoreSt) : (s.setCore k v).injCount = s.injCount := rfl
@[simp] theorem State.setCore_openRows (s : State) (k : Nat) (v : CoreSt) : (s.setCore k v).openRows = s.openRows := rfl
@[simp] theorem State.setCore_patrolPos (s : State) (k : Nat) (v : CoreSt) : (s.setCore k v).patrolPos = s.patrolPos := rfl
@[simp] theorem State.setCore_patrolRef (s : State) (k : Nat) (v : CoreSt) : (s.setCore k v).patrolRef = s.patrolRef := rfl
@[simp] theorem State.setCore_checkBurst (s : State) (k : Nat) (v : CoreSt) : (s.setCore k v).checkBurst = s.checkBurst := rfl
@[simp] theorem State.setCore_scheds (s : State) (k : Nat) (v : CoreSt) : (s.setCore k v).scheds = s.scheds := rfl
@[simp] theorem State.setCore_training (s : State) (k : Nat) (v : CoreSt) : (s.setCore k v).training = s.training := rfl
@[simp] theorem State.setCore_sc (s : State) (k : Nat) (v : CoreSt) : (s.setCore k v).sc = s.sc := rfl
@[simp] theorem State.setCore_scSects (s : State) (k : Nat) (v : CoreSt) : (s.setCore k v).scSects = s.scSects := rfl
@[simp] theorem State.setCore_engs (s : State) (k : Nat) (v : CoreSt) : (s.setCore k v).engs = s.engs := rfl
@[simp] theorem State.setCore_panHead (s : State) (k : Nat) (v : CoreSt) : (s.setCore k v).panHead = s.panHead := rfl
@[simp] theorem State.setCore_ptRuns (s : State) (k : Nat) (v : CoreSt) : (s.setCore k v).ptRuns = s.ptRuns := rfl
@[simp] theorem State.setCore_tcmds (s : State) (k : Nat) (v : CoreSt) : (s.setCore k v).tcmds = s.tcmds := rfl
@[simp] theorem State.setCore_atts (s : State) (k : Nat) (v : CoreSt) : (s.setCore k v).atts = s.atts := rfl
@[simp] theorem State.setCore_cmds (s : State) (k : Nat) (v : CoreSt) : (s.setCore k v).cmds = s.cmds := rfl
@[simp] theorem State.setCore_tagGens (s : State) (k : Nat) (v : CoreSt) : (s.setCore k v).tagGens = s.tagGens := rfl
@[simp] theorem State.setCore_orderNext (s : State) (k : Nat) (v : CoreSt) : (s.setCore k v).orderNext = s.orderNext := rfl
@[simp] theorem State.setCore_ctxs (s : State) (k : Nat) (v : CoreSt) : (s.setCore k v).ctxs = s.ctxs := rfl
@[simp] theorem State.setCore_qcache (s : State) (k : Nat) (v : CoreSt) : (s.setCore k v).qcache = s.qcache := rfl
@[simp] theorem State.setCore_qready (s : State) (k : Nat) (v : CoreSt) : (s.setCore k v).qready = s.qready := rfl
@[simp] theorem State.setCore_cqs (s : State) (k : Nat) (v : CoreSt) : (s.setCore k v).cqs = s.cqs := rfl
@[simp] theorem State.setCore_cqUsed (s : State) (k : Nat) (v : CoreSt) : (s.setCore k v).cqUsed = s.cqUsed := rfl
@[simp] theorem State.setCore_cqNotes (s : State) (k : Nat) (v : CoreSt) : (s.setCore k v).cqNotes = s.cqNotes := rfl
@[simp] theorem State.setCore_pendDb (s : State) (k : Nat) (v : CoreSt) : (s.setCore k v).pendDb = s.pendDb := rfl
@[simp] theorem State.setCore_vc0 (s : State) (k : Nat) (v : CoreSt) : (s.setCore k v).vc0 = s.vc0 := rfl
@[simp] theorem State.setCore_images (s : State) (k : Nat) (v : CoreSt) : (s.setCore k v).images = s.images := rfl
@[simp] theorem State.setCore_resvs (s : State) (k : Nat) (v : CoreSt) : (s.setCore k v).resvs = s.resvs := rfl
@[simp] theorem State.setCore_events (s : State) (k : Nat) (v : CoreSt) : (s.setCore k v).events = s.events := rfl
@[simp] theorem State.setCore_eventsLost (s : State) (k : Nat) (v : CoreSt) : (s.setCore k v).eventsLost = s.eventsLost := rfl
@[simp] theorem State.setCore_eventSeq (s : State) (k : Nat) (v : CoreSt) : (s.setCore k v).eventSeq = s.eventSeq := rfl
@[simp] theorem State.setCore_semMsgs (s : State) (k : Nat) (v : CoreSt) : (s.setCore k v).semMsgs = s.semMsgs := rfl
@[simp] theorem State.setCore_waiters (s : State) (k : Nat) (v : CoreSt) : (s.setCore k v).waiters = s.waiters := rfl
@[simp] theorem State.setCore_semRsps (s : State) (k : Nat) (v : CoreSt) : (s.setCore k v).semRsps = s.semRsps := rfl
@[simp] theorem State.setCore_strKeys (s : State) (k : Nat) (v : CoreSt) : (s.setCore k v).strKeys = s.strKeys := rfl
@[simp] theorem State.setCore_hangLevel (s : State) (k : Nat) (v : CoreSt) : (s.setCore k v).hangLevel = s.hangLevel := rfl
@[simp] theorem State.setCore_dcWire (s : State) (k : Nat) (v : CoreSt) : (s.setCore k v).dcWire = s.dcWire := rfl
@[simp] theorem State.setCore_strSegs (s : State) (k : Nat) (v : CoreSt) : (s.setCore k v).strSegs = s.strSegs := rfl
@[simp] theorem State.setCore_strCreds (s : State) (k : Nat) (v : CoreSt) : (s.setCore k v).strCreds = s.strCreds := rfl
@[simp] theorem State.setCore_ledgerMute (s : State) (k : Nat) (v : CoreSt) : (s.setCore k v).ledgerMute = s.ledgerMute := rfl
@[simp] theorem State.setCore_tagReleases (s : State) (k : Nat) (v : CoreSt) : (s.setCore k v).tagReleases = s.tagReleases := rfl
@[simp] theorem State.setCore_dozeHold (s : State) (k : Nat) (v : CoreSt) : (s.setCore k v).dozeHold = s.dozeHold := rfl
@[simp] theorem State.setCore_rotAt (s : State) (k : Nat) (v : CoreSt) : (s.setCore k v).rotAt = s.rotAt := rfl
@[simp] theorem State.setCore_goldNext (s : State) (k : Nat) (v : CoreSt) : (s.setCore k v).goldNext = s.goldNext := rfl
@[simp] theorem State.setCore_pastBooked (s : State) (k : Nat) (v : CoreSt) : (s.setCore k v).pastBooked = s.pastBooked := rfl
@[simp] theorem State.setCore_policy (s : State) (k : Nat) (v : CoreSt) : (s.setCore k v).policy = s.policy := rfl
@[simp] theorem State.setCore_buckets (s : State) (k : Nat) (v : CoreSt) : (s.setCore k v).buckets = s.buckets := rfl
@[simp] theorem State.setCore_turns (s : State) (k : Nat) (v : CoreSt) : (s.setCore k v).turns = s.turns := rfl
@[simp] theorem State.setCore_routes (s : State) (k : Nat) (v : CoreSt) : (s.setCore k v).routes = s.routes := rfl
@[simp] theorem State.setCore_notifyQ (s : State) (k : Nat) (v : CoreSt) : (s.setCore k v).notifyQ = s.notifyQ := rfl
@[simp] theorem State.setCore_links (s : State) (k : Nat) (v : CoreSt) : (s.setCore k v).links = s.links := rfl
@[simp] theorem State.setCore_laneOtp (s : State) (k : Nat) (v : CoreSt) : (s.setCore k v).laneOtp = s.laneOtp := rfl
@[simp] theorem State.setCore_hostProto (s : State) (k : Nat) (v : CoreSt) : (s.setCore k v).hostProto = s.hostProto := rfl
@[simp] theorem State.setCore_spnFixed (s : State) (k : Nat) (v : CoreSt) : (s.setCore k v).spnFixed = s.spnFixed := rfl
@[simp] theorem State.setCore_discovering (s : State) (k : Nat) (v : CoreSt) : (s.setCore k v).discovering = s.discovering := rfl
@[simp] theorem State.setCore_sports (s : State) (k : Nat) (v : CoreSt) : (s.setCore k v).sports = s.sports := rfl
@[simp] theorem State.setCore_pchOrd (s : State) (k : Nat) (v : CoreSt) : (s.setCore k v).pchOrd = s.pchOrd := rfl
@[simp] theorem State.setCore_drainUrg (s : State) (k : Nat) (v : CoreSt) : (s.setCore k v).drainUrg = s.drainUrg := rfl
@[simp] theorem State.setCore_drainNorm (s : State) (k : Nat) (v : CoreSt) : (s.setCore k v).drainNorm = s.drainNorm := rfl
@[simp] theorem State.setCore_trigNext (s : State) (k : Nat) (v : CoreSt) : (s.setCore k v).trigNext = s.trigNext := rfl
@[simp] theorem State.setCore_trigFired (s : State) (k : Nat) (v : CoreSt) : (s.setCore k v).trigFired = s.trigFired := rfl
@[simp] theorem State.setCore_trigPast (s : State) (k : Nat) (v : CoreSt) : (s.setCore k v).trigPast = s.trigPast := rfl
@[simp] theorem State.setCore_trigHiz (s : State) (k : Nat) (v : CoreSt) : (s.setCore k v).trigHiz = s.trigHiz := rfl
@[simp] theorem State.setCore_trigAt (s : State) (k : Nat) (v : CoreSt) : (s.setCore k v).trigAt = s.trigAt := rfl
@[simp] theorem State.setCore_trigLen (s : State) (k : Nat) (v : CoreSt) : (s.setCore k v).trigLen = s.trigLen := rfl
@[simp] theorem State.setCore_slew (s : State) (k : Nat) (v : CoreSt) : (s.setCore k v).slew = s.slew := rfl
@[simp] theorem State.setCore_slewTicks (s : State) (k : Nat) (v : CoreSt) : (s.setCore k v).slewTicks = s.slewTicks := rfl
@[simp] theorem State.setCore_lastSync (s : State) (k : Nat) (v : CoreSt) : (s.setCore k v).lastSync = s.lastSync := rfl
@[simp] theorem State.setCore_holdSince (s : State) (k : Nat) (v : CoreSt) : (s.setCore k v).holdSince = s.holdSince := rfl
@[simp] theorem State.setCore_calOn (s : State) (k : Nat) (v : CoreSt) : (s.setCore k v).calOn = s.calOn := rfl
@[simp] theorem State.setCore_calPend (s : State) (k : Nat) (v : CoreSt) : (s.setCore k v).calPend = s.calPend := rfl
@[simp] theorem State.setCore_imuIn (s : State) (k : Nat) (v : CoreSt) : (s.setCore k v).imuIn = s.imuIn := rfl
@[simp] theorem State.setCore_wheels (s : State) (k : Nat) (v : CoreSt) : (s.setCore k v).wheels = s.wheels := rfl
@[simp] theorem State.setCore_integ (s : State) (k : Nat) (v : CoreSt) : (s.setCore k v).integ = s.integ := rfl
@[simp] theorem State.setCore_poses (s : State) (k : Nat) (v : CoreSt) : (s.setCore k v).poses = s.poses := rfl
@[simp] theorem State.setCore_lidIn (s : State) (k : Nat) (v : CoreSt) : (s.setCore k v).lidIn = s.lidIn := rfl
@[simp] theorem State.setCore_jobs (s : State) (k : Nat) (v : CoreSt) : (s.setCore k v).jobs = s.jobs := rfl
@[simp] theorem State.setCore_proj (s : State) (k : Nat) (v : CoreSt) : (s.setCore k v).proj = s.proj := rfl
@[simp] theorem State.setCore_islands (s : State) (k : Nat) (v : CoreSt) : (s.setCore k v).islands = s.islands := rfl
@[simp] theorem State.setCore_mainBad (s : State) (k : Nat) (v : CoreSt) : (s.setCore k v).mainBad = s.mainBad := rfl
@[simp] theorem State.setCore_pllBad (s : State) (k : Nat) (v : CoreSt) : (s.setCore k v).pllBad = s.pllBad := rfl
@[simp] theorem State.setCore_trigBad (s : State) (k : Nat) (v : CoreSt) : (s.setCore k v).trigBad = s.trigBad := rfl
@[simp] theorem State.setCore_railsBad (s : State) (k : Nat) (v : CoreSt) : (s.setCore k v).railsBad = s.railsBad := rfl
@[simp] theorem State.setCore_stGo (s : State) (k : Nat) (v : CoreSt) : (s.setCore k v).stGo = s.stGo := rfl
@[simp] theorem State.setCore_stDone (s : State) (k : Nat) (v : CoreSt) : (s.setCore k v).stDone = s.stDone := rfl
@[simp] theorem State.setCore_unitImgs (s : State) (k : Nat) (v : CoreSt) : (s.setCore k v).unitImgs = s.unitImgs := rfl
@[simp] theorem State.setCore_otp (s : State) (k : Nat) (v : CoreSt) : (s.setCore k v).otp = s.otp := rfl
@[simp] theorem State.setCore_otpBad (s : State) (k : Nat) (v : CoreSt) : (s.setCore k v).otpBad = s.otpBad := rfl
@[simp] theorem State.setCore_flash (s : State) (k : Nat) (v : CoreSt) : (s.setCore k v).flash = s.flash := rfl
@[simp] theorem State.setCore_flashMb (s : State) (k : Nat) (v : CoreSt) : (s.setCore k v).flashMb = s.flashMb := rfl
@[simp] theorem State.setCore_flashOp (s : State) (k : Nat) (v : CoreSt) : (s.setCore k v).flashOp = s.flashOp := rfl
@[simp] theorem State.setCore_damaged (s : State) (k : Nat) (v : CoreSt) : (s.setCore k v).damaged = s.damaged := rfl
@[simp] theorem State.setCore_mailbox (s : State) (k : Nat) (v : CoreSt) : (s.setCore k v).mailbox = s.mailbox := rfl
@[simp] theorem State.setCore_upd (s : State) (k : Nat) (v : CoreSt) : (s.setCore k v).upd = s.upd := rfl
@[simp] theorem State.setCore_updNum (s : State) (k : Nat) (v : CoreSt) : (s.setCore k v).updNum = s.updNum := rfl
@[simp] theorem State.setCore_act (s : State) (k : Nat) (v : CoreSt) : (s.setCore k v).act = s.act := rfl
@[simp] theorem State.setCore_dieRst (s : State) (k : Nat) (v : CoreSt) : (s.setCore k v).dieRst = s.dieRst := rfl
@[simp] theorem State.setCore_rewrite (s : State) (k : Nat) (v : CoreSt) : (s.setCore k v).rewrite = s.rewrite := rfl
@[simp] theorem State.setCore_beatAt (s : State) (k : Nat) (v : CoreSt) : (s.setCore k v).beatAt = s.beatAt := rfl
@[simp] theorem State.setCore_linkEvAt (s : State) (k : Nat) (v : CoreSt) : (s.setCore k v).linkEvAt = s.linkEvAt := rfl
@[simp] theorem State.setCore_hardFault (s : State) (k : Nat) (v : CoreSt) : (s.setCore k v).hardFault = s.hardFault := rfl
@[simp] theorem State.setCore_td (s : State) (k : Nat) (v : CoreSt) : (s.setCore k v).td = s.td := rfl
@[simp] theorem State.setCore_dump (s : State) (k : Nat) (v : CoreSt) : (s.setCore k v).dump = s.dump := rfl
@[simp] theorem State.setCore_wdogDump (s : State) (k : Nat) (v : CoreSt) : (s.setCore k v).wdogDump = s.wdogDump := rfl
@[simp] theorem State.setCore_mpKick (s : State) (k : Nat) (v : CoreSt) : (s.setCore k v).mpKick = s.mpKick := rfl
@[simp] theorem State.setCore_txHold (s : State) (k : Nat) (v : CoreSt) : (s.setCore k v).txHold = s.txHold := rfl
@[simp] theorem State.setCore_powerOff (s : State) (k : Nat) (v : CoreSt) : (s.setCore k v).powerOff = s.powerOff := rfl
@[simp] theorem State.setCore_porstLow (s : State) (k : Nat) (v : CoreSt) : (s.setCore k v).porstLow = s.porstLow := rfl
@[simp] theorem State.setCore_tapIr (s : State) (k : Nat) (v : CoreSt) : (s.setCore k v).tapIr = s.tapIr := rfl
@[simp] theorem State.setCore_tapHeld (s : State) (k : Nat) (v : CoreSt) : (s.setCore k v).tapHeld = s.tapHeld := rfl
@[simp] theorem State.setCore_tapBsr (s : State) (k : Nat) (v : CoreSt) : (s.setCore k v).tapBsr = s.tapBsr := rfl
@[simp] theorem State.setCore_cluIdle (s : State) (k : Nat) (v : CoreSt) : (s.setCore k v).cluIdle = s.cluIdle := rfl
@[simp] theorem State.setCore_stallUs (s : State) (k : Nat) (v : CoreSt) : (s.setCore k v).stallUs = s.stallUs := rfl
@[simp] theorem State.setCore_filler (s : State) (k : Nat) (v : CoreSt) : (s.setCore k v).filler = s.filler := rfl
@[simp] theorem State.setCore_rampFill (s : State) (k : Nat) (v : CoreSt) : (s.setCore k v).rampFill = s.rampFill := rfl
@[simp] theorem State.setCore_railMv (s : State) (k : Nat) (v : CoreSt) : (s.setCore k v).railMv = s.railMv := rfl
@[simp] theorem State.setCore_tripped (s : State) (k : Nat) (v : CoreSt) : (s.setCore k v).tripped = s.tripped := rfl
@[simp] theorem State.setCore_snsExcl (s : State) (k : Nat) (v : CoreSt) : (s.setCore k v).snsExcl = s.snsExcl := rfl
@[simp] theorem State.setCore_pairT (s : State) (k : Nat) (v : CoreSt) : (s.setCore k v).pairT = s.pairT := rfl
@[simp] theorem State.setCore_hotAt (s : State) (k : Nat) (v : CoreSt) : (s.setCore k v).hotAt = s.hotAt := rfl
@[simp] theorem State.setCore_thermDies (s : State) (k : Nat) (v : CoreSt) : (s.setCore k v).thermDies = s.thermDies := rfl
@[simp] theorem State.setCore_noBook (s : State) (k : Nat) (v : CoreSt) : (s.setCore k v).noBook = s.noBook := rfl
@[simp] theorem State.setCore_agSeq (s : State) (k : Nat) (v : CoreSt) : (s.setCore k v).agSeq = s.agSeq := rfl
@[simp] theorem State.setCore_agBudgetAt (s : State) (k : Nat) (v : CoreSt) : (s.setCore k v).agBudgetAt = s.agBudgetAt := rfl
@[simp] theorem State.setCore_holdSig (s : State) (k : Nat) (v : CoreSt) : (s.setCore k v).holdSig = s.holdSig := rfl
@[simp] theorem State.setCore_draws (s : State) (k : Nat) (v : CoreSt) : (s.setCore k v).draws = s.draws := rfl
@[simp] theorem State.setCore_overAt (s : State) (k : Nat) (v : CoreSt) : (s.setCore k v).overAt = s.overAt := rfl
@[simp] theorem State.setCore_owing (s : State) (k : Nat) (v : CoreSt) : (s.setCore k v).owing = s.owing := rfl
@[simp] theorem State.setCore_agRot (s : State) (k : Nat) (v : CoreSt) : (s.setCore k v).agRot = s.agRot := rfl
@[simp] theorem State.setCore_dieReps (s : State) (k : Nat) (v : CoreSt) : (s.setCore k v).dieReps = s.dieReps := rfl
@[simp] theorem State.setCore_budgetMsgs (s : State) (k : Nat) (v : CoreSt) : (s.setCore k v).budgetMsgs = s.budgetMsgs := rfl
@[simp] theorem State.setCore_clampMsgs (s : State) (k : Nat) (v : CoreSt) : (s.setCore k v).clampMsgs = s.clampMsgs := rfl
@[simp] theorem State.setCore_hthBudget (s : State) (k : Nat) (v : CoreSt) : (s.setCore k v).hthBudget = s.hthBudget := rfl
@[simp] theorem State.setCore_charges (s : State) (k : Nat) (v : CoreSt) : (s.setCore k v).charges = s.charges := rfl
@[simp] theorem State.setCore_busBad (s : State) (k : Nat) (v : CoreSt) : (s.setCore k v).busBad = s.busBad := rfl
@[simp] theorem State.setCore_dieCap (s : State) (k : Nat) (v : CoreSt) : (s.setCore k v).dieCap = s.dieCap := rfl
@[simp] theorem State.setCore_capAt (s : State) (k : Nat) (v : CoreSt) : (s.setCore k v).capAt = s.capAt := rfl
@[simp] theorem State.setCore_shortBy (s : State) (k : Nat) (v : CoreSt) : (s.setCore k v).shortBy = s.shortBy := rfl
@[simp] theorem State.setCore_shortSince (s : State) (k : Nat) (v : CoreSt) : (s.setCore k v).shortSince = s.shortSince := rfl
@[simp] theorem State.setCore_flowPeriods (s : State) (k : Nat) (v : CoreSt) : (s.setCore k v).flowPeriods = s.flowPeriods := rfl
@[simp] theorem State.setCore_flowLast (s : State) (k : Nat) (v : CoreSt) : (s.setCore k v).flowLast = s.flowLast := rfl
@[simp] theorem State.setCore_flowExcl (s : State) (k : Nat) (v : CoreSt) : (s.setCore k v).flowExcl = s.flowExcl := rfl
@[simp] theorem State.setCore_outSamples (s : State) (k : Nat) (v : CoreSt) : (s.setCore k v).outSamples = s.outSamples := rfl
@[simp] theorem State.setCore_advs (s : State) (k : Nat) (v : CoreSt) : (s.setCore k v).advs = s.advs := rfl
@[simp] theorem State.setCore_coolBadAt (s : State) (k : Nat) (v : CoreSt) : (s.setCore k v).coolBadAt = s.coolBadAt := rfl
@[simp] theorem State.setCore_napWait (s : State) (k : Nat) (v : CoreSt) : (s.setCore k v).napWait = s.napWait := rfl
@[simp] theorem State.setCore_cellar (s : State) (k : Nat) (v : CoreSt) : (s.setCore k v).cellar = s.cellar := rfl
@[simp] theorem State.setCore_dark (s : State) (k : Nat) (v : CoreSt) : (s.setCore k v).dark = s.dark := rfl
@[simp] theorem State.setCore_reports (s : State) (k : Nat) (v : CoreSt) : (s.setCore k v).reports = s.reports := rfl
@[simp] theorem State.setCore_mpEvents (s : State) (k : Nat) (v : CoreSt) : (s.setCore k v).mpEvents = s.mpEvents := rfl
@[simp] theorem State.setCore_emits (s : State) (k : Nat) (v : CoreSt) : (s.setCore k v).emits = s.emits := rfl
@[simp] theorem State.setCore_reqs (s : State) (k : Nat) (v : CoreSt) : (s.setCore k v).reqs = s.reqs := rfl
@[simp] theorem State.setCore_resps (s : State) (k : Nat) (v : CoreSt) : (s.setCore k v).resps = s.resps := rfl

/-! ### State.setCmd -/

@[simp] theorem State.setCmd_part (s : State) (tg : Nat) (c : Cmd) : (s.setCmd tg c).part = s.part := rfl
@[simp] theorem State.setCmd_pending (s : State) (tg : Nat) (c : Cmd) : (s.setCmd tg c).pending = s.pending := rfl
@[simp] theorem State.setCmd_regs (s : State) (tg : Nat) (c : Cmd) : (s.setCmd tg c).regs = s.regs := rfl
@[simp] theorem State.setCmd_mem (s : State) (tg : Nat) (c : Cmd) : (s.setCmd tg c).mem = s.mem := rfl
@[simp] theorem State.setCmd_undef (s : State) (tg : Nat) (c : Cmd) : (s.setCmd tg c).undef = s.undef := rfl
@[simp] theorem State.setCmd_fresh (s : State) (tg : Nat) (c : Cmd) : (s.setCmd tg c).fresh = s.fresh := rfl
@[simp] theorem State.setCmd_latched (s : State) (tg : Nat) (c : Cmd) : (s.setCmd tg c).latched = s.latched := rfl
@[simp] theorem State.setCmd_sram (s : State) (tg : Nat) (c : Cmd) : (s.setCmd tg c).sram = s.sram := rfl
@[simp] theorem State.setCmd_dram (s : State) (tg : Nat) (c : Cmd) : (s.setCmd tg c).dram = s.dram := rfl
@[simp] theorem State.setCmd_elogSeq (s : State) (tg : Nat) (c : Cmd) : (s.setCmd tg c).elogSeq = s.elogSeq := rfl
@[simp] theorem State.setCmd_injCount (s : State) (tg : Nat) (c : Cmd) : (s.setCmd tg c).injCount = s.injCount := rfl
@[simp] theorem State.setCmd_openRows (s : State) (tg : Nat) (c : Cmd) : (s.setCmd tg c).openRows = s.openRows := rfl
@[simp] theorem State.setCmd_patrolPos (s : State) (tg : Nat) (c : Cmd) : (s.setCmd tg c).patrolPos = s.patrolPos := rfl
@[simp] theorem State.setCmd_patrolRef (s : State) (tg : Nat) (c : Cmd) : (s.setCmd tg c).patrolRef = s.patrolRef := rfl
@[simp] theorem State.setCmd_checkBurst (s : State) (tg : Nat) (c : Cmd) : (s.setCmd tg c).checkBurst = s.checkBurst := rfl
@[simp] theorem State.setCmd_scheds (s : State) (tg : Nat) (c : Cmd) : (s.setCmd tg c).scheds = s.scheds := rfl
@[simp] theorem State.setCmd_training (s : State) (tg : Nat) (c : Cmd) : (s.setCmd tg c).training = s.training := rfl
@[simp] theorem State.setCmd_sc (s : State) (tg : Nat) (c : Cmd) : (s.setCmd tg c).sc = s.sc := rfl
@[simp] theorem State.setCmd_scSects (s : State) (tg : Nat) (c : Cmd) : (s.setCmd tg c).scSects = s.scSects := rfl
@[simp] theorem State.setCmd_engs (s : State) (tg : Nat) (c : Cmd) : (s.setCmd tg c).engs = s.engs := rfl
@[simp] theorem State.setCmd_cores (s : State) (tg : Nat) (c : Cmd) : (s.setCmd tg c).cores = s.cores := rfl
@[simp] theorem State.setCmd_panHead (s : State) (tg : Nat) (c : Cmd) : (s.setCmd tg c).panHead = s.panHead := rfl
@[simp] theorem State.setCmd_ptRuns (s : State) (tg : Nat) (c : Cmd) : (s.setCmd tg c).ptRuns = s.ptRuns := rfl
@[simp] theorem State.setCmd_tcmds (s : State) (tg : Nat) (c : Cmd) : (s.setCmd tg c).tcmds = s.tcmds := rfl
@[simp] theorem State.setCmd_atts (s : State) (tg : Nat) (c : Cmd) : (s.setCmd tg c).atts = s.atts := rfl
@[simp] theorem State.setCmd_tagGens (s : State) (tg : Nat) (c : Cmd) : (s.setCmd tg c).tagGens = s.tagGens := rfl
@[simp] theorem State.setCmd_orderNext (s : State) (tg : Nat) (c : Cmd) : (s.setCmd tg c).orderNext = s.orderNext := rfl
@[simp] theorem State.setCmd_ctxs (s : State) (tg : Nat) (c : Cmd) : (s.setCmd tg c).ctxs = s.ctxs := rfl
@[simp] theorem State.setCmd_qcache (s : State) (tg : Nat) (c : Cmd) : (s.setCmd tg c).qcache = s.qcache := rfl
@[simp] theorem State.setCmd_qready (s : State) (tg : Nat) (c : Cmd) : (s.setCmd tg c).qready = s.qready := rfl
@[simp] theorem State.setCmd_cqs (s : State) (tg : Nat) (c : Cmd) : (s.setCmd tg c).cqs = s.cqs := rfl
@[simp] theorem State.setCmd_cqUsed (s : State) (tg : Nat) (c : Cmd) : (s.setCmd tg c).cqUsed = s.cqUsed := rfl
@[simp] theorem State.setCmd_cqNotes (s : State) (tg : Nat) (c : Cmd) : (s.setCmd tg c).cqNotes = s.cqNotes := rfl
@[simp] theorem State.setCmd_pendDb (s : State) (tg : Nat) (c : Cmd) : (s.setCmd tg c).pendDb = s.pendDb := rfl
@[simp] theorem State.setCmd_vc0 (s : State) (tg : Nat) (c : Cmd) : (s.setCmd tg c).vc0 = s.vc0 := rfl
@[simp] theorem State.setCmd_images (s : State) (tg : Nat) (c : Cmd) : (s.setCmd tg c).images = s.images := rfl
@[simp] theorem State.setCmd_resvs (s : State) (tg : Nat) (c : Cmd) : (s.setCmd tg c).resvs = s.resvs := rfl
@[simp] theorem State.setCmd_events (s : State) (tg : Nat) (c : Cmd) : (s.setCmd tg c).events = s.events := rfl
@[simp] theorem State.setCmd_eventsLost (s : State) (tg : Nat) (c : Cmd) : (s.setCmd tg c).eventsLost = s.eventsLost := rfl
@[simp] theorem State.setCmd_eventSeq (s : State) (tg : Nat) (c : Cmd) : (s.setCmd tg c).eventSeq = s.eventSeq := rfl
@[simp] theorem State.setCmd_semMsgs (s : State) (tg : Nat) (c : Cmd) : (s.setCmd tg c).semMsgs = s.semMsgs := rfl
@[simp] theorem State.setCmd_waiters (s : State) (tg : Nat) (c : Cmd) : (s.setCmd tg c).waiters = s.waiters := rfl
@[simp] theorem State.setCmd_semRsps (s : State) (tg : Nat) (c : Cmd) : (s.setCmd tg c).semRsps = s.semRsps := rfl
@[simp] theorem State.setCmd_strKeys (s : State) (tg : Nat) (c : Cmd) : (s.setCmd tg c).strKeys = s.strKeys := rfl
@[simp] theorem State.setCmd_hangLevel (s : State) (tg : Nat) (c : Cmd) : (s.setCmd tg c).hangLevel = s.hangLevel := rfl
@[simp] theorem State.setCmd_dcWire (s : State) (tg : Nat) (c : Cmd) : (s.setCmd tg c).dcWire = s.dcWire := rfl
@[simp] theorem State.setCmd_strSegs (s : State) (tg : Nat) (c : Cmd) : (s.setCmd tg c).strSegs = s.strSegs := rfl
@[simp] theorem State.setCmd_strCreds (s : State) (tg : Nat) (c : Cmd) : (s.setCmd tg c).strCreds = s.strCreds := rfl
@[simp] theorem State.setCmd_ledgerMute (s : State) (tg : Nat) (c : Cmd) : (s.setCmd tg c).ledgerMute = s.ledgerMute := rfl
@[simp] theorem State.setCmd_tagReleases (s : State) (tg : Nat) (c : Cmd) : (s.setCmd tg c).tagReleases = s.tagReleases := rfl
@[simp] theorem State.setCmd_dozeHold (s : State) (tg : Nat) (c : Cmd) : (s.setCmd tg c).dozeHold = s.dozeHold := rfl
@[simp] theorem State.setCmd_rotAt (s : State) (tg : Nat) (c : Cmd) : (s.setCmd tg c).rotAt = s.rotAt := rfl
@[simp] theorem State.setCmd_goldNext (s : State) (tg : Nat) (c : Cmd) : (s.setCmd tg c).goldNext = s.goldNext := rfl
@[simp] theorem State.setCmd_pastBooked (s : State) (tg : Nat) (c : Cmd) : (s.setCmd tg c).pastBooked = s.pastBooked := rfl
@[simp] theorem State.setCmd_policy (s : State) (tg : Nat) (c : Cmd) : (s.setCmd tg c).policy = s.policy := rfl
@[simp] theorem State.setCmd_buckets (s : State) (tg : Nat) (c : Cmd) : (s.setCmd tg c).buckets = s.buckets := rfl
@[simp] theorem State.setCmd_turns (s : State) (tg : Nat) (c : Cmd) : (s.setCmd tg c).turns = s.turns := rfl
@[simp] theorem State.setCmd_routes (s : State) (tg : Nat) (c : Cmd) : (s.setCmd tg c).routes = s.routes := rfl
@[simp] theorem State.setCmd_notifyQ (s : State) (tg : Nat) (c : Cmd) : (s.setCmd tg c).notifyQ = s.notifyQ := rfl
@[simp] theorem State.setCmd_links (s : State) (tg : Nat) (c : Cmd) : (s.setCmd tg c).links = s.links := rfl
@[simp] theorem State.setCmd_laneOtp (s : State) (tg : Nat) (c : Cmd) : (s.setCmd tg c).laneOtp = s.laneOtp := rfl
@[simp] theorem State.setCmd_hostProto (s : State) (tg : Nat) (c : Cmd) : (s.setCmd tg c).hostProto = s.hostProto := rfl
@[simp] theorem State.setCmd_spnFixed (s : State) (tg : Nat) (c : Cmd) : (s.setCmd tg c).spnFixed = s.spnFixed := rfl
@[simp] theorem State.setCmd_discovering (s : State) (tg : Nat) (c : Cmd) : (s.setCmd tg c).discovering = s.discovering := rfl
@[simp] theorem State.setCmd_sports (s : State) (tg : Nat) (c : Cmd) : (s.setCmd tg c).sports = s.sports := rfl
@[simp] theorem State.setCmd_pchOrd (s : State) (tg : Nat) (c : Cmd) : (s.setCmd tg c).pchOrd = s.pchOrd := rfl
@[simp] theorem State.setCmd_drainUrg (s : State) (tg : Nat) (c : Cmd) : (s.setCmd tg c).drainUrg = s.drainUrg := rfl
@[simp] theorem State.setCmd_drainNorm (s : State) (tg : Nat) (c : Cmd) : (s.setCmd tg c).drainNorm = s.drainNorm := rfl
@[simp] theorem State.setCmd_trigNext (s : State) (tg : Nat) (c : Cmd) : (s.setCmd tg c).trigNext = s.trigNext := rfl
@[simp] theorem State.setCmd_trigFired (s : State) (tg : Nat) (c : Cmd) : (s.setCmd tg c).trigFired = s.trigFired := rfl
@[simp] theorem State.setCmd_trigPast (s : State) (tg : Nat) (c : Cmd) : (s.setCmd tg c).trigPast = s.trigPast := rfl
@[simp] theorem State.setCmd_trigHiz (s : State) (tg : Nat) (c : Cmd) : (s.setCmd tg c).trigHiz = s.trigHiz := rfl
@[simp] theorem State.setCmd_trigAt (s : State) (tg : Nat) (c : Cmd) : (s.setCmd tg c).trigAt = s.trigAt := rfl
@[simp] theorem State.setCmd_trigLen (s : State) (tg : Nat) (c : Cmd) : (s.setCmd tg c).trigLen = s.trigLen := rfl
@[simp] theorem State.setCmd_slew (s : State) (tg : Nat) (c : Cmd) : (s.setCmd tg c).slew = s.slew := rfl
@[simp] theorem State.setCmd_slewTicks (s : State) (tg : Nat) (c : Cmd) : (s.setCmd tg c).slewTicks = s.slewTicks := rfl
@[simp] theorem State.setCmd_lastSync (s : State) (tg : Nat) (c : Cmd) : (s.setCmd tg c).lastSync = s.lastSync := rfl
@[simp] theorem State.setCmd_holdSince (s : State) (tg : Nat) (c : Cmd) : (s.setCmd tg c).holdSince = s.holdSince := rfl
@[simp] theorem State.setCmd_calOn (s : State) (tg : Nat) (c : Cmd) : (s.setCmd tg c).calOn = s.calOn := rfl
@[simp] theorem State.setCmd_calPend (s : State) (tg : Nat) (c : Cmd) : (s.setCmd tg c).calPend = s.calPend := rfl
@[simp] theorem State.setCmd_imuIn (s : State) (tg : Nat) (c : Cmd) : (s.setCmd tg c).imuIn = s.imuIn := rfl
@[simp] theorem State.setCmd_wheels (s : State) (tg : Nat) (c : Cmd) : (s.setCmd tg c).wheels = s.wheels := rfl
@[simp] theorem State.setCmd_integ (s : State) (tg : Nat) (c : Cmd) : (s.setCmd tg c).integ = s.integ := rfl
@[simp] theorem State.setCmd_poses (s : State) (tg : Nat) (c : Cmd) : (s.setCmd tg c).poses = s.poses := rfl
@[simp] theorem State.setCmd_lidIn (s : State) (tg : Nat) (c : Cmd) : (s.setCmd tg c).lidIn = s.lidIn := rfl
@[simp] theorem State.setCmd_jobs (s : State) (tg : Nat) (c : Cmd) : (s.setCmd tg c).jobs = s.jobs := rfl
@[simp] theorem State.setCmd_proj (s : State) (tg : Nat) (c : Cmd) : (s.setCmd tg c).proj = s.proj := rfl
@[simp] theorem State.setCmd_islands (s : State) (tg : Nat) (c : Cmd) : (s.setCmd tg c).islands = s.islands := rfl
@[simp] theorem State.setCmd_mainBad (s : State) (tg : Nat) (c : Cmd) : (s.setCmd tg c).mainBad = s.mainBad := rfl
@[simp] theorem State.setCmd_pllBad (s : State) (tg : Nat) (c : Cmd) : (s.setCmd tg c).pllBad = s.pllBad := rfl
@[simp] theorem State.setCmd_trigBad (s : State) (tg : Nat) (c : Cmd) : (s.setCmd tg c).trigBad = s.trigBad := rfl
@[simp] theorem State.setCmd_railsBad (s : State) (tg : Nat) (c : Cmd) : (s.setCmd tg c).railsBad = s.railsBad := rfl
@[simp] theorem State.setCmd_stGo (s : State) (tg : Nat) (c : Cmd) : (s.setCmd tg c).stGo = s.stGo := rfl
@[simp] theorem State.setCmd_stDone (s : State) (tg : Nat) (c : Cmd) : (s.setCmd tg c).stDone = s.stDone := rfl
@[simp] theorem State.setCmd_unitImgs (s : State) (tg : Nat) (c : Cmd) : (s.setCmd tg c).unitImgs = s.unitImgs := rfl
@[simp] theorem State.setCmd_otp (s : State) (tg : Nat) (c : Cmd) : (s.setCmd tg c).otp = s.otp := rfl
@[simp] theorem State.setCmd_otpBad (s : State) (tg : Nat) (c : Cmd) : (s.setCmd tg c).otpBad = s.otpBad := rfl
@[simp] theorem State.setCmd_flash (s : State) (tg : Nat) (c : Cmd) : (s.setCmd tg c).flash = s.flash := rfl
@[simp] theorem State.setCmd_flashMb (s : State) (tg : Nat) (c : Cmd) : (s.setCmd tg c).flashMb = s.flashMb := rfl
@[simp] theorem State.setCmd_flashOp (s : State) (tg : Nat) (c : Cmd) : (s.setCmd tg c).flashOp = s.flashOp := rfl
@[simp] theorem State.setCmd_damaged (s : State) (tg : Nat) (c : Cmd) : (s.setCmd tg c).damaged = s.damaged := rfl
@[simp] theorem State.setCmd_mailbox (s : State) (tg : Nat) (c : Cmd) : (s.setCmd tg c).mailbox = s.mailbox := rfl
@[simp] theorem State.setCmd_upd (s : State) (tg : Nat) (c : Cmd) : (s.setCmd tg c).upd = s.upd := rfl
@[simp] theorem State.setCmd_updNum (s : State) (tg : Nat) (c : Cmd) : (s.setCmd tg c).updNum = s.updNum := rfl
@[simp] theorem State.setCmd_act (s : State) (tg : Nat) (c : Cmd) : (s.setCmd tg c).act = s.act := rfl
@[simp] theorem State.setCmd_dieRst (s : State) (tg : Nat) (c : Cmd) : (s.setCmd tg c).dieRst = s.dieRst := rfl
@[simp] theorem State.setCmd_rewrite (s : State) (tg : Nat) (c : Cmd) : (s.setCmd tg c).rewrite = s.rewrite := rfl
@[simp] theorem State.setCmd_beatAt (s : State) (tg : Nat) (c : Cmd) : (s.setCmd tg c).beatAt = s.beatAt := rfl
@[simp] theorem State.setCmd_linkEvAt (s : State) (tg : Nat) (c : Cmd) : (s.setCmd tg c).linkEvAt = s.linkEvAt := rfl
@[simp] theorem State.setCmd_hardFault (s : State) (tg : Nat) (c : Cmd) : (s.setCmd tg c).hardFault = s.hardFault := rfl
@[simp] theorem State.setCmd_td (s : State) (tg : Nat) (c : Cmd) : (s.setCmd tg c).td = s.td := rfl
@[simp] theorem State.setCmd_dump (s : State) (tg : Nat) (c : Cmd) : (s.setCmd tg c).dump = s.dump := rfl
@[simp] theorem State.setCmd_wdogDump (s : State) (tg : Nat) (c : Cmd) : (s.setCmd tg c).wdogDump = s.wdogDump := rfl
@[simp] theorem State.setCmd_mpKick (s : State) (tg : Nat) (c : Cmd) : (s.setCmd tg c).mpKick = s.mpKick := rfl
@[simp] theorem State.setCmd_txHold (s : State) (tg : Nat) (c : Cmd) : (s.setCmd tg c).txHold = s.txHold := rfl
@[simp] theorem State.setCmd_powerOff (s : State) (tg : Nat) (c : Cmd) : (s.setCmd tg c).powerOff = s.powerOff := rfl
@[simp] theorem State.setCmd_porstLow (s : State) (tg : Nat) (c : Cmd) : (s.setCmd tg c).porstLow = s.porstLow := rfl
@[simp] theorem State.setCmd_tapIr (s : State) (tg : Nat) (c : Cmd) : (s.setCmd tg c).tapIr = s.tapIr := rfl
@[simp] theorem State.setCmd_tapHeld (s : State) (tg : Nat) (c : Cmd) : (s.setCmd tg c).tapHeld = s.tapHeld := rfl
@[simp] theorem State.setCmd_tapBsr (s : State) (tg : Nat) (c : Cmd) : (s.setCmd tg c).tapBsr = s.tapBsr := rfl
@[simp] theorem State.setCmd_cluIdle (s : State) (tg : Nat) (c : Cmd) : (s.setCmd tg c).cluIdle = s.cluIdle := rfl
@[simp] theorem State.setCmd_stallUs (s : State) (tg : Nat) (c : Cmd) : (s.setCmd tg c).stallUs = s.stallUs := rfl
@[simp] theorem State.setCmd_filler (s : State) (tg : Nat) (c : Cmd) : (s.setCmd tg c).filler = s.filler := rfl
@[simp] theorem State.setCmd_rampFill (s : State) (tg : Nat) (c : Cmd) : (s.setCmd tg c).rampFill = s.rampFill := rfl
@[simp] theorem State.setCmd_railMv (s : State) (tg : Nat) (c : Cmd) : (s.setCmd tg c).railMv = s.railMv := rfl
@[simp] theorem State.setCmd_tripped (s : State) (tg : Nat) (c : Cmd) : (s.setCmd tg c).tripped = s.tripped := rfl
@[simp] theorem State.setCmd_snsExcl (s : State) (tg : Nat) (c : Cmd) : (s.setCmd tg c).snsExcl = s.snsExcl := rfl
@[simp] theorem State.setCmd_pairT (s : State) (tg : Nat) (c : Cmd) : (s.setCmd tg c).pairT = s.pairT := rfl
@[simp] theorem State.setCmd_hotAt (s : State) (tg : Nat) (c : Cmd) : (s.setCmd tg c).hotAt = s.hotAt := rfl
@[simp] theorem State.setCmd_thermDies (s : State) (tg : Nat) (c : Cmd) : (s.setCmd tg c).thermDies = s.thermDies := rfl
@[simp] theorem State.setCmd_noBook (s : State) (tg : Nat) (c : Cmd) : (s.setCmd tg c).noBook = s.noBook := rfl
@[simp] theorem State.setCmd_agSeq (s : State) (tg : Nat) (c : Cmd) : (s.setCmd tg c).agSeq = s.agSeq := rfl
@[simp] theorem State.setCmd_agBudgetAt (s : State) (tg : Nat) (c : Cmd) : (s.setCmd tg c).agBudgetAt = s.agBudgetAt := rfl
@[simp] theorem State.setCmd_holdSig (s : State) (tg : Nat) (c : Cmd) : (s.setCmd tg c).holdSig = s.holdSig := rfl
@[simp] theorem State.setCmd_draws (s : State) (tg : Nat) (c : Cmd) : (s.setCmd tg c).draws = s.draws := rfl
@[simp] theorem State.setCmd_overAt (s : State) (tg : Nat) (c : Cmd) : (s.setCmd tg c).overAt = s.overAt := rfl
@[simp] theorem State.setCmd_owing (s : State) (tg : Nat) (c : Cmd) : (s.setCmd tg c).owing = s.owing := rfl
@[simp] theorem State.setCmd_agRot (s : State) (tg : Nat) (c : Cmd) : (s.setCmd tg c).agRot = s.agRot := rfl
@[simp] theorem State.setCmd_dieReps (s : State) (tg : Nat) (c : Cmd) : (s.setCmd tg c).dieReps = s.dieReps := rfl
@[simp] theorem State.setCmd_budgetMsgs (s : State) (tg : Nat) (c : Cmd) : (s.setCmd tg c).budgetMsgs = s.budgetMsgs := rfl
@[simp] theorem State.setCmd_clampMsgs (s : State) (tg : Nat) (c : Cmd) : (s.setCmd tg c).clampMsgs = s.clampMsgs := rfl
@[simp] theorem State.setCmd_hthBudget (s : State) (tg : Nat) (c : Cmd) : (s.setCmd tg c).hthBudget = s.hthBudget := rfl
@[simp] theorem State.setCmd_charges (s : State) (tg : Nat) (c : Cmd) : (s.setCmd tg c).charges = s.charges := rfl
@[simp] theorem State.setCmd_busBad (s : State) (tg : Nat) (c : Cmd) : (s.setCmd tg c).busBad = s.busBad := rfl
@[simp] theorem State.setCmd_dieCap (s : State) (tg : Nat) (c : Cmd) : (s.setCmd tg c).dieCap = s.dieCap := rfl
@[simp] theorem State.setCmd_capAt (s : State) (tg : Nat) (c : Cmd) : (s.setCmd tg c).capAt = s.capAt := rfl
@[simp] theorem State.setCmd_shortBy (s : State) (tg : Nat) (c : Cmd) : (s.setCmd tg c).shortBy = s.shortBy := rfl
@[simp] theorem State.setCmd_shortSince (s : State) (tg : Nat) (c : Cmd) : (s.setCmd tg c).shortSince = s.shortSince := rfl
@[simp] theorem State.setCmd_flowPeriods (s : State) (tg : Nat) (c : Cmd) : (s.setCmd tg c).flowPeriods = s.flowPeriods := rfl
@[simp] theorem State.setCmd_flowLast (s : State) (tg : Nat) (c : Cmd) : (s.setCmd tg c).flowLast = s.flowLast := rfl
@[simp] theorem State.setCmd_flowExcl (s : State) (tg : Nat) (c : Cmd) : (s.setCmd tg c).flowExcl = s.flowExcl := rfl
@[simp] theorem State.setCmd_outSamples (s : State) (tg : Nat) (c : Cmd) : (s.setCmd tg c).outSamples = s.outSamples := rfl
@[simp] theorem State.setCmd_advs (s : State) (tg : Nat) (c : Cmd) : (s.setCmd tg c).advs = s.advs := rfl
@[simp] theorem State.setCmd_coolBadAt (s : State) (tg : Nat) (c : Cmd) : (s.setCmd tg c).coolBadAt = s.coolBadAt := rfl
@[simp] theorem State.setCmd_napWait (s : State) (tg : Nat) (c : Cmd) : (s.setCmd tg c).napWait = s.napWait := rfl
@[simp] theorem State.setCmd_cellar (s : State) (tg : Nat) (c : Cmd) : (s.setCmd tg c).cellar = s.cellar := rfl
@[simp] theorem State.setCmd_dark (s : State) (tg : Nat) (c : Cmd) : (s.setCmd tg c).dark = s.dark := rfl
@[simp] theorem State.setCmd_reports (s : State) (tg : Nat) (c : Cmd) : (s.setCmd tg c).reports = s.reports := rfl
@[simp] theorem State.setCmd_mpEvents (s : State) (tg : Nat) (c : Cmd) : (s.setCmd tg c).mpEvents = s.mpEvents := rfl
@[simp] theorem State.setCmd_emits (s : State) (tg : Nat) (c : Cmd) : (s.setCmd tg c).emits = s.emits := rfl
@[simp] theorem State.setCmd_reqs (s : State) (tg : Nat) (c : Cmd) : (s.setCmd tg c).reqs = s.reqs := rfl
@[simp] theorem State.setCmd_resps (s : State) (tg : Nat) (c : Cmd) : (s.setCmd tg c).resps = s.resps := rfl

/-! ### State.setCtx -/

@[simp] theorem State.setCtx_part (s : State) (x : Nat) (v : Ctx) : (s.setCtx x v).part = s.part := rfl
@[simp] theorem State.setCtx_pending (s : State) (x : Nat) (v : Ctx) : (s.setCtx x v).pending = s.pending := rfl
@[simp] theorem State.setCtx_regs (s : State) (x : Nat) (v : Ctx) : (s.setCtx x v).regs = s.regs := rfl
@[simp] theorem State.setCtx_mem (s : State) (x : Nat) (v : Ctx) : (s.setCtx x v).mem = s.mem := rfl
@[simp] theorem State.setCtx_undef (s : State) (x : Nat) (v : Ctx) : (s.setCtx x v).undef = s.undef := rfl
@[simp] theorem State.setCtx_fresh (s : State) (x : Nat) (v : Ctx) : (s.setCtx x v).fresh = s.fresh := rfl
@[simp] theorem State.setCtx_latched (s : State) (x : Nat) (v : Ctx) : (s.setCtx x v).latched = s.latched := rfl
@[simp] theorem State.setCtx_sram (s : State) (x : Nat) (v : Ctx) : (s.setCtx x v).sram = s.sram := rfl
@[simp] theorem State.setCtx_dram (s : State) (x : Nat) (v : Ctx) : (s.setCtx x v).dram = s.dram := rfl
@[simp] theorem State.setCtx_elogSeq (s : State) (x : Nat) (v : Ctx) : (s.setCtx x v).elogSeq = s.elogSeq := rfl
@[simp] theorem State.setCtx_injCount (s : State) (x : Nat) (v : Ctx) : (s.setCtx x v).injCount = s.injCount := rfl
@[simp] theorem State.setCtx_openRows (s : State) (x : Nat) (v : Ctx) : (s.setCtx x v).openRows = s.openRows := rfl
@[simp] theorem State.setCtx_patrolPos (s : State) (x : Nat) (v : Ctx) : (s.setCtx x v).patrolPos = s.patrolPos := rfl
@[simp] theorem State.setCtx_patrolRef (s : State) (x : Nat) (v : Ctx) : (s.setCtx x v).patrolRef = s.patrolRef := rfl
@[simp] theorem State.setCtx_checkBurst (s : State) (x : Nat) (v : Ctx) : (s.setCtx x v).checkBurst = s.checkBurst := rfl
@[simp] theorem State.setCtx_scheds (s : State) (x : Nat) (v : Ctx) : (s.setCtx x v).scheds = s.scheds := rfl
@[simp] theorem State.setCtx_training (s : State) (x : Nat) (v : Ctx) : (s.setCtx x v).training = s.training := rfl
@[simp] theorem State.setCtx_sc (s : State) (x : Nat) (v : Ctx) : (s.setCtx x v).sc = s.sc := rfl
@[simp] theorem State.setCtx_scSects (s : State) (x : Nat) (v : Ctx) : (s.setCtx x v).scSects = s.scSects := rfl
@[simp] theorem State.setCtx_engs (s : State) (x : Nat) (v : Ctx) : (s.setCtx x v).engs = s.engs := rfl
@[simp] theorem State.setCtx_cores (s : State) (x : Nat) (v : Ctx) : (s.setCtx x v).cores = s.cores := rfl
@[simp] theorem State.setCtx_panHead (s : State) (x : Nat) (v : Ctx) : (s.setCtx x v).panHead = s.panHead := rfl
@[simp] theorem State.setCtx_ptRuns (s : State) (x : Nat) (v : Ctx) : (s.setCtx x v).ptRuns = s.ptRuns := rfl
@[simp] theorem State.setCtx_tcmds (s : State) (x : Nat) (v : Ctx) : (s.setCtx x v).tcmds = s.tcmds := rfl
@[simp] theorem State.setCtx_atts (s : State) (x : Nat) (v : Ctx) : (s.setCtx x v).atts = s.atts := rfl
@[simp] theorem State.setCtx_cmds (s : State) (x : Nat) (v : Ctx) : (s.setCtx x v).cmds = s.cmds := rfl
@[simp] theorem State.setCtx_tagGens (s : State) (x : Nat) (v : Ctx) : (s.setCtx x v).tagGens = s.tagGens := rfl
@[simp] theorem State.setCtx_orderNext (s : State) (x : Nat) (v : Ctx) : (s.setCtx x v).orderNext = s.orderNext := rfl
@[simp] theorem State.setCtx_qcache (s : State) (x : Nat) (v : Ctx) : (s.setCtx x v).qcache = s.qcache := rfl
@[simp] theorem State.setCtx_qready (s : State) (x : Nat) (v : Ctx) : (s.setCtx x v).qready = s.qready := rfl
@[simp] theorem State.setCtx_cqs (s : State) (x : Nat) (v : Ctx) : (s.setCtx x v).cqs = s.cqs := rfl
@[simp] theorem State.setCtx_cqUsed (s : State) (x : Nat) (v : Ctx) : (s.setCtx x v).cqUsed = s.cqUsed := rfl
@[simp] theorem State.setCtx_cqNotes (s : State) (x : Nat) (v : Ctx) : (s.setCtx x v).cqNotes = s.cqNotes := rfl
@[simp] theorem State.setCtx_pendDb (s : State) (x : Nat) (v : Ctx) : (s.setCtx x v).pendDb = s.pendDb := rfl
@[simp] theorem State.setCtx_vc0 (s : State) (x : Nat) (v : Ctx) : (s.setCtx x v).vc0 = s.vc0 := rfl
@[simp] theorem State.setCtx_images (s : State) (x : Nat) (v : Ctx) : (s.setCtx x v).images = s.images := rfl
@[simp] theorem State.setCtx_resvs (s : State) (x : Nat) (v : Ctx) : (s.setCtx x v).resvs = s.resvs := rfl
@[simp] theorem State.setCtx_events (s : State) (x : Nat) (v : Ctx) : (s.setCtx x v).events = s.events := rfl
@[simp] theorem State.setCtx_eventsLost (s : State) (x : Nat) (v : Ctx) : (s.setCtx x v).eventsLost = s.eventsLost := rfl
@[simp] theorem State.setCtx_eventSeq (s : State) (x : Nat) (v : Ctx) : (s.setCtx x v).eventSeq = s.eventSeq := rfl
@[simp] theorem State.setCtx_semMsgs (s : State) (x : Nat) (v : Ctx) : (s.setCtx x v).semMsgs = s.semMsgs := rfl
@[simp] theorem State.setCtx_waiters (s : State) (x : Nat) (v : Ctx) : (s.setCtx x v).waiters = s.waiters := rfl
@[simp] theorem State.setCtx_semRsps (s : State) (x : Nat) (v : Ctx) : (s.setCtx x v).semRsps = s.semRsps := rfl
@[simp] theorem State.setCtx_strKeys (s : State) (x : Nat) (v : Ctx) : (s.setCtx x v).strKeys = s.strKeys := rfl
@[simp] theorem State.setCtx_hangLevel (s : State) (x : Nat) (v : Ctx) : (s.setCtx x v).hangLevel = s.hangLevel := rfl
@[simp] theorem State.setCtx_dcWire (s : State) (x : Nat) (v : Ctx) : (s.setCtx x v).dcWire = s.dcWire := rfl
@[simp] theorem State.setCtx_strSegs (s : State) (x : Nat) (v : Ctx) : (s.setCtx x v).strSegs = s.strSegs := rfl
@[simp] theorem State.setCtx_strCreds (s : State) (x : Nat) (v : Ctx) : (s.setCtx x v).strCreds = s.strCreds := rfl
@[simp] theorem State.setCtx_ledgerMute (s : State) (x : Nat) (v : Ctx) : (s.setCtx x v).ledgerMute = s.ledgerMute := rfl
@[simp] theorem State.setCtx_tagReleases (s : State) (x : Nat) (v : Ctx) : (s.setCtx x v).tagReleases = s.tagReleases := rfl
@[simp] theorem State.setCtx_dozeHold (s : State) (x : Nat) (v : Ctx) : (s.setCtx x v).dozeHold = s.dozeHold := rfl
@[simp] theorem State.setCtx_rotAt (s : State) (x : Nat) (v : Ctx) : (s.setCtx x v).rotAt = s.rotAt := rfl
@[simp] theorem State.setCtx_goldNext (s : State) (x : Nat) (v : Ctx) : (s.setCtx x v).goldNext = s.goldNext := rfl
@[simp] theorem State.setCtx_pastBooked (s : State) (x : Nat) (v : Ctx) : (s.setCtx x v).pastBooked = s.pastBooked := rfl
@[simp] theorem State.setCtx_policy (s : State) (x : Nat) (v : Ctx) : (s.setCtx x v).policy = s.policy := rfl
@[simp] theorem State.setCtx_buckets (s : State) (x : Nat) (v : Ctx) : (s.setCtx x v).buckets = s.buckets := rfl
@[simp] theorem State.setCtx_turns (s : State) (x : Nat) (v : Ctx) : (s.setCtx x v).turns = s.turns := rfl
@[simp] theorem State.setCtx_routes (s : State) (x : Nat) (v : Ctx) : (s.setCtx x v).routes = s.routes := rfl
@[simp] theorem State.setCtx_notifyQ (s : State) (x : Nat) (v : Ctx) : (s.setCtx x v).notifyQ = s.notifyQ := rfl
@[simp] theorem State.setCtx_links (s : State) (x : Nat) (v : Ctx) : (s.setCtx x v).links = s.links := rfl
@[simp] theorem State.setCtx_laneOtp (s : State) (x : Nat) (v : Ctx) : (s.setCtx x v).laneOtp = s.laneOtp := rfl
@[simp] theorem State.setCtx_hostProto (s : State) (x : Nat) (v : Ctx) : (s.setCtx x v).hostProto = s.hostProto := rfl
@[simp] theorem State.setCtx_spnFixed (s : State) (x : Nat) (v : Ctx) : (s.setCtx x v).spnFixed = s.spnFixed := rfl
@[simp] theorem State.setCtx_discovering (s : State) (x : Nat) (v : Ctx) : (s.setCtx x v).discovering = s.discovering := rfl
@[simp] theorem State.setCtx_sports (s : State) (x : Nat) (v : Ctx) : (s.setCtx x v).sports = s.sports := rfl
@[simp] theorem State.setCtx_pchOrd (s : State) (x : Nat) (v : Ctx) : (s.setCtx x v).pchOrd = s.pchOrd := rfl
@[simp] theorem State.setCtx_drainUrg (s : State) (x : Nat) (v : Ctx) : (s.setCtx x v).drainUrg = s.drainUrg := rfl
@[simp] theorem State.setCtx_drainNorm (s : State) (x : Nat) (v : Ctx) : (s.setCtx x v).drainNorm = s.drainNorm := rfl
@[simp] theorem State.setCtx_trigNext (s : State) (x : Nat) (v : Ctx) : (s.setCtx x v).trigNext = s.trigNext := rfl
@[simp] theorem State.setCtx_trigFired (s : State) (x : Nat) (v : Ctx) : (s.setCtx x v).trigFired = s.trigFired := rfl
@[simp] theorem State.setCtx_trigPast (s : State) (x : Nat) (v : Ctx) : (s.setCtx x v).trigPast = s.trigPast := rfl
@[simp] theorem State.setCtx_trigHiz (s : State) (x : Nat) (v : Ctx) : (s.setCtx x v).trigHiz = s.trigHiz := rfl
@[simp] theorem State.setCtx_trigAt (s : State) (x : Nat) (v : Ctx) : (s.setCtx x v).trigAt = s.trigAt := rfl
@[simp] theorem State.setCtx_trigLen (s : State) (x : Nat) (v : Ctx) : (s.setCtx x v).trigLen = s.trigLen := rfl
@[simp] theorem State.setCtx_slew (s : State) (x : Nat) (v : Ctx) : (s.setCtx x v).slew = s.slew := rfl
@[simp] theorem State.setCtx_slewTicks (s : State) (x : Nat) (v : Ctx) : (s.setCtx x v).slewTicks = s.slewTicks := rfl
@[simp] theorem State.setCtx_lastSync (s : State) (x : Nat) (v : Ctx) : (s.setCtx x v).lastSync = s.lastSync := rfl
@[simp] theorem State.setCtx_holdSince (s : State) (x : Nat) (v : Ctx) : (s.setCtx x v).holdSince = s.holdSince := rfl
@[simp] theorem State.setCtx_calOn (s : State) (x : Nat) (v : Ctx) : (s.setCtx x v).calOn = s.calOn := rfl
@[simp] theorem State.setCtx_calPend (s : State) (x : Nat) (v : Ctx) : (s.setCtx x v).calPend = s.calPend := rfl
@[simp] theorem State.setCtx_imuIn (s : State) (x : Nat) (v : Ctx) : (s.setCtx x v).imuIn = s.imuIn := rfl
@[simp] theorem State.setCtx_wheels (s : State) (x : Nat) (v : Ctx) : (s.setCtx x v).wheels = s.wheels := rfl
@[simp] theorem State.setCtx_integ (s : State) (x : Nat) (v : Ctx) : (s.setCtx x v).integ = s.integ := rfl
@[simp] theorem State.setCtx_poses (s : State) (x : Nat) (v : Ctx) : (s.setCtx x v).poses = s.poses := rfl
@[simp] theorem State.setCtx_lidIn (s : State) (x : Nat) (v : Ctx) : (s.setCtx x v).lidIn = s.lidIn := rfl
@[simp] theorem State.setCtx_jobs (s : State) (x : Nat) (v : Ctx) : (s.setCtx x v).jobs = s.jobs := rfl
@[simp] theorem State.setCtx_proj (s : State) (x : Nat) (v : Ctx) : (s.setCtx x v).proj = s.proj := rfl
@[simp] theorem State.setCtx_islands (s : State) (x : Nat) (v : Ctx) : (s.setCtx x v).islands = s.islands := rfl
@[simp] theorem State.setCtx_mainBad (s : State) (x : Nat) (v : Ctx) : (s.setCtx x v).mainBad = s.mainBad := rfl
@[simp] theorem State.setCtx_pllBad (s : State) (x : Nat) (v : Ctx) : (s.setCtx x v).pllBad = s.pllBad := rfl
@[simp] theorem State.setCtx_trigBad (s : State) (x : Nat) (v : Ctx) : (s.setCtx x v).trigBad = s.trigBad := rfl
@[simp] theorem State.setCtx_railsBad (s : State) (x : Nat) (v : Ctx) : (s.setCtx x v).railsBad = s.railsBad := rfl
@[simp] theorem State.setCtx_stGo (s : State) (x : Nat) (v : Ctx) : (s.setCtx x v).stGo = s.stGo := rfl
@[simp] theorem State.setCtx_stDone (s : State) (x : Nat) (v : Ctx) : (s.setCtx x v).stDone = s.stDone := rfl
@[simp] theorem State.setCtx_unitImgs (s : State) (x : Nat) (v : Ctx) : (s.setCtx x v).unitImgs = s.unitImgs := rfl
@[simp] theorem State.setCtx_otp (s : State) (x : Nat) (v : Ctx) : (s.setCtx x v).otp = s.otp := rfl
@[simp] theorem State.setCtx_otpBad (s : State) (x : Nat) (v : Ctx) : (s.setCtx x v).otpBad = s.otpBad := rfl
@[simp] theorem State.setCtx_flash (s : State) (x : Nat) (v : Ctx) : (s.setCtx x v).flash = s.flash := rfl
@[simp] theorem State.setCtx_flashMb (s : State) (x : Nat) (v : Ctx) : (s.setCtx x v).flashMb = s.flashMb := rfl
@[simp] theorem State.setCtx_flashOp (s : State) (x : Nat) (v : Ctx) : (s.setCtx x v).flashOp = s.flashOp := rfl
@[simp] theorem State.setCtx_damaged (s : State) (x : Nat) (v : Ctx) : (s.setCtx x v).damaged = s.damaged := rfl
@[simp] theorem State.setCtx_mailbox (s : State) (x : Nat) (v : Ctx) : (s.setCtx x v).mailbox = s.mailbox := rfl
@[simp] theorem State.setCtx_upd (s : State) (x : Nat) (v : Ctx) : (s.setCtx x v).upd = s.upd := rfl
@[simp] theorem State.setCtx_updNum (s : State) (x : Nat) (v : Ctx) : (s.setCtx x v).updNum = s.updNum := rfl
@[simp] theorem State.setCtx_act (s : State) (x : Nat) (v : Ctx) : (s.setCtx x v).act = s.act := rfl
@[simp] theorem State.setCtx_dieRst (s : State) (x : Nat) (v : Ctx) : (s.setCtx x v).dieRst = s.dieRst := rfl
@[simp] theorem State.setCtx_rewrite (s : State) (x : Nat) (v : Ctx) : (s.setCtx x v).rewrite = s.rewrite := rfl
@[simp] theorem State.setCtx_beatAt (s : State) (x : Nat) (v : Ctx) : (s.setCtx x v).beatAt = s.beatAt := rfl
@[simp] theorem State.setCtx_linkEvAt (s : State) (x : Nat) (v : Ctx) : (s.setCtx x v).linkEvAt = s.linkEvAt := rfl
@[simp] theorem State.setCtx_hardFault (s : State) (x : Nat) (v : Ctx) : (s.setCtx x v).hardFault = s.hardFault := rfl
@[simp] theorem State.setCtx_td (s : State) (x : Nat) (v : Ctx) : (s.setCtx x v).td = s.td := rfl
@[simp] theorem State.setCtx_dump (s : State) (x : Nat) (v : Ctx) : (s.setCtx x v).dump = s.dump := rfl
@[simp] theorem State.setCtx_wdogDump (s : State) (x : Nat) (v : Ctx) : (s.setCtx x v).wdogDump = s.wdogDump := rfl
@[simp] theorem State.setCtx_mpKick (s : State) (x : Nat) (v : Ctx) : (s.setCtx x v).mpKick = s.mpKick := rfl
@[simp] theorem State.setCtx_txHold (s : State) (x : Nat) (v : Ctx) : (s.setCtx x v).txHold = s.txHold := rfl
@[simp] theorem State.setCtx_powerOff (s : State) (x : Nat) (v : Ctx) : (s.setCtx x v).powerOff = s.powerOff := rfl
@[simp] theorem State.setCtx_porstLow (s : State) (x : Nat) (v : Ctx) : (s.setCtx x v).porstLow = s.porstLow := rfl
@[simp] theorem State.setCtx_tapIr (s : State) (x : Nat) (v : Ctx) : (s.setCtx x v).tapIr = s.tapIr := rfl
@[simp] theorem State.setCtx_tapHeld (s : State) (x : Nat) (v : Ctx) : (s.setCtx x v).tapHeld = s.tapHeld := rfl
@[simp] theorem State.setCtx_tapBsr (s : State) (x : Nat) (v : Ctx) : (s.setCtx x v).tapBsr = s.tapBsr := rfl
@[simp] theorem State.setCtx_cluIdle (s : State) (x : Nat) (v : Ctx) : (s.setCtx x v).cluIdle = s.cluIdle := rfl
@[simp] theorem State.setCtx_stallUs (s : State) (x : Nat) (v : Ctx) : (s.setCtx x v).stallUs = s.stallUs := rfl
@[simp] theorem State.setCtx_filler (s : State) (x : Nat) (v : Ctx) : (s.setCtx x v).filler = s.filler := rfl
@[simp] theorem State.setCtx_rampFill (s : State) (x : Nat) (v : Ctx) : (s.setCtx x v).rampFill = s.rampFill := rfl
@[simp] theorem State.setCtx_railMv (s : State) (x : Nat) (v : Ctx) : (s.setCtx x v).railMv = s.railMv := rfl
@[simp] theorem State.setCtx_tripped (s : State) (x : Nat) (v : Ctx) : (s.setCtx x v).tripped = s.tripped := rfl
@[simp] theorem State.setCtx_snsExcl (s : State) (x : Nat) (v : Ctx) : (s.setCtx x v).snsExcl = s.snsExcl := rfl
@[simp] theorem State.setCtx_pairT (s : State) (x : Nat) (v : Ctx) : (s.setCtx x v).pairT = s.pairT := rfl
@[simp] theorem State.setCtx_hotAt (s : State) (x : Nat) (v : Ctx) : (s.setCtx x v).hotAt = s.hotAt := rfl
@[simp] theorem State.setCtx_thermDies (s : State) (x : Nat) (v : Ctx) : (s.setCtx x v).thermDies = s.thermDies := rfl
@[simp] theorem State.setCtx_noBook (s : State) (x : Nat) (v : Ctx) : (s.setCtx x v).noBook = s.noBook := rfl
@[simp] theorem State.setCtx_agSeq (s : State) (x : Nat) (v : Ctx) : (s.setCtx x v).agSeq = s.agSeq := rfl
@[simp] theorem State.setCtx_agBudgetAt (s : State) (x : Nat) (v : Ctx) : (s.setCtx x v).agBudgetAt = s.agBudgetAt := rfl
@[simp] theorem State.setCtx_holdSig (s : State) (x : Nat) (v : Ctx) : (s.setCtx x v).holdSig = s.holdSig := rfl
@[simp] theorem State.setCtx_draws (s : State) (x : Nat) (v : Ctx) : (s.setCtx x v).draws = s.draws := rfl
@[simp] theorem State.setCtx_overAt (s : State) (x : Nat) (v : Ctx) : (s.setCtx x v).overAt = s.overAt := rfl
@[simp] theorem State.setCtx_owing (s : State) (x : Nat) (v : Ctx) : (s.setCtx x v).owing = s.owing := rfl
@[simp] theorem State.setCtx_agRot (s : State) (x : Nat) (v : Ctx) : (s.setCtx x v).agRot = s.agRot := rfl
@[simp] theorem State.setCtx_dieReps (s : State) (x : Nat) (v : Ctx) : (s.setCtx x v).dieReps = s.dieReps := rfl
@[simp] theorem State.setCtx_budgetMsgs (s : State) (x : Nat) (v : Ctx) : (s.setCtx x v).budgetMsgs = s.budgetMsgs := rfl
@[simp] theorem State.setCtx_clampMsgs (s : State) (x : Nat) (v : Ctx) : (s.setCtx x v).clampMsgs = s.clampMsgs := rfl
@[simp] theorem State.setCtx_hthBudget (s : State) (x : Nat) (v : Ctx) : (s.setCtx x v).hthBudget = s.hthBudget := rfl
@[simp] theorem State.setCtx_charges (s : State) (x : Nat) (v : Ctx) : (s.setCtx x v).charges = s.charges := rfl
@[simp] theorem State.setCtx_busBad (s : State) (x : Nat) (v : Ctx) : (s.setCtx x v).busBad = s.busBad := rfl
@[simp] theorem State.setCtx_dieCap (s : State) (x : Nat) (v : Ctx) : (s.setCtx x v).dieCap = s.dieCap := rfl
@[simp] theorem State.setCtx_capAt (s : State) (x : Nat) (v : Ctx) : (s.setCtx x v).capAt = s.capAt := rfl
@[simp] theorem State.setCtx_shortBy (s : State) (x : Nat) (v : Ctx) : (s.setCtx x v).shortBy = s.shortBy := rfl
@[simp] theorem State.setCtx_shortSince (s : State) (x : Nat) (v : Ctx) : (s.setCtx x v).shortSince = s.shortSince := rfl
@[simp] theorem State.setCtx_flowPeriods (s : State) (x : Nat) (v : Ctx) : (s.setCtx x v).flowPeriods = s.flowPeriods := rfl
@[simp] theorem State.setCtx_flowLast (s : State) (x : Nat) (v : Ctx) : (s.setCtx x v).flowLast = s.flowLast := rfl
@[simp] theorem State.setCtx_flowExcl (s : State) (x : Nat) (v : Ctx) : (s.setCtx x v).flowExcl = s.flowExcl := rfl
@[simp] theorem State.setCtx_outSamples (s : State) (x : Nat) (v : Ctx) : (s.setCtx x v).outSamples = s.outSamples := rfl
@[simp] theorem State.setCtx_advs (s : State) (x : Nat) (v : Ctx) : (s.setCtx x v).advs = s.advs := rfl
@[simp] theorem State.setCtx_coolBadAt (s : State) (x : Nat) (v : Ctx) : (s.setCtx x v).coolBadAt = s.coolBadAt := rfl
@[simp] theorem State.setCtx_napWait (s : State) (x : Nat) (v : Ctx) : (s.setCtx x v).napWait = s.napWait := rfl
@[simp] theorem State.setCtx_cellar (s : State) (x : Nat) (v : Ctx) : (s.setCtx x v).cellar = s.cellar := rfl
@[simp] theorem State.setCtx_dark (s : State) (x : Nat) (v : Ctx) : (s.setCtx x v).dark = s.dark := rfl
@[simp] theorem State.setCtx_reports (s : State) (x : Nat) (v : Ctx) : (s.setCtx x v).reports = s.reports := rfl
@[simp] theorem State.setCtx_mpEvents (s : State) (x : Nat) (v : Ctx) : (s.setCtx x v).mpEvents = s.mpEvents := rfl
@[simp] theorem State.setCtx_emits (s : State) (x : Nat) (v : Ctx) : (s.setCtx x v).emits = s.emits := rfl
@[simp] theorem State.setCtx_reqs (s : State) (x : Nat) (v : Ctx) : (s.setCtx x v).reqs = s.reqs := rfl
@[simp] theorem State.setCtx_resps (s : State) (x : Nat) (v : Ctx) : (s.setCtx x v).resps = s.resps := rfl

/-! ### State.setIsl -/

@[simp] theorem State.setIsl_part (s : State) (i : Nat) (v : Island) : (s.setIsl i v).part = s.part := rfl
@[simp] theorem State.setIsl_pending (s : State) (i : Nat) (v : Island) : (s.setIsl i v).pending = s.pending := rfl
@[simp] theorem State.setIsl_regs (s : State) (i : Nat) (v : Island) : (s.setIsl i v).regs = s.regs := rfl
@[simp] theorem State.setIsl_mem (s : State) (i : Nat) (v : Island) : (s.setIsl i v).mem = s.mem := rfl
@[simp] theorem State.setIsl_undef (s : State) (i : Nat) (v : Island) : (s.setIsl i v).undef = s.undef := rfl
@[simp] theorem State.setIsl_fresh (s : State) (i : Nat) (v : Island) : (s.setIsl i v).fresh = s.fresh := rfl
@[simp] theorem State.setIsl_latched (s : State) (i : Nat) (v : Island) : (s.setIsl i v).latched = s.latched := rfl
@[simp] theorem State.setIsl_sram (s : State) (i : Nat) (v : Island) : (s.setIsl i v).sram = s.sram := rfl
@[simp] theorem State.setIsl_dram (s : State) (i : Nat) (v : Island) : (s.setIsl i v).dram = s.dram := rfl
@[simp] theorem State.setIsl_elogSeq (s : State) (i : Nat) (v : Island) : (s.setIsl i v).elogSeq = s.elogSeq := rfl
@[simp] theorem State.setIsl_injCount (s : State) (i : Nat) (v : Island) : (s.setIsl i v).injCount = s.injCount := rfl
@[simp] theorem State.setIsl_openRows (s : State) (i : Nat) (v : Island) : (s.setIsl i v).openRows = s.openRows := rfl
@[simp] theorem State.setIsl_patrolPos (s : State) (i : Nat) (v : Island) : (s.setIsl i v).patrolPos = s.patrolPos := rfl
@[simp] theorem State.setIsl_patrolRef (s : State) (i : Nat) (v : Island) : (s.setIsl i v).patrolRef = s.patrolRef := rfl
@[simp] theorem State.setIsl_checkBurst (s : State) (i : Nat) (v : Island) : (s.setIsl i v).checkBurst = s.checkBurst := rfl
@[simp] theorem State.setIsl_scheds (s : State) (i : Nat) (v : Island) : (s.setIsl i v).scheds = s.scheds := rfl
@[simp] theorem State.setIsl_training (s : State) (i : Nat) (v : Island) : (s.setIsl i v).training = s.training := rfl
@[simp] theorem State.setIsl_sc (s : State) (i : Nat) (v : Island) : (s.setIsl i v).sc = s.sc := rfl
@[simp] theorem State.setIsl_scSects (s : State) (i : Nat) (v : Island) : (s.setIsl i v).scSects = s.scSects := rfl
@[simp] theorem State.setIsl_engs (s : State) (i : Nat) (v : Island) : (s.setIsl i v).engs = s.engs := rfl
@[simp] theorem State.setIsl_cores (s : State) (i : Nat) (v : Island) : (s.setIsl i v).cores = s.cores := rfl
@[simp] theorem State.setIsl_panHead (s : State) (i : Nat) (v : Island) : (s.setIsl i v).panHead = s.panHead := rfl
@[simp] theorem State.setIsl_ptRuns (s : State) (i : Nat) (v : Island) : (s.setIsl i v).ptRuns = s.ptRuns := rfl
@[simp] theorem State.setIsl_tcmds (s : State) (i : Nat) (v : Island) : (s.setIsl i v).tcmds = s.tcmds := rfl
@[simp] theorem State.setIsl_atts (s : State) (i : Nat) (v : Island) : (s.setIsl i v).atts = s.atts := rfl
@[simp] theorem State.setIsl_cmds (s : State) (i : Nat) (v : Island) : (s.setIsl i v).cmds = s.cmds := rfl
@[simp] theorem State.setIsl_tagGens (s : State) (i : Nat) (v : Island) : (s.setIsl i v).tagGens = s.tagGens := rfl
@[simp] theorem State.setIsl_orderNext (s : State) (i : Nat) (v : Island) : (s.setIsl i v).orderNext = s.orderNext := rfl
@[simp] theorem State.setIsl_ctxs (s : State) (i : Nat) (v : Island) : (s.setIsl i v).ctxs = s.ctxs := rfl
@[simp] theorem State.setIsl_qcache (s : State) (i : Nat) (v : Island) : (s.setIsl i v).qcache = s.qcache := rfl
@[simp] theorem State.setIsl_qready (s : State) (i : Nat) (v : Island) : (s.setIsl i v).qready = s.qready := rfl
@[simp] theorem State.setIsl_cqs (s : State) (i : Nat) (v : Island) : (s.setIsl i v).cqs = s.cqs := rfl
@[simp] theorem State.setIsl_cqUsed (s : State) (i : Nat) (v : Island) : (s.setIsl i v).cqUsed = s.cqUsed := rfl
@[simp] theorem State.setIsl_cqNotes (s : State) (i : Nat) (v : Island) : (s.setIsl i v).cqNotes = s.cqNotes := rfl
@[simp] theorem State.setIsl_pendDb (s : State) (i : Nat) (v : Island) : (s.setIsl i v).pendDb = s.pendDb := rfl
@[simp] theorem State.setIsl_vc0 (s : State) (i : Nat) (v : Island) : (s.setIsl i v).vc0 = s.vc0 := rfl
@[simp] theorem State.setIsl_images (s : State) (i : Nat) (v : Island) : (s.setIsl i v).images = s.images := rfl
@[simp] theorem State.setIsl_resvs (s : State) (i : Nat) (v : Island) : (s.setIsl i v).resvs = s.resvs := rfl
@[simp] theorem State.setIsl_events (s : State) (i : Nat) (v : Island) : (s.setIsl i v).events = s.events := rfl
@[simp] theorem State.setIsl_eventsLost (s : State) (i : Nat) (v : Island) : (s.setIsl i v).eventsLost = s.eventsLost := rfl
@[simp] theorem State.setIsl_eventSeq (s : State) (i : Nat) (v : Island) : (s.setIsl i v).eventSeq = s.eventSeq := rfl
@[simp] theorem State.setIsl_semMsgs (s : State) (i : Nat) (v : Island) : (s.setIsl i v).semMsgs = s.semMsgs := rfl
@[simp] theorem State.setIsl_waiters (s : State) (i : Nat) (v : Island) : (s.setIsl i v).waiters = s.waiters := rfl
@[simp] theorem State.setIsl_semRsps (s : State) (i : Nat) (v : Island) : (s.setIsl i v).semRsps = s.semRsps := rfl
@[simp] theorem State.setIsl_strKeys (s : State) (i : Nat) (v : Island) : (s.setIsl i v).strKeys = s.strKeys := rfl
@[simp] theorem State.setIsl_hangLevel (s : State) (i : Nat) (v : Island) : (s.setIsl i v).hangLevel = s.hangLevel := rfl
@[simp] theorem State.setIsl_dcWire (s : State) (i : Nat) (v : Island) : (s.setIsl i v).dcWire = s.dcWire := rfl
@[simp] theorem State.setIsl_strSegs (s : State) (i : Nat) (v : Island) : (s.setIsl i v).strSegs = s.strSegs := rfl
@[simp] theorem State.setIsl_strCreds (s : State) (i : Nat) (v : Island) : (s.setIsl i v).strCreds = s.strCreds := rfl
@[simp] theorem State.setIsl_ledgerMute (s : State) (i : Nat) (v : Island) : (s.setIsl i v).ledgerMute = s.ledgerMute := rfl
@[simp] theorem State.setIsl_tagReleases (s : State) (i : Nat) (v : Island) : (s.setIsl i v).tagReleases = s.tagReleases := rfl
@[simp] theorem State.setIsl_dozeHold (s : State) (i : Nat) (v : Island) : (s.setIsl i v).dozeHold = s.dozeHold := rfl
@[simp] theorem State.setIsl_rotAt (s : State) (i : Nat) (v : Island) : (s.setIsl i v).rotAt = s.rotAt := rfl
@[simp] theorem State.setIsl_goldNext (s : State) (i : Nat) (v : Island) : (s.setIsl i v).goldNext = s.goldNext := rfl
@[simp] theorem State.setIsl_pastBooked (s : State) (i : Nat) (v : Island) : (s.setIsl i v).pastBooked = s.pastBooked := rfl
@[simp] theorem State.setIsl_policy (s : State) (i : Nat) (v : Island) : (s.setIsl i v).policy = s.policy := rfl
@[simp] theorem State.setIsl_buckets (s : State) (i : Nat) (v : Island) : (s.setIsl i v).buckets = s.buckets := rfl
@[simp] theorem State.setIsl_turns (s : State) (i : Nat) (v : Island) : (s.setIsl i v).turns = s.turns := rfl
@[simp] theorem State.setIsl_routes (s : State) (i : Nat) (v : Island) : (s.setIsl i v).routes = s.routes := rfl
@[simp] theorem State.setIsl_notifyQ (s : State) (i : Nat) (v : Island) : (s.setIsl i v).notifyQ = s.notifyQ := rfl
@[simp] theorem State.setIsl_links (s : State) (i : Nat) (v : Island) : (s.setIsl i v).links = s.links := rfl
@[simp] theorem State.setIsl_laneOtp (s : State) (i : Nat) (v : Island) : (s.setIsl i v).laneOtp = s.laneOtp := rfl
@[simp] theorem State.setIsl_hostProto (s : State) (i : Nat) (v : Island) : (s.setIsl i v).hostProto = s.hostProto := rfl
@[simp] theorem State.setIsl_spnFixed (s : State) (i : Nat) (v : Island) : (s.setIsl i v).spnFixed = s.spnFixed := rfl
@[simp] theorem State.setIsl_discovering (s : State) (i : Nat) (v : Island) : (s.setIsl i v).discovering = s.discovering := rfl
@[simp] theorem State.setIsl_sports (s : State) (i : Nat) (v : Island) : (s.setIsl i v).sports = s.sports := rfl
@[simp] theorem State.setIsl_pchOrd (s : State) (i : Nat) (v : Island) : (s.setIsl i v).pchOrd = s.pchOrd := rfl
@[simp] theorem State.setIsl_drainUrg (s : State) (i : Nat) (v : Island) : (s.setIsl i v).drainUrg = s.drainUrg := rfl
@[simp] theorem State.setIsl_drainNorm (s : State) (i : Nat) (v : Island) : (s.setIsl i v).drainNorm = s.drainNorm := rfl
@[simp] theorem State.setIsl_trigNext (s : State) (i : Nat) (v : Island) : (s.setIsl i v).trigNext = s.trigNext := rfl
@[simp] theorem State.setIsl_trigFired (s : State) (i : Nat) (v : Island) : (s.setIsl i v).trigFired = s.trigFired := rfl
@[simp] theorem State.setIsl_trigPast (s : State) (i : Nat) (v : Island) : (s.setIsl i v).trigPast = s.trigPast := rfl
@[simp] theorem State.setIsl_trigHiz (s : State) (i : Nat) (v : Island) : (s.setIsl i v).trigHiz = s.trigHiz := rfl
@[simp] theorem State.setIsl_trigAt (s : State) (i : Nat) (v : Island) : (s.setIsl i v).trigAt = s.trigAt := rfl
@[simp] theorem State.setIsl_trigLen (s : State) (i : Nat) (v : Island) : (s.setIsl i v).trigLen = s.trigLen := rfl
@[simp] theorem State.setIsl_slew (s : State) (i : Nat) (v : Island) : (s.setIsl i v).slew = s.slew := rfl
@[simp] theorem State.setIsl_slewTicks (s : State) (i : Nat) (v : Island) : (s.setIsl i v).slewTicks = s.slewTicks := rfl
@[simp] theorem State.setIsl_lastSync (s : State) (i : Nat) (v : Island) : (s.setIsl i v).lastSync = s.lastSync := rfl
@[simp] theorem State.setIsl_holdSince (s : State) (i : Nat) (v : Island) : (s.setIsl i v).holdSince = s.holdSince := rfl
@[simp] theorem State.setIsl_calOn (s : State) (i : Nat) (v : Island) : (s.setIsl i v).calOn = s.calOn := rfl
@[simp] theorem State.setIsl_calPend (s : State) (i : Nat) (v : Island) : (s.setIsl i v).calPend = s.calPend := rfl
@[simp] theorem State.setIsl_imuIn (s : State) (i : Nat) (v : Island) : (s.setIsl i v).imuIn = s.imuIn := rfl
@[simp] theorem State.setIsl_wheels (s : State) (i : Nat) (v : Island) : (s.setIsl i v).wheels = s.wheels := rfl
@[simp] theorem State.setIsl_integ (s : State) (i : Nat) (v : Island) : (s.setIsl i v).integ = s.integ := rfl
@[simp] theorem State.setIsl_poses (s : State) (i : Nat) (v : Island) : (s.setIsl i v).poses = s.poses := rfl
@[simp] theorem State.setIsl_lidIn (s : State) (i : Nat) (v : Island) : (s.setIsl i v).lidIn = s.lidIn := rfl
@[simp] theorem State.setIsl_jobs (s : State) (i : Nat) (v : Island) : (s.setIsl i v).jobs = s.jobs := rfl
@[simp] theorem State.setIsl_proj (s : State) (i : Nat) (v : Island) : (s.setIsl i v).proj = s.proj := rfl
@[simp] theorem State.setIsl_mainBad (s : State) (i : Nat) (v : Island) : (s.setIsl i v).mainBad = s.mainBad := rfl
@[simp] theorem State.setIsl_pllBad (s : State) (i : Nat) (v : Island) : (s.setIsl i v).pllBad = s.pllBad := rfl
@[simp] theorem State.setIsl_trigBad (s : State) (i : Nat) (v : Island) : (s.setIsl i v).trigBad = s.trigBad := rfl
@[simp] theorem State.setIsl_railsBad (s : State) (i : Nat) (v : Island) : (s.setIsl i v).railsBad = s.railsBad := rfl
@[simp] theorem State.setIsl_stGo (s : State) (i : Nat) (v : Island) : (s.setIsl i v).stGo = s.stGo := rfl
@[simp] theorem State.setIsl_stDone (s : State) (i : Nat) (v : Island) : (s.setIsl i v).stDone = s.stDone := rfl
@[simp] theorem State.setIsl_unitImgs (s : State) (i : Nat) (v : Island) : (s.setIsl i v).unitImgs = s.unitImgs := rfl
@[simp] theorem State.setIsl_otp (s : State) (i : Nat) (v : Island) : (s.setIsl i v).otp = s.otp := rfl
@[simp] theorem State.setIsl_otpBad (s : State) (i : Nat) (v : Island) : (s.setIsl i v).otpBad = s.otpBad := rfl
@[simp] theorem State.setIsl_flash (s : State) (i : Nat) (v : Island) : (s.setIsl i v).flash = s.flash := rfl
@[simp] theorem State.setIsl_flashMb (s : State) (i : Nat) (v : Island) : (s.setIsl i v).flashMb = s.flashMb := rfl
@[simp] theorem State.setIsl_flashOp (s : State) (i : Nat) (v : Island) : (s.setIsl i v).flashOp = s.flashOp := rfl
@[simp] theorem State.setIsl_damaged (s : State) (i : Nat) (v : Island) : (s.setIsl i v).damaged = s.damaged := rfl
@[simp] theorem State.setIsl_mailbox (s : State) (i : Nat) (v : Island) : (s.setIsl i v).mailbox = s.mailbox := rfl
@[simp] theorem State.setIsl_upd (s : State) (i : Nat) (v : Island) : (s.setIsl i v).upd = s.upd := rfl
@[simp] theorem State.setIsl_updNum (s : State) (i : Nat) (v : Island) : (s.setIsl i v).updNum = s.updNum := rfl
@[simp] theorem State.setIsl_act (s : State) (i : Nat) (v : Island) : (s.setIsl i v).act = s.act := rfl
@[simp] theorem State.setIsl_dieRst (s : State) (i : Nat) (v : Island) : (s.setIsl i v).dieRst = s.dieRst := rfl
@[simp] theorem State.setIsl_rewrite (s : State) (i : Nat) (v : Island) : (s.setIsl i v).rewrite = s.rewrite := rfl
@[simp] theorem State.setIsl_beatAt (s : State) (i : Nat) (v : Island) : (s.setIsl i v).beatAt = s.beatAt := rfl
@[simp] theorem State.setIsl_linkEvAt (s : State) (i : Nat) (v : Island) : (s.setIsl i v).linkEvAt = s.linkEvAt := rfl
@[simp] theorem State.setIsl_hardFault (s : State) (i : Nat) (v : Island) : (s.setIsl i v).hardFault = s.hardFault := rfl
@[simp] theorem State.setIsl_td (s : State) (i : Nat) (v : Island) : (s.setIsl i v).td = s.td := rfl
@[simp] theorem State.setIsl_dump (s : State) (i : Nat) (v : Island) : (s.setIsl i v).dump = s.dump := rfl
@[simp] theorem State.setIsl_wdogDump (s : State) (i : Nat) (v : Island) : (s.setIsl i v).wdogDump = s.wdogDump := rfl
@[simp] theorem State.setIsl_mpKick (s : State) (i : Nat) (v : Island) : (s.setIsl i v).mpKick = s.mpKick := rfl
@[simp] theorem State.setIsl_txHold (s : State) (i : Nat) (v : Island) : (s.setIsl i v).txHold = s.txHold := rfl
@[simp] theorem State.setIsl_powerOff (s : State) (i : Nat) (v : Island) : (s.setIsl i v).powerOff = s.powerOff := rfl
@[simp] theorem State.setIsl_porstLow (s : State) (i : Nat) (v : Island) : (s.setIsl i v).porstLow = s.porstLow := rfl
@[simp] theorem State.setIsl_tapIr (s : State) (i : Nat) (v : Island) : (s.setIsl i v).tapIr = s.tapIr := rfl
@[simp] theorem State.setIsl_tapHeld (s : State) (i : Nat) (v : Island) : (s.setIsl i v).tapHeld = s.tapHeld := rfl
@[simp] theorem State.setIsl_tapBsr (s : State) (i : Nat) (v : Island) : (s.setIsl i v).tapBsr = s.tapBsr := rfl
@[simp] theorem State.setIsl_cluIdle (s : State) (i : Nat) (v : Island) : (s.setIsl i v).cluIdle = s.cluIdle := rfl
@[simp] theorem State.setIsl_stallUs (s : State) (i : Nat) (v : Island) : (s.setIsl i v).stallUs = s.stallUs := rfl
@[simp] theorem State.setIsl_filler (s : State) (i : Nat) (v : Island) : (s.setIsl i v).filler = s.filler := rfl
@[simp] theorem State.setIsl_rampFill (s : State) (i : Nat) (v : Island) : (s.setIsl i v).rampFill = s.rampFill := rfl
@[simp] theorem State.setIsl_railMv (s : State) (i : Nat) (v : Island) : (s.setIsl i v).railMv = s.railMv := rfl
@[simp] theorem State.setIsl_tripped (s : State) (i : Nat) (v : Island) : (s.setIsl i v).tripped = s.tripped := rfl
@[simp] theorem State.setIsl_snsExcl (s : State) (i : Nat) (v : Island) : (s.setIsl i v).snsExcl = s.snsExcl := rfl
@[simp] theorem State.setIsl_pairT (s : State) (i : Nat) (v : Island) : (s.setIsl i v).pairT = s.pairT := rfl
@[simp] theorem State.setIsl_hotAt (s : State) (i : Nat) (v : Island) : (s.setIsl i v).hotAt = s.hotAt := rfl
@[simp] theorem State.setIsl_thermDies (s : State) (i : Nat) (v : Island) : (s.setIsl i v).thermDies = s.thermDies := rfl
@[simp] theorem State.setIsl_noBook (s : State) (i : Nat) (v : Island) : (s.setIsl i v).noBook = s.noBook := rfl
@[simp] theorem State.setIsl_agSeq (s : State) (i : Nat) (v : Island) : (s.setIsl i v).agSeq = s.agSeq := rfl
@[simp] theorem State.setIsl_agBudgetAt (s : State) (i : Nat) (v : Island) : (s.setIsl i v).agBudgetAt = s.agBudgetAt := rfl
@[simp] theorem State.setIsl_holdSig (s : State) (i : Nat) (v : Island) : (s.setIsl i v).holdSig = s.holdSig := rfl
@[simp] theorem State.setIsl_draws (s : State) (i : Nat) (v : Island) : (s.setIsl i v).draws = s.draws := rfl
@[simp] theorem State.setIsl_overAt (s : State) (i : Nat) (v : Island) : (s.setIsl i v).overAt = s.overAt := rfl
@[simp] theorem State.setIsl_owing (s : State) (i : Nat) (v : Island) : (s.setIsl i v).owing = s.owing := rfl
@[simp] theorem State.setIsl_agRot (s : State) (i : Nat) (v : Island) : (s.setIsl i v).agRot = s.agRot := rfl
@[simp] theorem State.setIsl_dieReps (s : State) (i : Nat) (v : Island) : (s.setIsl i v).dieReps = s.dieReps := rfl
@[simp] theorem State.setIsl_budgetMsgs (s : State) (i : Nat) (v : Island) : (s.setIsl i v).budgetMsgs = s.budgetMsgs := rfl
@[simp] theorem State.setIsl_clampMsgs (s : State) (i : Nat) (v : Island) : (s.setIsl i v).clampMsgs = s.clampMsgs := rfl
@[simp] theorem State.setIsl_hthBudget (s : State) (i : Nat) (v : Island) : (s.setIsl i v).hthBudget = s.hthBudget := rfl
@[simp] theorem State.setIsl_charges (s : State) (i : Nat) (v : Island) : (s.setIsl i v).charges = s.charges := rfl
@[simp] theorem State.setIsl_busBad (s : State) (i : Nat) (v : Island) : (s.setIsl i v).busBad = s.busBad := rfl
@[simp] theorem State.setIsl_dieCap (s : State) (i : Nat) (v : Island) : (s.setIsl i v).dieCap = s.dieCap := rfl
@[simp] theorem State.setIsl_capAt (s : State) (i : Nat) (v : Island) : (s.setIsl i v).capAt = s.capAt := rfl
@[simp] theorem State.setIsl_shortBy (s : State) (i : Nat) (v : Island) : (s.setIsl i v).shortBy = s.shortBy := rfl
@[simp] theorem State.setIsl_shortSince (s : State) (i : Nat) (v : Island) : (s.setIsl i v).shortSince = s.shortSince := rfl
@[simp] theorem State.setIsl_flowPeriods (s : State) (i : Nat) (v : Island) : (s.setIsl i v).flowPeriods = s.flowPeriods := rfl
@[simp] theorem State.setIsl_flowLast (s : State) (i : Nat) (v : Island) : (s.setIsl i v).flowLast = s.flowLast := rfl
@[simp] theorem State.setIsl_flowExcl (s : State) (i : Nat) (v : Island) : (s.setIsl i v).flowExcl = s.flowExcl := rfl
@[simp] theorem State.setIsl_outSamples (s : State) (i : Nat) (v : Island) : (s.setIsl i v).outSamples = s.outSamples := rfl
@[simp] theorem State.setIsl_advs (s : State) (i : Nat) (v : Island) : (s.setIsl i v).advs = s.advs := rfl
@[simp] theorem State.setIsl_coolBadAt (s : State) (i : Nat) (v : Island) : (s.setIsl i v).coolBadAt = s.coolBadAt := rfl
@[simp] theorem State.setIsl_napWait (s : State) (i : Nat) (v : Island) : (s.setIsl i v).napWait = s.napWait := rfl
@[simp] theorem State.setIsl_cellar (s : State) (i : Nat) (v : Island) : (s.setIsl i v).cellar = s.cellar := rfl
@[simp] theorem State.setIsl_dark (s : State) (i : Nat) (v : Island) : (s.setIsl i v).dark = s.dark := rfl
@[simp] theorem State.setIsl_reports (s : State) (i : Nat) (v : Island) : (s.setIsl i v).reports = s.reports := rfl
@[simp] theorem State.setIsl_mpEvents (s : State) (i : Nat) (v : Island) : (s.setIsl i v).mpEvents = s.mpEvents := rfl
@[simp] theorem State.setIsl_emits (s : State) (i : Nat) (v : Island) : (s.setIsl i v).emits = s.emits := rfl
@[simp] theorem State.setIsl_reqs (s : State) (i : Nat) (v : Island) : (s.setIsl i v).reqs = s.reqs := rfl
@[simp] theorem State.setIsl_resps (s : State) (i : Nat) (v : Island) : (s.setIsl i v).resps = s.resps := rfl

/-! ### State.report -/

@[simp] theorem State.report_part (s : State) (i ev u : Nat) : (s.report i ev u).part = s.part := rfl
@[simp] theorem State.report_pending (s : State) (i ev u : Nat) : (s.report i ev u).pending = s.pending := rfl
@[simp] theorem State.report_regs (s : State) (i ev u : Nat) : (s.report i ev u).regs = s.regs := rfl
@[simp] theorem State.report_mem (s : State) (i ev u : Nat) : (s.report i ev u).mem = s.mem := rfl
@[simp] theorem State.report_undef (s : State) (i ev u : Nat) : (s.report i ev u).undef = s.undef := rfl
@[simp] theorem State.report_fresh (s : State) (i ev u : Nat) : (s.report i ev u).fresh = s.fresh := rfl
@[simp] theorem State.report_latched (s : State) (i ev u : Nat) : (s.report i ev u).latched = s.latched := rfl
@[simp] theorem State.report_sram (s : State) (i ev u : Nat) : (s.report i ev u).sram = s.sram := rfl
@[simp] theorem State.report_dram (s : State) (i ev u : Nat) : (s.report i ev u).dram = s.dram := rfl
@[simp] theorem State.report_elogSeq (s : State) (i ev u : Nat) : (s.report i ev u).elogSeq = s.elogSeq := rfl
@[simp] theorem State.report_injCount (s : State) (i ev u : Nat) : (s.report i ev u).injCount = s.injCount := rfl
@[simp] theorem State.report_openRows (s : State) (i ev u : Nat) : (s.report i ev u).openRows = s.openRows := rfl
@[simp] theorem State.report_patrolPos (s : State) (i ev u : Nat) : (s.report i ev u).patrolPos = s.patrolPos := rfl
@[simp] theorem State.report_patrolRef (s : State) (i ev u : Nat) : (s.report i ev u).patrolRef = s.patrolRef := rfl
@[simp] theorem State.report_checkBurst (s : State) (i ev u : Nat) : (s.report i ev u).checkBurst = s.checkBurst := rfl
@[simp] theorem State.report_scheds (s : State) (i ev u : Nat) : (s.report i ev u).scheds = s.scheds := rfl
@[simp] theorem State.report_training (s : State) (i ev u : Nat) : (s.report i ev u).training = s.training := rfl
@[simp] theorem State.report_sc (s : State) (i ev u : Nat) : (s.report i ev u).sc = s.sc := rfl
@[simp] theorem State.report_scSects (s : State) (i ev u : Nat) : (s.report i ev u).scSects = s.scSects := rfl
@[simp] theorem State.report_engs (s : State) (i ev u : Nat) : (s.report i ev u).engs = s.engs := rfl
@[simp] theorem State.report_cores (s : State) (i ev u : Nat) : (s.report i ev u).cores = s.cores := rfl
@[simp] theorem State.report_panHead (s : State) (i ev u : Nat) : (s.report i ev u).panHead = s.panHead := rfl
@[simp] theorem State.report_ptRuns (s : State) (i ev u : Nat) : (s.report i ev u).ptRuns = s.ptRuns := rfl
@[simp] theorem State.report_tcmds (s : State) (i ev u : Nat) : (s.report i ev u).tcmds = s.tcmds := rfl
@[simp] theorem State.report_atts (s : State) (i ev u : Nat) : (s.report i ev u).atts = s.atts := rfl
@[simp] theorem State.report_cmds (s : State) (i ev u : Nat) : (s.report i ev u).cmds = s.cmds := rfl
@[simp] theorem State.report_tagGens (s : State) (i ev u : Nat) : (s.report i ev u).tagGens = s.tagGens := rfl
@[simp] theorem State.report_orderNext (s : State) (i ev u : Nat) : (s.report i ev u).orderNext = s.orderNext := rfl
@[simp] theorem State.report_ctxs (s : State) (i ev u : Nat) : (s.report i ev u).ctxs = s.ctxs := rfl
@[simp] theorem State.report_qcache (s : State) (i ev u : Nat) : (s.report i ev u).qcache = s.qcache := rfl
@[simp] theorem State.report_qready (s : State) (i ev u : Nat) : (s.report i ev u).qready = s.qready := rfl
@[simp] theorem State.report_cqs (s : State) (i ev u : Nat) : (s.report i ev u).cqs = s.cqs := rfl
@[simp] theorem State.report_cqUsed (s : State) (i ev u : Nat) : (s.report i ev u).cqUsed = s.cqUsed := rfl
@[simp] theorem State.report_cqNotes (s : State) (i ev u : Nat) : (s.report i ev u).cqNotes = s.cqNotes := rfl
@[simp] theorem State.report_pendDb (s : State) (i ev u : Nat) : (s.report i ev u).pendDb = s.pendDb := rfl
@[simp] theorem State.report_vc0 (s : State) (i ev u : Nat) : (s.report i ev u).vc0 = s.vc0 := rfl
@[simp] theorem State.report_images (s : State) (i ev u : Nat) : (s.report i ev u).images = s.images := rfl
@[simp] theorem State.report_resvs (s : State) (i ev u : Nat) : (s.report i ev u).resvs = s.resvs := rfl
@[simp] theorem State.report_events (s : State) (i ev u : Nat) : (s.report i ev u).events = s.events := rfl
@[simp] theorem State.report_eventsLost (s : State) (i ev u : Nat) : (s.report i ev u).eventsLost = s.eventsLost := rfl
@[simp] theorem State.report_eventSeq (s : State) (i ev u : Nat) : (s.report i ev u).eventSeq = s.eventSeq := rfl
@[simp] theorem State.report_semMsgs (s : State) (i ev u : Nat) : (s.report i ev u).semMsgs = s.semMsgs := rfl
@[simp] theorem State.report_waiters (s : State) (i ev u : Nat) : (s.report i ev u).waiters = s.waiters := rfl
@[simp] theorem State.report_semRsps (s : State) (i ev u : Nat) : (s.report i ev u).semRsps = s.semRsps := rfl
@[simp] theorem State.report_strKeys (s : State) (i ev u : Nat) : (s.report i ev u).strKeys = s.strKeys := rfl
@[simp] theorem State.report_hangLevel (s : State) (i ev u : Nat) : (s.report i ev u).hangLevel = s.hangLevel := rfl
@[simp] theorem State.report_dcWire (s : State) (i ev u : Nat) : (s.report i ev u).dcWire = s.dcWire := rfl
@[simp] theorem State.report_strSegs (s : State) (i ev u : Nat) : (s.report i ev u).strSegs = s.strSegs := rfl
@[simp] theorem State.report_strCreds (s : State) (i ev u : Nat) : (s.report i ev u).strCreds = s.strCreds := rfl
@[simp] theorem State.report_ledgerMute (s : State) (i ev u : Nat) : (s.report i ev u).ledgerMute = s.ledgerMute := rfl
@[simp] theorem State.report_tagReleases (s : State) (i ev u : Nat) : (s.report i ev u).tagReleases = s.tagReleases := rfl
@[simp] theorem State.report_dozeHold (s : State) (i ev u : Nat) : (s.report i ev u).dozeHold = s.dozeHold := rfl
@[simp] theorem State.report_rotAt (s : State) (i ev u : Nat) : (s.report i ev u).rotAt = s.rotAt := rfl
@[simp] theorem State.report_goldNext (s : State) (i ev u : Nat) : (s.report i ev u).goldNext = s.goldNext := rfl
@[simp] theorem State.report_pastBooked (s : State) (i ev u : Nat) : (s.report i ev u).pastBooked = s.pastBooked := rfl
@[simp] theorem State.report_policy (s : State) (i ev u : Nat) : (s.report i ev u).policy = s.policy := rfl
@[simp] theorem State.report_buckets (s : State) (i ev u : Nat) : (s.report i ev u).buckets = s.buckets := rfl
@[simp] theorem State.report_turns (s : State) (i ev u : Nat) : (s.report i ev u).turns = s.turns := rfl
@[simp] theorem State.report_routes (s : State) (i ev u : Nat) : (s.report i ev u).routes = s.routes := rfl
@[simp] theorem State.report_notifyQ (s : State) (i ev u : Nat) : (s.report i ev u).notifyQ = s.notifyQ := rfl
@[simp] theorem State.report_links (s : State) (i ev u : Nat) : (s.report i ev u).links = s.links := rfl
@[simp] theorem State.report_laneOtp (s : State) (i ev u : Nat) : (s.report i ev u).laneOtp = s.laneOtp := rfl
@[simp] theorem State.report_hostProto (s : State) (i ev u : Nat) : (s.report i ev u).hostProto = s.hostProto := rfl
@[simp] theorem State.report_spnFixed (s : State) (i ev u : Nat) : (s.report i ev u).spnFixed = s.spnFixed := rfl
@[simp] theorem State.report_discovering (s : State) (i ev u : Nat) : (s.report i ev u).discovering = s.discovering := rfl
@[simp] theorem State.report_sports (s : State) (i ev u : Nat) : (s.report i ev u).sports = s.sports := rfl
@[simp] theorem State.report_pchOrd (s : State) (i ev u : Nat) : (s.report i ev u).pchOrd = s.pchOrd := rfl
@[simp] theorem State.report_drainUrg (s : State) (i ev u : Nat) : (s.report i ev u).drainUrg = s.drainUrg := rfl
@[simp] theorem State.report_drainNorm (s : State) (i ev u : Nat) : (s.report i ev u).drainNorm = s.drainNorm := rfl
@[simp] theorem State.report_trigNext (s : State) (i ev u : Nat) : (s.report i ev u).trigNext = s.trigNext := rfl
@[simp] theorem State.report_trigFired (s : State) (i ev u : Nat) : (s.report i ev u).trigFired = s.trigFired := rfl
@[simp] theorem State.report_trigPast (s : State) (i ev u : Nat) : (s.report i ev u).trigPast = s.trigPast := rfl
@[simp] theorem State.report_trigHiz (s : State) (i ev u : Nat) : (s.report i ev u).trigHiz = s.trigHiz := rfl
@[simp] theorem State.report_trigAt (s : State) (i ev u : Nat) : (s.report i ev u).trigAt = s.trigAt := rfl
@[simp] theorem State.report_trigLen (s : State) (i ev u : Nat) : (s.report i ev u).trigLen = s.trigLen := rfl
@[simp] theorem State.report_slew (s : State) (i ev u : Nat) : (s.report i ev u).slew = s.slew := rfl
@[simp] theorem State.report_slewTicks (s : State) (i ev u : Nat) : (s.report i ev u).slewTicks = s.slewTicks := rfl
@[simp] theorem State.report_lastSync (s : State) (i ev u : Nat) : (s.report i ev u).lastSync = s.lastSync := rfl
@[simp] theorem State.report_holdSince (s : State) (i ev u : Nat) : (s.report i ev u).holdSince = s.holdSince := rfl
@[simp] theorem State.report_calOn (s : State) (i ev u : Nat) : (s.report i ev u).calOn = s.calOn := rfl
@[simp] theorem State.report_calPend (s : State) (i ev u : Nat) : (s.report i ev u).calPend = s.calPend := rfl
@[simp] theorem State.report_imuIn (s : State) (i ev u : Nat) : (s.report i ev u).imuIn = s.imuIn := rfl
@[simp] theorem State.report_wheels (s : State) (i ev u : Nat) : (s.report i ev u).wheels = s.wheels := rfl
@[simp] theorem State.report_integ (s : State) (i ev u : Nat) : (s.report i ev u).integ = s.integ := rfl
@[simp] theorem State.report_poses (s : State) (i ev u : Nat) : (s.report i ev u).poses = s.poses := rfl
@[simp] theorem State.report_lidIn (s : State) (i ev u : Nat) : (s.report i ev u).lidIn = s.lidIn := rfl
@[simp] theorem State.report_jobs (s : State) (i ev u : Nat) : (s.report i ev u).jobs = s.jobs := rfl
@[simp] theorem State.report_proj (s : State) (i ev u : Nat) : (s.report i ev u).proj = s.proj := rfl
@[simp] theorem State.report_islands (s : State) (i ev u : Nat) : (s.report i ev u).islands = s.islands := rfl
@[simp] theorem State.report_mainBad (s : State) (i ev u : Nat) : (s.report i ev u).mainBad = s.mainBad := rfl
@[simp] theorem State.report_pllBad (s : State) (i ev u : Nat) : (s.report i ev u).pllBad = s.pllBad := rfl
@[simp] theorem State.report_trigBad (s : State) (i ev u : Nat) : (s.report i ev u).trigBad = s.trigBad := rfl
@[simp] theorem State.report_railsBad (s : State) (i ev u : Nat) : (s.report i ev u).railsBad = s.railsBad := rfl
@[simp] theorem State.report_stGo (s : State) (i ev u : Nat) : (s.report i ev u).stGo = s.stGo := rfl
@[simp] theorem State.report_stDone (s : State) (i ev u : Nat) : (s.report i ev u).stDone = s.stDone := rfl
@[simp] theorem State.report_unitImgs (s : State) (i ev u : Nat) : (s.report i ev u).unitImgs = s.unitImgs := rfl
@[simp] theorem State.report_otp (s : State) (i ev u : Nat) : (s.report i ev u).otp = s.otp := rfl
@[simp] theorem State.report_otpBad (s : State) (i ev u : Nat) : (s.report i ev u).otpBad = s.otpBad := rfl
@[simp] theorem State.report_flash (s : State) (i ev u : Nat) : (s.report i ev u).flash = s.flash := rfl
@[simp] theorem State.report_flashMb (s : State) (i ev u : Nat) : (s.report i ev u).flashMb = s.flashMb := rfl
@[simp] theorem State.report_flashOp (s : State) (i ev u : Nat) : (s.report i ev u).flashOp = s.flashOp := rfl
@[simp] theorem State.report_damaged (s : State) (i ev u : Nat) : (s.report i ev u).damaged = s.damaged := rfl
@[simp] theorem State.report_mailbox (s : State) (i ev u : Nat) : (s.report i ev u).mailbox = s.mailbox := rfl
@[simp] theorem State.report_upd (s : State) (i ev u : Nat) : (s.report i ev u).upd = s.upd := rfl
@[simp] theorem State.report_updNum (s : State) (i ev u : Nat) : (s.report i ev u).updNum = s.updNum := rfl
@[simp] theorem State.report_act (s : State) (i ev u : Nat) : (s.report i ev u).act = s.act := rfl
@[simp] theorem State.report_dieRst (s : State) (i ev u : Nat) : (s.report i ev u).dieRst = s.dieRst := rfl
@[simp] theorem State.report_rewrite (s : State) (i ev u : Nat) : (s.report i ev u).rewrite = s.rewrite := rfl
@[simp] theorem State.report_beatAt (s : State) (i ev u : Nat) : (s.report i ev u).beatAt = s.beatAt := rfl
@[simp] theorem State.report_linkEvAt (s : State) (i ev u : Nat) : (s.report i ev u).linkEvAt = s.linkEvAt := rfl
@[simp] theorem State.report_hardFault (s : State) (i ev u : Nat) : (s.report i ev u).hardFault = s.hardFault := rfl
@[simp] theorem State.report_td (s : State) (i ev u : Nat) : (s.report i ev u).td = s.td := rfl
@[simp] theorem State.report_dump (s : State) (i ev u : Nat) : (s.report i ev u).dump = s.dump := rfl
@[simp] theorem State.report_wdogDump (s : State) (i ev u : Nat) : (s.report i ev u).wdogDump = s.wdogDump := rfl
@[simp] theorem State.report_mpKick (s : State) (i ev u : Nat) : (s.report i ev u).mpKick = s.mpKick := rfl
@[simp] theorem State.report_txHold (s : State) (i ev u : Nat) : (s.report i ev u).txHold = s.txHold := rfl
@[simp] theorem State.report_powerOff (s : State) (i ev u : Nat) : (s.report i ev u).powerOff = s.powerOff := rfl
@[simp] theorem State.report_porstLow (s : State) (i ev u : Nat) : (s.report i ev u).porstLow = s.porstLow := rfl
@[simp] theorem State.report_tapIr (s : State) (i ev u : Nat) : (s.report i ev u).tapIr = s.tapIr := rfl
@[simp] theorem State.report_tapHeld (s : State) (i ev u : Nat) : (s.report i ev u).tapHeld = s.tapHeld := rfl
@[simp] theorem State.report_tapBsr (s : State) (i ev u : Nat) : (s.report i ev u).tapBsr = s.tapBsr := rfl
@[simp] theorem State.report_cluIdle (s : State) (i ev u : Nat) : (s.report i ev u).cluIdle = s.cluIdle := rfl
@[simp] theorem State.report_stallUs (s : State) (i ev u : Nat) : (s.report i ev u).stallUs = s.stallUs := rfl
@[simp] theorem State.report_filler (s : State) (i ev u : Nat) : (s.report i ev u).filler = s.filler := rfl
@[simp] theorem State.report_rampFill (s : State) (i ev u : Nat) : (s.report i ev u).rampFill = s.rampFill := rfl
@[simp] theorem State.report_railMv (s : State) (i ev u : Nat) : (s.report i ev u).railMv = s.railMv := rfl
@[simp] theorem State.report_tripped (s : State) (i ev u : Nat) : (s.report i ev u).tripped = s.tripped := rfl
@[simp] theorem State.report_snsExcl (s : State) (i ev u : Nat) : (s.report i ev u).snsExcl = s.snsExcl := rfl
@[simp] theorem State.report_pairT (s : State) (i ev u : Nat) : (s.report i ev u).pairT = s.pairT := rfl
@[simp] theorem State.report_hotAt (s : State) (i ev u : Nat) : (s.report i ev u).hotAt = s.hotAt := rfl
@[simp] theorem State.report_thermDies (s : State) (i ev u : Nat) : (s.report i ev u).thermDies = s.thermDies := rfl
@[simp] theorem State.report_noBook (s : State) (i ev u : Nat) : (s.report i ev u).noBook = s.noBook := rfl
@[simp] theorem State.report_agSeq (s : State) (i ev u : Nat) : (s.report i ev u).agSeq = s.agSeq := rfl
@[simp] theorem State.report_agBudgetAt (s : State) (i ev u : Nat) : (s.report i ev u).agBudgetAt = s.agBudgetAt := rfl
@[simp] theorem State.report_holdSig (s : State) (i ev u : Nat) : (s.report i ev u).holdSig = s.holdSig := rfl
@[simp] theorem State.report_draws (s : State) (i ev u : Nat) : (s.report i ev u).draws = s.draws := rfl
@[simp] theorem State.report_overAt (s : State) (i ev u : Nat) : (s.report i ev u).overAt = s.overAt := rfl
@[simp] theorem State.report_owing (s : State) (i ev u : Nat) : (s.report i ev u).owing = s.owing := rfl
@[simp] theorem State.report_agRot (s : State) (i ev u : Nat) : (s.report i ev u).agRot = s.agRot := rfl
@[simp] theorem State.report_dieReps (s : State) (i ev u : Nat) : (s.report i ev u).dieReps = s.dieReps := rfl
@[simp] theorem State.report_budgetMsgs (s : State) (i ev u : Nat) : (s.report i ev u).budgetMsgs = s.budgetMsgs := rfl
@[simp] theorem State.report_clampMsgs (s : State) (i ev u : Nat) : (s.report i ev u).clampMsgs = s.clampMsgs := rfl
@[simp] theorem State.report_hthBudget (s : State) (i ev u : Nat) : (s.report i ev u).hthBudget = s.hthBudget := rfl
@[simp] theorem State.report_charges (s : State) (i ev u : Nat) : (s.report i ev u).charges = s.charges := rfl
@[simp] theorem State.report_busBad (s : State) (i ev u : Nat) : (s.report i ev u).busBad = s.busBad := rfl
@[simp] theorem State.report_dieCap (s : State) (i ev u : Nat) : (s.report i ev u).dieCap = s.dieCap := rfl
@[simp] theorem State.report_capAt (s : State) (i ev u : Nat) : (s.report i ev u).capAt = s.capAt := rfl
@[simp] theorem State.report_shortBy (s : State) (i ev u : Nat) : (s.report i ev u).shortBy = s.shortBy := rfl
@[simp] theorem State.report_shortSince (s : State) (i ev u : Nat) : (s.report i ev u).shortSince = s.shortSince := rfl
@[simp] theorem State.report_flowPeriods (s : State) (i ev u : Nat) : (s.report i ev u).flowPeriods = s.flowPeriods := rfl
@[simp] theorem State.report_flowLast (s : State) (i ev u : Nat) : (s.report i ev u).flowLast = s.flowLast := rfl
@[simp] theorem State.report_flowExcl (s : State) (i ev u : Nat) : (s.report i ev u).flowExcl = s.flowExcl := rfl
@[simp] theorem State.report_outSamples (s : State) (i ev u : Nat) : (s.report i ev u).outSamples = s.outSamples := rfl
@[simp] theorem State.report_advs (s : State) (i ev u : Nat) : (s.report i ev u).advs = s.advs := rfl
@[simp] theorem State.report_coolBadAt (s : State) (i ev u : Nat) : (s.report i ev u).coolBadAt = s.coolBadAt := rfl
@[simp] theorem State.report_napWait (s : State) (i ev u : Nat) : (s.report i ev u).napWait = s.napWait := rfl
@[simp] theorem State.report_cellar (s : State) (i ev u : Nat) : (s.report i ev u).cellar = s.cellar := rfl
@[simp] theorem State.report_dark (s : State) (i ev u : Nat) : (s.report i ev u).dark = s.dark := rfl
@[simp] theorem State.report_mpEvents (s : State) (i ev u : Nat) : (s.report i ev u).mpEvents = s.mpEvents := rfl
@[simp] theorem State.report_emits (s : State) (i ev u : Nat) : (s.report i ev u).emits = s.emits := rfl
@[simp] theorem State.report_reqs (s : State) (i ev u : Nat) : (s.report i ev u).reqs = s.reqs := rfl
@[simp] theorem State.report_resps (s : State) (i ev u : Nat) : (s.report i ev u).resps = s.resps := rfl

/-! ### State.toMp -/

@[simp] theorem State.toMp_part (s : State) (k u : Nat) : (s.toMp k u).part = s.part := rfl
@[simp] theorem State.toMp_pending (s : State) (k u : Nat) : (s.toMp k u).pending = s.pending := rfl
@[simp] theorem State.toMp_regs (s : State) (k u : Nat) : (s.toMp k u).regs = s.regs := rfl
@[simp] theorem State.toMp_mem (s : State) (k u : Nat) : (s.toMp k u).mem = s.mem := rfl
@[simp] theorem State.toMp_undef (s : State) (k u : Nat) : (s.toMp k u).undef = s.undef := rfl
@[simp] theorem State.toMp_fresh (s : State) (k u : Nat) : (s.toMp k u).fresh = s.fresh := rfl
@[simp] theorem State.toMp_latched (s : State) (k u : Nat) : (s.toMp k u).latched = s.latched := rfl
@[simp] theorem State.toMp_sram (s : State) (k u : Nat) : (s.toMp k u).sram = s.sram := rfl
@[simp] theorem State.toMp_dram (s : State) (k u : Nat) : (s.toMp k u).dram = s.dram := rfl
@[simp] theorem State.toMp_elogSeq (s : State) (k u : Nat) : (s.toMp k u).elogSeq = s.elogSeq := rfl
@[simp] theorem State.toMp_injCount (s : State) (k u : Nat) : (s.toMp k u).injCount = s.injCount := rfl
@[simp] theorem State.toMp_openRows (s : State) (k u : Nat) : (s.toMp k u).openRows = s.openRows := rfl
@[simp] theorem State.toMp_patrolPos (s : State) (k u : Nat) : (s.toMp k u).patrolPos = s.patrolPos := rfl
@[simp] theorem State.toMp_patrolRef (s : State) (k u : Nat) : (s.toMp k u).patrolRef = s.patrolRef := rfl
@[simp] theorem State.toMp_checkBurst (s : State) (k u : Nat) : (s.toMp k u).checkBurst = s.checkBurst := rfl
@[simp] theorem State.toMp_scheds (s : State) (k u : Nat) : (s.toMp k u).scheds = s.scheds := rfl
@[simp] theorem State.toMp_training (s : State) (k u : Nat) : (s.toMp k u).training = s.training := rfl
@[simp] theorem State.toMp_sc (s : State) (k u : Nat) : (s.toMp k u).sc = s.sc := rfl
@[simp] theorem State.toMp_scSects (s : State) (k u : Nat) : (s.toMp k u).scSects = s.scSects := rfl
@[simp] theorem State.toMp_engs (s : State) (k u : Nat) : (s.toMp k u).engs = s.engs := rfl
@[simp] theorem State.toMp_cores (s : State) (k u : Nat) : (s.toMp k u).cores = s.cores := rfl
@[simp] theorem State.toMp_panHead (s : State) (k u : Nat) : (s.toMp k u).panHead = s.panHead := rfl
@[simp] theorem State.toMp_ptRuns (s : State) (k u : Nat) : (s.toMp k u).ptRuns = s.ptRuns := rfl
@[simp] theorem State.toMp_tcmds (s : State) (k u : Nat) : (s.toMp k u).tcmds = s.tcmds := rfl
@[simp] theorem State.toMp_atts (s : State) (k u : Nat) : (s.toMp k u).atts = s.atts := rfl
@[simp] theorem State.toMp_cmds (s : State) (k u : Nat) : (s.toMp k u).cmds = s.cmds := rfl
@[simp] theorem State.toMp_tagGens (s : State) (k u : Nat) : (s.toMp k u).tagGens = s.tagGens := rfl
@[simp] theorem State.toMp_orderNext (s : State) (k u : Nat) : (s.toMp k u).orderNext = s.orderNext := rfl
@[simp] theorem State.toMp_ctxs (s : State) (k u : Nat) : (s.toMp k u).ctxs = s.ctxs := rfl
@[simp] theorem State.toMp_qcache (s : State) (k u : Nat) : (s.toMp k u).qcache = s.qcache := rfl
@[simp] theorem State.toMp_qready (s : State) (k u : Nat) : (s.toMp k u).qready = s.qready := rfl
@[simp] theorem State.toMp_cqs (s : State) (k u : Nat) : (s.toMp k u).cqs = s.cqs := rfl
@[simp] theorem State.toMp_cqUsed (s : State) (k u : Nat) : (s.toMp k u).cqUsed = s.cqUsed := rfl
@[simp] theorem State.toMp_cqNotes (s : State) (k u : Nat) : (s.toMp k u).cqNotes = s.cqNotes := rfl
@[simp] theorem State.toMp_pendDb (s : State) (k u : Nat) : (s.toMp k u).pendDb = s.pendDb := rfl
@[simp] theorem State.toMp_vc0 (s : State) (k u : Nat) : (s.toMp k u).vc0 = s.vc0 := rfl
@[simp] theorem State.toMp_images (s : State) (k u : Nat) : (s.toMp k u).images = s.images := rfl
@[simp] theorem State.toMp_resvs (s : State) (k u : Nat) : (s.toMp k u).resvs = s.resvs := rfl
@[simp] theorem State.toMp_events (s : State) (k u : Nat) : (s.toMp k u).events = s.events := rfl
@[simp] theorem State.toMp_eventsLost (s : State) (k u : Nat) : (s.toMp k u).eventsLost = s.eventsLost := rfl
@[simp] theorem State.toMp_eventSeq (s : State) (k u : Nat) : (s.toMp k u).eventSeq = s.eventSeq := rfl
@[simp] theorem State.toMp_semMsgs (s : State) (k u : Nat) : (s.toMp k u).semMsgs = s.semMsgs := rfl
@[simp] theorem State.toMp_waiters (s : State) (k u : Nat) : (s.toMp k u).waiters = s.waiters := rfl
@[simp] theorem State.toMp_semRsps (s : State) (k u : Nat) : (s.toMp k u).semRsps = s.semRsps := rfl
@[simp] theorem State.toMp_strKeys (s : State) (k u : Nat) : (s.toMp k u).strKeys = s.strKeys := rfl
@[simp] theorem State.toMp_hangLevel (s : State) (k u : Nat) : (s.toMp k u).hangLevel = s.hangLevel := rfl
@[simp] theorem State.toMp_dcWire (s : State) (k u : Nat) : (s.toMp k u).dcWire = s.dcWire := rfl
@[simp] theorem State.toMp_strSegs (s : State) (k u : Nat) : (s.toMp k u).strSegs = s.strSegs := rfl
@[simp] theorem State.toMp_strCreds (s : State) (k u : Nat) : (s.toMp k u).strCreds = s.strCreds := rfl
@[simp] theorem State.toMp_ledgerMute (s : State) (k u : Nat) : (s.toMp k u).ledgerMute = s.ledgerMute := rfl
@[simp] theorem State.toMp_tagReleases (s : State) (k u : Nat) : (s.toMp k u).tagReleases = s.tagReleases := rfl
@[simp] theorem State.toMp_dozeHold (s : State) (k u : Nat) : (s.toMp k u).dozeHold = s.dozeHold := rfl
@[simp] theorem State.toMp_rotAt (s : State) (k u : Nat) : (s.toMp k u).rotAt = s.rotAt := rfl
@[simp] theorem State.toMp_goldNext (s : State) (k u : Nat) : (s.toMp k u).goldNext = s.goldNext := rfl
@[simp] theorem State.toMp_pastBooked (s : State) (k u : Nat) : (s.toMp k u).pastBooked = s.pastBooked := rfl
@[simp] theorem State.toMp_policy (s : State) (k u : Nat) : (s.toMp k u).policy = s.policy := rfl
@[simp] theorem State.toMp_buckets (s : State) (k u : Nat) : (s.toMp k u).buckets = s.buckets := rfl
@[simp] theorem State.toMp_turns (s : State) (k u : Nat) : (s.toMp k u).turns = s.turns := rfl
@[simp] theorem State.toMp_routes (s : State) (k u : Nat) : (s.toMp k u).routes = s.routes := rfl
@[simp] theorem State.toMp_notifyQ (s : State) (k u : Nat) : (s.toMp k u).notifyQ = s.notifyQ := rfl
@[simp] theorem State.toMp_links (s : State) (k u : Nat) : (s.toMp k u).links = s.links := rfl
@[simp] theorem State.toMp_laneOtp (s : State) (k u : Nat) : (s.toMp k u).laneOtp = s.laneOtp := rfl
@[simp] theorem State.toMp_hostProto (s : State) (k u : Nat) : (s.toMp k u).hostProto = s.hostProto := rfl
@[simp] theorem State.toMp_spnFixed (s : State) (k u : Nat) : (s.toMp k u).spnFixed = s.spnFixed := rfl
@[simp] theorem State.toMp_discovering (s : State) (k u : Nat) : (s.toMp k u).discovering = s.discovering := rfl
@[simp] theorem State.toMp_sports (s : State) (k u : Nat) : (s.toMp k u).sports = s.sports := rfl
@[simp] theorem State.toMp_pchOrd (s : State) (k u : Nat) : (s.toMp k u).pchOrd = s.pchOrd := rfl
@[simp] theorem State.toMp_drainUrg (s : State) (k u : Nat) : (s.toMp k u).drainUrg = s.drainUrg := rfl
@[simp] theorem State.toMp_drainNorm (s : State) (k u : Nat) : (s.toMp k u).drainNorm = s.drainNorm := rfl
@[simp] theorem State.toMp_trigNext (s : State) (k u : Nat) : (s.toMp k u).trigNext = s.trigNext := rfl
@[simp] theorem State.toMp_trigFired (s : State) (k u : Nat) : (s.toMp k u).trigFired = s.trigFired := rfl
@[simp] theorem State.toMp_trigPast (s : State) (k u : Nat) : (s.toMp k u).trigPast = s.trigPast := rfl
@[simp] theorem State.toMp_trigHiz (s : State) (k u : Nat) : (s.toMp k u).trigHiz = s.trigHiz := rfl
@[simp] theorem State.toMp_trigAt (s : State) (k u : Nat) : (s.toMp k u).trigAt = s.trigAt := rfl
@[simp] theorem State.toMp_trigLen (s : State) (k u : Nat) : (s.toMp k u).trigLen = s.trigLen := rfl
@[simp] theorem State.toMp_slew (s : State) (k u : Nat) : (s.toMp k u).slew = s.slew := rfl
@[simp] theorem State.toMp_slewTicks (s : State) (k u : Nat) : (s.toMp k u).slewTicks = s.slewTicks := rfl
@[simp] theorem State.toMp_lastSync (s : State) (k u : Nat) : (s.toMp k u).lastSync = s.lastSync := rfl
@[simp] theorem State.toMp_holdSince (s : State) (k u : Nat) : (s.toMp k u).holdSince = s.holdSince := rfl
@[simp] theorem State.toMp_calOn (s : State) (k u : Nat) : (s.toMp k u).calOn = s.calOn := rfl
@[simp] theorem State.toMp_calPend (s : State) (k u : Nat) : (s.toMp k u).calPend = s.calPend := rfl
@[simp] theorem State.toMp_imuIn (s : State) (k u : Nat) : (s.toMp k u).imuIn = s.imuIn := rfl
@[simp] theorem State.toMp_wheels (s : State) (k u : Nat) : (s.toMp k u).wheels = s.wheels := rfl
@[simp] theorem State.toMp_integ (s : State) (k u : Nat) : (s.toMp k u).integ = s.integ := rfl
@[simp] theorem State.toMp_poses (s : State) (k u : Nat) : (s.toMp k u).poses = s.poses := rfl
@[simp] theorem State.toMp_lidIn (s : State) (k u : Nat) : (s.toMp k u).lidIn = s.lidIn := rfl
@[simp] theorem State.toMp_jobs (s : State) (k u : Nat) : (s.toMp k u).jobs = s.jobs := rfl
@[simp] theorem State.toMp_proj (s : State) (k u : Nat) : (s.toMp k u).proj = s.proj := rfl
@[simp] theorem State.toMp_islands (s : State) (k u : Nat) : (s.toMp k u).islands = s.islands := rfl
@[simp] theorem State.toMp_mainBad (s : State) (k u : Nat) : (s.toMp k u).mainBad = s.mainBad := rfl
@[simp] theorem State.toMp_pllBad (s : State) (k u : Nat) : (s.toMp k u).pllBad = s.pllBad := rfl
@[simp] theorem State.toMp_trigBad (s : State) (k u : Nat) : (s.toMp k u).trigBad = s.trigBad := rfl
@[simp] theorem State.toMp_railsBad (s : State) (k u : Nat) : (s.toMp k u).railsBad = s.railsBad := rfl
@[simp] theorem State.toMp_stGo (s : State) (k u : Nat) : (s.toMp k u).stGo = s.stGo := rfl
@[simp] theorem State.toMp_stDone (s : State) (k u : Nat) : (s.toMp k u).stDone = s.stDone := rfl
@[simp] theorem State.toMp_unitImgs (s : State) (k u : Nat) : (s.toMp k u).unitImgs = s.unitImgs := rfl
@[simp] theorem State.toMp_otp (s : State) (k u : Nat) : (s.toMp k u).otp = s.otp := rfl
@[simp] theorem State.toMp_otpBad (s : State) (k u : Nat) : (s.toMp k u).otpBad = s.otpBad := rfl
@[simp] theorem State.toMp_flash (s : State) (k u : Nat) : (s.toMp k u).flash = s.flash := rfl
@[simp] theorem State.toMp_flashMb (s : State) (k u : Nat) : (s.toMp k u).flashMb = s.flashMb := rfl
@[simp] theorem State.toMp_flashOp (s : State) (k u : Nat) : (s.toMp k u).flashOp = s.flashOp := rfl
@[simp] theorem State.toMp_damaged (s : State) (k u : Nat) : (s.toMp k u).damaged = s.damaged := rfl
@[simp] theorem State.toMp_mailbox (s : State) (k u : Nat) : (s.toMp k u).mailbox = s.mailbox := rfl
@[simp] theorem State.toMp_upd (s : State) (k u : Nat) : (s.toMp k u).upd = s.upd := rfl
@[simp] theorem State.toMp_updNum (s : State) (k u : Nat) : (s.toMp k u).updNum = s.updNum := rfl
@[simp] theorem State.toMp_act (s : State) (k u : Nat) : (s.toMp k u).act = s.act := rfl
@[simp] theorem State.toMp_dieRst (s : State) (k u : Nat) : (s.toMp k u).dieRst = s.dieRst := rfl
@[simp] theorem State.toMp_rewrite (s : State) (k u : Nat) : (s.toMp k u).rewrite = s.rewrite := rfl
@[simp] theorem State.toMp_beatAt (s : State) (k u : Nat) : (s.toMp k u).beatAt = s.beatAt := rfl
@[simp] theorem State.toMp_linkEvAt (s : State) (k u : Nat) : (s.toMp k u).linkEvAt = s.linkEvAt := rfl
@[simp] theorem State.toMp_hardFault (s : State) (k u : Nat) : (s.toMp k u).hardFault = s.hardFault := rfl
@[simp] theorem State.toMp_td (s : State) (k u : Nat) : (s.toMp k u).td = s.td := rfl
@[simp] theorem State.toMp_dump (s : State) (k u : Nat) : (s.toMp k u).dump = s.dump := rfl
@[simp] theorem State.toMp_wdogDump (s : State) (k u : Nat) : (s.toMp k u).wdogDump = s.wdogDump := rfl
@[simp] theorem State.toMp_mpKick (s : State) (k u : Nat) : (s.toMp k u).mpKick = s.mpKick := rfl
@[simp] theorem State.toMp_txHold (s : State) (k u : Nat) : (s.toMp k u).txHold = s.txHold := rfl
@[simp] theorem State.toMp_powerOff (s : State) (k u : Nat) : (s.toMp k u).powerOff = s.powerOff := rfl
@[simp] theorem State.toMp_porstLow (s : State) (k u : Nat) : (s.toMp k u).porstLow = s.porstLow := rfl
@[simp] theorem State.toMp_tapIr (s : State) (k u : Nat) : (s.toMp k u).tapIr = s.tapIr := rfl
@[simp] theorem State.toMp_tapHeld (s : State) (k u : Nat) : (s.toMp k u).tapHeld = s.tapHeld := rfl
@[simp] theorem State.toMp_tapBsr (s : State) (k u : Nat) : (s.toMp k u).tapBsr = s.tapBsr := rfl
@[simp] theorem State.toMp_cluIdle (s : State) (k u : Nat) : (s.toMp k u).cluIdle = s.cluIdle := rfl
@[simp] theorem State.toMp_stallUs (s : State) (k u : Nat) : (s.toMp k u).stallUs = s.stallUs := rfl
@[simp] theorem State.toMp_filler (s : State) (k u : Nat) : (s.toMp k u).filler = s.filler := rfl
@[simp] theorem State.toMp_rampFill (s : State) (k u : Nat) : (s.toMp k u).rampFill = s.rampFill := rfl
@[simp] theorem State.toMp_railMv (s : State) (k u : Nat) : (s.toMp k u).railMv = s.railMv := rfl
@[simp] theorem State.toMp_tripped (s : State) (k u : Nat) : (s.toMp k u).tripped = s.tripped := rfl
@[simp] theorem State.toMp_snsExcl (s : State) (k u : Nat) : (s.toMp k u).snsExcl = s.snsExcl := rfl
@[simp] theorem State.toMp_pairT (s : State) (k u : Nat) : (s.toMp k u).pairT = s.pairT := rfl
@[simp] theorem State.toMp_hotAt (s : State) (k u : Nat) : (s.toMp k u).hotAt = s.hotAt := rfl
@[simp] theorem State.toMp_thermDies (s : State) (k u : Nat) : (s.toMp k u).thermDies = s.thermDies := rfl
@[simp] theorem State.toMp_noBook (s : State) (k u : Nat) : (s.toMp k u).noBook = s.noBook := rfl
@[simp] theorem State.toMp_agSeq (s : State) (k u : Nat) : (s.toMp k u).agSeq = s.agSeq := rfl
@[simp] theorem State.toMp_agBudgetAt (s : State) (k u : Nat) : (s.toMp k u).agBudgetAt = s.agBudgetAt := rfl
@[simp] theorem State.toMp_holdSig (s : State) (k u : Nat) : (s.toMp k u).holdSig = s.holdSig := rfl
@[simp] theorem State.toMp_draws (s : State) (k u : Nat) : (s.toMp k u).draws = s.draws := rfl
@[simp] theorem State.toMp_overAt (s : State) (k u : Nat) : (s.toMp k u).overAt = s.overAt := rfl
@[simp] theorem State.toMp_owing (s : State) (k u : Nat) : (s.toMp k u).owing = s.owing := rfl
@[simp] theorem State.toMp_agRot (s : State) (k u : Nat) : (s.toMp k u).agRot = s.agRot := rfl
@[simp] theorem State.toMp_dieReps (s : State) (k u : Nat) : (s.toMp k u).dieReps = s.dieReps := rfl
@[simp] theorem State.toMp_budgetMsgs (s : State) (k u : Nat) : (s.toMp k u).budgetMsgs = s.budgetMsgs := rfl
@[simp] theorem State.toMp_clampMsgs (s : State) (k u : Nat) : (s.toMp k u).clampMsgs = s.clampMsgs := rfl
@[simp] theorem State.toMp_hthBudget (s : State) (k u : Nat) : (s.toMp k u).hthBudget = s.hthBudget := rfl
@[simp] theorem State.toMp_charges (s : State) (k u : Nat) : (s.toMp k u).charges = s.charges := rfl
@[simp] theorem State.toMp_busBad (s : State) (k u : Nat) : (s.toMp k u).busBad = s.busBad := rfl
@[simp] theorem State.toMp_dieCap (s : State) (k u : Nat) : (s.toMp k u).dieCap = s.dieCap := rfl
@[simp] theorem State.toMp_capAt (s : State) (k u : Nat) : (s.toMp k u).capAt = s.capAt := rfl
@[simp] theorem State.toMp_shortBy (s : State) (k u : Nat) : (s.toMp k u).shortBy = s.shortBy := rfl
@[simp] theorem State.toMp_shortSince (s : State) (k u : Nat) : (s.toMp k u).shortSince = s.shortSince := rfl
@[simp] theorem State.toMp_flowPeriods (s : State) (k u : Nat) : (s.toMp k u).flowPeriods = s.flowPeriods := rfl
@[simp] theorem State.toMp_flowLast (s : State) (k u : Nat) : (s.toMp k u).flowLast = s.flowLast := rfl
@[simp] theorem State.toMp_flowExcl (s : State) (k u : Nat) : (s.toMp k u).flowExcl = s.flowExcl := rfl
@[simp] theorem State.toMp_outSamples (s : State) (k u : Nat) : (s.toMp k u).outSamples = s.outSamples := rfl
@[simp] theorem State.toMp_advs (s : State) (k u : Nat) : (s.toMp k u).advs = s.advs := rfl
@[simp] theorem State.toMp_coolBadAt (s : State) (k u : Nat) : (s.toMp k u).coolBadAt = s.coolBadAt := rfl
@[simp] theorem State.toMp_napWait (s : State) (k u : Nat) : (s.toMp k u).napWait = s.napWait := rfl
@[simp] theorem State.toMp_cellar (s : State) (k u : Nat) : (s.toMp k u).cellar = s.cellar := rfl
@[simp] theorem State.toMp_dark (s : State) (k u : Nat) : (s.toMp k u).dark = s.dark := rfl
@[simp] theorem State.toMp_reports (s : State) (k u : Nat) : (s.toMp k u).reports = s.reports := rfl
@[simp] theorem State.toMp_emits (s : State) (k u : Nat) : (s.toMp k u).emits = s.emits := rfl
@[simp] theorem State.toMp_reqs (s : State) (k u : Nat) : (s.toMp k u).reqs = s.reqs := rfl
@[simp] theorem State.toMp_resps (s : State) (k u : Nat) : (s.toMp k u).resps = s.resps := rfl

/-! ### State.emit -/

@[simp] theorem State.emit_part (s : State) (k : String) (d : Nat) (ws : List Nat) : (s.emit k d ws).part = s.part := rfl
@[simp] theorem State.emit_pending (s : State) (k : String) (d : Nat) (ws : List Nat) : (s.emit k d ws).pending = s.pending := rfl
@[simp] theorem State.emit_regs (s : State) (k : String) (d : Nat) (ws : List Nat) : (s.emit k d ws).regs = s.regs := rfl
@[simp] theorem State.emit_mem (s : State) (k : String) (d : Nat) (ws : List Nat) : (s.emit k d ws).mem = s.mem := rfl
@[simp] theorem State.emit_undef (s : State) (k : String) (d : Nat) (ws : List Nat) : (s.emit k d ws).undef = s.undef := rfl
@[simp] theorem State.emit_fresh (s : State) (k : String) (d : Nat) (ws : List Nat) : (s.emit k d ws).fresh = s.fresh := rfl
@[simp] theorem State.emit_latched (s : State) (k : String) (d : Nat) (ws : List Nat) : (s.emit k d ws).latched = s.latched := rfl
@[simp] theorem State.emit_sram (s : State) (k : String) (d : Nat) (ws : List Nat) : (s.emit k d ws).sram = s.sram := rfl
@[simp] theorem State.emit_dram (s : State) (k : String) (d : Nat) (ws : List Nat) : (s.emit k d ws).dram = s.dram := rfl
@[simp] theorem State.emit_elogSeq (s : State) (k : String) (d : Nat) (ws : List Nat) : (s.emit k d ws).elogSeq = s.elogSeq := rfl
@[simp] theorem State.emit_injCount (s : State) (k : String) (d : Nat) (ws : List Nat) : (s.emit k d ws).injCount = s.injCount := rfl
@[simp] theorem State.emit_openRows (s : State) (k : String) (d : Nat) (ws : List Nat) : (s.emit k d ws).openRows = s.openRows := rfl
@[simp] theorem State.emit_patrolPos (s : State) (k : String) (d : Nat) (ws : List Nat) : (s.emit k d ws).patrolPos = s.patrolPos := rfl
@[simp] theorem State.emit_patrolRef (s : State) (k : String) (d : Nat) (ws : List Nat) : (s.emit k d ws).patrolRef = s.patrolRef := rfl
@[simp] theorem State.emit_checkBurst (s : State) (k : String) (d : Nat) (ws : List Nat) : (s.emit k d ws).checkBurst = s.checkBurst := rfl
@[simp] theorem State.emit_scheds (s : State) (k : String) (d : Nat) (ws : List Nat) : (s.emit k d ws).scheds = s.scheds := rfl
@[simp] theorem State.emit_training (s : State) (k : String) (d : Nat) (ws : List Nat) : (s.emit k d ws).training = s.training := rfl
@[simp] theorem State.emit_sc (s : State) (k : String) (d : Nat) (ws : List Nat) : (s.emit k d ws).sc = s.sc := rfl
@[simp] theorem State.emit_scSects (s : State) (k : String) (d : Nat) (ws : List Nat) : (s.emit k d ws).scSects = s.scSects := rfl
@[simp] theorem State.emit_engs (s : State) (k : String) (d : Nat) (ws : List Nat) : (s.emit k d ws).engs = s.engs := rfl
@[simp] theorem State.emit_cores (s : State) (k : String) (d : Nat) (ws : List Nat) : (s.emit k d ws).cores = s.cores := rfl
@[simp] theorem State.emit_panHead (s : State) (k : String) (d : Nat) (ws : List Nat) : (s.emit k d ws).panHead = s.panHead := rfl
@[simp] theorem State.emit_ptRuns (s : State) (k : String) (d : Nat) (ws : List Nat) : (s.emit k d ws).ptRuns = s.ptRuns := rfl
@[simp] theorem State.emit_tcmds (s : State) (k : String) (d : Nat) (ws : List Nat) : (s.emit k d ws).tcmds = s.tcmds := rfl
@[simp] theorem State.emit_atts (s : State) (k : String) (d : Nat) (ws : List Nat) : (s.emit k d ws).atts = s.atts := rfl
@[simp] theorem State.emit_cmds (s : State) (k : String) (d : Nat) (ws : List Nat) : (s.emit k d ws).cmds = s.cmds := rfl
@[simp] theorem State.emit_tagGens (s : State) (k : String) (d : Nat) (ws : List Nat) : (s.emit k d ws).tagGens = s.tagGens := rfl
@[simp] theorem State.emit_orderNext (s : State) (k : String) (d : Nat) (ws : List Nat) : (s.emit k d ws).orderNext = s.orderNext := rfl
@[simp] theorem State.emit_ctxs (s : State) (k : String) (d : Nat) (ws : List Nat) : (s.emit k d ws).ctxs = s.ctxs := rfl
@[simp] theorem State.emit_qcache (s : State) (k : String) (d : Nat) (ws : List Nat) : (s.emit k d ws).qcache = s.qcache := rfl
@[simp] theorem State.emit_qready (s : State) (k : String) (d : Nat) (ws : List Nat) : (s.emit k d ws).qready = s.qready := rfl
@[simp] theorem State.emit_cqs (s : State) (k : String) (d : Nat) (ws : List Nat) : (s.emit k d ws).cqs = s.cqs := rfl
@[simp] theorem State.emit_cqUsed (s : State) (k : String) (d : Nat) (ws : List Nat) : (s.emit k d ws).cqUsed = s.cqUsed := rfl
@[simp] theorem State.emit_cqNotes (s : State) (k : String) (d : Nat) (ws : List Nat) : (s.emit k d ws).cqNotes = s.cqNotes := rfl
@[simp] theorem State.emit_pendDb (s : State) (k : String) (d : Nat) (ws : List Nat) : (s.emit k d ws).pendDb = s.pendDb := rfl
@[simp] theorem State.emit_vc0 (s : State) (k : String) (d : Nat) (ws : List Nat) : (s.emit k d ws).vc0 = s.vc0 := rfl
@[simp] theorem State.emit_images (s : State) (k : String) (d : Nat) (ws : List Nat) : (s.emit k d ws).images = s.images := rfl
@[simp] theorem State.emit_resvs (s : State) (k : String) (d : Nat) (ws : List Nat) : (s.emit k d ws).resvs = s.resvs := rfl
@[simp] theorem State.emit_events (s : State) (k : String) (d : Nat) (ws : List Nat) : (s.emit k d ws).events = s.events := rfl
@[simp] theorem State.emit_eventsLost (s : State) (k : String) (d : Nat) (ws : List Nat) : (s.emit k d ws).eventsLost = s.eventsLost := rfl
@[simp] theorem State.emit_eventSeq (s : State) (k : String) (d : Nat) (ws : List Nat) : (s.emit k d ws).eventSeq = s.eventSeq := rfl
@[simp] theorem State.emit_semMsgs (s : State) (k : String) (d : Nat) (ws : List Nat) : (s.emit k d ws).semMsgs = s.semMsgs := rfl
@[simp] theorem State.emit_waiters (s : State) (k : String) (d : Nat) (ws : List Nat) : (s.emit k d ws).waiters = s.waiters := rfl
@[simp] theorem State.emit_semRsps (s : State) (k : String) (d : Nat) (ws : List Nat) : (s.emit k d ws).semRsps = s.semRsps := rfl
@[simp] theorem State.emit_strKeys (s : State) (k : String) (d : Nat) (ws : List Nat) : (s.emit k d ws).strKeys = s.strKeys := rfl
@[simp] theorem State.emit_hangLevel (s : State) (k : String) (d : Nat) (ws : List Nat) : (s.emit k d ws).hangLevel = s.hangLevel := rfl
@[simp] theorem State.emit_dcWire (s : State) (k : String) (d : Nat) (ws : List Nat) : (s.emit k d ws).dcWire = s.dcWire := rfl
@[simp] theorem State.emit_strSegs (s : State) (k : String) (d : Nat) (ws : List Nat) : (s.emit k d ws).strSegs = s.strSegs := rfl
@[simp] theorem State.emit_strCreds (s : State) (k : String) (d : Nat) (ws : List Nat) : (s.emit k d ws).strCreds = s.strCreds := rfl
@[simp] theorem State.emit_ledgerMute (s : State) (k : String) (d : Nat) (ws : List Nat) : (s.emit k d ws).ledgerMute = s.ledgerMute := rfl
@[simp] theorem State.emit_tagReleases (s : State) (k : String) (d : Nat) (ws : List Nat) : (s.emit k d ws).tagReleases = s.tagReleases := rfl
@[simp] theorem State.emit_dozeHold (s : State) (k : String) (d : Nat) (ws : List Nat) : (s.emit k d ws).dozeHold = s.dozeHold := rfl
@[simp] theorem State.emit_rotAt (s : State) (k : String) (d : Nat) (ws : List Nat) : (s.emit k d ws).rotAt = s.rotAt := rfl
@[simp] theorem State.emit_goldNext (s : State) (k : String) (d : Nat) (ws : List Nat) : (s.emit k d ws).goldNext = s.goldNext := rfl
@[simp] theorem State.emit_pastBooked (s : State) (k : String) (d : Nat) (ws : List Nat) : (s.emit k d ws).pastBooked = s.pastBooked := rfl
@[simp] theorem State.emit_policy (s : State) (k : String) (d : Nat) (ws : List Nat) : (s.emit k d ws).policy = s.policy := rfl
@[simp] theorem State.emit_buckets (s : State) (k : String) (d : Nat) (ws : List Nat) : (s.emit k d ws).buckets = s.buckets := rfl
@[simp] theorem State.emit_turns (s : State) (k : String) (d : Nat) (ws : List Nat) : (s.emit k d ws).turns = s.turns := rfl
@[simp] theorem State.emit_routes (s : State) (k : String) (d : Nat) (ws : List Nat) : (s.emit k d ws).routes = s.routes := rfl
@[simp] theorem State.emit_notifyQ (s : State) (k : String) (d : Nat) (ws : List Nat) : (s.emit k d ws).notifyQ = s.notifyQ := rfl
@[simp] theorem State.emit_links (s : State) (k : String) (d : Nat) (ws : List Nat) : (s.emit k d ws).links = s.links := rfl
@[simp] theorem State.emit_laneOtp (s : State) (k : String) (d : Nat) (ws : List Nat) : (s.emit k d ws).laneOtp = s.laneOtp := rfl
@[simp] theorem State.emit_hostProto (s : State) (k : String) (d : Nat) (ws : List Nat) : (s.emit k d ws).hostProto = s.hostProto := rfl
@[simp] theorem State.emit_spnFixed (s : State) (k : String) (d : Nat) (ws : List Nat) : (s.emit k d ws).spnFixed = s.spnFixed := rfl
@[simp] theorem State.emit_discovering (s : State) (k : String) (d : Nat) (ws : List Nat) : (s.emit k d ws).discovering = s.discovering := rfl
@[simp] theorem State.emit_sports (s : State) (k : String) (d : Nat) (ws : List Nat) : (s.emit k d ws).sports = s.sports := rfl
@[simp] theorem State.emit_pchOrd (s : State) (k : String) (d : Nat) (ws : List Nat) : (s.emit k d ws).pchOrd = s.pchOrd := rfl
@[simp] theorem State.emit_drainUrg (s : State) (k : String) (d : Nat) (ws : List Nat) : (s.emit k d ws).drainUrg = s.drainUrg := rfl
@[simp] theorem State.emit_drainNorm (s : State) (k : String) (d : Nat) (ws : List Nat) : (s.emit k d ws).drainNorm = s.drainNorm := rfl
@[simp] theorem State.emit_trigNext (s : State) (k : String) (d : Nat) (ws : List Nat) : (s.emit k d ws).trigNext = s.trigNext := rfl
@[simp] theorem State.emit_trigFired (s : State) (k : String) (d : Nat) (ws : List Nat) : (s.emit k d ws).trigFired = s.trigFired := rfl
@[simp] theorem State.emit_trigPast (s : State) (k : String) (d : Nat) (ws : List Nat) : (s.emit k d ws).trigPast = s.trigPast := rfl
@[simp] theorem State.emit_trigHiz (s : State) (k : String) (d : Nat) (ws : List Nat) : (s.emit k d ws).trigHiz = s.trigHiz := rfl
@[simp] theorem State.emit_trigAt (s : State) (k : String) (d : Nat) (ws : List Nat) : (s.emit k d ws).trigAt = s.trigAt := rfl
@[simp] theorem State.emit_trigLen (s : State) (k : String) (d : Nat) (ws : List Nat) : (s.emit k d ws).trigLen = s.trigLen := rfl
@[simp] theorem State.emit_slew (s : State) (k : String) (d : Nat) (ws : List Nat) : (s.emit k d ws).slew = s.slew := rfl
@[simp] theorem State.emit_slewTicks (s : State) (k : String) (d : Nat) (ws : List Nat) : (s.emit k d ws).slewTicks = s.slewTicks := rfl
@[simp] theorem State.emit_lastSync (s : State) (k : String) (d : Nat) (ws : List Nat) : (s.emit k d ws).lastSync = s.lastSync := rfl
@[simp] theorem State.emit_holdSince (s : State) (k : String) (d : Nat) (ws : List Nat) : (s.emit k d ws).holdSince = s.holdSince := rfl
@[simp] theorem State.emit_calOn (s : State) (k : String) (d : Nat) (ws : List Nat) : (s.emit k d ws).calOn = s.calOn := rfl
@[simp] theorem State.emit_calPend (s : State) (k : String) (d : Nat) (ws : List Nat) : (s.emit k d ws).calPend = s.calPend := rfl
@[simp] theorem State.emit_imuIn (s : State) (k : String) (d : Nat) (ws : List Nat) : (s.emit k d ws).imuIn = s.imuIn := rfl
@[simp] theorem State.emit_wheels (s : State) (k : String) (d : Nat) (ws : List Nat) : (s.emit k d ws).wheels = s.wheels := rfl
@[simp] theorem State.emit_integ (s : State) (k : String) (d : Nat) (ws : List Nat) : (s.emit k d ws).integ = s.integ := rfl
@[simp] theorem State.emit_poses (s : State) (k : String) (d : Nat) (ws : List Nat) : (s.emit k d ws).poses = s.poses := rfl
@[simp] theorem State.emit_lidIn (s : State) (k : String) (d : Nat) (ws : List Nat) : (s.emit k d ws).lidIn = s.lidIn := rfl
@[simp] theorem State.emit_jobs (s : State) (k : String) (d : Nat) (ws : List Nat) : (s.emit k d ws).jobs = s.jobs := rfl
@[simp] theorem State.emit_proj (s : State) (k : String) (d : Nat) (ws : List Nat) : (s.emit k d ws).proj = s.proj := rfl
@[simp] theorem State.emit_islands (s : State) (k : String) (d : Nat) (ws : List Nat) : (s.emit k d ws).islands = s.islands := rfl
@[simp] theorem State.emit_mainBad (s : State) (k : String) (d : Nat) (ws : List Nat) : (s.emit k d ws).mainBad = s.mainBad := rfl
@[simp] theorem State.emit_pllBad (s : State) (k : String) (d : Nat) (ws : List Nat) : (s.emit k d ws).pllBad = s.pllBad := rfl
@[simp] theorem State.emit_trigBad (s : State) (k : String) (d : Nat) (ws : List Nat) : (s.emit k d ws).trigBad = s.trigBad := rfl
@[simp] theorem State.emit_railsBad (s : State) (k : String) (d : Nat) (ws : List Nat) : (s.emit k d ws).railsBad = s.railsBad := rfl
@[simp] theorem State.emit_stGo (s : State) (k : String) (d : Nat) (ws : List Nat) : (s.emit k d ws).stGo = s.stGo := rfl
@[simp] theorem State.emit_stDone (s : State) (k : String) (d : Nat) (ws : List Nat) : (s.emit k d ws).stDone = s.stDone := rfl
@[simp] theorem State.emit_unitImgs (s : State) (k : String) (d : Nat) (ws : List Nat) : (s.emit k d ws).unitImgs = s.unitImgs := rfl
@[simp] theorem State.emit_otp (s : State) (k : String) (d : Nat) (ws : List Nat) : (s.emit k d ws).otp = s.otp := rfl
@[simp] theorem State.emit_otpBad (s : State) (k : String) (d : Nat) (ws : List Nat) : (s.emit k d ws).otpBad = s.otpBad := rfl
@[simp] theorem State.emit_flash (s : State) (k : String) (d : Nat) (ws : List Nat) : (s.emit k d ws).flash = s.flash := rfl
@[simp] theorem State.emit_flashMb (s : State) (k : String) (d : Nat) (ws : List Nat) : (s.emit k d ws).flashMb = s.flashMb := rfl
@[simp] theorem State.emit_flashOp (s : State) (k : String) (d : Nat) (ws : List Nat) : (s.emit k d ws).flashOp = s.flashOp := rfl
@[simp] theorem State.emit_damaged (s : State) (k : String) (d : Nat) (ws : List Nat) : (s.emit k d ws).damaged = s.damaged := rfl
@[simp] theorem State.emit_mailbox (s : State) (k : String) (d : Nat) (ws : List Nat) : (s.emit k d ws).mailbox = s.mailbox := rfl
@[simp] theorem State.emit_upd (s : State) (k : String) (d : Nat) (ws : List Nat) : (s.emit k d ws).upd = s.upd := rfl
@[simp] theorem State.emit_updNum (s : State) (k : String) (d : Nat) (ws : List Nat) : (s.emit k d ws).updNum = s.updNum := rfl
@[simp] theorem State.emit_act (s : State) (k : String) (d : Nat) (ws : List Nat) : (s.emit k d ws).act = s.act := rfl
@[simp] theorem State.emit_dieRst (s : State) (k : String) (d : Nat) (ws : List Nat) : (s.emit k d ws).dieRst = s.dieRst := rfl
@[simp] theorem State.emit_rewrite (s : State) (k : String) (d : Nat) (ws : List Nat) : (s.emit k d ws).rewrite = s.rewrite := rfl
@[simp] theorem State.emit_beatAt (s : State) (k : String) (d : Nat) (ws : List Nat) : (s.emit k d ws).beatAt = s.beatAt := rfl
@[simp] theorem State.emit_linkEvAt (s : State) (k : String) (d : Nat) (ws : List Nat) : (s.emit k d ws).linkEvAt = s.linkEvAt := rfl
@[simp] theorem State.emit_hardFault (s : State) (k : String) (d : Nat) (ws : List Nat) : (s.emit k d ws).hardFault = s.hardFault := rfl
@[simp] theorem State.emit_td (s : State) (k : String) (d : Nat) (ws : List Nat) : (s.emit k d ws).td = s.td := rfl
@[simp] theorem State.emit_dump (s : State) (k : String) (d : Nat) (ws : List Nat) : (s.emit k d ws).dump = s.dump := rfl
@[simp] theorem State.emit_wdogDump (s : State) (k : String) (d : Nat) (ws : List Nat) : (s.emit k d ws).wdogDump = s.wdogDump := rfl
@[simp] theorem State.emit_mpKick (s : State) (k : String) (d : Nat) (ws : List Nat) : (s.emit k d ws).mpKick = s.mpKick := rfl
@[simp] theorem State.emit_txHold (s : State) (k : String) (d : Nat) (ws : List Nat) : (s.emit k d ws).txHold = s.txHold := rfl
@[simp] theorem State.emit_powerOff (s : State) (k : String) (d : Nat) (ws : List Nat) : (s.emit k d ws).powerOff = s.powerOff := rfl
@[simp] theorem State.emit_porstLow (s : State) (k : String) (d : Nat) (ws : List Nat) : (s.emit k d ws).porstLow = s.porstLow := rfl
@[simp] theorem State.emit_tapIr (s : State) (k : String) (d : Nat) (ws : List Nat) : (s.emit k d ws).tapIr = s.tapIr := rfl
@[simp] theorem State.emit_tapHeld (s : State) (k : String) (d : Nat) (ws : List Nat) : (s.emit k d ws).tapHeld = s.tapHeld := rfl
@[simp] theorem State.emit_tapBsr (s : State) (k : String) (d : Nat) (ws : List Nat) : (s.emit k d ws).tapBsr = s.tapBsr := rfl
@[simp] theorem State.emit_cluIdle (s : State) (k : String) (d : Nat) (ws : List Nat) : (s.emit k d ws).cluIdle = s.cluIdle := rfl
@[simp] theorem State.emit_stallUs (s : State) (k : String) (d : Nat) (ws : List Nat) : (s.emit k d ws).stallUs = s.stallUs := rfl
@[simp] theorem State.emit_filler (s : State) (k : String) (d : Nat) (ws : List Nat) : (s.emit k d ws).filler = s.filler := rfl
@[simp] theorem State.emit_rampFill (s : State) (k : String) (d : Nat) (ws : List Nat) : (s.emit k d ws).rampFill = s.rampFill := rfl
@[simp] theorem State.emit_railMv (s : State) (k : String) (d : Nat) (ws : List Nat) : (s.emit k d ws).railMv = s.railMv := rfl
@[simp] theorem State.emit_tripped (s : State) (k : String) (d : Nat) (ws : List Nat) : (s.emit k d ws).tripped = s.tripped := rfl
@[simp] theorem State.emit_snsExcl (s : State) (k : String) (d : Nat) (ws : List Nat) : (s.emit k d ws).snsExcl = s.snsExcl := rfl
@[simp] theorem State.emit_pairT (s : State) (k : String) (d : Nat) (ws : List Nat) : (s.emit k d ws).pairT = s.pairT := rfl
@[simp] theorem State.emit_hotAt (s : State) (k : String) (d : Nat) (ws : List Nat) : (s.emit k d ws).hotAt = s.hotAt := rfl
@[simp] theorem State.emit_thermDies (s : State) (k : String) (d : Nat) (ws : List Nat) : (s.emit k d ws).thermDies = s.thermDies := rfl
@[simp] theorem State.emit_noBook (s : State) (k : String) (d : Nat) (ws : List Nat) : (s.emit k d ws).noBook = s.noBook := rfl
@[simp] theorem State.emit_agSeq (s : State) (k : String) (d : Nat) (ws : List Nat) : (s.emit k d ws).agSeq = s.agSeq := rfl
@[simp] theorem State.emit_agBudgetAt (s : State) (k : String) (d : Nat) (ws : List Nat) : (s.emit k d ws).agBudgetAt = s.agBudgetAt := rfl
@[simp] theorem State.emit_holdSig (s : State) (k : String) (d : Nat) (ws : List Nat) : (s.emit k d ws).holdSig = s.holdSig := rfl
@[simp] theorem State.emit_draws (s : State) (k : String) (d : Nat) (ws : List Nat) : (s.emit k d ws).draws = s.draws := rfl
@[simp] theorem State.emit_overAt (s : State) (k : String) (d : Nat) (ws : List Nat) : (s.emit k d ws).overAt = s.overAt := rfl
@[simp] theorem State.emit_owing (s : State) (k : String) (d : Nat) (ws : List Nat) : (s.emit k d ws).owing = s.owing := rfl
@[simp] theorem State.emit_agRot (s : State) (k : String) (d : Nat) (ws : List Nat) : (s.emit k d ws).agRot = s.agRot := rfl
@[simp] theorem State.emit_dieReps (s : State) (k : String) (d : Nat) (ws : List Nat) : (s.emit k d ws).dieReps = s.dieReps := rfl
@[simp] theorem State.emit_budgetMsgs (s : State) (k : String) (d : Nat) (ws : List Nat) : (s.emit k d ws).budgetMsgs = s.budgetMsgs := rfl
@[simp] theorem State.emit_clampMsgs (s : State) (k : String) (d : Nat) (ws : List Nat) : (s.emit k d ws).clampMsgs = s.clampMsgs := rfl
@[simp] theorem State.emit_hthBudget (s : State) (k : String) (d : Nat) (ws : List Nat) : (s.emit k d ws).hthBudget = s.hthBudget := rfl
@[simp] theorem State.emit_charges (s : State) (k : String) (d : Nat) (ws : List Nat) : (s.emit k d ws).charges = s.charges := rfl
@[simp] theorem State.emit_busBad (s : State) (k : String) (d : Nat) (ws : List Nat) : (s.emit k d ws).busBad = s.busBad := rfl
@[simp] theorem State.emit_dieCap (s : State) (k : String) (d : Nat) (ws : List Nat) : (s.emit k d ws).dieCap = s.dieCap := rfl
@[simp] theorem State.emit_capAt (s : State) (k : String) (d : Nat) (ws : List Nat) : (s.emit k d ws).capAt = s.capAt := rfl
@[simp] theorem State.emit_shortBy (s : State) (k : String) (d : Nat) (ws : List Nat) : (s.emit k d ws).shortBy = s.shortBy := rfl
@[simp] theorem State.emit_shortSince (s : State) (k : String) (d : Nat) (ws : List Nat) : (s.emit k d ws).shortSince = s.shortSince := rfl
@[simp] theorem State.emit_flowPeriods (s : State) (k : String) (d : Nat) (ws : List Nat) : (s.emit k d ws).flowPeriods = s.flowPeriods := rfl
@[simp] theorem State.emit_flowLast (s : State) (k : String) (d : Nat) (ws : List Nat) : (s.emit k d ws).flowLast = s.flowLast := rfl
@[simp] theorem State.emit_flowExcl (s : State) (k : String) (d : Nat) (ws : List Nat) : (s.emit k d ws).flowExcl = s.flowExcl := rfl
@[simp] theorem State.emit_outSamples (s : State) (k : String) (d : Nat) (ws : List Nat) : (s.emit k d ws).outSamples = s.outSamples := rfl
@[simp] theorem State.emit_advs (s : State) (k : String) (d : Nat) (ws : List Nat) : (s.emit k d ws).advs = s.advs := rfl
@[simp] theorem State.emit_coolBadAt (s : State) (k : String) (d : Nat) (ws : List Nat) : (s.emit k d ws).coolBadAt = s.coolBadAt := rfl
@[simp] theorem State.emit_napWait (s : State) (k : String) (d : Nat) (ws : List Nat) : (s.emit k d ws).napWait = s.napWait := rfl
@[simp] theorem State.emit_cellar (s : State) (k : String) (d : Nat) (ws : List Nat) : (s.emit k d ws).cellar = s.cellar := rfl
@[simp] theorem State.emit_dark (s : State) (k : String) (d : Nat) (ws : List Nat) : (s.emit k d ws).dark = s.dark := rfl
@[simp] theorem State.emit_reports (s : State) (k : String) (d : Nat) (ws : List Nat) : (s.emit k d ws).reports = s.reports := rfl
@[simp] theorem State.emit_mpEvents (s : State) (k : String) (d : Nat) (ws : List Nat) : (s.emit k d ws).mpEvents = s.mpEvents := rfl
@[simp] theorem State.emit_reqs (s : State) (k : String) (d : Nat) (ws : List Nat) : (s.emit k d ws).reqs = s.reqs := rfl
@[simp] theorem State.emit_resps (s : State) (k : String) (d : Nat) (ws : List Nat) : (s.emit k d ws).resps = s.resps := rfl

/-! ### State.retired -/

@[simp] theorem State.retired_part (s : State) (k : Nat) : (s.retired k).part = s.part := rfl
@[simp] theorem State.retired_pending (s : State) (k : Nat) : (s.retired k).pending = s.pending := rfl
@[simp] theorem State.retired_regs (s : State) (k : Nat) : (s.retired k).regs = s.regs := rfl
@[simp] theorem State.retired_mem (s : State) (k : Nat) : (s.retired k).mem = s.mem := rfl
@[simp] theorem State.retired_undef (s : State) (k : Nat) : (s.retired k).undef = s.undef := rfl
@[simp] theorem State.retired_fresh (s : State) (k : Nat) : (s.retired k).fresh = s.fresh := rfl
@[simp] theorem State.retired_latched (s : State) (k : Nat) : (s.retired k).latched = s.latched := rfl
@[simp] theorem State.retired_sram (s : State) (k : Nat) : (s.retired k).sram = s.sram := rfl
@[simp] theorem State.retired_dram (s : State) (k : Nat) : (s.retired k).dram = s.dram := rfl
@[simp] theorem State.retired_elogSeq (s : State) (k : Nat) : (s.retired k).elogSeq = s.elogSeq := rfl
@[simp] theorem State.retired_injCount (s : State) (k : Nat) : (s.retired k).injCount = s.injCount := rfl
@[simp] theorem State.retired_openRows (s : State) (k : Nat) : (s.retired k).openRows = s.openRows := rfl
@[simp] theorem State.retired_patrolPos (s : State) (k : Nat) : (s.retired k).patrolPos = s.patrolPos := rfl
@[simp] theorem State.retired_patrolRef (s : State) (k : Nat) : (s.retired k).patrolRef = s.patrolRef := rfl
@[simp] theorem State.retired_checkBurst (s : State) (k : Nat) : (s.retired k).checkBurst = s.checkBurst := rfl
@[simp] theorem State.retired_scheds (s : State) (k : Nat) : (s.retired k).scheds = s.scheds := rfl
@[simp] theorem State.retired_training (s : State) (k : Nat) : (s.retired k).training = s.training := rfl
@[simp] theorem State.retired_sc (s : State) (k : Nat) : (s.retired k).sc = s.sc := rfl
@[simp] theorem State.retired_scSects (s : State) (k : Nat) : (s.retired k).scSects = s.scSects := rfl
@[simp] theorem State.retired_engs (s : State) (k : Nat) : (s.retired k).engs = s.engs := rfl
@[simp] theorem State.retired_cores (s : State) (k : Nat) : (s.retired k).cores = s.cores := rfl
@[simp] theorem State.retired_panHead (s : State) (k : Nat) : (s.retired k).panHead = s.panHead := rfl
@[simp] theorem State.retired_ptRuns (s : State) (k : Nat) : (s.retired k).ptRuns = s.ptRuns := rfl
@[simp] theorem State.retired_tcmds (s : State) (k : Nat) : (s.retired k).tcmds = s.tcmds := rfl
@[simp] theorem State.retired_atts (s : State) (k : Nat) : (s.retired k).atts = s.atts := rfl
@[simp] theorem State.retired_cmds (s : State) (k : Nat) : (s.retired k).cmds = s.cmds := rfl
@[simp] theorem State.retired_tagGens (s : State) (k : Nat) : (s.retired k).tagGens = s.tagGens := rfl
@[simp] theorem State.retired_orderNext (s : State) (k : Nat) : (s.retired k).orderNext = s.orderNext := rfl
@[simp] theorem State.retired_ctxs (s : State) (k : Nat) : (s.retired k).ctxs = s.ctxs := rfl
@[simp] theorem State.retired_qcache (s : State) (k : Nat) : (s.retired k).qcache = s.qcache := rfl
@[simp] theorem State.retired_qready (s : State) (k : Nat) : (s.retired k).qready = s.qready := rfl
@[simp] theorem State.retired_cqs (s : State) (k : Nat) : (s.retired k).cqs = s.cqs := rfl
@[simp] theorem State.retired_cqUsed (s : State) (k : Nat) : (s.retired k).cqUsed = s.cqUsed := rfl
@[simp] theorem State.retired_cqNotes (s : State) (k : Nat) : (s.retired k).cqNotes = s.cqNotes := rfl
@[simp] theorem State.retired_pendDb (s : State) (k : Nat) : (s.retired k).pendDb = s.pendDb := rfl
@[simp] theorem State.retired_vc0 (s : State) (k : Nat) : (s.retired k).vc0 = s.vc0 := rfl
@[simp] theorem State.retired_images (s : State) (k : Nat) : (s.retired k).images = s.images := rfl
@[simp] theorem State.retired_resvs (s : State) (k : Nat) : (s.retired k).resvs = s.resvs := rfl
@[simp] theorem State.retired_events (s : State) (k : Nat) : (s.retired k).events = s.events := rfl
@[simp] theorem State.retired_eventsLost (s : State) (k : Nat) : (s.retired k).eventsLost = s.eventsLost := rfl
@[simp] theorem State.retired_eventSeq (s : State) (k : Nat) : (s.retired k).eventSeq = s.eventSeq := rfl
@[simp] theorem State.retired_semMsgs (s : State) (k : Nat) : (s.retired k).semMsgs = s.semMsgs := rfl
@[simp] theorem State.retired_waiters (s : State) (k : Nat) : (s.retired k).waiters = s.waiters := rfl
@[simp] theorem State.retired_semRsps (s : State) (k : Nat) : (s.retired k).semRsps = s.semRsps := rfl
@[simp] theorem State.retired_strKeys (s : State) (k : Nat) : (s.retired k).strKeys = s.strKeys := rfl
@[simp] theorem State.retired_hangLevel (s : State) (k : Nat) : (s.retired k).hangLevel = s.hangLevel := rfl
@[simp] theorem State.retired_dcWire (s : State) (k : Nat) : (s.retired k).dcWire = s.dcWire := rfl
@[simp] theorem State.retired_strSegs (s : State) (k : Nat) : (s.retired k).strSegs = s.strSegs := rfl
@[simp] theorem State.retired_strCreds (s : State) (k : Nat) : (s.retired k).strCreds = s.strCreds := rfl
@[simp] theorem State.retired_ledgerMute (s : State) (k : Nat) : (s.retired k).ledgerMute = s.ledgerMute := rfl
@[simp] theorem State.retired_tagReleases (s : State) (k : Nat) : (s.retired k).tagReleases = s.tagReleases := rfl
@[simp] theorem State.retired_dozeHold (s : State) (k : Nat) : (s.retired k).dozeHold = s.dozeHold := rfl
@[simp] theorem State.retired_rotAt (s : State) (k : Nat) : (s.retired k).rotAt = s.rotAt := rfl
@[simp] theorem State.retired_goldNext (s : State) (k : Nat) : (s.retired k).goldNext = s.goldNext := rfl
@[simp] theorem State.retired_pastBooked (s : State) (k : Nat) : (s.retired k).pastBooked = s.pastBooked := rfl
@[simp] theorem State.retired_policy (s : State) (k : Nat) : (s.retired k).policy = s.policy := rfl
@[simp] theorem State.retired_buckets (s : State) (k : Nat) : (s.retired k).buckets = s.buckets := rfl
@[simp] theorem State.retired_turns (s : State) (k : Nat) : (s.retired k).turns = s.turns := rfl
@[simp] theorem State.retired_routes (s : State) (k : Nat) : (s.retired k).routes = s.routes := rfl
@[simp] theorem State.retired_notifyQ (s : State) (k : Nat) : (s.retired k).notifyQ = s.notifyQ := rfl
@[simp] theorem State.retired_links (s : State) (k : Nat) : (s.retired k).links = s.links := rfl
@[simp] theorem State.retired_laneOtp (s : State) (k : Nat) : (s.retired k).laneOtp = s.laneOtp := rfl
@[simp] theorem State.retired_hostProto (s : State) (k : Nat) : (s.retired k).hostProto = s.hostProto := rfl
@[simp] theorem State.retired_spnFixed (s : State) (k : Nat) : (s.retired k).spnFixed = s.spnFixed := rfl
@[simp] theorem State.retired_discovering (s : State) (k : Nat) : (s.retired k).discovering = s.discovering := rfl
@[simp] theorem State.retired_sports (s : State) (k : Nat) : (s.retired k).sports = s.sports := rfl
@[simp] theorem State.retired_pchOrd (s : State) (k : Nat) : (s.retired k).pchOrd = s.pchOrd := rfl
@[simp] theorem State.retired_drainUrg (s : State) (k : Nat) : (s.retired k).drainUrg = s.drainUrg := rfl
@[simp] theorem State.retired_drainNorm (s : State) (k : Nat) : (s.retired k).drainNorm = s.drainNorm := rfl
@[simp] theorem State.retired_trigNext (s : State) (k : Nat) : (s.retired k).trigNext = s.trigNext := rfl
@[simp] theorem State.retired_trigFired (s : State) (k : Nat) : (s.retired k).trigFired = s.trigFired := rfl
@[simp] theorem State.retired_trigPast (s : State) (k : Nat) : (s.retired k).trigPast = s.trigPast := rfl
@[simp] theorem State.retired_trigHiz (s : State) (k : Nat) : (s.retired k).trigHiz = s.trigHiz := rfl
@[simp] theorem State.retired_trigAt (s : State) (k : Nat) : (s.retired k).trigAt = s.trigAt := rfl
@[simp] theorem State.retired_trigLen (s : State) (k : Nat) : (s.retired k).trigLen = s.trigLen := rfl
@[simp] theorem State.retired_slew (s : State) (k : Nat) : (s.retired k).slew = s.slew := rfl
@[simp] theorem State.retired_slewTicks (s : State) (k : Nat) : (s.retired k).slewTicks = s.slewTicks := rfl
@[simp] theorem State.retired_lastSync (s : State) (k : Nat) : (s.retired k).lastSync = s.lastSync := rfl
@[simp] theorem State.retired_holdSince (s : State) (k : Nat) : (s.retired k).holdSince = s.holdSince := rfl
@[simp] theorem State.retired_calOn (s : State) (k : Nat) : (s.retired k).calOn = s.calOn := rfl
@[simp] theorem State.retired_calPend (s : State) (k : Nat) : (s.retired k).calPend = s.calPend := rfl
@[simp] theorem State.retired_imuIn (s : State) (k : Nat) : (s.retired k).imuIn = s.imuIn := rfl
@[simp] theorem State.retired_wheels (s : State) (k : Nat) : (s.retired k).wheels = s.wheels := rfl
@[simp] theorem State.retired_integ (s : State) (k : Nat) : (s.retired k).integ = s.integ := rfl
@[simp] theorem State.retired_poses (s : State) (k : Nat) : (s.retired k).poses = s.poses := rfl
@[simp] theorem State.retired_lidIn (s : State) (k : Nat) : (s.retired k).lidIn = s.lidIn := rfl
@[simp] theorem State.retired_jobs (s : State) (k : Nat) : (s.retired k).jobs = s.jobs := rfl
@[simp] theorem State.retired_proj (s : State) (k : Nat) : (s.retired k).proj = s.proj := rfl
@[simp] theorem State.retired_islands (s : State) (k : Nat) : (s.retired k).islands = s.islands := rfl
@[simp] theorem State.retired_mainBad (s : State) (k : Nat) : (s.retired k).mainBad = s.mainBad := rfl
@[simp] theorem State.retired_pllBad (s : State) (k : Nat) : (s.retired k).pllBad = s.pllBad := rfl
@[simp] theorem State.retired_trigBad (s : State) (k : Nat) : (s.retired k).trigBad = s.trigBad := rfl
@[simp] theorem State.retired_railsBad (s : State) (k : Nat) : (s.retired k).railsBad = s.railsBad := rfl
@[simp] theorem State.retired_stGo (s : State) (k : Nat) : (s.retired k).stGo = s.stGo := rfl
@[simp] theorem State.retired_stDone (s : State) (k : Nat) : (s.retired k).stDone = s.stDone := rfl
@[simp] theorem State.retired_unitImgs (s : State) (k : Nat) : (s.retired k).unitImgs = s.unitImgs := rfl
@[simp] theorem State.retired_otp (s : State) (k : Nat) : (s.retired k).otp = s.otp := rfl
@[simp] theorem State.retired_otpBad (s : State) (k : Nat) : (s.retired k).otpBad = s.otpBad := rfl
@[simp] theorem State.retired_flash (s : State) (k : Nat) : (s.retired k).flash = s.flash := rfl
@[simp] theorem State.retired_flashMb (s : State) (k : Nat) : (s.retired k).flashMb = s.flashMb := rfl
@[simp] theorem State.retired_flashOp (s : State) (k : Nat) : (s.retired k).flashOp = s.flashOp := rfl
@[simp] theorem State.retired_damaged (s : State) (k : Nat) : (s.retired k).damaged = s.damaged := rfl
@[simp] theorem State.retired_mailbox (s : State) (k : Nat) : (s.retired k).mailbox = s.mailbox := rfl
@[simp] theorem State.retired_upd (s : State) (k : Nat) : (s.retired k).upd = s.upd := rfl
@[simp] theorem State.retired_updNum (s : State) (k : Nat) : (s.retired k).updNum = s.updNum := rfl
@[simp] theorem State.retired_act (s : State) (k : Nat) : (s.retired k).act = s.act := rfl
@[simp] theorem State.retired_dieRst (s : State) (k : Nat) : (s.retired k).dieRst = s.dieRst := rfl
@[simp] theorem State.retired_rewrite (s : State) (k : Nat) : (s.retired k).rewrite = s.rewrite := rfl
@[simp] theorem State.retired_beatAt (s : State) (k : Nat) : (s.retired k).beatAt = s.beatAt := rfl
@[simp] theorem State.retired_linkEvAt (s : State) (k : Nat) : (s.retired k).linkEvAt = s.linkEvAt := rfl
@[simp] theorem State.retired_hardFault (s : State) (k : Nat) : (s.retired k).hardFault = s.hardFault := rfl
@[simp] theorem State.retired_td (s : State) (k : Nat) : (s.retired k).td = s.td := rfl
@[simp] theorem State.retired_dump (s : State) (k : Nat) : (s.retired k).dump = s.dump := rfl
@[simp] theorem State.retired_wdogDump (s : State) (k : Nat) : (s.retired k).wdogDump = s.wdogDump := rfl
@[simp] theorem State.retired_mpKick (s : State) (k : Nat) : (s.retired k).mpKick = s.mpKick := rfl
@[simp] theorem State.retired_txHold (s : State) (k : Nat) : (s.retired k).txHold = s.txHold := rfl
@[simp] theorem State.retired_powerOff (s : State) (k : Nat) : (s.retired k).powerOff = s.powerOff := rfl
@[simp] theorem State.retired_porstLow (s : State) (k : Nat) : (s.retired k).porstLow = s.porstLow := rfl
@[simp] theorem State.retired_tapIr (s : State) (k : Nat) : (s.retired k).tapIr = s.tapIr := rfl
@[simp] theorem State.retired_tapHeld (s : State) (k : Nat) : (s.retired k).tapHeld = s.tapHeld := rfl
@[simp] theorem State.retired_tapBsr (s : State) (k : Nat) : (s.retired k).tapBsr = s.tapBsr := rfl
@[simp] theorem State.retired_cluIdle (s : State) (k : Nat) : (s.retired k).cluIdle = s.cluIdle := rfl
@[simp] theorem State.retired_filler (s : State) (k : Nat) : (s.retired k).filler = s.filler := rfl
@[simp] theorem State.retired_rampFill (s : State) (k : Nat) : (s.retired k).rampFill = s.rampFill := rfl
@[simp] theorem State.retired_railMv (s : State) (k : Nat) : (s.retired k).railMv = s.railMv := rfl
@[simp] theorem State.retired_tripped (s : State) (k : Nat) : (s.retired k).tripped = s.tripped := rfl
@[simp] theorem State.retired_snsExcl (s : State) (k : Nat) : (s.retired k).snsExcl = s.snsExcl := rfl
@[simp] theorem State.retired_pairT (s : State) (k : Nat) : (s.retired k).pairT = s.pairT := rfl
@[simp] theorem State.retired_hotAt (s : State) (k : Nat) : (s.retired k).hotAt = s.hotAt := rfl
@[simp] theorem State.retired_thermDies (s : State) (k : Nat) : (s.retired k).thermDies = s.thermDies := rfl
@[simp] theorem State.retired_noBook (s : State) (k : Nat) : (s.retired k).noBook = s.noBook := rfl
@[simp] theorem State.retired_agSeq (s : State) (k : Nat) : (s.retired k).agSeq = s.agSeq := rfl
@[simp] theorem State.retired_agBudgetAt (s : State) (k : Nat) : (s.retired k).agBudgetAt = s.agBudgetAt := rfl
@[simp] theorem State.retired_holdSig (s : State) (k : Nat) : (s.retired k).holdSig = s.holdSig := rfl
@[simp] theorem State.retired_draws (s : State) (k : Nat) : (s.retired k).draws = s.draws := rfl
@[simp] theorem State.retired_overAt (s : State) (k : Nat) : (s.retired k).overAt = s.overAt := rfl
@[simp] theorem State.retired_owing (s : State) (k : Nat) : (s.retired k).owing = s.owing := rfl
@[simp] theorem State.retired_agRot (s : State) (k : Nat) : (s.retired k).agRot = s.agRot := rfl
@[simp] theorem State.retired_dieReps (s : State) (k : Nat) : (s.retired k).dieReps = s.dieReps := rfl
@[simp] theorem State.retired_budgetMsgs (s : State) (k : Nat) : (s.retired k).budgetMsgs = s.budgetMsgs := rfl
@[simp] theorem State.retired_clampMsgs (s : State) (k : Nat) : (s.retired k).clampMsgs = s.clampMsgs := rfl
@[simp] theorem State.retired_hthBudget (s : State) (k : Nat) : (s.retired k).hthBudget = s.hthBudget := rfl
@[simp] theorem State.retired_charges (s : State) (k : Nat) : (s.retired k).charges = s.charges := rfl
@[simp] theorem State.retired_busBad (s : State) (k : Nat) : (s.retired k).busBad = s.busBad := rfl
@[simp] theorem State.retired_dieCap (s : State) (k : Nat) : (s.retired k).dieCap = s.dieCap := rfl
@[simp] theorem State.retired_capAt (s : State) (k : Nat) : (s.retired k).capAt = s.capAt := rfl
@[simp] theorem State.retired_shortBy (s : State) (k : Nat) : (s.retired k).shortBy = s.shortBy := rfl
@[simp] theorem State.retired_shortSince (s : State) (k : Nat) : (s.retired k).shortSince = s.shortSince := rfl
@[simp] theorem State.retired_flowPeriods (s : State) (k : Nat) : (s.retired k).flowPeriods = s.flowPeriods := rfl
@[simp] theorem State.retired_flowLast (s : State) (k : Nat) : (s.retired k).flowLast = s.flowLast := rfl
@[simp] theorem State.retired_flowExcl (s : State) (k : Nat) : (s.retired k).flowExcl = s.flowExcl := rfl
@[simp] theorem State.retired_outSamples (s : State) (k : Nat) : (s.retired k).outSamples = s.outSamples := rfl
@[simp] theorem State.retired_advs (s : State) (k : Nat) : (s.retired k).advs = s.advs := rfl
@[simp] theorem State.retired_coolBadAt (s : State) (k : Nat) : (s.retired k).coolBadAt = s.coolBadAt := rfl
@[simp] theorem State.retired_napWait (s : State) (k : Nat) : (s.retired k).napWait = s.napWait := rfl
@[simp] theorem State.retired_cellar (s : State) (k : Nat) : (s.retired k).cellar = s.cellar := rfl
@[simp] theorem State.retired_dark (s : State) (k : Nat) : (s.retired k).dark = s.dark := rfl
@[simp] theorem State.retired_reports (s : State) (k : Nat) : (s.retired k).reports = s.reports := rfl
@[simp] theorem State.retired_mpEvents (s : State) (k : Nat) : (s.retired k).mpEvents = s.mpEvents := rfl
@[simp] theorem State.retired_emits (s : State) (k : Nat) : (s.retired k).emits = s.emits := rfl
@[simp] theorem State.retired_reqs (s : State) (k : Nat) : (s.retired k).reqs = s.reqs := rfl
@[simp] theorem State.retired_resps (s : State) (k : Nat) : (s.retired k).resps = s.resps := rfl

/-! ### State.noFill -/

@[simp] theorem State.noFill_part (s : State) (p : Nat → Bool) : (s.noFill p).part = s.part := rfl
@[simp] theorem State.noFill_pending (s : State) (p : Nat → Bool) : (s.noFill p).pending = s.pending := rfl
@[simp] theorem State.noFill_regs (s : State) (p : Nat → Bool) : (s.noFill p).regs = s.regs := rfl
@[simp] theorem State.noFill_mem (s : State) (p : Nat → Bool) : (s.noFill p).mem = s.mem := rfl
@[simp] theorem State.noFill_undef (s : State) (p : Nat → Bool) : (s.noFill p).undef = s.undef := rfl
@[simp] theorem State.noFill_fresh (s : State) (p : Nat → Bool) : (s.noFill p).fresh = s.fresh := rfl
@[simp] theorem State.noFill_latched (s : State) (p : Nat → Bool) : (s.noFill p).latched = s.latched := rfl
@[simp] theorem State.noFill_sram (s : State) (p : Nat → Bool) : (s.noFill p).sram = s.sram := rfl
@[simp] theorem State.noFill_dram (s : State) (p : Nat → Bool) : (s.noFill p).dram = s.dram := rfl
@[simp] theorem State.noFill_elogSeq (s : State) (p : Nat → Bool) : (s.noFill p).elogSeq = s.elogSeq := rfl
@[simp] theorem State.noFill_injCount (s : State) (p : Nat → Bool) : (s.noFill p).injCount = s.injCount := rfl
@[simp] theorem State.noFill_openRows (s : State) (p : Nat → Bool) : (s.noFill p).openRows = s.openRows := rfl
@[simp] theorem State.noFill_patrolPos (s : State) (p : Nat → Bool) : (s.noFill p).patrolPos = s.patrolPos := rfl
@[simp] theorem State.noFill_patrolRef (s : State) (p : Nat → Bool) : (s.noFill p).patrolRef = s.patrolRef := rfl
@[simp] theorem State.noFill_checkBurst (s : State) (p : Nat → Bool) : (s.noFill p).checkBurst = s.checkBurst := rfl
@[simp] theorem State.noFill_scheds (s : State) (p : Nat → Bool) : (s.noFill p).scheds = s.scheds := rfl
@[simp] theorem State.noFill_training (s : State) (p : Nat → Bool) : (s.noFill p).training = s.training := rfl
@[simp] theorem State.noFill_sc (s : State) (p : Nat → Bool) : (s.noFill p).sc = s.sc := rfl
@[simp] theorem State.noFill_scSects (s : State) (p : Nat → Bool) : (s.noFill p).scSects = s.scSects := rfl
@[simp] theorem State.noFill_engs (s : State) (p : Nat → Bool) : (s.noFill p).engs = s.engs := rfl
@[simp] theorem State.noFill_cores (s : State) (p : Nat → Bool) : (s.noFill p).cores = s.cores := rfl
@[simp] theorem State.noFill_panHead (s : State) (p : Nat → Bool) : (s.noFill p).panHead = s.panHead := rfl
@[simp] theorem State.noFill_ptRuns (s : State) (p : Nat → Bool) : (s.noFill p).ptRuns = s.ptRuns := rfl
@[simp] theorem State.noFill_tcmds (s : State) (p : Nat → Bool) : (s.noFill p).tcmds = s.tcmds := rfl
@[simp] theorem State.noFill_atts (s : State) (p : Nat → Bool) : (s.noFill p).atts = s.atts := rfl
@[simp] theorem State.noFill_cmds (s : State) (p : Nat → Bool) : (s.noFill p).cmds = s.cmds := rfl
@[simp] theorem State.noFill_tagGens (s : State) (p : Nat → Bool) : (s.noFill p).tagGens = s.tagGens := rfl
@[simp] theorem State.noFill_orderNext (s : State) (p : Nat → Bool) : (s.noFill p).orderNext = s.orderNext := rfl
@[simp] theorem State.noFill_ctxs (s : State) (p : Nat → Bool) : (s.noFill p).ctxs = s.ctxs := rfl
@[simp] theorem State.noFill_qcache (s : State) (p : Nat → Bool) : (s.noFill p).qcache = s.qcache := rfl
@[simp] theorem State.noFill_qready (s : State) (p : Nat → Bool) : (s.noFill p).qready = s.qready := rfl
@[simp] theorem State.noFill_cqs (s : State) (p : Nat → Bool) : (s.noFill p).cqs = s.cqs := rfl
@[simp] theorem State.noFill_cqUsed (s : State) (p : Nat → Bool) : (s.noFill p).cqUsed = s.cqUsed := rfl
@[simp] theorem State.noFill_cqNotes (s : State) (p : Nat → Bool) : (s.noFill p).cqNotes = s.cqNotes := rfl
@[simp] theorem State.noFill_pendDb (s : State) (p : Nat → Bool) : (s.noFill p).pendDb = s.pendDb := rfl
@[simp] theorem State.noFill_vc0 (s : State) (p : Nat → Bool) : (s.noFill p).vc0 = s.vc0 := rfl
@[simp] theorem State.noFill_images (s : State) (p : Nat → Bool) : (s.noFill p).images = s.images := rfl
@[simp] theorem State.noFill_resvs (s : State) (p : Nat → Bool) : (s.noFill p).resvs = s.resvs := rfl
@[simp] theorem State.noFill_events (s : State) (p : Nat → Bool) : (s.noFill p).events = s.events := rfl
@[simp] theorem State.noFill_eventsLost (s : State) (p : Nat → Bool) : (s.noFill p).eventsLost = s.eventsLost := rfl
@[simp] theorem State.noFill_eventSeq (s : State) (p : Nat → Bool) : (s.noFill p).eventSeq = s.eventSeq := rfl
@[simp] theorem State.noFill_semMsgs (s : State) (p : Nat → Bool) : (s.noFill p).semMsgs = s.semMsgs := rfl
@[simp] theorem State.noFill_waiters (s : State) (p : Nat → Bool) : (s.noFill p).waiters = s.waiters := rfl
@[simp] theorem State.noFill_semRsps (s : State) (p : Nat → Bool) : (s.noFill p).semRsps = s.semRsps := rfl
@[simp] theorem State.noFill_strKeys (s : State) (p : Nat → Bool) : (s.noFill p).strKeys = s.strKeys := rfl
@[simp] theorem State.noFill_hangLevel (s : State) (p : Nat → Bool) : (s.noFill p).hangLevel = s.hangLevel := rfl
@[simp] theorem State.noFill_dcWire (s : State) (p : Nat → Bool) : (s.noFill p).dcWire = s.dcWire := rfl
@[simp] theorem State.noFill_strSegs (s : State) (p : Nat → Bool) : (s.noFill p).strSegs = s.strSegs := rfl
@[simp] theorem State.noFill_strCreds (s : State) (p : Nat → Bool) : (s.noFill p).strCreds = s.strCreds := rfl
@[simp] theorem State.noFill_ledgerMute (s : State) (p : Nat → Bool) : (s.noFill p).ledgerMute = s.ledgerMute := rfl
@[simp] theorem State.noFill_tagReleases (s : State) (p : Nat → Bool) : (s.noFill p).tagReleases = s.tagReleases := rfl
@[simp] theorem State.noFill_dozeHold (s : State) (p : Nat → Bool) : (s.noFill p).dozeHold = s.dozeHold := rfl
@[simp] theorem State.noFill_rotAt (s : State) (p : Nat → Bool) : (s.noFill p).rotAt = s.rotAt := rfl
@[simp] theorem State.noFill_goldNext (s : State) (p : Nat → Bool) : (s.noFill p).goldNext = s.goldNext := rfl
@[simp] theorem State.noFill_pastBooked (s : State) (p : Nat → Bool) : (s.noFill p).pastBooked = s.pastBooked := rfl
@[simp] theorem State.noFill_policy (s : State) (p : Nat → Bool) : (s.noFill p).policy = s.policy := rfl
@[simp] theorem State.noFill_buckets (s : State) (p : Nat → Bool) : (s.noFill p).buckets = s.buckets := rfl
@[simp] theorem State.noFill_turns (s : State) (p : Nat → Bool) : (s.noFill p).turns = s.turns := rfl
@[simp] theorem State.noFill_routes (s : State) (p : Nat → Bool) : (s.noFill p).routes = s.routes := rfl
@[simp] theorem State.noFill_notifyQ (s : State) (p : Nat → Bool) : (s.noFill p).notifyQ = s.notifyQ := rfl
@[simp] theorem State.noFill_links (s : State) (p : Nat → Bool) : (s.noFill p).links = s.links := rfl
@[simp] theorem State.noFill_laneOtp (s : State) (p : Nat → Bool) : (s.noFill p).laneOtp = s.laneOtp := rfl
@[simp] theorem State.noFill_hostProto (s : State) (p : Nat → Bool) : (s.noFill p).hostProto = s.hostProto := rfl
@[simp] theorem State.noFill_spnFixed (s : State) (p : Nat → Bool) : (s.noFill p).spnFixed = s.spnFixed := rfl
@[simp] theorem State.noFill_discovering (s : State) (p : Nat → Bool) : (s.noFill p).discovering = s.discovering := rfl
@[simp] theorem State.noFill_sports (s : State) (p : Nat → Bool) : (s.noFill p).sports = s.sports := rfl
@[simp] theorem State.noFill_pchOrd (s : State) (p : Nat → Bool) : (s.noFill p).pchOrd = s.pchOrd := rfl
@[simp] theorem State.noFill_drainUrg (s : State) (p : Nat → Bool) : (s.noFill p).drainUrg = s.drainUrg := rfl
@[simp] theorem State.noFill_drainNorm (s : State) (p : Nat → Bool) : (s.noFill p).drainNorm = s.drainNorm := rfl
@[simp] theorem State.noFill_trigNext (s : State) (p : Nat → Bool) : (s.noFill p).trigNext = s.trigNext := rfl
@[simp] theorem State.noFill_trigFired (s : State) (p : Nat → Bool) : (s.noFill p).trigFired = s.trigFired := rfl
@[simp] theorem State.noFill_trigPast (s : State) (p : Nat → Bool) : (s.noFill p).trigPast = s.trigPast := rfl
@[simp] theorem State.noFill_trigHiz (s : State) (p : Nat → Bool) : (s.noFill p).trigHiz = s.trigHiz := rfl
@[simp] theorem State.noFill_trigAt (s : State) (p : Nat → Bool) : (s.noFill p).trigAt = s.trigAt := rfl
@[simp] theorem State.noFill_trigLen (s : State) (p : Nat → Bool) : (s.noFill p).trigLen = s.trigLen := rfl
@[simp] theorem State.noFill_slew (s : State) (p : Nat → Bool) : (s.noFill p).slew = s.slew := rfl
@[simp] theorem State.noFill_slewTicks (s : State) (p : Nat → Bool) : (s.noFill p).slewTicks = s.slewTicks := rfl
@[simp] theorem State.noFill_lastSync (s : State) (p : Nat → Bool) : (s.noFill p).lastSync = s.lastSync := rfl
@[simp] theorem State.noFill_holdSince (s : State) (p : Nat → Bool) : (s.noFill p).holdSince = s.holdSince := rfl
@[simp] theorem State.noFill_calOn (s : State) (p : Nat → Bool) : (s.noFill p).calOn = s.calOn := rfl
@[simp] theorem State.noFill_calPend (s : State) (p : Nat → Bool) : (s.noFill p).calPend = s.calPend := rfl
@[simp] theorem State.noFill_imuIn (s : State) (p : Nat → Bool) : (s.noFill p).imuIn = s.imuIn := rfl
@[simp] theorem State.noFill_wheels (s : State) (p : Nat → Bool) : (s.noFill p).wheels = s.wheels := rfl
@[simp] theorem State.noFill_integ (s : State) (p : Nat → Bool) : (s.noFill p).integ = s.integ := rfl
@[simp] theorem State.noFill_poses (s : State) (p : Nat → Bool) : (s.noFill p).poses = s.poses := rfl
@[simp] theorem State.noFill_lidIn (s : State) (p : Nat → Bool) : (s.noFill p).lidIn = s.lidIn := rfl
@[simp] theorem State.noFill_jobs (s : State) (p : Nat → Bool) : (s.noFill p).jobs = s.jobs := rfl
@[simp] theorem State.noFill_proj (s : State) (p : Nat → Bool) : (s.noFill p).proj = s.proj := rfl
@[simp] theorem State.noFill_islands (s : State) (p : Nat → Bool) : (s.noFill p).islands = s.islands := rfl
@[simp] theorem State.noFill_mainBad (s : State) (p : Nat → Bool) : (s.noFill p).mainBad = s.mainBad := rfl
@[simp] theorem State.noFill_pllBad (s : State) (p : Nat → Bool) : (s.noFill p).pllBad = s.pllBad := rfl
@[simp] theorem State.noFill_trigBad (s : State) (p : Nat → Bool) : (s.noFill p).trigBad = s.trigBad := rfl
@[simp] theorem State.noFill_railsBad (s : State) (p : Nat → Bool) : (s.noFill p).railsBad = s.railsBad := rfl
@[simp] theorem State.noFill_stGo (s : State) (p : Nat → Bool) : (s.noFill p).stGo = s.stGo := rfl
@[simp] theorem State.noFill_stDone (s : State) (p : Nat → Bool) : (s.noFill p).stDone = s.stDone := rfl
@[simp] theorem State.noFill_unitImgs (s : State) (p : Nat → Bool) : (s.noFill p).unitImgs = s.unitImgs := rfl
@[simp] theorem State.noFill_otp (s : State) (p : Nat → Bool) : (s.noFill p).otp = s.otp := rfl
@[simp] theorem State.noFill_otpBad (s : State) (p : Nat → Bool) : (s.noFill p).otpBad = s.otpBad := rfl
@[simp] theorem State.noFill_flash (s : State) (p : Nat → Bool) : (s.noFill p).flash = s.flash := rfl
@[simp] theorem State.noFill_flashMb (s : State) (p : Nat → Bool) : (s.noFill p).flashMb = s.flashMb := rfl
@[simp] theorem State.noFill_flashOp (s : State) (p : Nat → Bool) : (s.noFill p).flashOp = s.flashOp := rfl
@[simp] theorem State.noFill_damaged (s : State) (p : Nat → Bool) : (s.noFill p).damaged = s.damaged := rfl
@[simp] theorem State.noFill_mailbox (s : State) (p : Nat → Bool) : (s.noFill p).mailbox = s.mailbox := rfl
@[simp] theorem State.noFill_upd (s : State) (p : Nat → Bool) : (s.noFill p).upd = s.upd := rfl
@[simp] theorem State.noFill_updNum (s : State) (p : Nat → Bool) : (s.noFill p).updNum = s.updNum := rfl
@[simp] theorem State.noFill_act (s : State) (p : Nat → Bool) : (s.noFill p).act = s.act := rfl
@[simp] theorem State.noFill_dieRst (s : State) (p : Nat → Bool) : (s.noFill p).dieRst = s.dieRst := rfl
@[simp] theorem State.noFill_rewrite (s : State) (p : Nat → Bool) : (s.noFill p).rewrite = s.rewrite := rfl
@[simp] theorem State.noFill_beatAt (s : State) (p : Nat → Bool) : (s.noFill p).beatAt = s.beatAt := rfl
@[simp] theorem State.noFill_linkEvAt (s : State) (p : Nat → Bool) : (s.noFill p).linkEvAt = s.linkEvAt := rfl
@[simp] theorem State.noFill_hardFault (s : State) (p : Nat → Bool) : (s.noFill p).hardFault = s.hardFault := rfl
@[simp] theorem State.noFill_td (s : State) (p : Nat → Bool) : (s.noFill p).td = s.td := rfl
@[simp] theorem State.noFill_dump (s : State) (p : Nat → Bool) : (s.noFill p).dump = s.dump := rfl
@[simp] theorem State.noFill_wdogDump (s : State) (p : Nat → Bool) : (s.noFill p).wdogDump = s.wdogDump := rfl
@[simp] theorem State.noFill_mpKick (s : State) (p : Nat → Bool) : (s.noFill p).mpKick = s.mpKick := rfl
@[simp] theorem State.noFill_txHold (s : State) (p : Nat → Bool) : (s.noFill p).txHold = s.txHold := rfl
@[simp] theorem State.noFill_powerOff (s : State) (p : Nat → Bool) : (s.noFill p).powerOff = s.powerOff := rfl
@[simp] theorem State.noFill_porstLow (s : State) (p : Nat → Bool) : (s.noFill p).porstLow = s.porstLow := rfl
@[simp] theorem State.noFill_tapIr (s : State) (p : Nat → Bool) : (s.noFill p).tapIr = s.tapIr := rfl
@[simp] theorem State.noFill_tapHeld (s : State) (p : Nat → Bool) : (s.noFill p).tapHeld = s.tapHeld := rfl
@[simp] theorem State.noFill_tapBsr (s : State) (p : Nat → Bool) : (s.noFill p).tapBsr = s.tapBsr := rfl
@[simp] theorem State.noFill_cluIdle (s : State) (p : Nat → Bool) : (s.noFill p).cluIdle = s.cluIdle := rfl
@[simp] theorem State.noFill_stallUs (s : State) (p : Nat → Bool) : (s.noFill p).stallUs = s.stallUs := rfl
@[simp] theorem State.noFill_railMv (s : State) (p : Nat → Bool) : (s.noFill p).railMv = s.railMv := rfl
@[simp] theorem State.noFill_tripped (s : State) (p : Nat → Bool) : (s.noFill p).tripped = s.tripped := rfl
@[simp] theorem State.noFill_snsExcl (s : State) (p : Nat → Bool) : (s.noFill p).snsExcl = s.snsExcl := rfl
@[simp] theorem State.noFill_pairT (s : State) (p : Nat → Bool) : (s.noFill p).pairT = s.pairT := rfl
@[simp] theorem State.noFill_hotAt (s : State) (p : Nat → Bool) : (s.noFill p).hotAt = s.hotAt := rfl
@[simp] theorem State.noFill_thermDies (s : State) (p : Nat → Bool) : (s.noFill p).thermDies = s.thermDies := rfl
@[simp] theorem State.noFill_noBook (s : State) (p : Nat → Bool) : (s.noFill p).noBook = s.noBook := rfl
@[simp] theorem State.noFill_agSeq (s : State) (p : Nat → Bool) : (s.noFill p).agSeq = s.agSeq := rfl
@[simp] theorem State.noFill_agBudgetAt (s : State) (p : Nat → Bool) : (s.noFill p).agBudgetAt = s.agBudgetAt := rfl
@[simp] theorem State.noFill_holdSig (s : State) (p : Nat → Bool) : (s.noFill p).holdSig = s.holdSig := rfl
@[simp] theorem State.noFill_draws (s : State) (p : Nat → Bool) : (s.noFill p).draws = s.draws := rfl
@[simp] theorem State.noFill_overAt (s : State) (p : Nat → Bool) : (s.noFill p).overAt = s.overAt := rfl
@[simp] theorem State.noFill_owing (s : State) (p : Nat → Bool) : (s.noFill p).owing = s.owing := rfl
@[simp] theorem State.noFill_agRot (s : State) (p : Nat → Bool) : (s.noFill p).agRot = s.agRot := rfl
@[simp] theorem State.noFill_dieReps (s : State) (p : Nat → Bool) : (s.noFill p).dieReps = s.dieReps := rfl
@[simp] theorem State.noFill_budgetMsgs (s : State) (p : Nat → Bool) : (s.noFill p).budgetMsgs = s.budgetMsgs := rfl
@[simp] theorem State.noFill_clampMsgs (s : State) (p : Nat → Bool) : (s.noFill p).clampMsgs = s.clampMsgs := rfl
@[simp] theorem State.noFill_hthBudget (s : State) (p : Nat → Bool) : (s.noFill p).hthBudget = s.hthBudget := rfl
@[simp] theorem State.noFill_charges (s : State) (p : Nat → Bool) : (s.noFill p).charges = s.charges := rfl
@[simp] theorem State.noFill_busBad (s : State) (p : Nat → Bool) : (s.noFill p).busBad = s.busBad := rfl
@[simp] theorem State.noFill_dieCap (s : State) (p : Nat → Bool) : (s.noFill p).dieCap = s.dieCap := rfl
@[simp] theorem State.noFill_capAt (s : State) (p : Nat → Bool) : (s.noFill p).capAt = s.capAt := rfl
@[simp] theorem State.noFill_shortBy (s : State) (p : Nat → Bool) : (s.noFill p).shortBy = s.shortBy := rfl
@[simp] theorem State.noFill_shortSince (s : State) (p : Nat → Bool) : (s.noFill p).shortSince = s.shortSince := rfl
@[simp] theorem State.noFill_flowPeriods (s : State) (p : Nat → Bool) : (s.noFill p).flowPeriods = s.flowPeriods := rfl
@[simp] theorem State.noFill_flowLast (s : State) (p : Nat → Bool) : (s.noFill p).flowLast = s.flowLast := rfl
@[simp] theorem State.noFill_flowExcl (s : State) (p : Nat → Bool) : (s.noFill p).flowExcl = s.flowExcl := rfl
@[simp] theorem State.noFill_outSamples (s : State) (p : Nat → Bool) : (s.noFill p).outSamples = s.outSamples := rfl
@[simp] theorem State.noFill_advs (s : State) (p : Nat → Bool) : (s.noFill p).advs = s.advs := rfl
@[simp] theorem State.noFill_coolBadAt (s : State) (p : Nat → Bool) : (s.noFill p).coolBadAt = s.coolBadAt := rfl
@[simp] theorem State.noFill_napWait (s : State) (p : Nat → Bool) : (s.noFill p).napWait = s.napWait := rfl
@[simp] theorem State.noFill_cellar (s : State) (p : Nat → Bool) : (s.noFill p).cellar = s.cellar := rfl
@[simp] theorem State.noFill_dark (s : State) (p : Nat → Bool) : (s.noFill p).dark = s.dark := rfl
@[simp] theorem State.noFill_reports (s : State) (p : Nat → Bool) : (s.noFill p).reports = s.reports := rfl
@[simp] theorem State.noFill_mpEvents (s : State) (p : Nat → Bool) : (s.noFill p).mpEvents = s.mpEvents := rfl
@[simp] theorem State.noFill_emits (s : State) (p : Nat → Bool) : (s.noFill p).emits = s.emits := rfl
@[simp] theorem State.noFill_reqs (s : State) (p : Nat → Bool) : (s.noFill p).reqs = s.reqs := rfl
@[simp] theorem State.noFill_resps (s : State) (p : Nat → Bool) : (s.noFill p).resps = s.resps := rfl

/-! ### State.mwr -/

@[simp] theorem State.mwr_part (s : State) (a : Nat) (bs : List Byte) : (s.mwr a bs).part = s.part := rfl
@[simp] theorem State.mwr_pending (s : State) (a : Nat) (bs : List Byte) : (s.mwr a bs).pending = s.pending := rfl
@[simp] theorem State.mwr_regs (s : State) (a : Nat) (bs : List Byte) : (s.mwr a bs).regs = s.regs := rfl
@[simp] theorem State.mwr_fresh (s : State) (a : Nat) (bs : List Byte) : (s.mwr a bs).fresh = s.fresh := rfl
@[simp] theorem State.mwr_latched (s : State) (a : Nat) (bs : List Byte) : (s.mwr a bs).latched = s.latched := rfl
@[simp] theorem State.mwr_sram (s : State) (a : Nat) (bs : List Byte) : (s.mwr a bs).sram = s.sram := rfl
@[simp] theorem State.mwr_dram (s : State) (a : Nat) (bs : List Byte) : (s.mwr a bs).dram = s.dram := rfl
@[simp] theorem State.mwr_elogSeq (s : State) (a : Nat) (bs : List Byte) : (s.mwr a bs).elogSeq = s.elogSeq := rfl
@[simp] theorem State.mwr_injCount (s : State) (a : Nat) (bs : List Byte) : (s.mwr a bs).injCount = s.injCount := rfl
@[simp] theorem State.mwr_openRows (s : State) (a : Nat) (bs : List Byte) : (s.mwr a bs).openRows = s.openRows := rfl
@[simp] theorem State.mwr_patrolPos (s : State) (a : Nat) (bs : List Byte) : (s.mwr a bs).patrolPos = s.patrolPos := rfl
@[simp] theorem State.mwr_patrolRef (s : State) (a : Nat) (bs : List Byte) : (s.mwr a bs).patrolRef = s.patrolRef := rfl
@[simp] theorem State.mwr_checkBurst (s : State) (a : Nat) (bs : List Byte) : (s.mwr a bs).checkBurst = s.checkBurst := rfl
@[simp] theorem State.mwr_scheds (s : State) (a : Nat) (bs : List Byte) : (s.mwr a bs).scheds = s.scheds := rfl
@[simp] theorem State.mwr_training (s : State) (a : Nat) (bs : List Byte) : (s.mwr a bs).training = s.training := rfl
@[simp] theorem State.mwr_sc (s : State) (a : Nat) (bs : List Byte) : (s.mwr a bs).sc = s.sc := rfl
@[simp] theorem State.mwr_scSects (s : State) (a : Nat) (bs : List Byte) : (s.mwr a bs).scSects = s.scSects := rfl
@[simp] theorem State.mwr_engs (s : State) (a : Nat) (bs : List Byte) : (s.mwr a bs).engs = s.engs := rfl
@[simp] theorem State.mwr_cores (s : State) (a : Nat) (bs : List Byte) : (s.mwr a bs).cores = s.cores := rfl
@[simp] theorem State.mwr_panHead (s : State) (a : Nat) (bs : List Byte) : (s.mwr a bs).panHead = s.panHead := rfl
@[simp] theorem State.mwr_ptRuns (s : State) (a : Nat) (bs : List Byte) : (s.mwr a bs).ptRuns = s.ptRuns := rfl
@[simp] theorem State.mwr_tcmds (s : State) (a : Nat) (bs : List Byte) : (s.mwr a bs).tcmds = s.tcmds := rfl
@[simp] theorem State.mwr_atts (s : State) (a : Nat) (bs : List Byte) : (s.mwr a bs).atts = s.atts := rfl
@[simp] theorem State.mwr_cmds (s : State) (a : Nat) (bs : List Byte) : (s.mwr a bs).cmds = s.cmds := rfl
@[simp] theorem State.mwr_tagGens (s : State) (a : Nat) (bs : List Byte) : (s.mwr a bs).tagGens = s.tagGens := rfl
@[simp] theorem State.mwr_orderNext (s : State) (a : Nat) (bs : List Byte) : (s.mwr a bs).orderNext = s.orderNext := rfl
@[simp] theorem State.mwr_ctxs (s : State) (a : Nat) (bs : List Byte) : (s.mwr a bs).ctxs = s.ctxs := rfl
@[simp] theorem State.mwr_qcache (s : State) (a : Nat) (bs : List Byte) : (s.mwr a bs).qcache = s.qcache := rfl
@[simp] theorem State.mwr_qready (s : State) (a : Nat) (bs : List Byte) : (s.mwr a bs).qready = s.qready := rfl
@[simp] theorem State.mwr_cqs (s : State) (a : Nat) (bs : List Byte) : (s.mwr a bs).cqs = s.cqs := rfl
@[simp] theorem State.mwr_cqUsed (s : State) (a : Nat) (bs : List Byte) : (s.mwr a bs).cqUsed = s.cqUsed := rfl
@[simp] theorem State.mwr_cqNotes (s : State) (a : Nat) (bs : List Byte) : (s.mwr a bs).cqNotes = s.cqNotes := rfl
@[simp] theorem State.mwr_pendDb (s : State) (a : Nat) (bs : List Byte) : (s.mwr a bs).pendDb = s.pendDb := rfl
@[simp] theorem State.mwr_vc0 (s : State) (a : Nat) (bs : List Byte) : (s.mwr a bs).vc0 = s.vc0 := rfl
@[simp] theorem State.mwr_images (s : State) (a : Nat) (bs : List Byte) : (s.mwr a bs).images = s.images := rfl
@[simp] theorem State.mwr_resvs (s : State) (a : Nat) (bs : List Byte) : (s.mwr a bs).resvs = s.resvs := rfl
@[simp] theorem State.mwr_events (s : State) (a : Nat) (bs : List Byte) : (s.mwr a bs).events = s.events := rfl
@[simp] theorem State.mwr_eventsLost (s : State) (a : Nat) (bs : List Byte) : (s.mwr a bs).eventsLost = s.eventsLost := rfl
@[simp] theorem State.mwr_eventSeq (s : State) (a : Nat) (bs : List Byte) : (s.mwr a bs).eventSeq = s.eventSeq := rfl
@[simp] theorem State.mwr_semMsgs (s : State) (a : Nat) (bs : List Byte) : (s.mwr a bs).semMsgs = s.semMsgs := rfl
@[simp] theorem State.mwr_waiters (s : State) (a : Nat) (bs : List Byte) : (s.mwr a bs).waiters = s.waiters := rfl
@[simp] theorem State.mwr_semRsps (s : State) (a : Nat) (bs : List Byte) : (s.mwr a bs).semRsps = s.semRsps := rfl
@[simp] theorem State.mwr_strKeys (s : State) (a : Nat) (bs : List Byte) : (s.mwr a bs).strKeys = s.strKeys := rfl
@[simp] theorem State.mwr_hangLevel (s : State) (a : Nat) (bs : List Byte) : (s.mwr a bs).hangLevel = s.hangLevel := rfl
@[simp] theorem State.mwr_dcWire (s : State) (a : Nat) (bs : List Byte) : (s.mwr a bs).dcWire = s.dcWire := rfl
@[simp] theorem State.mwr_strSegs (s : State) (a : Nat) (bs : List Byte) : (s.mwr a bs).strSegs = s.strSegs := rfl
@[simp] theorem State.mwr_strCreds (s : State) (a : Nat) (bs : List Byte) : (s.mwr a bs).strCreds = s.strCreds := rfl
@[simp] theorem State.mwr_ledgerMute (s : State) (a : Nat) (bs : List Byte) : (s.mwr a bs).ledgerMute = s.ledgerMute := rfl
@[simp] theorem State.mwr_tagReleases (s : State) (a : Nat) (bs : List Byte) : (s.mwr a bs).tagReleases = s.tagReleases := rfl
@[simp] theorem State.mwr_dozeHold (s : State) (a : Nat) (bs : List Byte) : (s.mwr a bs).dozeHold = s.dozeHold := rfl
@[simp] theorem State.mwr_rotAt (s : State) (a : Nat) (bs : List Byte) : (s.mwr a bs).rotAt = s.rotAt := rfl
@[simp] theorem State.mwr_goldNext (s : State) (a : Nat) (bs : List Byte) : (s.mwr a bs).goldNext = s.goldNext := rfl
@[simp] theorem State.mwr_pastBooked (s : State) (a : Nat) (bs : List Byte) : (s.mwr a bs).pastBooked = s.pastBooked := rfl
@[simp] theorem State.mwr_policy (s : State) (a : Nat) (bs : List Byte) : (s.mwr a bs).policy = s.policy := rfl
@[simp] theorem State.mwr_buckets (s : State) (a : Nat) (bs : List Byte) : (s.mwr a bs).buckets = s.buckets := rfl
@[simp] theorem State.mwr_turns (s : State) (a : Nat) (bs : List Byte) : (s.mwr a bs).turns = s.turns := rfl
@[simp] theorem State.mwr_routes (s : State) (a : Nat) (bs : List Byte) : (s.mwr a bs).routes = s.routes := rfl
@[simp] theorem State.mwr_notifyQ (s : State) (a : Nat) (bs : List Byte) : (s.mwr a bs).notifyQ = s.notifyQ := rfl
@[simp] theorem State.mwr_links (s : State) (a : Nat) (bs : List Byte) : (s.mwr a bs).links = s.links := rfl
@[simp] theorem State.mwr_laneOtp (s : State) (a : Nat) (bs : List Byte) : (s.mwr a bs).laneOtp = s.laneOtp := rfl
@[simp] theorem State.mwr_hostProto (s : State) (a : Nat) (bs : List Byte) : (s.mwr a bs).hostProto = s.hostProto := rfl
@[simp] theorem State.mwr_spnFixed (s : State) (a : Nat) (bs : List Byte) : (s.mwr a bs).spnFixed = s.spnFixed := rfl
@[simp] theorem State.mwr_discovering (s : State) (a : Nat) (bs : List Byte) : (s.mwr a bs).discovering = s.discovering := rfl
@[simp] theorem State.mwr_sports (s : State) (a : Nat) (bs : List Byte) : (s.mwr a bs).sports = s.sports := rfl
@[simp] theorem State.mwr_pchOrd (s : State) (a : Nat) (bs : List Byte) : (s.mwr a bs).pchOrd = s.pchOrd := rfl
@[simp] theorem State.mwr_drainUrg (s : State) (a : Nat) (bs : List Byte) : (s.mwr a bs).drainUrg = s.drainUrg := rfl
@[simp] theorem State.mwr_drainNorm (s : State) (a : Nat) (bs : List Byte) : (s.mwr a bs).drainNorm = s.drainNorm := rfl
@[simp] theorem State.mwr_trigNext (s : State) (a : Nat) (bs : List Byte) : (s.mwr a bs).trigNext = s.trigNext := rfl
@[simp] theorem State.mwr_trigFired (s : State) (a : Nat) (bs : List Byte) : (s.mwr a bs).trigFired = s.trigFired := rfl
@[simp] theorem State.mwr_trigPast (s : State) (a : Nat) (bs : List Byte) : (s.mwr a bs).trigPast = s.trigPast := rfl
@[simp] theorem State.mwr_trigHiz (s : State) (a : Nat) (bs : List Byte) : (s.mwr a bs).trigHiz = s.trigHiz := rfl
@[simp] theorem State.mwr_trigAt (s : State) (a : Nat) (bs : List Byte) : (s.mwr a bs).trigAt = s.trigAt := rfl
@[simp] theorem State.mwr_trigLen (s : State) (a : Nat) (bs : List Byte) : (s.mwr a bs).trigLen = s.trigLen := rfl
@[simp] theorem State.mwr_slew (s : State) (a : Nat) (bs : List Byte) : (s.mwr a bs).slew = s.slew := rfl
@[simp] theorem State.mwr_slewTicks (s : State) (a : Nat) (bs : List Byte) : (s.mwr a bs).slewTicks = s.slewTicks := rfl
@[simp] theorem State.mwr_lastSync (s : State) (a : Nat) (bs : List Byte) : (s.mwr a bs).lastSync = s.lastSync := rfl
@[simp] theorem State.mwr_holdSince (s : State) (a : Nat) (bs : List Byte) : (s.mwr a bs).holdSince = s.holdSince := rfl
@[simp] theorem State.mwr_calOn (s : State) (a : Nat) (bs : List Byte) : (s.mwr a bs).calOn = s.calOn := rfl
@[simp] theorem State.mwr_calPend (s : State) (a : Nat) (bs : List Byte) : (s.mwr a bs).calPend = s.calPend := rfl
@[simp] theorem State.mwr_imuIn (s : State) (a : Nat) (bs : List Byte) : (s.mwr a bs).imuIn = s.imuIn := rfl
@[simp] theorem State.mwr_wheels (s : State) (a : Nat) (bs : List Byte) : (s.mwr a bs).wheels = s.wheels := rfl
@[simp] theorem State.mwr_integ (s : State) (a : Nat) (bs : List Byte) : (s.mwr a bs).integ = s.integ := rfl
@[simp] theorem State.mwr_poses (s : State) (a : Nat) (bs : List Byte) : (s.mwr a bs).poses = s.poses := rfl
@[simp] theorem State.mwr_lidIn (s : State) (a : Nat) (bs : List Byte) : (s.mwr a bs).lidIn = s.lidIn := rfl
@[simp] theorem State.mwr_jobs (s : State) (a : Nat) (bs : List Byte) : (s.mwr a bs).jobs = s.jobs := rfl
@[simp] theorem State.mwr_proj (s : State) (a : Nat) (bs : List Byte) : (s.mwr a bs).proj = s.proj := rfl
@[simp] theorem State.mwr_islands (s : State) (a : Nat) (bs : List Byte) : (s.mwr a bs).islands = s.islands := rfl
@[simp] theorem State.mwr_mainBad (s : State) (a : Nat) (bs : List Byte) : (s.mwr a bs).mainBad = s.mainBad := rfl
@[simp] theorem State.mwr_pllBad (s : State) (a : Nat) (bs : List Byte) : (s.mwr a bs).pllBad = s.pllBad := rfl
@[simp] theorem State.mwr_trigBad (s : State) (a : Nat) (bs : List Byte) : (s.mwr a bs).trigBad = s.trigBad := rfl
@[simp] theorem State.mwr_railsBad (s : State) (a : Nat) (bs : List Byte) : (s.mwr a bs).railsBad = s.railsBad := rfl
@[simp] theorem State.mwr_stGo (s : State) (a : Nat) (bs : List Byte) : (s.mwr a bs).stGo = s.stGo := rfl
@[simp] theorem State.mwr_stDone (s : State) (a : Nat) (bs : List Byte) : (s.mwr a bs).stDone = s.stDone := rfl
@[simp] theorem State.mwr_unitImgs (s : State) (a : Nat) (bs : List Byte) : (s.mwr a bs).unitImgs = s.unitImgs := rfl
@[simp] theorem State.mwr_otp (s : State) (a : Nat) (bs : List Byte) : (s.mwr a bs).otp = s.otp := rfl
@[simp] theorem State.mwr_otpBad (s : State) (a : Nat) (bs : List Byte) : (s.mwr a bs).otpBad = s.otpBad := rfl
@[simp] theorem State.mwr_flash (s : State) (a : Nat) (bs : List Byte) : (s.mwr a bs).flash = s.flash := rfl
@[simp] theorem State.mwr_flashMb (s : State) (a : Nat) (bs : List Byte) : (s.mwr a bs).flashMb = s.flashMb := rfl
@[simp] theorem State.mwr_flashOp (s : State) (a : Nat) (bs : List Byte) : (s.mwr a bs).flashOp = s.flashOp := rfl
@[simp] theorem State.mwr_damaged (s : State) (a : Nat) (bs : List Byte) : (s.mwr a bs).damaged = s.damaged := rfl
@[simp] theorem State.mwr_mailbox (s : State) (a : Nat) (bs : List Byte) : (s.mwr a bs).mailbox = s.mailbox := rfl
@[simp] theorem State.mwr_upd (s : State) (a : Nat) (bs : List Byte) : (s.mwr a bs).upd = s.upd := rfl
@[simp] theorem State.mwr_updNum (s : State) (a : Nat) (bs : List Byte) : (s.mwr a bs).updNum = s.updNum := rfl
@[simp] theorem State.mwr_act (s : State) (a : Nat) (bs : List Byte) : (s.mwr a bs).act = s.act := rfl
@[simp] theorem State.mwr_dieRst (s : State) (a : Nat) (bs : List Byte) : (s.mwr a bs).dieRst = s.dieRst := rfl
@[simp] theorem State.mwr_rewrite (s : State) (a : Nat) (bs : List Byte) : (s.mwr a bs).rewrite = s.rewrite := rfl
@[simp] theorem State.mwr_beatAt (s : State) (a : Nat) (bs : List Byte) : (s.mwr a bs).beatAt = s.beatAt := rfl
@[simp] theorem State.mwr_linkEvAt (s : State) (a : Nat) (bs : List Byte) : (s.mwr a bs).linkEvAt = s.linkEvAt := rfl
@[simp] theorem State.mwr_hardFault (s : State) (a : Nat) (bs : List Byte) : (s.mwr a bs).hardFault = s.hardFault := rfl
@[simp] theorem State.mwr_td (s : State) (a : Nat) (bs : List Byte) : (s.mwr a bs).td = s.td := rfl
@[simp] theorem State.mwr_dump (s : State) (a : Nat) (bs : List Byte) : (s.mwr a bs).dump = s.dump := rfl
@[simp] theorem State.mwr_wdogDump (s : State) (a : Nat) (bs : List Byte) : (s.mwr a bs).wdogDump = s.wdogDump := rfl
@[simp] theorem State.mwr_mpKick (s : State) (a : Nat) (bs : List Byte) : (s.mwr a bs).mpKick = s.mpKick := rfl
@[simp] theorem State.mwr_txHold (s : State) (a : Nat) (bs : List Byte) : (s.mwr a bs).txHold = s.txHold := rfl
@[simp] theorem State.mwr_powerOff (s : State) (a : Nat) (bs : List Byte) : (s.mwr a bs).powerOff = s.powerOff := rfl
@[simp] theorem State.mwr_porstLow (s : State) (a : Nat) (bs : List Byte) : (s.mwr a bs).porstLow = s.porstLow := rfl
@[simp] theorem State.mwr_tapIr (s : State) (a : Nat) (bs : List Byte) : (s.mwr a bs).tapIr = s.tapIr := rfl
@[simp] theorem State.mwr_tapHeld (s : State) (a : Nat) (bs : List Byte) : (s.mwr a bs).tapHeld = s.tapHeld := rfl
@[simp] theorem State.mwr_tapBsr (s : State) (a : Nat) (bs : List Byte) : (s.mwr a bs).tapBsr = s.tapBsr := rfl
@[simp] theorem State.mwr_cluIdle (s : State) (a : Nat) (bs : List Byte) : (s.mwr a bs).cluIdle = s.cluIdle := rfl
@[simp] theorem State.mwr_stallUs (s : State) (a : Nat) (bs : List Byte) : (s.mwr a bs).stallUs = s.stallUs := rfl
@[simp] theorem State.mwr_filler (s : State) (a : Nat) (bs : List Byte) : (s.mwr a bs).filler = s.filler := rfl
@[simp] theorem State.mwr_rampFill (s : State) (a : Nat) (bs : List Byte) : (s.mwr a bs).rampFill = s.rampFill := rfl
@[simp] theorem State.mwr_railMv (s : State) (a : Nat) (bs : List Byte) : (s.mwr a bs).railMv = s.railMv := rfl
@[simp] theorem State.mwr_tripped (s : State) (a : Nat) (bs : List Byte) : (s.mwr a bs).tripped = s.tripped := rfl
@[simp] theorem State.mwr_snsExcl (s : State) (a : Nat) (bs : List Byte) : (s.mwr a bs).snsExcl = s.snsExcl := rfl
@[simp] theorem State.mwr_pairT (s : State) (a : Nat) (bs : List Byte) : (s.mwr a bs).pairT = s.pairT := rfl
@[simp] theorem State.mwr_hotAt (s : State) (a : Nat) (bs : List Byte) : (s.mwr a bs).hotAt = s.hotAt := rfl
@[simp] theorem State.mwr_thermDies (s : State) (a : Nat) (bs : List Byte) : (s.mwr a bs).thermDies = s.thermDies := rfl
@[simp] theorem State.mwr_noBook (s : State) (a : Nat) (bs : List Byte) : (s.mwr a bs).noBook = s.noBook := rfl
@[simp] theorem State.mwr_agSeq (s : State) (a : Nat) (bs : List Byte) : (s.mwr a bs).agSeq = s.agSeq := rfl
@[simp] theorem State.mwr_agBudgetAt (s : State) (a : Nat) (bs : List Byte) : (s.mwr a bs).agBudgetAt = s.agBudgetAt := rfl
@[simp] theorem State.mwr_holdSig (s : State) (a : Nat) (bs : List Byte) : (s.mwr a bs).holdSig = s.holdSig := rfl
@[simp] theorem State.mwr_draws (s : State) (a : Nat) (bs : List Byte) : (s.mwr a bs).draws = s.draws := rfl
@[simp] theorem State.mwr_overAt (s : State) (a : Nat) (bs : List Byte) : (s.mwr a bs).overAt = s.overAt := rfl
@[simp] theorem State.mwr_owing (s : State) (a : Nat) (bs : List Byte) : (s.mwr a bs).owing = s.owing := rfl
@[simp] theorem State.mwr_agRot (s : State) (a : Nat) (bs : List Byte) : (s.mwr a bs).agRot = s.agRot := rfl
@[simp] theorem State.mwr_dieReps (s : State) (a : Nat) (bs : List Byte) : (s.mwr a bs).dieReps = s.dieReps := rfl
@[simp] theorem State.mwr_budgetMsgs (s : State) (a : Nat) (bs : List Byte) : (s.mwr a bs).budgetMsgs = s.budgetMsgs := rfl
@[simp] theorem State.mwr_clampMsgs (s : State) (a : Nat) (bs : List Byte) : (s.mwr a bs).clampMsgs = s.clampMsgs := rfl
@[simp] theorem State.mwr_hthBudget (s : State) (a : Nat) (bs : List Byte) : (s.mwr a bs).hthBudget = s.hthBudget := rfl
@[simp] theorem State.mwr_charges (s : State) (a : Nat) (bs : List Byte) : (s.mwr a bs).charges = s.charges := rfl
@[simp] theorem State.mwr_busBad (s : State) (a : Nat) (bs : List Byte) : (s.mwr a bs).busBad = s.busBad := rfl
@[simp] theorem State.mwr_dieCap (s : State) (a : Nat) (bs : List Byte) : (s.mwr a bs).dieCap = s.dieCap := rfl
@[simp] theorem State.mwr_capAt (s : State) (a : Nat) (bs : List Byte) : (s.mwr a bs).capAt = s.capAt := rfl
@[simp] theorem State.mwr_shortBy (s : State) (a : Nat) (bs : List Byte) : (s.mwr a bs).shortBy = s.shortBy := rfl
@[simp] theorem State.mwr_shortSince (s : State) (a : Nat) (bs : List Byte) : (s.mwr a bs).shortSince = s.shortSince := rfl
@[simp] theorem State.mwr_flowPeriods (s : State) (a : Nat) (bs : List Byte) : (s.mwr a bs).flowPeriods = s.flowPeriods := rfl
@[simp] theorem State.mwr_flowLast (s : State) (a : Nat) (bs : List Byte) : (s.mwr a bs).flowLast = s.flowLast := rfl
@[simp] theorem State.mwr_flowExcl (s : State) (a : Nat) (bs : List Byte) : (s.mwr a bs).flowExcl = s.flowExcl := rfl
@[simp] theorem State.mwr_outSamples (s : State) (a : Nat) (bs : List Byte) : (s.mwr a bs).outSamples = s.outSamples := rfl
@[simp] theorem State.mwr_advs (s : State) (a : Nat) (bs : List Byte) : (s.mwr a bs).advs = s.advs := rfl
@[simp] theorem State.mwr_coolBadAt (s : State) (a : Nat) (bs : List Byte) : (s.mwr a bs).coolBadAt = s.coolBadAt := rfl
@[simp] theorem State.mwr_napWait (s : State) (a : Nat) (bs : List Byte) : (s.mwr a bs).napWait = s.napWait := rfl
@[simp] theorem State.mwr_cellar (s : State) (a : Nat) (bs : List Byte) : (s.mwr a bs).cellar = s.cellar := rfl
@[simp] theorem State.mwr_dark (s : State) (a : Nat) (bs : List Byte) : (s.mwr a bs).dark = s.dark := rfl
@[simp] theorem State.mwr_reports (s : State) (a : Nat) (bs : List Byte) : (s.mwr a bs).reports = s.reports := rfl
@[simp] theorem State.mwr_mpEvents (s : State) (a : Nat) (bs : List Byte) : (s.mwr a bs).mpEvents = s.mpEvents := rfl
@[simp] theorem State.mwr_emits (s : State) (a : Nat) (bs : List Byte) : (s.mwr a bs).emits = s.emits := rfl
@[simp] theorem State.mwr_reqs (s : State) (a : Nat) (bs : List Byte) : (s.mwr a bs).reqs = s.reqs := rfl
@[simp] theorem State.mwr_resps (s : State) (a : Nat) (bs : List Byte) : (s.mwr a bs).resps = s.resps := rfl

/-! ### State.mzero -/

@[simp] theorem State.mzero_part (s : State) (a n : Nat) : (s.mzero a n).part = s.part := rfl
@[simp] theorem State.mzero_pending (s : State) (a n : Nat) : (s.mzero a n).pending = s.pending := rfl
@[simp] theorem State.mzero_regs (s : State) (a n : Nat) : (s.mzero a n).regs = s.regs := rfl
@[simp] theorem State.mzero_fresh (s : State) (a n : Nat) : (s.mzero a n).fresh = s.fresh := rfl
@[simp] theorem State.mzero_latched (s : State) (a n : Nat) : (s.mzero a n).latched = s.latched := rfl
@[simp] theorem State.mzero_dram (s : State) (a n : Nat) : (s.mzero a n).dram = s.dram := rfl
@[simp] theorem State.mzero_elogSeq (s : State) (a n : Nat) : (s.mzero a n).elogSeq = s.elogSeq := rfl
@[simp] theorem State.mzero_injCount (s : State) (a n : Nat) : (s.mzero a n).injCount = s.injCount := rfl
@[simp] theorem State.mzero_openRows (s : State) (a n : Nat) : (s.mzero a n).openRows = s.openRows := rfl
@[simp] theorem State.mzero_patrolPos (s : State) (a n : Nat) : (s.mzero a n).patrolPos = s.patrolPos := rfl
@[simp] theorem State.mzero_patrolRef (s : State) (a n : Nat) : (s.mzero a n).patrolRef = s.patrolRef := rfl
@[simp] theorem State.mzero_checkBurst (s : State) (a n : Nat) : (s.mzero a n).checkBurst = s.checkBurst := rfl
@[simp] theorem State.mzero_scheds (s : State) (a n : Nat) : (s.mzero a n).scheds = s.scheds := rfl
@[simp] theorem State.mzero_training (s : State) (a n : Nat) : (s.mzero a n).training = s.training := rfl
@[simp] theorem State.mzero_sc (s : State) (a n : Nat) : (s.mzero a n).sc = s.sc := rfl
@[simp] theorem State.mzero_scSects (s : State) (a n : Nat) : (s.mzero a n).scSects = s.scSects := rfl
@[simp] theorem State.mzero_engs (s : State) (a n : Nat) : (s.mzero a n).engs = s.engs := rfl
@[simp] theorem State.mzero_cores (s : State) (a n : Nat) : (s.mzero a n).cores = s.cores := rfl
@[simp] theorem State.mzero_panHead (s : State) (a n : Nat) : (s.mzero a n).panHead = s.panHead := rfl
@[simp] theorem State.mzero_ptRuns (s : State) (a n : Nat) : (s.mzero a n).ptRuns = s.ptRuns := rfl
@[simp] theorem State.mzero_tcmds (s : State) (a n : Nat) : (s.mzero a n).tcmds = s.tcmds := rfl
@[simp] theorem State.mzero_atts (s : State) (a n : Nat) : (s.mzero a n).atts = s.atts := rfl
@[simp] theorem State.mzero_cmds (s : State) (a n : Nat) : (s.mzero a n).cmds = s.cmds := rfl
@[simp] theorem State.mzero_tagGens (s : State) (a n : Nat) : (s.mzero a n).tagGens = s.tagGens := rfl
@[simp] theorem State.mzero_orderNext (s : State) (a n : Nat) : (s.mzero a n).orderNext = s.orderNext := rfl
@[simp] theorem State.mzero_ctxs (s : State) (a n : Nat) : (s.mzero a n).ctxs = s.ctxs := rfl
@[simp] theorem State.mzero_qcache (s : State) (a n : Nat) : (s.mzero a n).qcache = s.qcache := rfl
@[simp] theorem State.mzero_qready (s : State) (a n : Nat) : (s.mzero a n).qready = s.qready := rfl
@[simp] theorem State.mzero_cqs (s : State) (a n : Nat) : (s.mzero a n).cqs = s.cqs := rfl
@[simp] theorem State.mzero_cqUsed (s : State) (a n : Nat) : (s.mzero a n).cqUsed = s.cqUsed := rfl
@[simp] theorem State.mzero_cqNotes (s : State) (a n : Nat) : (s.mzero a n).cqNotes = s.cqNotes := rfl
@[simp] theorem State.mzero_pendDb (s : State) (a n : Nat) : (s.mzero a n).pendDb = s.pendDb := rfl
@[simp] theorem State.mzero_vc0 (s : State) (a n : Nat) : (s.mzero a n).vc0 = s.vc0 := rfl
@[simp] theorem State.mzero_images (s : State) (a n : Nat) : (s.mzero a n).images = s.images := rfl
@[simp] theorem State.mzero_resvs (s : State) (a n : Nat) : (s.mzero a n).resvs = s.resvs := rfl
@[simp] theorem State.mzero_events (s : State) (a n : Nat) : (s.mzero a n).events = s.events := rfl
@[simp] theorem State.mzero_eventsLost (s : State) (a n : Nat) : (s.mzero a n).eventsLost = s.eventsLost := rfl
@[simp] theorem State.mzero_eventSeq (s : State) (a n : Nat) : (s.mzero a n).eventSeq = s.eventSeq := rfl
@[simp] theorem State.mzero_semMsgs (s : State) (a n : Nat) : (s.mzero a n).semMsgs = s.semMsgs := rfl
@[simp] theorem State.mzero_waiters (s : State) (a n : Nat) : (s.mzero a n).waiters = s.waiters := rfl
@[simp] theorem State.mzero_semRsps (s : State) (a n : Nat) : (s.mzero a n).semRsps = s.semRsps := rfl
@[simp] theorem State.mzero_strKeys (s : State) (a n : Nat) : (s.mzero a n).strKeys = s.strKeys := rfl
@[simp] theorem State.mzero_hangLevel (s : State) (a n : Nat) : (s.mzero a n).hangLevel = s.hangLevel := rfl
@[simp] theorem State.mzero_dcWire (s : State) (a n : Nat) : (s.mzero a n).dcWire = s.dcWire := rfl
@[simp] theorem State.mzero_strSegs (s : State) (a n : Nat) : (s.mzero a n).strSegs = s.strSegs := rfl
@[simp] theorem State.mzero_strCreds (s : State) (a n : Nat) : (s.mzero a n).strCreds = s.strCreds := rfl
@[simp] theorem State.mzero_ledgerMute (s : State) (a n : Nat) : (s.mzero a n).ledgerMute = s.ledgerMute := rfl
@[simp] theorem State.mzero_tagReleases (s : State) (a n : Nat) : (s.mzero a n).tagReleases = s.tagReleases := rfl
@[simp] theorem State.mzero_dozeHold (s : State) (a n : Nat) : (s.mzero a n).dozeHold = s.dozeHold := rfl
@[simp] theorem State.mzero_rotAt (s : State) (a n : Nat) : (s.mzero a n).rotAt = s.rotAt := rfl
@[simp] theorem State.mzero_goldNext (s : State) (a n : Nat) : (s.mzero a n).goldNext = s.goldNext := rfl
@[simp] theorem State.mzero_pastBooked (s : State) (a n : Nat) : (s.mzero a n).pastBooked = s.pastBooked := rfl
@[simp] theorem State.mzero_policy (s : State) (a n : Nat) : (s.mzero a n).policy = s.policy := rfl
@[simp] theorem State.mzero_buckets (s : State) (a n : Nat) : (s.mzero a n).buckets = s.buckets := rfl
@[simp] theorem State.mzero_turns (s : State) (a n : Nat) : (s.mzero a n).turns = s.turns := rfl
@[simp] theorem State.mzero_routes (s : State) (a n : Nat) : (s.mzero a n).routes = s.routes := rfl
@[simp] theorem State.mzero_notifyQ (s : State) (a n : Nat) : (s.mzero a n).notifyQ = s.notifyQ := rfl
@[simp] theorem State.mzero_links (s : State) (a n : Nat) : (s.mzero a n).links = s.links := rfl
@[simp] theorem State.mzero_laneOtp (s : State) (a n : Nat) : (s.mzero a n).laneOtp = s.laneOtp := rfl
@[simp] theorem State.mzero_hostProto (s : State) (a n : Nat) : (s.mzero a n).hostProto = s.hostProto := rfl
@[simp] theorem State.mzero_spnFixed (s : State) (a n : Nat) : (s.mzero a n).spnFixed = s.spnFixed := rfl
@[simp] theorem State.mzero_discovering (s : State) (a n : Nat) : (s.mzero a n).discovering = s.discovering := rfl
@[simp] theorem State.mzero_sports (s : State) (a n : Nat) : (s.mzero a n).sports = s.sports := rfl
@[simp] theorem State.mzero_pchOrd (s : State) (a n : Nat) : (s.mzero a n).pchOrd = s.pchOrd := rfl
@[simp] theorem State.mzero_drainUrg (s : State) (a n : Nat) : (s.mzero a n).drainUrg = s.drainUrg := rfl
@[simp] theorem State.mzero_drainNorm (s : State) (a n : Nat) : (s.mzero a n).drainNorm = s.drainNorm := rfl
@[simp] theorem State.mzero_trigNext (s : State) (a n : Nat) : (s.mzero a n).trigNext = s.trigNext := rfl
@[simp] theorem State.mzero_trigFired (s : State) (a n : Nat) : (s.mzero a n).trigFired = s.trigFired := rfl
@[simp] theorem State.mzero_trigPast (s : State) (a n : Nat) : (s.mzero a n).trigPast = s.trigPast := rfl
@[simp] theorem State.mzero_trigHiz (s : State) (a n : Nat) : (s.mzero a n).trigHiz = s.trigHiz := rfl
@[simp] theorem State.mzero_trigAt (s : State) (a n : Nat) : (s.mzero a n).trigAt = s.trigAt := rfl
@[simp] theorem State.mzero_trigLen (s : State) (a n : Nat) : (s.mzero a n).trigLen = s.trigLen := rfl
@[simp] theorem State.mzero_slew (s : State) (a n : Nat) : (s.mzero a n).slew = s.slew := rfl
@[simp] theorem State.mzero_slewTicks (s : State) (a n : Nat) : (s.mzero a n).slewTicks = s.slewTicks := rfl
@[simp] theorem State.mzero_lastSync (s : State) (a n : Nat) : (s.mzero a n).lastSync = s.lastSync := rfl
@[simp] theorem State.mzero_holdSince (s : State) (a n : Nat) : (s.mzero a n).holdSince = s.holdSince := rfl
@[simp] theorem State.mzero_calOn (s : State) (a n : Nat) : (s.mzero a n).calOn = s.calOn := rfl
@[simp] theorem State.mzero_calPend (s : State) (a n : Nat) : (s.mzero a n).calPend = s.calPend := rfl
@[simp] theorem State.mzero_imuIn (s : State) (a n : Nat) : (s.mzero a n).imuIn = s.imuIn := rfl
@[simp] theorem State.mzero_wheels (s : State) (a n : Nat) : (s.mzero a n).wheels = s.wheels := rfl
@[simp] theorem State.mzero_integ (s : State) (a n : Nat) : (s.mzero a n).integ = s.integ := rfl
@[simp] theorem State.mzero_poses (s : State) (a n : Nat) : (s.mzero a n).poses = s.poses := rfl
@[simp] theorem State.mzero_lidIn (s : State) (a n : Nat) : (s.mzero a n).lidIn = s.lidIn := rfl
@[simp] theorem State.mzero_jobs (s : State) (a n : Nat) : (s.mzero a n).jobs = s.jobs := rfl
@[simp] theorem State.mzero_proj (s : State) (a n : Nat) : (s.mzero a n).proj = s.proj := rfl
@[simp] theorem State.mzero_islands (s : State) (a n : Nat) : (s.mzero a n).islands = s.islands := rfl
@[simp] theorem State.mzero_mainBad (s : State) (a n : Nat) : (s.mzero a n).mainBad = s.mainBad := rfl
@[simp] theorem State.mzero_pllBad (s : State) (a n : Nat) : (s.mzero a n).pllBad = s.pllBad := rfl
@[simp] theorem State.mzero_trigBad (s : State) (a n : Nat) : (s.mzero a n).trigBad = s.trigBad := rfl
@[simp] theorem State.mzero_railsBad (s : State) (a n : Nat) : (s.mzero a n).railsBad = s.railsBad := rfl
@[simp] theorem State.mzero_stGo (s : State) (a n : Nat) : (s.mzero a n).stGo = s.stGo := rfl
@[simp] theorem State.mzero_stDone (s : State) (a n : Nat) : (s.mzero a n).stDone = s.stDone := rfl
@[simp] theorem State.mzero_unitImgs (s : State) (a n : Nat) : (s.mzero a n).unitImgs = s.unitImgs := rfl
@[simp] theorem State.mzero_otp (s : State) (a n : Nat) : (s.mzero a n).otp = s.otp := rfl
@[simp] theorem State.mzero_otpBad (s : State) (a n : Nat) : (s.mzero a n).otpBad = s.otpBad := rfl
@[simp] theorem State.mzero_flash (s : State) (a n : Nat) : (s.mzero a n).flash = s.flash := rfl
@[simp] theorem State.mzero_flashMb (s : State) (a n : Nat) : (s.mzero a n).flashMb = s.flashMb := rfl
@[simp] theorem State.mzero_flashOp (s : State) (a n : Nat) : (s.mzero a n).flashOp = s.flashOp := rfl
@[simp] theorem State.mzero_damaged (s : State) (a n : Nat) : (s.mzero a n).damaged = s.damaged := rfl
@[simp] theorem State.mzero_mailbox (s : State) (a n : Nat) : (s.mzero a n).mailbox = s.mailbox := rfl
@[simp] theorem State.mzero_upd (s : State) (a n : Nat) : (s.mzero a n).upd = s.upd := rfl
@[simp] theorem State.mzero_updNum (s : State) (a n : Nat) : (s.mzero a n).updNum = s.updNum := rfl
@[simp] theorem State.mzero_act (s : State) (a n : Nat) : (s.mzero a n).act = s.act := rfl
@[simp] theorem State.mzero_dieRst (s : State) (a n : Nat) : (s.mzero a n).dieRst = s.dieRst := rfl
@[simp] theorem State.mzero_rewrite (s : State) (a n : Nat) : (s.mzero a n).rewrite = s.rewrite := rfl
@[simp] theorem State.mzero_beatAt (s : State) (a n : Nat) : (s.mzero a n).beatAt = s.beatAt := rfl
@[simp] theorem State.mzero_linkEvAt (s : State) (a n : Nat) : (s.mzero a n).linkEvAt = s.linkEvAt := rfl
@[simp] theorem State.mzero_hardFault (s : State) (a n : Nat) : (s.mzero a n).hardFault = s.hardFault := rfl
@[simp] theorem State.mzero_td (s : State) (a n : Nat) : (s.mzero a n).td = s.td := rfl
@[simp] theorem State.mzero_dump (s : State) (a n : Nat) : (s.mzero a n).dump = s.dump := rfl
@[simp] theorem State.mzero_wdogDump (s : State) (a n : Nat) : (s.mzero a n).wdogDump = s.wdogDump := rfl
@[simp] theorem State.mzero_mpKick (s : State) (a n : Nat) : (s.mzero a n).mpKick = s.mpKick := rfl
@[simp] theorem State.mzero_txHold (s : State) (a n : Nat) : (s.mzero a n).txHold = s.txHold := rfl
@[simp] theorem State.mzero_powerOff (s : State) (a n : Nat) : (s.mzero a n).powerOff = s.powerOff := rfl
@[simp] theorem State.mzero_porstLow (s : State) (a n : Nat) : (s.mzero a n).porstLow = s.porstLow := rfl
@[simp] theorem State.mzero_tapIr (s : State) (a n : Nat) : (s.mzero a n).tapIr = s.tapIr := rfl
@[simp] theorem State.mzero_tapHeld (s : State) (a n : Nat) : (s.mzero a n).tapHeld = s.tapHeld := rfl
@[simp] theorem State.mzero_tapBsr (s : State) (a n : Nat) : (s.mzero a n).tapBsr = s.tapBsr := rfl
@[simp] theorem State.mzero_cluIdle (s : State) (a n : Nat) : (s.mzero a n).cluIdle = s.cluIdle := rfl
@[simp] theorem State.mzero_stallUs (s : State) (a n : Nat) : (s.mzero a n).stallUs = s.stallUs := rfl
@[simp] theorem State.mzero_filler (s : State) (a n : Nat) : (s.mzero a n).filler = s.filler := rfl
@[simp] theorem State.mzero_rampFill (s : State) (a n : Nat) : (s.mzero a n).rampFill = s.rampFill := rfl
@[simp] theorem State.mzero_railMv (s : State) (a n : Nat) : (s.mzero a n).railMv = s.railMv := rfl
@[simp] theorem State.mzero_tripped (s : State) (a n : Nat) : (s.mzero a n).tripped = s.tripped := rfl
@[simp] theorem State.mzero_snsExcl (s : State) (a n : Nat) : (s.mzero a n).snsExcl = s.snsExcl := rfl
@[simp] theorem State.mzero_pairT (s : State) (a n : Nat) : (s.mzero a n).pairT = s.pairT := rfl
@[simp] theorem State.mzero_hotAt (s : State) (a n : Nat) : (s.mzero a n).hotAt = s.hotAt := rfl
@[simp] theorem State.mzero_thermDies (s : State) (a n : Nat) : (s.mzero a n).thermDies = s.thermDies := rfl
@[simp] theorem State.mzero_noBook (s : State) (a n : Nat) : (s.mzero a n).noBook = s.noBook := rfl
@[simp] theorem State.mzero_agSeq (s : State) (a n : Nat) : (s.mzero a n).agSeq = s.agSeq := rfl
@[simp] theorem State.mzero_agBudgetAt (s : State) (a n : Nat) : (s.mzero a n).agBudgetAt = s.agBudgetAt := rfl
@[simp] theorem State.mzero_holdSig (s : State) (a n : Nat) : (s.mzero a n).holdSig = s.holdSig := rfl
@[simp] theorem State.mzero_draws (s : State) (a n : Nat) : (s.mzero a n).draws = s.draws := rfl
@[simp] theorem State.mzero_overAt (s : State) (a n : Nat) : (s.mzero a n).overAt = s.overAt := rfl
@[simp] theorem State.mzero_owing (s : State) (a n : Nat) : (s.mzero a n).owing = s.owing := rfl
@[simp] theorem State.mzero_agRot (s : State) (a n : Nat) : (s.mzero a n).agRot = s.agRot := rfl
@[simp] theorem State.mzero_dieReps (s : State) (a n : Nat) : (s.mzero a n).dieReps = s.dieReps := rfl
@[simp] theorem State.mzero_budgetMsgs (s : State) (a n : Nat) : (s.mzero a n).budgetMsgs = s.budgetMsgs := rfl
@[simp] theorem State.mzero_clampMsgs (s : State) (a n : Nat) : (s.mzero a n).clampMsgs = s.clampMsgs := rfl
@[simp] theorem State.mzero_hthBudget (s : State) (a n : Nat) : (s.mzero a n).hthBudget = s.hthBudget := rfl
@[simp] theorem State.mzero_charges (s : State) (a n : Nat) : (s.mzero a n).charges = s.charges := rfl
@[simp] theorem State.mzero_busBad (s : State) (a n : Nat) : (s.mzero a n).busBad = s.busBad := rfl
@[simp] theorem State.mzero_dieCap (s : State) (a n : Nat) : (s.mzero a n).dieCap = s.dieCap := rfl
@[simp] theorem State.mzero_capAt (s : State) (a n : Nat) : (s.mzero a n).capAt = s.capAt := rfl
@[simp] theorem State.mzero_shortBy (s : State) (a n : Nat) : (s.mzero a n).shortBy = s.shortBy := rfl
@[simp] theorem State.mzero_shortSince (s : State) (a n : Nat) : (s.mzero a n).shortSince = s.shortSince := rfl
@[simp] theorem State.mzero_flowPeriods (s : State) (a n : Nat) : (s.mzero a n).flowPeriods = s.flowPeriods := rfl
@[simp] theorem State.mzero_flowLast (s : State) (a n : Nat) : (s.mzero a n).flowLast = s.flowLast := rfl
@[simp] theorem State.mzero_flowExcl (s : State) (a n : Nat) : (s.mzero a n).flowExcl = s.flowExcl := rfl
@[simp] theorem State.mzero_outSamples (s : State) (a n : Nat) : (s.mzero a n).outSamples = s.outSamples := rfl
@[simp] theorem State.mzero_advs (s : State) (a n : Nat) : (s.mzero a n).advs = s.advs := rfl
@[simp] theorem State.mzero_coolBadAt (s : State) (a n : Nat) : (s.mzero a n).coolBadAt = s.coolBadAt := rfl
@[simp] theorem State.mzero_napWait (s : State) (a n : Nat) : (s.mzero a n).napWait = s.napWait := rfl
@[simp] theorem State.mzero_cellar (s : State) (a n : Nat) : (s.mzero a n).cellar = s.cellar := rfl
@[simp] theorem State.mzero_dark (s : State) (a n : Nat) : (s.mzero a n).dark = s.dark := rfl
@[simp] theorem State.mzero_reports (s : State) (a n : Nat) : (s.mzero a n).reports = s.reports := rfl
@[simp] theorem State.mzero_mpEvents (s : State) (a n : Nat) : (s.mzero a n).mpEvents = s.mpEvents := rfl
@[simp] theorem State.mzero_emits (s : State) (a n : Nat) : (s.mzero a n).emits = s.emits := rfl
@[simp] theorem State.mzero_reqs (s : State) (a n : Nat) : (s.mzero a n).reqs = s.reqs := rfl
@[simp] theorem State.mzero_resps (s : State) (a n : Nat) : (s.mzero a n).resps = s.resps := rfl

end Sys2Proof.Machine
end

