-- ==== Sys2Proof/Laws/Regs.lean ====
section
/-!
SUPPORT. Laws/Regs.lean: what a register or a field reads after a write of it or of another, and that writes keep the
canonical form.
-/
namespace Sys2Proof.Machine

open Sys2Proof

theorem State.ok_regs {s : State} (h : s.ok = true) : kwf (regDefault s.part) s.regs = true := by
  unfold State.ok State.regsOk at h; simp only [Bool.and_eq_true] at h; exact h.1.1

theorem State.ok_mem {s : State} (h : s.ok = true) : Memory.wf s.mem = true := by
  unfold State.ok at h; simp only [Bool.and_eq_true] at h; exact h.1.2

theorem State.ok_maps {s : State} (h : s.ok = true) : s.mapsOk = true := by
  unfold State.ok at h; simp only [Bool.and_eq_true] at h; exact h.2

theorem State.ok_of {s : State} (h : kwf (regDefault s.part) s.regs = true) (h' : Memory.wf s.mem = true)
    (hm : s.mapsOk = true) : s.ok = true := by
  unfold State.ok State.regsOk; simp [h, h', hm]

@[simp] theorem State.ok_wr {s : State} {a v : Nat} (h : s.ok = true) : (s.wr a v).ok = true :=
  State.ok_of (kwf_kset _ _ _ (State.ok_regs h)) (State.ok_mem (s := s) h) (State.ok_maps (s := s) h)

@[simp] theorem State.ok_fs {s : State} {b : Nat} {f : Fld} {v : Nat} (h : s.ok = true) : (s.fs b f v).ok = true :=
  State.ok_wr h

@[simp] theorem State.ok_dropRegs {s : State} {p : Nat → Bool} (h : s.ok = true) : (s.dropRegs p).ok = true :=
  State.ok_of (kwf_kdrop _ _ (State.ok_regs h)) (State.ok_mem (s := s) h) (State.ok_maps (s := s) h)

theorem State.maps_iff (s : State) : s.mapsOk = true ↔ ksorted none s.engs = true ∧ ksorted none s.cores = true
    ∧ ksorted none s.ctxs = true ∧ ksorted none s.atts = true ∧ ksorted none s.islands = true ∧ ksorted none s.sports = true
    ∧ ksorted none s.links = true ∧ ksorted none s.otp = true := by
  unfold State.mapsOk; simp [Bool.and_eq_true, and_assoc]

/-- A map set at a key stays sorted. -/
theorem ksorted_setD {V : Type} [DecidableEq V] {d : V} {m : List (Nat × V)} {k : Nat} {v : V} (h : ksorted none m = true) :
    ksorted none (setD d m k v) = true := ksorted_kset m none k v h (by intro l hl; cases hl)

@[simp] theorem State.ok_setEng {s : State} {e : Nat} {v : Eng} (h : s.ok = true) : (s.setEng e v).ok = true := by
  refine State.ok_of (State.ok_regs (s := s) h) (State.ok_mem (s := s) h) ((State.maps_iff _).2 ?_)
  have m := (State.maps_iff _).1 (State.ok_maps h)
  exact ⟨ksorted_setD m.1, m.2⟩

@[simp] theorem State.ok_setCore {s : State} {k : Nat} {v : CoreSt} (h : s.ok = true) : (s.setCore k v).ok = true := by
  refine State.ok_of (State.ok_regs (s := s) h) (State.ok_mem (s := s) h) ((State.maps_iff _).2 ?_)
  have m := (State.maps_iff _).1 (State.ok_maps h)
  exact ⟨m.1, ksorted_setD m.2.1, m.2.2⟩

@[simp] theorem State.ok_setCtx {s : State} {k : Nat} {v : Ctx} (h : s.ok = true) : (s.setCtx k v).ok = true := by
  refine State.ok_of (State.ok_regs (s := s) h) (State.ok_mem (s := s) h) ((State.maps_iff _).2 ?_)
  have m := (State.maps_iff _).1 (State.ok_maps h)
  exact ⟨m.1, m.2.1, ksorted_setD m.2.2.1, m.2.2.2⟩

@[simp] theorem State.ok_setIsl {s : State} {k : Nat} {v : Island} (h : s.ok = true) : (s.setIsl k v).ok = true := by
  refine State.ok_of (State.ok_regs (s := s) h) (State.ok_mem (s := s) h) ((State.maps_iff _).2 ?_)
  have m := (State.maps_iff _).1 (State.ok_maps h)
  exact ⟨m.1, m.2.1, m.2.2.1, m.2.2.2.1, ksorted_setD m.2.2.2.2.1, m.2.2.2.2.2⟩

@[simp] theorem State.ok_setPort {s : State} {k : Nat} {v : SensorPort} (h : s.ok = true) : (s.setPort k v).ok = true := by
  refine State.ok_of (State.ok_regs (s := s) h) (State.ok_mem (s := s) h) ((State.maps_iff _).2 ?_)
  have m := (State.maps_iff _).1 (State.ok_maps h)
  exact ⟨m.1, m.2.1, m.2.2.1, m.2.2.2.1, m.2.2.2.2.1, ksorted_setD m.2.2.2.2.2.1, m.2.2.2.2.2.2⟩

/-- `t` is `s` but for its registers, which keep their canonical form. -/
def RegsMove (s t : State) : Prop :=
  ∃ r, t = { s with regs := r } ∧ (kwf (regDefault s.part) s.regs = true → kwf (regDefault s.part) r = true)

theorem RegsMove.refl (s : State) : RegsMove s s := ⟨s.regs, rfl, id⟩

theorem RegsMove.trans {s t u : State} (h : RegsMove s t) (h' : RegsMove t u) : RegsMove s u := by
  obtain ⟨r, rfl, hr⟩ := h
  obtain ⟨q, rfl, hq⟩ := h'
  exact ⟨q, rfl, fun x => hq (hr x)⟩

theorem RegsMove.wr (s : State) (a v : Nat) : RegsMove s (s.wr a v) := ⟨_, rfl, fun h => kwf_kset _ _ _ h⟩

theorem RegsMove.fs (s : State) (b : Nat) (f : Fld) (v : Nat) : RegsMove s (s.fs b f v) := RegsMove.wr s _ _

theorem RegsMove.foldl {A : Type} (f : State → A → State) (h : ∀ s x, RegsMove s (f s x)) :
    ∀ (xs : List A) (s : State), RegsMove s (xs.foldl f s)
  | [], s => RegsMove.refl s
  | x :: xs, s => (h s x).trans (RegsMove.foldl f h xs (f s x))

/-- What setting a link's end does: its record, and registers of the end's block. -/
theorem setEnd_eq (s : State) (e : Nat) (l : LinkEnd) : RegsMove { s with links := setD LinkEnd.down s.links e l } (setEnd s e l) := by
  unfold setEnd
  split
  · exact RegsMove.foldl _ (fun s v => (RegsMove.fs s _ _ _).trans (RegsMove.fs _ _ _ _)) _ _
  · exact RegsMove.refl _

@[simp] theorem State.ok_setEnd {s : State} {k : Nat} {v : LinkEnd} (h : s.ok = true) : (setEnd s k v).ok = true := by
  obtain ⟨r, hr, hk⟩ := setEnd_eq s k v
  simp only at hk
  rw [hr]
  refine State.ok_of (hk (State.ok_regs (s := s) h)) (State.ok_mem (s := s) h) ((State.maps_iff _).2 ?_)
  have m := (State.maps_iff _).1 (State.ok_maps h)
  exact ⟨m.1, m.2.1, m.2.2.1, m.2.2.2.1, m.2.2.2.2.1, m.2.2.2.2.2.1, ksorted_setD m.2.2.2.2.2.2.1, m.2.2.2.2.2.2.2⟩

@[simp] theorem State.ok_setCmd {s : State} {tg : Nat} {c : Cmd} (h : s.ok = true) : (s.setCmd tg c).ok = true := h
@[simp] theorem State.ok_emit {s : State} {k : String} {d : Nat} {w : List Nat} (h : s.ok = true) : (s.emit k d w).ok = true := h
@[simp] theorem State.ok_report {s : State} {i e u : Nat} (h : s.ok = true) : (s.report i e u).ok = true := h
@[simp] theorem State.ok_toMp {s : State} {k u : Nat} (h : s.ok = true) : (s.toMp k u).ok = true := h

/-- Updates that touch neither registers nor memory nor the maps of records keep the canonical form. -/
theorem State.ok_same {s t : State} (h : s.ok = true) (hp : t.part = s.part) (hr : t.regs = s.regs) (hm : t.mem = s.mem)
    (hx : t.mapsOk = s.mapsOk) : t.ok = true := by
  apply State.ok_of
  · rw [hp, hr]; exact State.ok_regs h
  · rw [hm]; exact State.ok_mem h
  · rw [hx]; exact State.ok_maps h

/-! ### Records after an update -/

theorem State.core_setCore_same {s : State} {k : Nat} {v : CoreSt} (h : s.ok = true) : (s.setCore k v).core k = v :=
  kget_kset_same _ none _ _ ((State.maps_iff _).1 (State.ok_maps h)).2.1

theorem State.core_setCore_other {s : State} {k j : Nat} {v : CoreSt} (h : s.ok = true) (hj : j ≠ k) :
    (s.setCore k v).core j = s.core j :=
  kget_kset_other _ none _ _ _ ((State.maps_iff _).1 (State.ok_maps h)).2.1 hj

theorem State.eng_setEng_same {s : State} {e : Nat} {v : Eng} (h : s.ok = true) : (s.setEng e v).eng e = v :=
  kget_kset_same _ none _ _ ((State.maps_iff _).1 (State.ok_maps h)).1

theorem State.eng_setEng_other {s : State} {e j : Nat} {v : Eng} (h : s.ok = true) (hj : j ≠ e) :
    (s.setEng e v).eng j = s.eng j :=
  kget_kset_other _ none _ _ _ ((State.maps_iff _).1 (State.ok_maps h)).1 hj

theorem State.ctx_setCtx_same {s : State} {x : Nat} {v : Ctx} (h : s.ok = true) : (s.setCtx x v).ctx x = v :=
  kget_kset_same _ none _ _ ((State.maps_iff _).1 (State.ok_maps h)).2.2.1

theorem State.isl_setIsl_same {s : State} {i : Nat} {v : Island} (h : s.ok = true) : (s.setIsl i v).isl i = v :=
  kget_kset_same _ none _ _ ((State.maps_iff _).1 (State.ok_maps h)).2.2.2.2.1

theorem State.isl_setIsl_other {s : State} {i j : Nat} {v : Island} (h : s.ok = true) (hj : j ≠ i) :
    (s.setIsl i v).isl j = s.isl j :=
  kget_kset_other _ none _ _ _ ((State.maps_iff _).1 (State.ok_maps h)).2.2.2.2.1 hj

theorem State.port_setPort_same {s : State} {p : Nat} {v : SensorPort} (h : s.ok = true) : (s.setPort p v).port p = v :=
  kget_kset_same _ none _ _ ((State.maps_iff _).1 (State.ok_maps h)).2.2.2.2.2.1

theorem linkEnd_setEnd_same {s : State} {e : Nat} {v : LinkEnd} (h : s.ok = true) : linkEnd (setEnd s e v) e = v := by
  obtain ⟨r, hr, -⟩ := setEnd_eq s e v
  rw [hr]
  exact kget_kset_same _ none _ _ ((State.maps_iff _).1 (State.ok_maps h)).2.2.2.2.2.2.1

theorem linkEnd_setEnd_other {s : State} {e j : Nat} {v : LinkEnd} (h : s.ok = true) (hj : j ≠ e) :
    linkEnd (setEnd s e v) j = linkEnd s j := by
  obtain ⟨r, hr, -⟩ := setEnd_eq s e v
  rw [hr]
  exact kget_kset_other _ none _ _ _ ((State.maps_iff _).1 (State.ok_maps h)).2.2.2.2.2.2.1 hj

theorem State.att_setAtt_same {s : State} {c : Nat} {v : AttSt} (h : s.ok = true) : (s.setAtt c v).att c = v :=
  kget_kset_same _ none _ _ ((State.maps_iff _).1 (State.ok_maps h)).2.2.2.1

@[simp] theorem State.cmd_setCmd_same (s : State) (tg : Nat) (c : Cmd) : (s.setCmd tg c).cmd? tg = some c :=
  aget_aput_same _ _ _

theorem State.cmd_setCmd_other (s : State) (tg j : Nat) (c : Cmd) (h : j ≠ tg) : (s.setCmd tg c).cmd? j = s.cmd? j :=
  aget_aput_other _ _ _ _ h

/-! ### Registers -/

@[simp] theorem State.rd_lt (s : State) (a : Nat) : s.rd a < 4294967296 := by
  unfold State.rd; exact BitVec.isLt _

/-- The register just written reads as the value's low 32 bits. -/
theorem State.rd_wr_same {s : State} (a v : Nat) (h : s.ok = true) : (s.wr a v).rd a = v % 4294967296 := by
  unfold State.rd State.wr
  rw [show ({ s with regs := kset (regDefault s.part) s.regs a (BitVec.ofNat 32 v) } : State).part = s.part from rfl]
  simp only
  rw [kget_kset_same _ none a _ (kwf_sorted _ (State.ok_regs h)), BitVec.toNat_ofNat]

/-- Every other register reads as before. -/
theorem State.rd_wr_other {s : State} {a b : Nat} (v : Nat) (h : s.ok = true) (hab : b ≠ a) : (s.wr a v).rd b = s.rd b := by
  unfold State.rd State.wr
  simp only
  rw [kget_kset_other _ none a b _ (kwf_sorted _ (State.ok_regs h)) hab]

theorem State.rd_fs_other {s : State} {b a : Nat} {f : Fld} (v : Nat) (h : s.ok = true) (hab : a ≠ b + f.off) :
    (s.fs b f v).rd a = s.rd a := State.rd_wr_other _ h hab

/-- The register whose field is set. -/
theorem State.rd_fs_same {s : State} (b : Nat) (f : Fld) (v : Nat) (h : s.ok = true) (hf : f.lo ≤ f.hi) (hw : f.hi < 32) :
    (s.fs b f v).rd (b + f.off) = setBits (s.rd (b + f.off)) f.hi f.lo v := by
  unfold State.fs
  rw [State.rd_wr_same _ _ h]
  exact Nat.mod_eq_of_lt (setBits_lt _ _ _ _ 32 hf hw (State.rd_lt s _))

/-- The field just set reads as the value, cut to the field. -/
theorem State.fg_fs_same {s : State} (b : Nat) (f : Fld) (v : Nat) (h : s.ok = true) (hf : f.lo ≤ f.hi) (hw : f.hi < 32) :
    (s.fs b f v).fg b f = v % 2 ^ (f.hi + 1 - f.lo) := by
  unfold State.fg
  rw [State.rd_fs_same b f v h hf hw, bits_setBits_same _ _ _ _ hf]

/-- A field of another register reads as before. -/
theorem State.fg_fs_other {s : State} {b b' : Nat} {f f' : Fld} (v : Nat) (h : s.ok = true) (hne : b' + f'.off ≠ b + f.off) :
    (s.fs b f v).fg b' f' = s.fg b' f' := by
  unfold State.fg; rw [State.rd_fs_other v h hne]

/-- Another field of the same register reads as before. -/
theorem State.fg_fs_field {s : State} {b : Nat} {f f' : Fld} (v : Nat) (h : s.ok = true) (ho : f'.off = f.off)
    (hf : f.lo ≤ f.hi) (hw : f.hi < 32) (hd : f'.hi < f.lo ∨ f.hi < f'.lo) : (s.fs b f v).fg b f' = s.fg b f' := by
  unfold State.fg
  rw [ho, State.rd_fs_same b f v h hf hw]
  rcases hd with c | c
  · exact bits_setBits_below _ _ _ _ _ _ hf c
  · exact bits_setBits_above _ _ _ _ _ _ hf c

theorem State.fg_wr_other {s : State} {b a : Nat} {f : Fld} (v : Nat) (h : s.ok = true) (hne : b + f.off ≠ a) :
    (s.wr a v).fg b f = s.fg b f := by
  unfold State.fg; rw [State.rd_wr_other v h hne]

theorem State.fg_wr_same {s : State} {b a : Nat} {f : Fld} (v : Nat) (h : s.ok = true) (he : b + f.off = a) :
    (s.wr a v).fg b f = bits (v % 4294967296) f.hi f.lo := by
  subst he; unfold State.fg; rw [State.rd_wr_same _ _ h]

/-- A register that was dropped reads its reset value; the others read as before. -/
theorem State.rd_dropRegs {s : State} (p : Nat → Bool) (a : Nat) (h : s.ok = true) :
    (s.dropRegs p).rd a = if p a then (regDefault s.part a).toNat else s.rd a := by
  unfold State.rd State.dropRegs
  simp only
  rw [kget_filter p s.regs none a (kwf_sorted _ (State.ok_regs h))]
  split <;> rfl

/-- A read depends on the part and the registers only. -/
theorem State.rd_congr {s t : State} (hp : t.part = s.part) (hr : t.regs = s.regs) (a : Nat) : t.rd a = s.rd a := by
  unfold State.rd; rw [hp, hr]

theorem State.fg_congr {s t : State} (hp : t.part = s.part) (hr : t.regs = s.regs) (b : Nat) (f : Fld) : t.fg b f = s.fg b f := by
  unfold State.fg; rw [State.rd_congr hp hr]

/-! ### Frames -/

theorem OnlyRegs.refl (p : Nat → Prop) (s : State) : OnlyRegs p s s := fun _ _ => rfl

theorem OnlyRegs.trans {p : Nat → Prop} {s t u : State} (h : OnlyRegs p s t) (h' : OnlyRegs p t u) : OnlyRegs p s u :=
  fun a ha => (h' a ha).trans (h a ha)

theorem OnlyRegs.wr {p : Nat → Prop} {s : State} {a : Nat} (v : Nat) (h : s.ok = true) (ha : p a) : OnlyRegs p s (s.wr a v) :=
  fun _ hb => State.rd_wr_other v h (fun e => hb (e ▸ ha))

theorem OnlyRegs.fs {p : Nat → Prop} {s : State} {b : Nat} {f : Fld} (v : Nat) (h : s.ok = true) (ha : p (b + f.off)) :
    OnlyRegs p s (s.fs b f v) := OnlyRegs.wr _ h ha

theorem JustRegs.refl (p : Nat → Prop) (s : State) : JustRegs p s s := ⟨rfl, OnlyRegs.refl p s⟩

theorem JustRegs.trans {p : Nat → Prop} {s t u : State} (h : JustRegs p s t) (h' : JustRegs p t u) : JustRegs p s u :=
  ⟨by rw [h'.1, h.1], h.2.trans h'.2⟩

theorem JustRegs.wr {p : Nat → Prop} {s : State} {a : Nat} (v : Nat) (h : s.ok = true) (ha : p a) : JustRegs p s (s.wr a v) :=
  ⟨rfl, OnlyRegs.wr v h ha⟩

theorem JustRegs.fs {p : Nat → Prop} {s : State} {b : Nat} {f : Fld} (v : Nat) (h : s.ok = true) (ha : p (b + f.off)) :
    JustRegs p s (s.fs b f v) := JustRegs.wr _ h ha

end Sys2Proof.Machine
end

