-- ==== Sys2Proof/Laws/Memory.lean ====
section
/-!
SUPPORT. Laws/Memory.lean: what a byte of memory reads after a store, that every memory operation keeps the canonical
form, and what an SRAM access without an error does.
-/
namespace Sys2Proof.Machine

open Sys2Proof

/-! ### Canonical form -/

theorem Memory.wf_nil : Memory.wf [] = true := rfl

theorem Memory.wf_sorted {m : List Host.Cell} (h : Memory.wf m = true) : ksorted none m = true := kwf_sorted _ h

theorem Memory.wf_set {m : List Host.Cell} (a : Nat) (b : Byte) (h : Memory.wf m = true) :
    Memory.wf (setD Memory.blank m a b) = true := kwf_kset m a b h

theorem Memory.wf_mput : ∀ (bs : List Byte) (m : List Host.Cell) (a : Nat), Memory.wf m = true → Memory.wf (mput m a bs) = true
  | [], _, _, h => h
  | b :: bs, _, a, h => Memory.wf_mput bs _ (a + 1) (Memory.wf_set a b h)

theorem Memory.wf_drop {m : List Host.Cell} (p : Nat → Bool) (h : Memory.wf m = true) : Memory.wf (kdrop p m) = true :=
  kwf_kdrop p m h

theorem State.wf_mwr {s : State} (a : Nat) (bs : List Byte) (h : Memory.wf s.mem = true) : Memory.wf (s.mwr a bs).mem = true :=
  Memory.wf_mput bs s.mem a h

theorem State.wf_mzero {s : State} (a n : Nat) (h : Memory.wf s.mem = true) : Memory.wf (s.mzero a n).mem = true :=
  kwf_kdrop (fun k => decide (a ≤ k) && decide (k < a + n)) s.mem h

theorem State.wf_mundef {s : State} (a n : Nat) (h : Memory.wf s.mem = true) : Memory.wf (s.mundef a n).mem = true := by
  unfold State.mundef; split
  · exact h
  · exact kwf_kdrop (fun k => decide (a ≤ k) && decide (k < a + n)) s.mem h

/-- Stores keep the state's maps in canonical form. -/
@[simp] theorem State.ok_mwr {s : State} {a : Nat} {bs : List Byte} (h : s.ok = true) : (s.mwr a bs).ok = true :=
  State.ok_of (State.ok_regs (s := s) h) (State.wf_mwr a bs (State.ok_mem h)) (State.ok_maps (s := s) h)

@[simp] theorem State.ok_mzero {s : State} {a n : Nat} (h : s.ok = true) : (s.mzero a n).ok = true :=
  State.ok_of (State.ok_regs (s := s) h) (State.wf_mzero a n (State.ok_mem h)) (State.ok_maps (s := s) h)

/-! ### Bytes after a store -/

theorem kget_mput_outside : ∀ (bs : List Byte) (m : List Host.Cell) (a b : Nat), Memory.wf m = true →
    (b < a ∨ a + bs.length ≤ b) → getD Memory.blank (mput m a bs) b = getD Memory.blank m b
  | [], _, _, _, _, _ => rfl
  | x :: xs, m, a, b, h, hb => by
    simp only [List.length_cons] at hb
    have ih := kget_mput_outside xs (setD Memory.blank m a x) (a + 1) b (Memory.wf_set a x h) (by omega)
    simp only [mput]
    rw [ih]
    exact kget_kset_other m none a b x (Memory.wf_sorted h) (by omega)

theorem kget_mput_inside : ∀ (bs : List Byte) (m : List Host.Cell) (a i : Nat) (hi : i < bs.length), Memory.wf m = true →
    getD Memory.blank (mput m a bs) (a + i) = bs[i]
  | [], _, _, i, hi, _ => absurd hi (by simp)
  | x :: xs, m, a, 0, _, h => by
    simp only [mput, Nat.add_zero, List.getElem_cons_zero]
    rw [kget_mput_outside xs (setD Memory.blank m a x) (a + 1) a (Memory.wf_set a x h) (by omega)]
    exact kget_kset_same m none a x (Memory.wf_sorted h)
  | x :: xs, m, a, i + 1, hi, h => by
    simp only [List.length_cons] at hi
    have ih := kget_mput_inside xs (setD Memory.blank m a x) (a + 1) i (by omega) (Memory.wf_set a x h)
    simp only [mput, List.getElem_cons_succ]
    rw [← ih, Nat.add_assoc, Nat.add_comm 1 i]

/-- Outside the bytes that became defined, an address lies in the same undefined interval as before. -/
theorem find_cutUndef (lo hi a : Nat) (hl : lo ≤ hi) (ha : a < lo ∨ hi ≤ a) : ∀ us : List (Nat × Nat × Nat),
    ((cutUndef lo hi us).find? fun i => decide (i.1 ≤ a) && decide (a < i.2.1)).map (·.2.2)
      = (us.find? fun i => decide (i.1 ≤ a) && decide (a < i.2.1)).map (·.2.2)
  | [] => rfl
  | u :: us => by
    have ih := find_cutUndef lo hi a hl ha us
    unfold cutUndef at ih ⊢
    simp only [List.flatMap_cons, List.find?_append]
    by_cases c : u.1 ≤ a ∧ a < u.2.1
    · have e : (u :: us).find? (fun i => decide (i.1 ≤ a) && decide (a < i.2.1)) = some u := by
        simp [c.1, c.2]
      rw [e]
      rcases ha with l | g
      · have h1 : u.1 < min u.2.1 lo := by omega
        have h2 : a < min u.2.1 lo := by omega
        simp [List.filter_cons, h1, h2, c.1]
      · have h1 : max u.1 hi < u.2.1 := by omega
        have h2 : max u.1 hi ≤ a := by omega
        have h3 : ¬ a < min u.2.1 lo := by omega
        by_cases h4 : u.1 < min u.2.1 lo
        · simp only [List.filter_cons, h4, decide_true, if_true, h1, List.find?_cons, h2, c.2, h3, decide_false,
            Bool.and_false, Bool.and_self, Option.some_or, Option.map_some, c.1]
        · simp only [List.filter_cons, h4, decide_false, h1, decide_true, if_true, List.find?_cons, h2, c.2, Bool.and_self,
            Option.some_or, Option.map_some, Bool.false_eq_true, if_false]
    · have e : (u :: us).find? (fun i => decide (i.1 ≤ a) && decide (a < i.2.1))
          = us.find? (fun i => decide (i.1 ≤ a) && decide (a < i.2.1)) := by
        rw [List.find?_cons]
        have : (decide (u.1 ≤ a) && decide (a < u.2.1)) = false := by
          simp only [Bool.and_eq_false_iff, decide_eq_false_iff_not]; omega
        rw [this]
      rw [e, ← ih]
      have n : List.find? (fun i : Nat × Nat × Nat => decide (i.1 ≤ a) && decide (a < i.2.1))
          (List.filter (fun j => decide (j.1 < j.2.1)) [(u.1, min u.2.1 lo, u.2.2), (max u.1 hi, u.2.1, u.2.2)]) = none := by
        rw [List.find?_eq_none]
        intro j hj
        simp only [List.mem_filter, List.mem_cons, List.not_mem_nil, or_false] at hj
        rcases hj.1 with r | r <;> subst r <;> simp only [Bool.and_eq_true, decide_eq_true_eq, not_and] <;> omega
      rw [n]; rfl

/-- Inside the bytes that became defined, no undefined interval is left. -/
theorem find_cutUndef_inside (lo hi a : Nat) (ha : lo ≤ a ∧ a < hi) : ∀ us : List (Nat × Nat × Nat),
    ((cutUndef lo hi us).find? fun i => decide (i.1 ≤ a) && decide (a < i.2.1)) = none := by
  intro us
  rw [List.find?_eq_none]
  intro j hj
  unfold cutUndef at hj
  simp only [List.mem_flatMap, List.mem_filter, List.mem_cons, List.not_mem_nil, or_false] at hj
  obtain ⟨i, _, r | r, _⟩ := hj <;> subst r <;> simp only [Bool.and_eq_true, decide_eq_true_eq, not_and] <;> omega

/-- A byte outside the stored range reads as before. -/
theorem State.mb_mwr_outside {s : State} {a b : Nat} {bs : List Byte} (h : s.ok = true) (hb : b < a ∨ a + bs.length ≤ b) :
    (s.mwr a bs).mb b = s.mb b := by
  unfold State.mb undefAt State.mwr
  simp only
  rw [find_cutUndef a (a + bs.length) b (by omega) hb s.undef, kget_mput_outside bs s.mem a b (State.ok_mem h) hb]

/-- A stored byte reads back. -/
theorem State.mb_mwr_inside {s : State} {a i : Nat} {bs : List Byte} (h : s.ok = true) (hi : i < bs.length) :
    (s.mwr a bs).mb (a + i) = bs[i] := by
  unfold State.mb undefAt State.mwr
  simp only
  rw [find_cutUndef_inside a (a + bs.length) (a + i) (by omega) s.undef]
  exact kget_mput_inside bs s.mem a i hi (State.ok_mem h)

/-- The stored bytes read back. -/
theorem State.mrd_mwr {s : State} {a : Nat} {bs : List Byte} (h : s.ok = true) : (s.mwr a bs).mrd a bs.length = bs := by
  unfold State.mrd
  apply List.ext_getElem
  · simp
  · intro i h1 h2
    simp only [List.getElem_map, List.getElem_range]
    exact State.mb_mwr_inside h h2

/-- A byte reads the same where memory and the undefined intervals are the same. -/
theorem State.mb_congr {s t : State} (hm : t.mem = s.mem) (hu : t.undef = s.undef) (a : Nat) : t.mb a = s.mb a := by
  unfold State.mb undefAt; rw [hm, hu]

/-! ### SRAM -/

/-- Reading words without an error changes nothing. -/
theorem sramRead_clean {s : State} {key n : Nat} (h : ∀ e ∈ s.sram, wordOf key n e.1 = false) : sramRead s key n = (false, s) := by
  unfold sramRead
  have : (s.sram.filter fun e => wordOf key n e.1) = [] := by
    rw [List.filter_eq_nil_iff]; intro e he; simp [h e he]
  simp [this]

/-! ### Numbers as bytes -/

theorem leBytes_length : ∀ (n v : Nat), (leBytes n v).length = n
  | 0, _ => rfl
  | n + 1, v => by simp [leBytes, leBytes_length n]

theorem leNat_leBytes : ∀ (n v : Nat), leNat (leBytes n v) = v % 256 ^ n
  | 0, v => by simp [leBytes, leNat, Nat.mod_one]
  | n + 1, v => by
    simp only [leBytes, leNat, leNat_leBytes n, BitVec.toNat_ofNat]
    rw [Nat.pow_succ 256 n, Nat.mul_comm (256 ^ n) 256, Nat.mod_mul]

end Sys2Proof.Machine
end

