-- ==== Sys2Proof/Laws/Kept.lean ====
section
/-!
SUPPORT. Laws/Kept.lean: what every operation of the machine keeps, and how that passes through the ways operations are
put together.
-/
namespace Sys2Proof.Machine

open Sys2Proof

/-- What every operation keeps: the part, the queue, the canonical form of the maps, and the burnt bits of the OTP. -/
structure Kept (s t : State) : Prop where
  part : t.part = s.part
  pending : t.pending = s.pending
  ok : s.ok = true → t.ok = true
  otp : s.ok = true → OtpGrows s t

theorem OtpGrows.refl (s : State) : OtpGrows s s := fun _ _ => id
theorem OtpGrows.trans {s t u : State} (h : OtpGrows s t) (h' : OtpGrows t u) : OtpGrows s u := fun o i e => h' o i (h o i e)

theorem Kept.refl (s : State) : Kept s s := ⟨rfl, rfl, id, fun _ => OtpGrows.refl _⟩

theorem Kept.trans {s t u : State} (h : Kept s t) (h' : Kept t u) : Kept s u :=
  ⟨h'.part.trans h.part, h'.pending.trans h.pending, fun e => h'.ok (h.ok e), fun e => (h.otp e).trans (h'.otp (h.ok e))⟩

/-- An update of fields that the invariant does not speak of. -/
theorem Kept.upd {s t : State} (hp : t.part = s.part) (hq : t.pending = s.pending) (hr : t.regs = s.regs) (hm : t.mem = s.mem)
    (ho : t.otp = s.otp) (h1 : t.engs = s.engs) (h2 : t.cores = s.cores) (h3 : t.ctxs = s.ctxs) (h4 : t.atts = s.atts)
    (h5 : t.islands = s.islands) (h6 : t.sports = s.sports) (h7 : t.links = s.links) : Kept s t := by
  refine ⟨hp, hq, fun e => State.ok_same e hp hr hm ?_, fun _ o i e => by rw [ho]; exact e⟩
  unfold State.mapsOk
  rw [h1, h2, h3, h4, h5, h6, h7, ho]

/-- An update of fields that the invariant does not speak of, as the constructor writes it. -/
theorem Kept.update (s : State)
    {x4 x5 x6 x7 x8 x9 x10 x11 x12 x13 x14 x15 x16 x17 x18 x21 x22 x23 x25 x26 x27 x29 x30 x31 x32 x33 x34 x35
    x36 x37 x38 x39 x40 x41 x42 x43 x44 x45 x46 x47 x48 x49 x50 x51 x52 x53 x54 x55 x56 x57 x58 x59 x61 x62 x63
    x64 x66 x67 x68 x69 x70 x71 x72 x73 x74 x75 x76 x77 x78 x79 x80 x81 x82 x83 x84 x85 x86 x87 x89 x90 x91 x92
    x93 x94 x95 x97 x98 x99 x100 x101 x102 x103 x104 x105 x106 x107 x108 x109 x110 x111 x112 x113 x114 x115 x116
    x117 x118 x119 x120 x121 x122 x123 x124 x125 x126 x127 x128 x129 x130 x131 x132 x133 x134 x135 x136 x137
    x138 x139 x140 x141 x142 x143 x144 x145 x146 x147 x148 x149 x150 x151 x152 x153 x154 x155 x156 x157 x158
    x159 x160 x161 x162 : _} :
    Kept s (State.mk
      s.part s.pending s.regs s.mem x4 x5 x6 x7 x8 x9 x10 x11 x12 x13 x14 x15 x16 x17 x18 s.engs s.cores x21 x22
      x23 s.atts x25 x26 x27 s.ctxs x29 x30 x31 x32 x33 x34 x35 x36 x37 x38 x39 x40 x41 x42 x43 x44 x45 x46 x47
      x48 x49 x50 x51 x52 x53 x54 x55 x56 x57 x58 x59 s.links x61 x62 x63 x64 s.sports x66 x67 x68 x69 x70 x71
      x72 x73 x74 x75 x76 x77 x78 x79 x80 x81 x82 x83 x84 x85 x86 x87 s.islands x89 x90 x91 x92 x93 x94 x95
      s.otp x97 x98 x99 x100 x101 x102 x103 x104 x105 x106 x107 x108 x109 x110 x111 x112 x113 x114 x115 x116
      x117 x118 x119 x120 x121 x122 x123 x124 x125 x126 x127 x128 x129 x130 x131 x132 x133 x134 x135 x136 x137
      x138 x139 x140 x141 x142 x143 x144 x145 x146 x147 x148 x149 x150 x151 x152 x153 x154 x155 x156 x157 x158
      x159 x160 x161 x162) :=
  Kept.upd rfl rfl rfl rfl rfl rfl rfl rfl rfl rfl rfl rfl

/-- An update that keeps the canonical form and the OTP. -/
theorem Kept.of_ok {s t : State} (hp : t.part = s.part) (hq : t.pending = s.pending) (hk : s.ok = true → t.ok = true)
    (ho : t.otp = s.otp) : Kept s t := ⟨hp, hq, hk, fun _ o i e => by rw [ho]; exact e⟩

theorem Kept.ite {s a b : State} {c : Prop} [Decidable c] (ha : Kept s a) (hb : Kept s b) : Kept s (if c then a else b) := by
  split <;> assumption

theorem Kept.ite_snd {A : Type} {s : State} {a b : A × State} {c : Prop} [Decidable c] (ha : Kept s a.2) (hb : Kept s b.2) :
    Kept s (if c then a else b).2 := by
  split <;> assumption

theorem Kept.ite_fst {A : Type} {s : State} {a b : State × A} {c : Prop} [Decidable c] (ha : Kept s a.1) (hb : Kept s b.1) :
    Kept s (if c then a else b).1 := by
  split <;> assumption

theorem Kept.snd {A : Type} {s t : State} {x : A} {p : A × State} (h : p = (x, t)) (hp : Kept s p.2) : Kept s t := by
  rw [h] at hp; exact hp

theorem Kept.fst {A : Type} {s t : State} {x : A} {p : State × A} (h : p = (t, x)) (hp : Kept s p.1) : Kept s t := by
  rw [h] at hp; exact hp

theorem Kept.foldl {A : Type} {f : State → A → State} (hf : ∀ t x, Kept t (f t x)) :
    ∀ {xs : List A} {s t : State}, Kept s t → Kept s (xs.foldl f t)
  | [], _, _, h => h
  | x :: _, _, t, h => Kept.foldl hf (t := f t x) (h.trans (hf t x))

theorem Kept.foldl_snd {A B : Type} {f : B × State → A → B × State} (hf : ∀ p x, Kept p.2 (f p x).2) :
    ∀ {xs : List A} {s : State} {p : B × State}, Kept s p.2 → Kept s (xs.foldl f p).2
  | [], _, _, h => h
  | x :: _, _, p, h => Kept.foldl_snd hf (p := f p x) (h.trans (hf p x))

theorem Kept.foldl_fst {A B : Type} {f : State × B → A → State × B} (hf : ∀ p x, Kept p.1 (f p x).1) :
    ∀ {xs : List A} {s : State} {p : State × B}, Kept s p.1 → Kept s (xs.foldl f p).1
  | [], _, _, h => h
  | x :: _, _, p, h => Kept.foldl_fst hf (p := f p x) (h.trans (hf p x))

/-- What a step answers keeps: a next state does. -/
def KeptO (s : State) (o : Host.Outcome State Fault Refusal) : Prop := ∀ t, o = .next t → Kept s t

theorem KeptO.next {s t : State} (h : Kept s t) : KeptO s (.next t) := fun _ e => by cases e; exact h

theorem Kept.wr (s : State) (a v : Nat) : Kept s (s.wr a v) := Kept.of_ok rfl rfl State.ok_wr rfl
theorem Kept.dropRegs (s : State) (p : Nat → Bool) : Kept s (s.dropRegs p) := Kept.of_ok rfl rfl State.ok_dropRegs rfl
theorem Kept.setEng (s : State) (e : Nat) (v : Eng) : Kept s (s.setEng e v) := Kept.of_ok rfl rfl State.ok_setEng rfl
theorem Kept.setCore (s : State) (k : Nat) (v : CoreSt) : Kept s (s.setCore k v) := Kept.of_ok rfl rfl State.ok_setCore rfl
theorem Kept.setCtx (s : State) (c : Nat) (v : Ctx) : Kept s (s.setCtx c v) := Kept.of_ok rfl rfl State.ok_setCtx rfl
theorem Kept.setIsl (s : State) (i : Nat) (v : Island) : Kept s (s.setIsl i v) := Kept.of_ok rfl rfl State.ok_setIsl rfl
theorem Kept.setPort (s : State) (p : Nat) (v : SensorPort) : Kept s (s.setPort p v) := Kept.of_ok rfl rfl State.ok_setPort rfl
theorem Kept.mwr (s : State) (a : Nat) (bs : List Byte) : Kept s (s.mwr a bs) := Kept.of_ok rfl rfl State.ok_mwr rfl
theorem Kept.mzero (s : State) (a n : Nat) : Kept s (s.mzero a n) := Kept.of_ok rfl rfl State.ok_mzero rfl

theorem Kept.setEnd (s : State) (e : Nat) (l : LinkEnd) : Kept s (setEnd s e l) := by
  obtain ⟨r, hr, _⟩ := setEnd_eq s e l
  refine Kept.of_ok ?_ ?_ State.ok_setEnd ?_ <;> rw [hr]

end Sys2Proof.Machine
end

