-- ==== Sys2Proof/WellFormed.lean ====
section
/-!
DEFINITION. WellFormed.lean: the ranges a command's operands lie in: the counts of R9, R41, R54, R290 and the
widths of the fields they stand for.
-/
namespace Sys2Proof

/-- Is an initiator ID one that R41 lists? No other is ever issued. -/
def iniListed (ini : Nat) : Bool :=
  decide (ini < 2048) && (decide (ini % 512 < 0x102) || decide (0x108 ≤ ini % 512) && decide (ini % 512 < 0x112))
    || decide (0x800 ≤ ini) && decide (ini < 0x809) && !(ini == 0x805)
    || decide (0xA00 ≤ ini) && decide (ini < 0xA03)
    || ini == 0xC00 || ini == 0xC01 || ini == 0xD00 || ini == 0xD01
    || decide (0xE00 ≤ ini) && decide (ini < 0x1000)

/-- Is the command well formed: every operand within the range its field has? -/
def Instr.wf : Instr → Bool
  | .registerWrite ini addr _ _ => iniListed ini && decide (addr < 2 ^ 48)
  | .clockFault _ => true
  | .triggerClockFault => true
  | .rdRequest ini _ addr len => iniListed ini && decide (addr < 2 ^ 48) && decide (0 < len)
  | .wrRequest ini _ addr _ => iniListed ini && decide (addr < 2 ^ 48)
  | .engGoMma ini e _ => iniListed ini && decide (e < 1024)
  | .engGoWb ini e _ => iniListed ini && decide (e < 1024)
  | .engGoLoad ini e _ => iniListed ini && decide (e < 1024)
  | .engOperationStart e _ => decide (e < 1024)
  | .mmaComplete e => decide (e < 1024)
  | .wbComplete e => decide (e < 1024)
  | .loadComplete e => decide (e < 1024)
  | .engSrSeedWrite ini e _ => iniListed ini && decide (e < 1024)
  | .engErrClear ini e _ => iniListed ini && decide (e < 1024)
  | .seqNop k => decide (k < 256)
  | .seqEnd k => decide (k < 256)
  | .seqFail k => decide (k < 256)
  | .seqLi k => decide (k < 256)
  | .seqAdd k => decide (k < 256)
  | .seqSub k => decide (k < 256)
  | .seqAnd k => decide (k < 256)
  | .seqOr k => decide (k < 256)
  | .seqXor k => decide (k < 256)
  | .seqMul k => decide (k < 256)
  | .seqShl k => decide (k < 256)
  | .seqShr k => decide (k < 256)
  | .seqBr k => decide (k < 256)
  | .seqLd k => decide (k < 256)
  | .seqSt k => decide (k < 256)
  | .seqWreg k => decide (k < 256)
  | .seqRreg k => decide (k < 256)
  | .seqVec k => decide (k < 256)
  | .seqSmv k => decide (k < 256)
  | .seqWait k => decide (k < 256)
  | .waitRetire k => decide (k < 256)
  | .seqSemWait k => decide (k < 256)
  | .seqSemSignal k => decide (k < 256)
  | .seqSemTryWait k => decide (k < 256)
  | .semResultArrive k => decide (k < 256)
  | .seqSacq k => decide (k < 256)
  | .sacqRetire k => decide (k < 256)
  | .seqSrel k => decide (k < 256)
  | .seqCyc k => decide (k < 256)
  | .illop k => decide (k < 256)
  | .seqStallRelease k => decide (k < 256)
  | .vecDescriptorStart k => decide (k < 256)
  | .vecAdd k => decide (k < 256)
  | .vecSub k => decide (k < 256)
  | .vecMul k => decide (k < 256)
  | .vecFma k => decide (k < 256)
  | .vecMax k => decide (k < 256)
  | .vecMin k => decide (k < 256)
  | .vecAbs k => decide (k < 256)
  | .vecCvt k => decide (k < 256)
  | .vecExp k => decide (k < 256)
  | .vecRcp k => decide (k < 256)
  | .vecRsqrt k => decide (k < 256)
  | .vecTanh k => decide (k < 256)
  | .vecErf k => decide (k < 256)
  | .vecRsum k => decide (k < 256)
  | .vecRmax k => decide (k < 256)
  | .vecRscale k => decide (k < 256)
  | .vecDescriptorComplete k => decide (k < 256)
  | .smCopy k m => decide (k < 256) && decide (m < 2)
  | .smFill k m => decide (k < 256) && decide (m < 2)
  | .smStreamOut k m => decide (k < 256) && decide (m < 2)
  | .smDescriptorComplete k m => decide (k < 256) && decide (m < 2)
  | .strseg st => decide (st < 4096)
  | .strcred st => decide (st < 4096)
  | .streamClose st => decide (st < 4096)
  | .coreCmdStart ini k => iniListed ini && decide (k < 256)
  | .coreCmdPreempt ini k => iniListed ini && decide (k < 256)
  | .corePreemptComplete k => decide (k < 256)
  | .coreCmdResume ini k => iniListed ini && decide (k < 256)
  | .coreCmdAbort ini k => iniListed ini && decide (k < 256)
  | .coreWatchdogExpiry k => decide (k < 256)
  | .hangEscalate k => decide (k < 256)
  | .landingInit ini c => iniListed ini && decide (c < 32)
  | .landingInitDone c => decide (c < 32)
  | .clusterNetStall c => decide (c < 32)
  | .dcHeartbeat d => decide (d < 4)
  | .stepLoad tg => decide (tg < 32768)
  | .pantryEnable ini d _ => iniListed ini && decide (d < 4)
  | .pantryReady d => decide (d < 4)
  | .tcmdOpen ini d => iniListed ini && decide (d < 4)
  | .tcmdReset ini d => iniListed ini && decide (d < 4)
  | .tcmdClose ini d => iniListed ini && decide (d < 4)
  | .tcmdQuery ini d => iniListed ini && decide (d < 4)
  | .tcmdCloseCtx ini d => iniListed ini && decide (d < 4)
  | .tcmdLeasesDrained d => decide (d < 4)
  | .scrubPage d p => decide (d < 4) && decide (p < 4)
  | .attnPost k m slot _ => decide (k < 256) && decide (m < 2) && decide (slot < 16)
  | .attnCommandStart c => decide (c < 32)
  | .attnAppend c => decide (c < 32)
  | .attnSelf c => decide (c < 32)
  | .attnCross c => decide (c < 32)
  | .pageRecycleResume c => decide (c < 32)
  | .attnComplete c _ => decide (c < 32)
  | .panAttSeqRst ini c _ => iniListed ini && decide (c < 32)
  | .scRead => true
  | .scWrite => true
  | .inv => true
  | .invack d => decide (d < 4)
  | .dramRead ⟨d, ch, _⟩ => decide (d < 4) && decide (ch < 16)
  | .dramWrite ⟨d, ch⟩ => decide (d < 4) && decide (ch < 16)
  | .rowIdleClose d ch bank => decide (d < 4) && decide (ch < 16) && decide (bank < 16)
  | .refreshWindow d ch mr4 => decide (d < 4) && decide (ch < 16) && decide (mr4 < 8)
  | .patrolRead d ch => decide (d < 4) && decide (ch < 16)
  | .memInit ini d => iniListed ini && decide (d < 4)
  | .memInitDone d fail => decide (d < 4) && decide (fail < 65536)
  | .elogClear ini d => iniListed ini && decide (d < 4)
  | .ilWindowWrite ini _ => iniListed ini
  | .ilSync => true
  | .scInvalidateAll ini _ => iniListed ini
  | .scInvalidateDone => true
  | .linkTraining e => decide (e < 26)
  | .linkUp e rx tx => decide (e < 26) && decide (rx < 2 ^ 68) && decide (tx < 2 ^ 68)
  | .flitReceive e _ => decide (e < 34)
  | .nakReceive e seq => decide (e < 34) && decide (seq < 4096)
  | .replayTimeout e => decide (e < 34)
  | .ackSend e => decide (e < 34)
  | .laneHardFail e ⟨lane, _⟩ => decide (e < 30) && decide (lane < 68)
  | .linkRetrain e _ => decide (e < 26)
  | .moduleDown e => decide (e < 26)
  | .rdrsp ini txid => iniListed ini && decide (txid < 65536)
  | .wrack ini txid => iniListed ini && decide (txid < 65536)
  | .errrsp ini txid => iniListed ini && decide (txid < 65536)
  | .msg f t _ => decide (f < 6) && decide (t < 6)
  | .cap x pkg part ver => decide (x < 4) && decide (pkg < 4096) && decide (part < 2) && decide (ver < 256)
  | .routeChange ini d _ => iniListed ini && decide (d < 4)
  | .routeChangeDone d => decide (d < 4)
  | .spanLinkTrain x opn shrt pol _ => decide (x < 4) && decide (opn < 16) && decide (shrt < 16) && decide (pol < 16)
  | .spanLaneFault x lane => decide (x < 4) && decide (lane < 4)
  | .spanDiscovery ini => iniListed ini
  | .spanDiscoveryDone _ => true
  | .spanMessageIn x dst ⟨src, rini, cls, _⟩ ttl mtype txid addr _ _ sem ⟨op, count⟩ => decide (x < 4) && decide (dst < 4096) && decide (src < 4096) && decide (ttl < 64) && decide (mtype < 16) && decide (txid < 65536) && decide (addr < 2 ^ 48) && decide (sem < 16384) && decide (op < 4) && decide (count < 2 ^ 32) && decide (cls < 8) && decide (rini < 4096)
  | .hostModuleTrain m rx tx => decide (m < 4) && decide (rx < 2 ^ 68) && decide (tx < 2 ^ 68)
  | .sidebandParam p v => decide (p < 3) && decide (v < 65536)
  | .hWake => true
  | .hostRequest m req txid _ addr len _ => decide (m < 4) && decide (req < 512) && decide (txid < 65536) && decide (addr < 2 ^ 48) && decide (0 < len)
  | .hostModuleDown m => decide (m < 4)
  | .dbellQueue ⟨m, req⟩ q index => decide (m < 4) && decide (req < 512) && decide (q < 1048576) && decide (index < 2 ^ 32)
  | .dbellCqHead ⟨m, req⟩ cq index => decide (m < 4) && decide (req < 512) && decide (cq < 65536) && decide (index < 2 ^ 32)
  | .pendingDoorbellApply => true
  | .packetParse => true
  | .nop tg => decide (tg < 32768)
  | .barrier tg => decide (tg < 32768)
  | .cancel tg => decide (tg < 32768)
  | .ctxCreate tg => decide (tg < 32768)
  | .ctxDestroy tg => decide (tg < 32768)
  | .queueCreate tg => decide (tg < 32768)
  | .queueDestroy tg => decide (tg < 32768)
  | .queuePin tg => decide (tg < 32768)
  | .queueUnpin tg => decide (tg < 32768)
  | .cqCreate tg => decide (tg < 32768)
  | .cqDestroy tg => decide (tg < 32768)
  | .windowSet tg => decide (tg < 32768)
  | .windowClear tg => decide (tg < 32768)
  | .deviceInfo tg => decide (tg < 32768)
  | .imageRegister tg => decide (tg < 32768)
  | .imageUnregister tg => decide (tg < 32768)
  | .step tg => decide (tg < 32768)
  | .reserve tg => decide (tg < 32768)
  | .unreserve tg => decide (tg < 32768)
  | .semInit tg => decide (tg < 32768)
  | .semSignal tg => decide (tg < 32768)
  | .semQuery tg => decide (tg < 32768)
  | .trackOpen tg => decide (tg < 32768)
  | .trackReset tg => decide (tg < 32768)
  | .trackClose tg => decide (tg < 32768)
  | .trackQuery tg => decide (tg < 32768)
  | .poolSet tg => decide (tg < 32768)
  | .pantrySet tg => decide (tg < 32768)
  | .sensorConfig tg _ loss peer pal => decide (tg < 32768) && decide (loss < 4096) && decide (peer < 8) && decide (pal < 256)
  | .portDisableDone p => decide (p < 33)
  | .cameraRestart tg => decide (tg < 32768)
  | .cameraRestartDone n _ loss peer pal => decide (n < 16) && decide (loss < 4096) && decide (peer < 8) && decide (pal < 256)
  | .triggerSet tg => decide (tg < 32768)
  | .calibCamera tg => decide (tg < 32768)
  | .calibLidar tg => decide (tg < 32768)
  | .calibImu tg => decide (tg < 32768)
  | .calibWheel tg => decide (tg < 32768)
  | .calibIntegrator tg => decide (tg < 32768)
  | .calibProjection tg => decide (tg < 32768)
  | .policyWrite tg => decide (tg < 32768)
  | .policyPrepareTimeout isl => decide (isl < 2)
  | .policyRead tg => decide (tg < 32768)
  | .safeAck tg => decide (tg < 32768)
  | .powerStateActive tg => decide (tg < 32768)
  | .powerStateDoze tg => decide (tg < 32768)
  | .powerStateNap tg => decide (tg < 32768)
  | .powerStateCellar tg => decide (tg < 32768)
  | .napGate => true
  | .cellarExit _ _ _ => true
  | .powerLimit tg => decide (tg < 32768)
  | .unitFence tg => decide (tg < 32768)
  | .unitReturn tg => decide (tg < 32768)
  | .unitReset tg => decide (tg < 32768)
  | .dump tg => decide (tg < 32768)
  | .attest tg => decide (tg < 32768)
  | .updateBegin tg => decide (tg < 32768)
  | .updateBlock tg => decide (tg < 32768)
  | .updateVerify tg _ => decide (tg < 32768)
  | .updateActivate tg _ _ => decide (tg < 32768)
  | .updateActivateReply => true
  | .spanConfig tg => decide (tg < 32768)
  | .spanWindow tg => decide (tg < 32768)
  | .telemetryCounters tg => decide (tg < 32768)
  | .telemetryPower tg => decide (tg < 32768)
  | .telemetryErrorLogs tg => decide (tg < 32768)
  | .replyWrite tg => decide (tg < 32768)
  | .notifyCoalTimeout cq => decide (cq < 65536)
  | .eventWrite => true
  | .cmdPause ini _ => iniListed ini
  | .admissionDecision tg => decide (tg < 32768)
  | .linkGroupTimeout tg => decide (tg < 32768)
  | .bookingStart tg => decide (tg < 32768)
  | .bookedEarlyStart tg => decide (tg < 32768)
  | .queuedPlace => true
  | .victimResume tg => decide (tg < 32768)
  | .bookingOverrun tg => decide (tg < 32768)
  | .scanRotate => true
  | .guaranteeSuspend => true
  | .guaranteeResume => true
  | .admFaultWrite ini _ => iniListed ini
  | .semunitWait d => decide (d < 4)
  | .semunitSignal d => decide (d < 4)
  | .semunitTryWait d => decide (d < 4)
  | .semunitSignalN d => decide (d < 4)
  | .semCancel d => decide (d < 4)
  | .tagRelease tg => decide (tg < 32768)
  | .ledgerSidebandExchange e _ => decide (e < 34)
  | .inheritanceTimeout tg => decide (tg < 32768)
  | .synSemWrite ini n _ => iniListed ini && decide (n < 16384)
  | .bwrFloorWrite ini d p r _ => iniListed ini && decide (d < 6) && decide (p < 256) && decide (r < 256)
  | .cameraFrame n fine _ _ dt emb lines stride _ _ => decide (n < 16) && decide (fine < 1000) && decide (dt < 256) && decide (emb < 65536) && decide (lines < 2 ^ 32) && decide (stride < 2 ^ 32)
  | .cameraFrameMissing n => decide (n < 16)
  | .ethFrame m fine _ _ => decide (m < 6) && decide (fine < 1000)
  | .canFrame k fine id _ _ cnt _ => decide (k < 4) && decide (fine < 1000) && decide (id < 2 ^ 32) && decide (cnt < 256)
  | .imuBurst j fine _ => decide (j < 2) && decide (fine < 1000)
  | .ingestDrain => true
  | .recordCommit p => decide (p < 33)
  | .ptpSync _ => true
  | .timeHoldover => true
  | .timeUnsync => true
  | .triggerPeriod fine => decide (fine < 1000)
  | .triggerEdge x fine _ => decide (x < 32) && decide (fine < 1000)
  | .pocSample n code => decide (n < 16) && decide (code < 4096)
  | .railSample r mv => decide (r < 4) && decide (mv < 65536)
  | .ethQualitySample m sqi => decide (m < 6) && decide (sqi < 8)
  | .ethCableDiag m result dist => decide (m < 6) && decide (result < 4) && decide (dist < 65536)
  | .trigPinShort x ev => decide (x < 32) && decide (ev < 4)
  | .canPinFault k wh _ => decide (k < 4) && decide (wh < 4)
  | .integratorTick => true
  | .lidarRecordProcess => true
  | .pointProject => true
  | .pointWaitTimeout => true
  | .lockstepMismatch isl => decide (isl < 2)
  | .heartbeatLost isl src => decide (isl < 2) && decide (src < 8)
  | .islandEvent isl => decide (isl < 2)
  | .clampHoldExpiry isl => decide (isl < 2)
  | .clampReadback isl => decide (isl < 2)
  | .islandBoot isl => decide (isl < 2)
  | .mismatchDecision tg => decide (tg < 32768)
  | .selfTestSelect => true
  | .checkerSelfTest ini k _ => iniListed ini && decide (k < 256)
  | .selfTestPattern k _ => decide (k < 256)
  | .selfTestStall => true
  | .goldenPlace k => decide (k < 256)
  | .goldenWindowEnd => true
  | .budgetRecompute p => decide (p < 1024)
  | .agentReport d pw => decide (d < 4 ∨ d = 5) && decide (pw < 4096)
  | .budgetMsg d => decide (d < 4 ∨ d = 5)
  | .budgetStale d => decide (d < 4 ∨ d = 5)
  | .reportMiss d => decide (d < 4 ∨ d = 5)
  | .clampMsg d => decide (d < 4 ∨ d = 5)
  | .agentPowerSample d _ _ => decide (d < 4)
  | .clockChangeDone c => decide (c < 32)
  | .budgetGraceExpiry => true
  | .dozeEntry c => decide (c < 32)
  | .thermalSample d _ _ => decide (d < 6)
  | .thermalEmergencyEnd => true
  | .dramHotDerate d => decide (d < 4)
  | .coolantSample _ => true
  | .coolantNoFlow => true
  | .coolantEmergencyEnd => true
  | .pmbusTelemetry x _ iout con dw => decide (x < 16) && decide (iout < 65536) && decide (con < 4) && decide (dw < 4096)
  | .por _ _ _ => true
  | .packageWarmReset ini _ _ _ => iniListed ini
  | .dieReset ini _ => iniListed ini
  | .clusterReset ini c => iniListed ini && decide (c < 32)
  | .coreReset ini k => iniListed ini && decide (k < 256)
  | .acinaReset isl => decide (isl < 2)
  | .teardownComplete => true
  | .teardownEscalate => true
  | .requestTimeout ini txid => iniListed ini && decide (txid < 65536)
  | .dcLost d => decide (d < 4)
  | .porchLost => true
  | .mpWatchdogKick ini _ => iniListed ini
  | .mpWatchdogExpiry => true
  | .faultClear d => decide (d < 6)
  | .peerNotice cls w => decide (cls < 256) && decide (w < 2 ^ 64)
  | .dumpGo ini _ => iniListed ini
  | .dumpUnitTimeout n => decide (n < 65536)
  | .dumpComplete _ _ => true
  | .flashErase ini => iniListed ini
  | .flashProgram ini => iniListed ini
  | .flashReadStatus ini => iniListed ini
  | .flashOpDone _ => true
  | .otpLock ini => iniListed ini
  | .tapIdcode => true
  | .tapSamplePreload _ => true
  | .tapExtest => true
  | .tapClamp => true
  | .tapHighz => true
  | .tapLcToken _ => true
  | .tapIjtag _ addr _ => decide (addr < 2 ^ 48)
  | .tapBypass => true
  | .tstLockClear => true
  | .tstPertWrite ini d x w _ => iniListed ini && decide (d < 6) && decide (x < 4) && decide (w < 2)
  | .tstInjWrite ini d x w _ => iniListed ini && decide (d < 6) && decide (x < 4) && decide (w < 4)
  | .powerUp _ _ _ => true
  | .powerDown => true
  | .supplyLoss => true
  | .railOutOfRange rail => decide (rail < 256)
  | .clockFaultCleared which => decide (which < 3)
  | .heartbeatToggle src => decide (4 ≤ src ∧ src < 9)
  | .railBackInRange rail => decide (rail < 256)
  | .flowPulse x => decide (x < 2)
  | .dramHotCapRaise d => decide (d < 4)
  | .cameraLinkDown n => decide (n < 16)
  | .ethLinkChange m _ _ => decide (m < 6)
  | .acinaSupplyLoss isl _ => decide (isl < 2)
  | .tapReset _ => true

end Sys2Proof
end

