-- ==== Sys2Proof/Tests/Slice0.lean ====
section
/-!
SUPPORT. Tests/Slice0.lean: for every statement a witness that meets its hypotheses together, an ill-formed command for
each check of well-formedness, and the worked examples of the spec.
-/
namespace Sys2Proof.Tests

open Sys2Proof Sys2Proof.Machine

-- One theorem after another: evaluations by the kernel are deep, and a thread for each would need too much memory.
set_option Elab.async false

/-! ### Small states -/

/-- Fields of one block set. -/
def setF (b : Nat) (fs : List (Fld × Nat)) (s : State := State.reset) : State := fs.foldl (fun t f => t.fs b f.1 f.2) s

/-- Registers set. -/
def setR (rs : List (Nat × Nat)) (s : State := State.reset) : State := rs.foldl (fun t r => t.wr r.1 r.2) s

/-- An instruction of R96. -/
def ins (op d a b f imm : Nat) : Nat := op + 2 ^ 8 * d + 2 ^ 13 * a + 2 ^ 18 * b + 2 ^ 23 * f + 2 ^ 32 * imm

/-- Core `k` runs a step with an instruction word at PC 0. -/
def runs (k w : Nat) (s : State := State.reset) : State :=
  (setF (coreBase k) [(Fld.CORE_STS_SEQ_RUN, 1)] (setF (dieBase (k / 64)) [(Fld.CLU_DC_STS_DC_RUN, 1)] s)).mwr (cmBase k) (leBytes 8 w)

/-- The dies' cores run. -/
def alive : State := (List.range 4).foldl (fun t d => t.fs (dieBase d) Fld.CLU_DC_STS_DC_RUN 1) State.reset

/-- A core's record changed. -/
def onCore (k : Nat) (f : CoreSt → CoreSt) (s : State := alive) : State := s.setCore k (f (s.core k))

/-- A step on cores, as its command holds it. -/
def aStep (cores : List Nat) : StepRec :=
  { image := 1, budget := 0, bases := [], sems := [], args := [], link := 0, rsv := 0, decided := 0, start := 0, charge := 0,
    promised := 0, booking := false, begun := true, cores := cores, ended := [], saved := [], effClass := 0, victims := [],
    conflict := [], inheritSince := none, inheritFor := [], mmCores := [], rerun := [], reStart := 0, reexec := .undecided,
    lndSaved := [] }

/-- A packet of 64 bytes: opcode, then fields as offset, length and value. -/
def packet (op : Nat) (fs : List (Nat × Nat × Nat)) : List Byte :=
  fs.foldl (fun p f => p.take f.1 ++ leBytes f.2.1 f.2.2 ++ p.drop (f.1 + f.2.1)) (BitVec.ofNat 8 op :: List.replicate 63 0)

/-- A parsed command of an opcode. -/
def aCmd (op : Nat) (fs : List (Nat × Nat × Nat) := []) : Cmd :=
  { gen := 0, queue := 0, ctx := 0, ctxGen := 0, cls := 0, opcode := op, notify := false, fence := false, cookie := 0,
    packet := packet op fs, order := 0, parsedUs := 0, phase := .parsed, status := 0, detail := 0, result := 0, suspect := false,
    reexecd := false, breach := false, late := false, cq := 0, held := none, doneUs := 0, step := none }

/-- A state in which the command is parsed under tag 7 and firmware serves commands. -/
def has (c : Cmd) (s : State := State.reset) : State := (setF cmdBase [(Fld.CMD_STS_FW_READY, 1)] s).setCmd 7 c

/-- A step of a command that runs on cores under tag 0 and generation 0, its cores running the instruction. -/
def stepRuns (k w : Nat) : State := (runs k w).setCmd 0 { aCmd 0x18 with phase := .running, step := some (aStep [k]) }

/-- The register place at an address. -/
def loc (a : Nat) : Loc := (locate .dvx2300 a).getD ⟨.core, 0, 0⟩

/-- An engine operation: kind, ENG_MODE, ENG_K, ENG_WB_CTL, write-back address, started. -/
def anOp (kind : EngKind) (mode k ctl addr : Nat) (started : Bool) : EngOp :=
  ⟨kind, mode, k, 0, 64, 128, 192, 256, 320, ctl, addr, 128, 0, started, 0⟩

/-- An engine's record changed. -/
def onEng (e : Nat) (f : Eng → Eng) (s : State := alive) : State := s.setEng e (f (s.eng e))

/-- An engine enabled, its registers set. -/
def engOn (e : Nat) (rs : List (Nat × Nat)) : State :=
  setR (rs.map fun r => (engBase e + r.1, r.2)) (setF (engBase e) [(Fld.ENG_CTL_EN, 1)])

/-- Bytes of fields given as offset, length and value. -/
def bytesAt (n : Nat) (fs : List (Nat × Nat × Nat)) : List Byte :=
  fs.foldl (fun p f => p.take f.1 ++ leBytes f.2.1 f.2.2 ++ p.drop (f.1 + f.2.1)) (List.replicate n 0)

/-- A vector descriptor of binary32 elements: operation and number. -/
def vecDesc (op n : Nat) (started finished : Bool) : VecDesc :=
  ⟨bytesAt 32 [(0, 1, op), (1, 1, 0xAA), (4, 4, n), (8, 4, 0), (12, 4, 0x100), (16, 4, 0x200), (20, 4, 0x300), (28, 4, 2)], 0, 0, started, finished⟩

/-- A vector descriptor whose result is not aligned. -/
def badVec : VecDesc :=
  ⟨bytesAt 32 [(0, 1, 1), (1, 1, 0xAA), (4, 4, 2), (12, 4, 0x100), (16, 4, 0x200), (20, 4, 0x301), (28, 4, 2)], 0, 0, false, false⟩

/-- A mover descriptor: kind, source and destination space, rows, length, source, destination. -/
def movDesc (kind ssp dsp rows len src dst : Nat) : MovDesc :=
  ⟨bytesAt 32 [(0, 1, kind), (1, 1, ssp + 4 * dsp), (2, 2, rows), (4, 4, len), (8, 4, len), (12, 4, len), (16, 6, src), (24, 6, dst)], 0, 0, false⟩

/-- An open stream 0 from core `p`, mover 0, to core `c`: slots, slot size in 256 bytes, and other fields. -/
def stream0 (p c slots size : Nat) (fs : List (Fld × Nat)) (s : State := State.reset) : State :=
  setF (strmBase 0) ([(Fld.CLU_STRM_W0_VALID, 1), (Fld.CLU_STRM_W0_OPEN, 1), (Fld.CLU_STRM_W0_SLOTS, slots), (Fld.CLU_STRM_W0_SLOTSZ, size),
    (Fld.CLU_STRM_W1_PROD, 4 * p), (Fld.CLU_STRM_W1_CONS, 4 * c)] ++ fs) s

/-- The IOD's modules to the dies and the Porch are up. -/
def linked (s : State := State.reset) : State := (List.range 5).foldl (fun t d => t.fs (ddlBase 4 + 0x1000 * d) Fld.DDL_STS_STATE 2) s

/-- The IOD's links have the credits of empty receive buffers. -/
def credited (s : State) : State := [20, 21, 22, 23].foldl (fun t e => setEnd t e { linkEnd t e with creds := bufSizes e }) s

/-- Link end `e` is up and has the credits of an empty receive buffer. -/
def upEnd (e : Nat) (s : State := State.reset) : State :=
  let s := s.fs (portBase e) Fld.DDL_STS_STATE 2
  setEnd s e { linkEnd s e with creds := bufSizes e }

/-- The system cache is off: DRAM answers what it holds. -/
def uncached : State := setF memIBase [(Fld.MEM_SC_CTL_EN, 0)] linked

/-- The Pantry of die 0 is ready. -/
def panReady (fs : List (Fld × Nat)) : State := setF (panBase 0) ([(Fld.PAN_CTL_EN, 1), (Fld.PAN_STS_READY, 1)] ++ fs) linked

/-- The Pantry of die 0 is ready, and track 0 is open in context 0. -/
def panTrack (fs : List (Fld × Nat)) : State := (panReady fs).mwr 0 (bytesAt 64 [(2, 1, 1), (7, 1, 3), (8, 2, 64)])

/-- A posted attention command of core 0 with its fields. -/
def aPost (fs : List (Nat × Nat × Nat)) : Post := ⟨0, bytesAt 64 fs, 0, 0, 0, 0, 0⟩

/-- A command in a pipeline of an attention unit. -/
def aRun (fs : List (Nat × Nat × Nat)) (status : Option Nat) : AttRun := { newRun (aPost fs) 0 with status := status }

/-- An attention unit's record changed. -/
def onAtt (c : Nat) (f : AttSt → AttSt) (s : State := State.reset) : State := { s with atts := [(c, f (s.att c))] }

/-- Memory holds bytes. -/
def holds (a : Nat) (bs : List Byte) (s : State := State.reset) : State := s.mwr a bs

/-- A SELF over one token, and a state in which cluster 0 attends to it. -/
def aBlock : AttRun := { aRun [(0, 1, 2), (5, 1, 1), (6, 1, 1)] none with count := 1, window := 64, ptes := [0] }
def oneBlock : State := onAtt 0 fun a => { a with att := some aBlock }

/-- The value of a result that is one. -/
def okOf {A : Type} (d : A) : Except Nat A → A
  | .ok a => a
  | .error _ => d

/-- A request of 4 bytes at a DRAM address. -/
def aReq (ini addr : Nat) (write : Bool) (data : List Byte) (stage : ReqStage) : Req :=
  ⟨ini, 5, write, addr, if write then data.length else 4, data, 0, 0, 0, stage, 0, 0, false, 0, false, 0, [], [], false, 0⟩

/-- A request of one line that waits at the memory port for that line. -/
def aLine (ini addr : Nat) (write : Bool) (data : List Byte) : Req := { aReq ini addr write data .mem with todo := [addr / 64] }

/-- A memory request waits alone. -/
def waits (r : Req) (s : State := State.reset) : State := { s with reqs := [r] }

/-- Channel 0 of the IOD's memory registers, or a memory block's fields. -/
def dieLink (e st : Nat) (s : State := State.reset) : State := s.fs (portBase e) Fld.DDL_STS_STATE st

/-- The first 248 bytes of a flit without payload: sequence number, type. -/
def flitHead (seq h : Nat) : List Byte := bytesAt 248 [(0, 2, seq), (1, 1, seq / 256 + 16 * h)]

/-- A flit with its check, or with a wrong one. -/
def aFlit (seq h wrong : Nat) : List Byte := flitHead seq h ++ leBytes 8 ((crc64 (flitHead seq h) + wrong) % 2 ^ 64)

theorem flitHead_length (seq h : Nat) : (flitHead seq h).length = 248 := by
  simp only [flitHead, bytesAt, List.foldl, List.length_append, List.length_take, List.length_drop, leBytes_length,
    List.length_replicate]
  omega

theorem aFlit_take (seq h w : Nat) : (aFlit seq h w).take 248 = flitHead seq h := by
  rw [aFlit, List.take_left' (flitHead_length seq h)]

theorem aFlit_check (seq h w : Nat) : leAt (aFlit seq h w) 248 8 = (crc64 (flitHead seq h) + w) % 2 ^ 64 := by
  rw [leAt, aFlit, List.drop_left' (flitHead_length seq h), List.take_of_length_le (by simp [leBytes]), leNat_leBytes]
  rw [show 256 ^ 8 = 2 ^ 64 by decide, Nat.mod_mod]

theorem crc64Bits_lt : ∀ (n c : Nat), c < 2 ^ 64 → crc64Bits n c < 2 ^ 64
  | 0, _, h => h
  | n + 1, c, h => by
    refine crc64Bits_lt n _ ?_
    split
    · exact Nat.xor_lt_two_pow (Nat.mod_lt _ (by decide)) (by decide)
    · omega

theorem crc64Fold_lt (f : Nat → Byte → Nat) (hf : ∀ c b, c < 2 ^ 64 → f c b < 2 ^ 64) :
    ∀ (bs : List Byte) (c : Nat), c < 2 ^ 64 → bs.foldl f c < 2 ^ 64
  | [], _, h => h
  | b :: bs, c, h => crc64Fold_lt f hf bs (f c b) (hf c b h)

theorem crc64_lt (bs : List Byte) : crc64 bs < 2 ^ 64 := by
  unfold crc64
  refine Nat.xor_lt_two_pow (crc64Fold_lt _ (fun c b h => crc64Bits_lt _ _ (Nat.xor_lt_two_pow h ?_)) bs _ (by decide)) (by decide)
  have := b.isLt
  omega

theorem aFlit_good (seq h : Nat) : crc64 ((aFlit seq h 0).take 248) = leAt (aFlit seq h 0) 248 8 := by
  rw [aFlit_take, aFlit_check, Nat.add_zero, Nat.mod_eq_of_lt (crc64_lt _)]

theorem aFlit_bad (seq h : Nat) : crc64 ((aFlit seq h 1).take 248) ≠ leAt (aFlit seq h 1) 248 8 := by
  rw [aFlit_take, aFlit_check]
  have := crc64_lt (flitHead seq h)
  omega

/-- A host module is up; window 0 covers the first 16 MiB for every requester. -/
def hosted (s : State := State.reset) : State :=
  setF hpBase [(Fld.HP_WIN_W1_SIZE_MB, 16), (Fld.HP_WIN_W2_REQ_HI, 0x1FF), (Fld.HP_WIN_W3_EN, 1), (Fld.HP_WIN_W3_RD, 1),
    (Fld.HP_WIN_W3_WR, 1), (Fld.HP_STS_MOD_UP, 1)] (setF (hostBase 0) [(Fld.HP_MOD_STS_STATE, 2)] s)

/-- The queue manager takes doorbells: firmware serves commands. -/
def belled : State := setF qmBase [(Fld.QM_CTL_EN, 1)] (setF cmdBase [(Fld.CMD_STS_FW_READY, 1), (Fld.CMD_CTL_EN, 1)] hosted)

/-- A queue of 16 entries at 4000H with one entry, its reply ring 0. -/
def aQueue (state : Nat) (pinned : Bool) : QDesc :=
  { valid := true, state := state, pinned := pinned, cls := 0, fenceWait := false, log2 := 4, ctx := 0, ctxGen := 0, base := 0x4000,
    producer := 1, consumer := 0, cq := 0, inflight := 0, self := 0, parsed := 0 }

/-- A completion ring of 64 entries at 8000H. -/
def aRing : CqRec := { CqRec.absent with valid := true, log2 := 6, base := 0x8000 }

/-- Queue 3 waits with one packet; the command processor and the queue manager run. -/
def queued (p : List Byte) : State :=
  { (setF qmBase [(Fld.QM_CTL_EN, 1)] (setF cmdBase [(Fld.CMD_CTL_EN, 1), (Fld.CMD_STS_FW_READY, 1)] uncached)).mwr 0x4000 p with
    qcache := [(3, aQueue 0 false)], qready := [3], cqs := [(0, aRing)] }

/-- A packet of one entry. -/
def entry (op : Nat) (version : Nat) : List Byte := packet op [(2, 1, 1), (3, 1, version)]

/-- The state with a command and the queue manager on. -/
def hasQ (c : Cmd) (s : State := State.reset) : State := has c (setF qmBase [(Fld.QM_CTL_EN, 1)] s)

/-- The fields of a step image of 4,864 bytes: one core, one input of 64 bytes, a bound of 1,000 ns. -/
def imageFields : List (Nat × Nat × Nat) :=
  [(0, 4, 0x50455453), (4, 2, 256), (6, 2, 3), (8, 4, 4864), (16, 1, 1), (28, 4, 4096), (64, 1, 1), (68, 4, 256), (72, 4, 4096), (80, 1, 2), (84, 4, 4352), (88, 4, 32), (92, 4, 1), (96, 1, 7)]
    ++ [(100, 4, 4608), (104, 4, 80), (108, 4, 1), (4352, 1, 0), (4354, 1, 6), (4360, 8, 64), (4608, 4, 1000), (4612, 2, 800), (4614, 2, 1), (4616, 4, 100), (4620, 4, 8192), (4624, 4, 100), (4672, 4, 100), (12, 4, 0x6b9fb121)]

/-- The image stands at 8000000H, as handle 1 where `known`. -/
def imaged (known : Bool) (s : State := State.reset) : State :=
  { imageFields.foldl (fun t f => t.mwr (0x8000000 + f.1) (leBytes f.2.1 f.2.2)) s with
    images := if known then [(1, ⟨0x8000000, 4864, 100⟩)] else [] }

/-- The cores run, and a step image of 128 bytes stands as handle 1: one section of code, 8 bytes. -/
def miniImage : State :=
  { alive.mwr 0x8000000 (bytesAt 128 [(6, 2, 1), (64, 1, 1), (68, 4, 96), (72, 4, 8)]) with images := [(1, ⟨0x8000000, 128, 100⟩)] }

/-- Cores may be placed: die 0 in service, the cores not fenced, Threshold on. -/
def usable (ks : List Nat) (s : State := State.reset) : State :=
  ks.foldl (fun t k => t.fs (coreBase k) Fld.CORE_CTL_FENCE 0)
    (setF admBase [(Fld.ADM_CTL_EN, 1)] (setF (dieBase 0) [(Fld.CLU_DC_STS_DC_RUN, 1)] s))

/-- Sixteen bookings of 10 µs stand on core 0 from time 0 on. -/
def booked16 (s : State) : State :=
  (List.range 16).foldl (fun t i => t.setCmd (100 + i) { aCmd 0x18 with
    phase := .booked, step := some { aStep [0] with booking := true, begun := false, start := 10 * i, charge := 10 } }) s

/-- A fold whose running value is made a number at each byte, so that its evaluation stays shallow. -/
def foldRun (f : Nat → Byte → Nat) : List Byte → Nat → Nat
  | [], c => c
  | b :: bs, c => match f c b with
    | 0 => foldRun f bs 0
    | n + 1 => foldRun f bs (n + 1)

theorem foldRun_eq (f : Nat → Byte → Nat) : ∀ (bs : List Byte) (c : Nat), foldRun f bs c = bs.foldl f c
  | [], _ => rfl
  | b :: bs, c => by
    rw [foldRun, List.foldl_cons]
    split
    · next h => rw [foldRun_eq f bs 0, h]
    · next n h => rw [foldRun_eq f bs (n + 1), h]
theorem pkgBytes_append (s : State) (a m n : Nat) : pkgBytes s a (m + n) = pkgBytes s a m ++ pkgBytes s (a + m) n := by
  simp only [pkgBytes, List.range_add, List.map_append, List.map_map, Function.comp_def, Nat.add_assoc]

theorem kget_absent {V : Type} (d : Nat → V) (k : Nat) : ∀ m : List (Nat × V), (∀ e ∈ m, e.1 ≠ k) → kget d m k = d k
  | [], _ => rfl
  | e :: m, h => by
    have h1 : k ≠ e.1 := Ne.symm (h e (List.mem_cons_self ..))
    have h2 := kget_absent d k m fun x hx => h x (List.mem_cons_of_mem _ hx)
    obtain ⟨e1, e2⟩ := e
    simp only [kget, h2, if_neg h1, ite_self]

/-- Raw bytes that nothing has written. -/
theorem pkgBytes_blank {s : State} {a n : Nat} (hu : s.undef = []) (ha : a + n ≤ 0x004000000000)
    (hm : (s.mem.all fun e => decide (e.1 < a) || decide (a + n ≤ e.1)) = true) : pkgBytes s a n = List.replicate n 0 := by
  rw [pkgBytes, List.eq_replicate_iff]
  refine ⟨by simp, fun b hb => ?_⟩
  obtain ⟨i, hi, rfl⟩ := List.mem_map.mp hb
  have hi := List.mem_range.mp hi
  have hp : physOf s (a + i) = a + i := by rw [physOf, if_neg (by omega)]
  rw [hp, State.mb, undefAt, hu]
  refine kget_absent _ _ _ fun e he => ?_
  have := List.all_eq_true.mp hm e he
  simp only [Bool.or_eq_true, decide_eq_true_eq] at this
  omega

/-- The image's CRC over bytes given as three runs. -/
theorem crc32c_runs {s : State} {a n m k : Nat} {c : Nat} (hz : pkgBytes s (a + n) m = List.replicate m 0)
    (hc : (let f := fun c b => crcStep 8 (Nat.xor c b.toNat)
      Nat.xor (foldRun f (pkgBytes s (a + n + m) k) (foldRun f (List.replicate m 0) (foldRun f (pkgBytes s a n) 0xFFFFFFFF)))
        0xFFFFFFFF) = c) : crc32c (pkgBytes s a (n + m + k)) = c := by
  rw [← hc, pkgBytes_append, pkgBytes_append, hz, crc32c]
  simp only [foldRun_eq, List.foldl_append, Nat.add_assoc]

/-- An image whose parts pass. -/
theorem imageCheck_passes {s : State} {a size n : Nat} (h1 : headerOk s a size = true) (h2 : sectTableOk s a size = true)
    (h3 : sectionsOk s a = true) (hc : crc32c (pkgBytes s (a + 16) (size - 16)) = imf s a 12 4)
    (hb : boundSum (imgMinClk s a) (imgRho s a) (imgPhases s a) = some n) (hn : n ≤ imgBoundNs s a) :
    imageCheck s a size = 0 := by
  unfold imageCheck
  rw [h1, h2, h3, hc, hb]
  simp [hn]

theorem reads_clean {s : State} {x a n : Nat} (h : (cpReads s x a n).1 = false) :
    cpReads s x a n = (false, (cpReads s x a n).2) := Prod.ext h rfl

/-- A parsed command whose packet has `n` bytes. -/
def aBig (n op : Nat) (fs : List (Nat × Nat × Nat)) : Cmd := { aCmd op with packet := bytesAt n ((0, 1, op) :: fs) }

/-- A sensor port's record changed. -/
def onPort (p : Nat) (f : SensorPort → SensorPort) (s : State := State.reset) : State := s.setPort p (f (s.port p))

/-- A semaphore owned by context 0 with a value, its unit on. -/
def semOn (n v : Nat) (fs : List (Fld × Nat)) : State :=
  semRebase (setF (semBase n) ((Fld.SYN_SEM_W1_OWNED, 1) :: fs) (setF (synBase (n / 4096)) [(Fld.SYN_CTL_EN, 1)])) n v

/-- The state with a SEM message on its way. -/
def withMsg (m : SemMsg) (s : State) : State := { s with semMsgs := [m] }

/-- With no candidate nothing fits. -/
theorem fit_none {s : State} {t : Nat} {n : Need} (h : n.cands = []) : fit s t [n] = none := by
  have go : ∀ f a, fitFrom s [n] (calendar s) f a = none := by
    intro f
    induction f with
    | zero => intro a; rfl
    | succ f ih => intro a; simp only [fitFrom, fitAt, h, List.findSome?_nil]; exact ih _
  exact go _ _

/-- An enabled port of the Porch with its SENSOR_CONFIG record, given by packet bytes, and its buffer of 64 KiB. -/
def sensing (p : Nat) (fs : List (Nat × Nat × Nat)) (f : SensorPort → SensorPort) (s : State := State.reset) : State :=
  onPort p (fun x => f { x with on := true })
    (areaPut (setF pchBase [(Fld.PCH_CTL_EN, 1)] (setF (pchBase + 4 * bufOf p) [(Fld.PCH_BUF_UNITS, 1)] s)) (recArea p) 36
      (bytesAt 144 (([(32, 4, 0x8000000), (40, 1, 12), (41, 1, 4), (48, 4, 0x9000000)] ++ fs).map fun (x : Nat × Nat × Nat) => (x.1 - 32, x.2.1, x.2.2))))

/-- A record of the Porch: payload, bytes written, ended. -/
def aRec (payload : List Byte) (drained : Nat) (ended : Bool) : InRec :=
  ⟨0, 0, 0, 0, 0, 0, 0, 0, 0, 0, 0, 0, 0, payload, drained, ended, false, false, 0⟩

/-- Both islands run their images. -/
def guarded (s : State := State.reset) : State :=
  setF (acnBase 0) [(Fld.ACN_STS_STATE, 2)] (setF (acnBase 1) [(Fld.ACN_STS_STATE, 2)] s)

/-! ### The spec's own worked examples -/

/-- A DVX-2300 with the interleaved window of the example of R29: S = 8 GiB, B = 1_0000_0000H. -/
def windowed : State :=
  setF memIBase [(Fld.MEM_IL_CTL_EN, 1), (Fld.MEM_IL_CTL_S_GIB, 8), (Fld.MEM_IL_CTL_B_GIB, 4)]

/-- The example after R29. -/
theorem test_window_address : ilRaw windowed 0x004000012345 = some 0x001100004345 := by decide +kernel

/-- The example after R35: CD2/CL5/CO3, its checker block and its engine EN1. -/
theorem test_register_bases : coreBase (2 * 64 + 5 * 8 + 3) = 0x00F0026B0000 ∧ chkBase (2 * 64 + 5 * 8 + 3) = 0x00F0026B4000
    ∧ engBase (4 * (2 * 64 + 5 * 8 + 3) + 1) = 0x00F0026B9000 := by decide +kernel

/-- The example after R41: stream mover 1 of CD1/CL6/CO2. -/
theorem test_initiator : coreIni (64 + 6 * 8 + 2) 2 = 0x2CA := by decide +kernel

/-- The example after R201: raw address 0011_2345_6780H, and its check byte at 0017_2345_6730H. -/
theorem test_dram_place : rawDie 0x001123456780 = 2 ∧ dramCh (rawOff 0x001123456780) = 7 ∧ dramRow (rawOff 0x001123456780) = 0x2345
    ∧ dramBank (rawOff 0x001123456780) = 3 ∧ dramCol (rawOff 0x001123456780) = 0x180
    ∧ dramCol (rawOff 0x001723456730) = 0x730 ∧ dramBank (rawOff 0x001723456730) = 3 := by decide +kernel

/-- The coolant of the example after R484: flows 2.6 and 2.7 L/min, inlets 67 and 68 °C, outlets 75 and 75.5 °C. -/
def cooled : State :=
  setF hthBase [(Fld.HTH_COOL_FLOW_FLOW0, 260), (Fld.HTH_COOL_FLOW_FLOW1, 270), (Fld.HTH_COOL_IN_T0, 670), (Fld.HTH_COOL_IN_T1, 680),
    (Fld.HTH_COOL_OUT_T0, 750), (Fld.HTH_COOL_OUT_T1, 755)]

/-- B_flow = 312 W, B_rise = 380 W, D_inlet = 72 W and B = 240 W; the pump request is 100 %. -/
theorem test_budget : budgetTerms cooled = (3120, 3800, 720) ∧ pkgBudget cooled = 2400 ∧ pumpDuty cooled 240 = 100 := by
  decide +kernel

/-- The image of the example after R306, as its charge reads it: BOUND_NS = 163,067, CM_USE = 40,960, 36 RELOC records. -/
def backbone : State :=
  ([(6, 2, 2), (28, 4, 40960), (64, 1, 3), (68, 4, 4096), (72, 4, 432), (76, 4, 36), (80, 1, 7), (84, 4, 4608), (88, 4, 80), (92, 4, 1),
    (4608, 4, 163067), (4612, 2, 2000), (4616, 4, 584), (4624, 4, 12908)] : List (Nat × Nat × Nat)).foldl
    (fun t f => t.mwr (0x8000000 + f.1) (leBytes f.2.1 f.2.2)) State.reset

/-- L = 4,960 ns and E = 193 µs; a victim with the figures of the pre-emption example has Q = 14,200 ns. -/
theorem test_charge : loadNs backbone 0x8000000 = 4960 ∧ chargeUs backbone 0x8000000 = 193
    ∧ preemptNs backbone 0x8000000 = 14200 := by decide +kernel

/-- The containers of the update example: 12 MiB and 24 MiB of plaintext. -/
theorem test_containers : containerLen 12582912 = 12612832 ∧ containerLen 25165824 = 25195744 := by decide +kernel

/-- Camera C0 and lidar L0 of the projection example, bodies from byte 40. -/
def exCam : List Byte := bytesAt 88 [(0, 2, 0x780), (2, 2, 0x438), (4, 4, 0x447a0000), (8, 4, 0x447a0000), (12, 4, 0x446fe000), (16, 4, 0x4406e000), (20, 4, 0xbdcccccd), (24, 4, 0x3c23d70a), (40, 4, 0x3f000000), (44, 4, 0x3f000000), (48, 4, 0xbf000000), (52, 4, 0x3f000000), (56, 4, 0xbf000000), (60, 4, 0x3fe66666), (68, 4, 0x3fc00000), (72, 4, 0x3a98), (80, 4, 0x3dcccccd), (84, 4, 0xfe4d90)]
def exLid : List Byte := bytesAt 64 [(0, 4, 0x3f800000), (16, 4, 0x3f99999a), (24, 4, 0x3ff33333)]

/-- A pose without rotation, the vehicle `x` metres along its track. -/
def alongX (x : Nat) : PoseAt := ⟨[fone, fzero, fzero, fzero], [dec64 x, fzero, fzero], [dec64 x, fzero, fzero], 0⟩

/-- The image of the example's point after the vehicle has moved: u and v in thousandths of a pixel. -/
def exImage (moved : Nat) : Option Int × Option Int :=
  let i := image exCam (toCamera exLid exCam [dec32 0x41a00000, dec32 0x40000000, dec32 0xbf666666] (alongX 0) (alongX moved) false)
  (toIntR .rne (i.1.mul (ofInt 1000)), toIntR .rne (i.2.1.mul (ofInt 1000)))

/-- Pass 1 of the example, 0.08185 m further: u = 856.088, v = 565.353. -/
theorem test_projection_pass1 : exImage 0x3fb4f41f212d7732 = (some 856088, some 565353) := by decide +kernel

/-- Pass 2 of the example, 0.0896059 m further: u = 856.047. (The example's v of this pass, 565.863, does not follow from
its own y and radial factor, which give 565.363.) -/
theorem test_projection_pass2 : (exImage 0x3fb6f0698a07555f).1 = some 856047 := by decide +kernel

/-! ### The queue -/

/-- On an empty queue 1 µs passes; a command at the front acts and leaves the queue. -/
theorem test_step_empty : step State.reset = .next (tick State.reset) := by rfl

theorem test_step_front (c : Instr) (cs : List Instr) (s : State) :
    step { s with pending := c :: cs } = exec c { s with pending := cs } := by rfl

/-- The table gives no row bits, so no word spells a command. -/
theorem test_no_word (n w : Nat) (s : State) : decodeTableWord n w = none ∧ s.withFetchWord n w = s := ⟨rfl, rfl⟩

/-! ### Well-formedness: an ill-formed command for each kind of check is refused -/

theorem test_illFormed_refused_1 : (([.registerWrite 0 281474976710656 0 0, .rdRequest 0 0 0 0, .engGoMma 0 1024 0, .seqNop 256,
    .smCopy 0 2, .strseg 4096, .landingInit 0 32, .dcHeartbeat 4,
    .stepLoad 32768, .scrubPage 0 4, .attnPost 0 0 16 [], .dramRead ⟨0, 16, false⟩,
    .rowIdleClose 0 0 16, .refreshWindow 0 0 8, .memInitDone 0 65536, .linkTraining 26,
    .linkUp 0 295147905179352825856 0, .linkUp 0 0 295147905179352825856, .flitReceive 34 ⟨[], [], 0, false⟩, .nakReceive 0 4096,
    .laneHardFail 30 ⟨0, false⟩, .laneHardFail 0 ⟨68, false⟩, .rdrsp 0 65536, .msg 6 0 []] : List Instr).all fun i => !i.wf) = true := by decide +kernel

theorem test_illFormed_refused_2 : (([.msg 0 6 [], .cap 4 0 0 0, .cap 0 4096 0 0, .cap 0 0 2 0,
    .cap 0 0 0 256, .spanLinkTrain 0 16 0 0 false, .spanLinkTrain 0 0 16 0 false, .spanLinkTrain 0 0 0 16 false,
    .spanLaneFault 0 4, .spanMessageIn 0 4096 ⟨0, 0, 0, false⟩ 0 0 0 0 0 [] 0 ⟨0, 0⟩, .spanMessageIn 0 0 ⟨4096, 0, 0, false⟩ 0 0 0 0 0 [] 0 ⟨0, 0⟩, .spanMessageIn 0 0 ⟨0, 0, 0, false⟩ 64 0 0 0 0 [] 0 ⟨0, 0⟩,
    .spanMessageIn 0 0 ⟨0, 0, 0, false⟩ 0 16 0 0 0 [] 0 ⟨0, 0⟩, .spanMessageIn 0 0 ⟨0, 0, 0, false⟩ 0 0 0 0 0 [] 16384 ⟨0, 0⟩, .spanMessageIn 0 0 ⟨0, 0, 0, false⟩ 0 0 0 0 0 [] 0 ⟨4, 0⟩, .spanMessageIn 0 0 ⟨0, 0, 0, false⟩ 0 0 0 0 0 [] 0 ⟨0, 4294967296⟩,
    .spanMessageIn 0 0 ⟨0, 0, 8, false⟩ 0 0 0 0 0 [] 0 ⟨0, 0⟩, .spanMessageIn 0 0 ⟨0, 4096, 0, false⟩ 0 0 0 0 0 [] 0 ⟨0, 0⟩, .hostModuleTrain 4 0 0, .sidebandParam 3 0,
    .sidebandParam 0 65536, .hostRequest 0 512 0 false 0 4 [], .dbellQueue ⟨0, 0⟩ 1048576 0, .dbellQueue ⟨0, 0⟩ 0 4294967296] : List Instr).all fun i => !i.wf) = true := by decide +kernel

theorem test_illFormed_refused_3 : (([.dbellCqHead ⟨0, 0⟩ 65536 0, .sensorConfig 0 false 4096 0 0, .sensorConfig 0 false 0 8 0, .sensorConfig 0 false 0 0 256,
    .portDisableDone 33, .cameraRestartDone 16 false 0 0 0, .policyPrepareTimeout 2, .synSemWrite 0 16384 0,
    .bwrFloorWrite 0 6 0 0 0, .bwrFloorWrite 0 0 256 0 0, .bwrFloorWrite 0 0 0 256 0, .cameraFrame 0 1000 false false 0 0 0 0 [] false,
    .cameraFrame 0 0 false false 256 0 0 0 [] false, .cameraFrame 0 0 false false 0 65536 0 0 [] false, .cameraFrame 0 0 false false 0 0 4294967296 0 [] false, .cameraFrame 0 0 false false 0 0 0 4294967296 [] false,
    .ethFrame 6 0 [] false, .canFrame 4 0 0 [] false 0 false, .canFrame 0 0 4294967296 [] false 0 false, .canFrame 0 0 0 [] false 256 false,
    .imuBurst 2 0 [], .triggerEdge 32 0 0, .pocSample 0 4096, .railSample 4 0] : List Instr).all fun i => !i.wf) = true := by decide +kernel

theorem test_illFormed_refused_4 : (([.railSample 0 65536, .ethQualitySample 0 8, .ethCableDiag 0 4 0, .ethCableDiag 0 0 65536,
    .trigPinShort 0 4, .canPinFault 0 4 false, .heartbeatLost 0 8, .budgetRecompute 1024,
    .agentReport 4 0, .agentReport 0 4096, .pmbusTelemetry 16 false 0 0 0, .pmbusTelemetry 0 false 65536 0 0,
    .pmbusTelemetry 0 false 0 4 0, .pmbusTelemetry 0 false 0 0 4096, .peerNotice 256 0, .peerNotice 0 18446744073709551616,
    .dumpUnitTimeout 65536, .tstPertWrite 0 0 0 2 0, .tstInjWrite 0 0 0 4 0, .railOutOfRange 256,
    .clockFaultCleared 3, .heartbeatToggle 3, .flowPulse 2, .registerWrite 258 0 0 0] : List Instr).all fun i => !i.wf) = true := by decide +kernel

theorem test_illFormed_refused_5 : (([.registerWrite 274 0 0 0, .registerWrite 2047 0 0 0, .registerWrite 2053 0 0 0, .registerWrite 2057 0 0 0,
    .registerWrite 2563 0 0 0, .registerWrite 3074 0 0 0, .registerWrite 3583 0 0 0, .registerWrite 4096 0 0 0] : List Instr).all fun i => !i.wf) = true := by decide +kernel

theorem test_wellFormed_accepted : (([.registerWrite 4095 0 0 0,
    .registerWrite 3584 0 0 0,
    .registerWrite 3329 0 0 0,
    .registerWrite 3073 0 0 0,
    .registerWrite 2562 0 0 0,
    .registerWrite 2056 0 0 0,
    .registerWrite 2048 0 0 0,
    .registerWrite 264 0 0 0,
    .registerWrite 257 0 0 0,
    .registerWrite 0 0 0 0,
    .engSrSeedWrite 0 0 0,
    .seqShl 0,
    .seqSemSignal 0,
    .vecMul 0,
    .vecRmax 0,
    .corePreemptComplete 0,
    .tcmdOpen 0 0,
    .pageRecycleResume 0,
    .memInit 0 0,
    .ackSend 0,
    .spanLaneFault 0 0,
    .packetParse,
    .windowSet 0,
    .trackReset 0,
    .calibImu 0,
    .napGate,
    .updateActivateReply,
    .bookingStart 0,
    .semunitSignalN 0,
    .ingestDrain,
    .canPinFault 0 0 false,
    .selfTestSelect,
    .agentPowerSample 0 [] ⟨false, false⟩,
    .packageWarmReset 0 0 [] [],
    .faultClear 0,
    .tapExtest,
    .railOutOfRange 0] : List Instr).all Instr.wf) = true := by decide +kernel

/-! ### Witnesses: for each clause of each statement, states and operands that meet its hypotheses together -/

/-- StepTakesFront: its clauses’ hypotheses are met. -/
theorem witness_StepTakesFront :
  (∃ (c : Instr) (cs : List Instr) (s : State), (s.pending = c :: cs)) ∧
  (∃ (s : State), (s.pending = [])) :=
  ⟨⟨.ilSync, [.nop 0], { State.reset with pending := [.ilSync, .nop 0] }, by decide +kernel⟩,
   ⟨State.reset, by decide +kernel⟩⟩

/-- FieldEventsSetTheirField: its clauses’ hypotheses are met. -/
theorem witness_FieldEventsSetTheirField :
  (∃ (s : State), (s.ok)) ∧
  (∃ (s : State), (s.ok)) ∧
  (∃ (s : State), (s.ok)) ∧
  (∃ (s : State), (s.ok)) ∧
  (∃ (s : State) (d : _), (s.ok) ∧ (d < 4) ∧ (diagonalOpen s d = false) ∧ (Quiet s)) ∧
  (∃ (s : State), (s.ok)) ∧
  (∃ (s : State) (mv : _), (s.ok) ∧ (mv < 65536)) ∧
  (∃ (s : State) (v : _), (s.ok) ∧ (v < 16)) ∧
  (∃ (s : State), (s.ok) ∧ (s.fb dspBase Fld.DSP_CTL_ROT_EN) ∧ (s.rotAt + 1000 * max 1 (s.fg dspBase Fld.DSP_ROT_PERIOD_MS) ≤ s.nowUs)) :=
  ⟨⟨State.reset, by decide +kernel⟩,
   ⟨State.reset, by decide +kernel⟩,
   ⟨State.reset, by decide +kernel⟩,
   ⟨setF memIBase [(Fld.MEM_SC_CTL_INV_BUSY, 1)], by decide +kernel⟩,
   ⟨State.reset, 3, by unfold Quiet; decide +kernel⟩,
   ⟨setF (cluBase 31) [(Fld.CLU_CLK_TGT_MHZ, 1000)], by decide +kernel⟩,
   ⟨State.reset, 65535, by decide +kernel⟩,
   ⟨State.reset, 15, by decide +kernel⟩,
   ⟨setF admBase [(Fld.ADM_NOW_LO_COUNT, 1000000)] (setF dspBase [(Fld.DSP_CTL_ROT_EN, 1), (Fld.DSP_ROT_START, 31)]), by decide +kernel⟩⟩

/-- SeqAluWritesDestination: its hypotheses are met. -/
theorem witness_SeqAluWritesDestination :
  (∃ (r : (Nat → Instr) × Nat × (Word → Word → Word)) (s : State) (k : Nat), (r ∈ aluRows) ∧ (Issues s k r.2.1)) :=
  ⟨((Instr.seqAdd, 0x04, (· + ·)) : (Nat → Instr) × Nat × (Word → Word → Word)), setR [(coreBase 5 + Reg.CORE_SEQ_S + 4, 0xFFFFFFFF)] (runs 5 (ins 4 31 1 0 1 2)), 5, ⟨by simp [aluRows], by unfold Issues Clean; decide +kernel⟩⟩

/-- SeqMovesAndBranches: its clauses’ hypotheses are met. -/
theorem witness_SeqMovesAndBranches :
  (∃ (s : State) (k : _), (Issues s k 0x00)) ∧
  (∃ (s : State) (k : _), (Issues s k 0x03)) ∧
  (∃ (s : State) (k : _), (Issues s k 0x17)) ∧
  (∃ (s : State) (k : _) (a : _) (l : _), (Issues s k 0x10) ∧ (ownReg s k (effAddr s k (instrAt s k)) = some (a, l))) ∧
  (∃ (s : State) (k : _), (Issues s k 0x0C) ∧ (iF (instrAt s k) % 8 ≠ 7)) :=
  ⟨⟨runs 255 (ins 0 0 0 0 0 0), 255, by unfold Issues Clean; decide +kernel⟩,
   ⟨runs 0 (ins 3 31 0 0 0 0xFFFFFFFF), 0, by unfold Issues Clean; decide +kernel⟩,
   ⟨runs 0 (ins 0x17 1 0 0 0 0), 0, by unfold Issues Clean; decide +kernel⟩,
   ⟨runs 0 (ins 0x10 2 0 0 0 8), 0, coreBase 0 + 8, loc (coreBase 0 + 8), by unfold Issues Clean; decide +kernel⟩,
   ⟨runs 0 (ins 0x0C 0 1 2 3 64), 0, by unfold Issues Clean; decide +kernel⟩⟩

/-- SeqLoadStore: its clauses’ hypotheses are met. -/
theorem witness_SeqLoadStore :
  (∃ (s : State) (k : _), (Issues s k 0x0D) ∧ (wordOk (effAddr s k (instrAt s k)) = true) ∧ (Clean s (cmBase k + effAddr s k (instrAt s k)) 4)) ∧
  (∃ (s : State) (k : _), (Issues s k 0x0E) ∧ (wordOk (effAddr s k (instrAt s k)) = true)) ∧
  (∃ (s : State) (k : _), (Issues s k 0x0D) ∧ (wordOk (effAddr s k (instrAt s k)) = false)) ∧
  (∃ (s : State) (k : _), (Issues s k 0x0E) ∧ (wordOk (effAddr s k (instrAt s k)) = false)) :=
  ⟨⟨runs 0 (ins 0x0D 3 0 0 0 (cmSize - 4)), 0, by unfold Issues Clean; decide +kernel⟩,
   ⟨runs 0 (ins 0x0E 0 0 4 0 (cmSize - 4)) (setR [(coreBase 0 + Reg.CORE_SEQ_S + 16, 0x12345678)]), 0, by unfold Issues Clean; decide +kernel⟩,
   ⟨runs 0 (ins 0x0D 3 0 0 0 cmSize), 0, by unfold Issues Clean; decide +kernel⟩,
   ⟨runs 0 (ins 0x0E 3 0 0 0 2), 0, by unfold Issues Clean; decide +kernel⟩⟩

/-- SeqWregWrites: its clauses’ hypotheses are met. -/
theorem witness_SeqWregWrites :
  (∃ (s : State) (k : _) (a : _) (l : _), (Issues s k 0x0F) ∧ (ownReg s k (effAddr s k (instrAt s k)) = some (a, l)) ∧ (l.blk ≠ .eng) ∧ ((regDenied s (coreIni k 0) a l (regAt s.part l)).1 = false) ∧ (seqRun (coreRegWrite s k a (sreg s k (iB (instrAt s k))) (regAt s.part l)) k = true)) ∧
  (∃ (s : State) (k : _) (a : _) (l : _), (Issues s k 0x0F) ∧ (ownReg s k (effAddr s k (instrAt s k)) = some (a, l)) ∧ (l.blk = .eng) ∧ ((regDenied s (coreIni k 0) a l (regAt s.part l)).1 = false) ∧ (seqWaits (engRegWrite s (coreIni k 0) l.unit l.off (sreg s k (iB (instrAt s k)))) k l.unit = false) ∧ (seqRun (engRegWrite s (coreIni k 0) l.unit l.off (sreg s k (iB (instrAt s k)))) k = true)) ∧
  (∃ (s : State) (k : _) (a : _) (l : _), (Issues s k 0x0F) ∧ (ownReg s k (effAddr s k (instrAt s k)) = some (a, l)) ∧ (l.blk = .eng) ∧ (l.off = Reg.ENG_GO) ∧ ((regDenied s (coreIni k 0) a l (regAt s.part l)).1 = false) ∧ (s.fb (engBase l.unit) Fld.ENG_STS_HALT = false) ∧ (s.fb (engBase l.unit) Fld.ENG_CTL_EN = true) ∧ (4 ≤ (s.eng l.unit).held.length)) ∧
  (∃ (s : State) (k : _), (Issues s k 0x0F) ∧ (ownReg s k (effAddr s k (instrAt s k)) = none)) :=
  ⟨⟨runs 0 (ins 0x0F 0 0 1 0 0x104) (setR [(coreBase 0 + Reg.CORE_SEQ_S + 4, 77)]), 0, coreBase 0 + 0x104, loc (coreBase 0 + 0x104), by unfold Issues Clean; decide +kernel⟩,
   ⟨runs 0 (ins 0x0F 0 0 1 0 (0x8000 + Reg.ENG_MODE)) (setR [(coreBase 0 + Reg.CORE_SEQ_S + 4, 1)]), 0, coreBase 0 + 0x8000 + Reg.ENG_MODE, loc (coreBase 0 + 0x8000 + Reg.ENG_MODE), by unfold Issues Clean; decide +kernel⟩,
   ⟨runs 0 (ins 0x0F 0 0 1 0 (0x8000 + Reg.ENG_GO)) (onEng 0 (fun e => { e with held := List.replicate 4 (anOp .mma 0 0 0 0 false) }) (setR [(coreBase 0 + Reg.CORE_SEQ_S + 4, 1)] (setF (engBase 0) [(Fld.ENG_CTL_EN, 1)]))), 0, coreBase 0 + 0x8000 + Reg.ENG_GO, loc (coreBase 0 + 0x8000 + Reg.ENG_GO), by unfold Issues Clean; decide +kernel⟩,
   ⟨runs 0 (ins 0x0F 0 0 1 0 0x10000), 0, by unfold Issues Clean; decide +kernel⟩⟩

/-- AccessesStayInPages: its hypotheses are met. -/
theorem witness_AccessesStayInPages :
  (∃ (s : State) (ini : Nat) (a : Nat) (n : Nat), (iniBlocked s ini = false) ∧ (a / 4096 ≠ (a + n - 1) / 4096)) :=
  ⟨State.reset, 0x800, 4094, 4, by decide +kernel⟩

/-- WritesFollowAccessCodes: its hypotheses are met. -/
theorem witness_WritesFollowAccessCodes :
  (∃ (fs : List RegField), (FieldsApart fs)) :=
  ⟨[⟨"A", 7, 0, .rw, 0⟩, ⟨"B", 8, 8, .w1c, 0⟩], by unfold FieldsApart; decide +kernel⟩

/-- RegisterWriteStores: its clauses’ hypotheses are met. -/
theorem witness_RegisterWriteStores :
  (∃ (s : State) (ini : _) (a : _) (l : _) (r : _), (Admits s ini a l) ∧ (space s a = .reg) ∧ ((l.blk = .dieClu ∨ l.blk = .hthI ∨ l.blk = .hthD ∨ l.blk = .hthP)) ∧ (regAt s.part l = some r)) ∧
  (∃ (s : State) (ini : _) (a : _) (l : _) (r : _) (v : Word), (Admits s ini a l) ∧ (space s a = .reg) ∧ (l.blk = .dsp) ∧ (regAt s.part l = some r) ∧ (¬ (Reg.DSP_SAVE_BASE ≤ l.off ∧ l.off < Reg.DSP_SAVE_BASE + 16 ∧ s.fb dspBase Fld.DSP_CTL_EN = true)) ∧ (¬ (l.off = Reg.DSP_CTL ∧ bit v.toNat 0 = true ∧ s.fb dspBase Fld.DSP_CTL_EN = false))) ∧
  (∃ (s : State) (ini : _) (a : _) (l : _), (Admits s ini a l) ∧ (space s a = .reg) ∧ (l.blk = .dsp) ∧ (Reg.DSP_SAVE_BASE ≤ l.off) ∧ (l.off < Reg.DSP_SAVE_BASE + 16) ∧ (s.fb dspBase Fld.DSP_CTL_EN = true)) ∧
  (∃ (s : State) (ini : _) (a : _) (l : _) (v : Word), (Admits s ini a l) ∧ (space s a = .reg) ∧ (l.blk = .dsp) ∧ (l.off = Reg.DSP_CTL) ∧ (bit v.toNat 0 = true) ∧ (s.fb dspBase Fld.DSP_CTL_EN = false) ∧ ((List.range s.part.dies).any (fun d => !saveBaseOk (regStore s a v.toNat (regAt s.part l)) d) = true)) ∧
  (∃ (s : State) (ini : _) (a : _) (l : _), (s.ok) ∧ (space s a = .reg) ∧ (locate s.part a = some l) ∧ (l.blk = .dsp) ∧ (ini ≠ 0x800) ∧ (isAcina ini = false) ∧ ((∀ r, regAt s.part l = some r → r.1.hasRwl = false)) ∧ ((accCheck s ini a 4 true).1 = none)) ∧
  (∃ (s : State) (ini : _) (a : _) (n : _), (space s a = .reg) ∧ (iniBlocked s ini = false) ∧ (n ≠ 4 ∨ a % 4 ≠ 0) ∧ (iniDie ini = spaceDie s a)) :=
  ⟨⟨dieLink 20 2 (dieLink 4 2), 0x800, dieBase 0 + Reg.CLU_DIE_CTL, loc (dieBase 0 + Reg.CLU_DIE_CTL), (regAt .dvx2300 (loc (dieBase 0 + Reg.CLU_DIE_CTL))).getD ⟨⟨"", 0, 0, 0, 0, 0, []⟩, 0, 0⟩, by unfold Admits; decide +kernel⟩,
   ⟨State.reset, 0x800, dspBase + Reg.DSP_ROT, loc (dspBase + Reg.DSP_ROT), (regAt .dvx2300 (loc (dspBase + Reg.DSP_ROT))).getD ⟨⟨"", 0, 0, 0, 0, 0, []⟩, 0, 0⟩, 1, by unfold Admits; decide +kernel⟩,
   ⟨setF dspBase [(Fld.DSP_CTL_EN, 1)], 0x800, dspBase + Reg.DSP_SAVE_BASE, loc (dspBase + Reg.DSP_SAVE_BASE), by unfold Admits; decide +kernel⟩,
   ⟨State.reset, 0x800, dspBase + Reg.DSP_CTL, loc (dspBase + Reg.DSP_CTL), 1, by unfold Admits; decide +kernel⟩,
   ⟨State.reset, 0x804, dspBase + Reg.DSP_CTL, loc (dspBase + Reg.DSP_CTL), by
    refine ⟨by decide +kernel, by decide +kernel, by decide +kernel, by decide +kernel, by decide +kernel, by decide +kernel, ?_, by decide +kernel⟩
    intro r h; have e : regAt State.reset.part (loc (dspBase + Reg.DSP_CTL)) = some ((regAt .dvx2300 (loc (dspBase + Reg.DSP_CTL))).getD ⟨⟨"", 0, 0, 0, 0, 0, []⟩, 0, 0⟩) := by decide +kernel
    rw [e] at h; cases h; decide +kernel⟩,
   ⟨State.reset, 0x800, dspBase + Reg.DSP_CTL, 8, by decide +kernel⟩⟩

/-- FirewallRejectsAndLogs: its hypotheses are met. -/
theorem witness_FirewallRejectsAndLogs :
  (∃ (s : State) (ini : Nat) (a : Nat) (l : Loc), (s.ok) ∧ (ini < 4096) ∧ (space s a = .reg) ∧ ((accCheck s ini a 4 true).1 = none) ∧ (locate s.part a = some l) ∧ (isAcina ini = false) ∧ ((l.blk = .acn ∨ ∃ r, regAt s.part l = some r ∧ r.1.hasRwl = true))) :=
  ⟨State.reset, 0x800, acnBase 0 + 4, loc (acnBase 0 + 4), by
    refine ⟨by decide +kernel, by decide +kernel, by decide +kernel, by decide +kernel, by decide +kernel, by decide +kernel, .inl (by decide +kernel)⟩⟩

/-- RequestsAreServed: its clauses’ hypotheses are met. -/
theorem witness_RequestsAreServed :
  (∃ (s : State) (ini : _) (txid : _) (a : _) (n : _) (raw : _), (txFree s ini txid = true) ∧ ((accCheck s ini a n false).1 = none) ∧ (reqWaits s (newReq s ini txid false a n []) = false) ∧ (space s a = .dram raw)) ∧
  (∃ (s : State) (ini : _) (txid : _) (a : _) (bs : List Byte) (raw : _), (txFree s ini txid = true) ∧ ((accCheck s ini a bs.length true).1 = none) ∧ (reqWaits s (newReq s ini txid true a bs.length bs) = false) ∧ (space s a = .dram raw)) ∧
  (∃ (s : State) (ini : _) (txid : _) (a : _), (txFree s ini txid = true) ∧ ((accCheck s ini a 4 false).1 = none) ∧ (reqWaits s (newReq s ini txid false a 4 []) = false) ∧ (space s a = .reg)) ∧
  (∃ (s : State) (ini : _) (txid : _) (a : _) (n : _) (e : _), (txFree s ini txid = true) ∧ ((accCheck s ini a n false).1 = some (e + 1))) ∧
  (∃ (s : State) (ini : _) (txid : _) (a : _) (bs : List Byte) (e : _), (txFree s ini txid = true) ∧ ((accCheck s ini a bs.length true).1 = some (e + 1))) ∧
  (∃ (s : State) (ini : _) (txid : _) (a : _) (bs : List Byte) (k : _) (o : _), (s.ok) ∧ (txFree s ini txid = true) ∧ ((accCheck s ini a bs.length true).1 = none) ∧ (reqWaits s (newReq s ini txid true a bs.length bs) = false) ∧ (space s a = .coreMem k o)) :=
  ⟨⟨State.reset, 1, 5, 0, 64, 0, by decide +kernel⟩,
   ⟨State.reset, 1, 5, 0, [1, 2], 0, by decide +kernel⟩,
   ⟨State.reset, 0x800, 5, cmdBase, by decide +kernel⟩,
   ⟨State.reset, 1, 5, 4094, 4, 0, by decide +kernel⟩,
   ⟨State.reset, 1, 5, 4094, [1, 2, 3, 4], 0, by decide +kernel⟩,
   ⟨State.reset, 0, 5, cmBase 0, [1, 2, 3, 4], 0, 0, by decide +kernel⟩⟩

/-- ResponsesAreDelivered: its clauses’ hypotheses are met. -/
theorem witness_ResponsesAreDelivered :
  (∃ (s : State) (ini : _) (txid : _) (r : _), ((s.resps.find? fun r => r.ini == ini && r.txid == txid && (r.kind == .data || r.kind == .poison || r.kind == .sem)) = some r) ∧ (respEnd r = none) ∧ (staleResp s r = false) ∧ (respGoes s r = true)) ∧
  (∃ (s : State) (ini : _) (txid : _) (r : _), ((s.resps.find? fun r => r.ini == ini && r.txid == txid && r.kind == .ack) = some r) ∧ (respEnd r = none) ∧ (staleResp s r = false) ∧ (respGoes s r = true)) ∧
  (∃ (s : State) (ini : _) (txid : _) (r : _), ((s.resps.find? fun r => r.ini == ini && r.txid == txid && r.kind == .err) = some r) ∧ (respEnd r = none) ∧ (staleResp s r = false) ∧ (respGoes s r = true)) ∧
  (∃ (s : State) (ini : _) (txid : _) (r : _), ((s.resps.find? fun r => r.ini == ini && r.txid == txid && (r.kind == .data || r.kind == .poison || r.kind == .sem)) = some r) ∧ (staleResp s r = true) ∧ (respGoes s r = true)) :=
  ⟨⟨{ State.reset with resps := [⟨0x900, 5, .data, 0, [1], 0, 0, 0, 0, 0, false, 4, []⟩] }, 0x900, 5, ⟨0x900, 5, .data, 0, [1], 0, 0, 0, 0, 0, false, 4, []⟩, by decide +kernel⟩,
   ⟨{ State.reset with resps := [⟨0x900, 5, .ack, 0, [], 0, 0, 0, 0, 0, false, 4, []⟩] }, 0x900, 5, ⟨0x900, 5, .ack, 0, [], 0, 0, 0, 0, 0, false, 4, []⟩, by decide +kernel⟩,
   ⟨{ State.reset with resps := [⟨0x900, 5, .err, 1, [], 0, 0, 0, 0, 0, false, 4, []⟩] }, 0x900, 5, ⟨0x900, 5, .err, 1, [], 0, 0, 0, 0, 0, false, 4, []⟩, by decide +kernel⟩,
   ⟨{ State.reset with resps := [⟨0x900, 5, .data, 0, [1], 0, 0, 9, 0, 0, false, 4, []⟩] }, 0x900, 5, ⟨0x900, 5, .data, 0, [1], 0, 0, 9, 0, 0, false, 4, []⟩, by decide +kernel⟩⟩

/-- SeqQueuesDescriptors: its clauses’ hypotheses are met. -/
theorem witness_SeqQueuesDescriptors :
  (∃ (s : State) (k : _), (Issues s k 0x11) ∧ (descOk (effAddr s k (instrAt s k)) = true) ∧ ((s.core k).vq.length < 4) ∧ (Clean s (cmBase k + effAddr s k (instrAt s k)) 32)) ∧
  (∃ (s : State) (k : _), (Issues s k 0x12) ∧ (descOk (effAddr s k (instrAt s k)) = true) ∧ ((getMover (s.core k) (iF (instrAt s k) % 2)).queue.length < 16) ∧ (Clean s (cmBase k + effAddr s k (instrAt s k)) 32)) ∧
  (∃ (s : State) (k : _), (Issues s k 0x11) ∧ (descOk (effAddr s k (instrAt s k)) = true) ∧ (4 ≤ (s.core k).vq.length)) ∧
  (∃ (s : State) (k : _), (Issues s k 0x12) ∧ (descOk (effAddr s k (instrAt s k)) = true) ∧ (16 ≤ (getMover (s.core k) (iF (instrAt s k) % 2)).queue.length)) ∧
  (∃ (s : State) (k : _), (s.ok = true) ∧ ((s.core k).wait = .stall) ∧ (seqRun s k = true) ∧ (iOp (instrAt s k) = 0x11) ∧ (PcMoves s k) ∧ ((∀ i < 4, (s.eng (4 * k + i)).stalledGo = [])) ∧ ((s.core k).vq.length < 4) ∧ (Clean s (cmBase k + effAddr s k (instrAt s k)) 32)) :=
  ⟨⟨runs 0 (ins 0x11 0 0 0 0 (cmSize - 32)), 0, by unfold Issues Clean; decide +kernel⟩,
   ⟨runs 0 (ins 0x12 0 0 0 1 64), 0, by unfold Issues Clean; decide +kernel⟩,
   ⟨runs 0 (ins 0x11 0 0 0 0 64) (onCore 0 fun c => { c with vq := List.replicate 4 (vecDesc 1 2 false false) }), 0, by unfold Issues Clean; decide +kernel⟩,
   ⟨runs 0 (ins 0x12 0 0 0 1 64) (onCore 0 fun c => { c with mov1 := ⟨List.replicate 16 (movDesc 0 1 1 1 32 0 64), []⟩ }), 0, by unfold Issues Clean; decide +kernel⟩,
   ⟨runs 0 (ins 0x11 0 0 0 0 64) (onCore 0 fun c => { c with wait := .stall }), 0, by unfold Clean PcMoves; decide +kernel⟩⟩

/-- SeqWaitsAndSlots: its clauses’ hypotheses are met. -/
theorem witness_SeqWaitsAndSlots :
  (∃ (s : State) (k : _), (Issues s k 0x13) ∧ (waitHolds s k (iF (instrAt s k)) = true)) ∧
  (∃ (s : State) (k : _), (Issues s k 0x13) ∧ (waitHolds s k (iF (instrAt s k)) = false)) ∧
  (∃ (s : State) (k : _) (f : _), (s.ok = true) ∧ (PcMoves s k) ∧ ((s.core k).wait = .wait f) ∧ (waitHolds s k f = true)) ∧
  (∃ (s : State) (k : _), (Issues s k 0x15) ∧ (sreg s k (iA (instrAt s k)) < 4096) ∧ (isConsumer s k (sreg s k (iA (instrAt s k))) = true) ∧ (slotWaits s k (sreg s k (iA (instrAt s k))) = true)) ∧
  (∃ (s : State) (k : _), (Issues s k 0x15) ∧ (sreg s k (iA (instrAt s k)) < 4096) ∧ (isConsumer s k (sreg s k (iA (instrAt s k))) = true) ∧ (slotWaits s k (sreg s k (iA (instrAt s k))) = false)) ∧
  (∃ (s : State) (k : _) (st : _), (s.ok = true) ∧ (PcMoves s k) ∧ ((s.core k).wait = .sacq st) ∧ (slotWaits s k st = true) ∧ (seqRun s k = true)) ∧
  (∃ (s : State) (k : _), (Issues s k 0x16) ∧ (sreg s k (iA (instrAt s k)) < 4096) ∧ (isConsumer s k (sreg s k (iA (instrAt s k))) = true) ∧ (0 < iImm (instrAt s k) % 256) ∧ (iImm (instrAt s k) % 256 ≤ acquiredOf (s.core k) (sreg s k (iA (instrAt s k))))) ∧
  (∃ (s : State) (k : _), (Issues s k 0x15) ∧ (isConsumer s k (sreg s k (iA (instrAt s k))) = false)) :=
  ⟨⟨runs 0 (ins 0x13 0 0 0 0x7F 0), 0, by unfold Issues Clean; decide +kernel⟩,
   ⟨runs 0 (ins 0x13 0 0 0 0x10 0) (onCore 0 fun c => { c with vq := [vecDesc 1 2 false false] }), 0, by unfold Issues Clean; decide +kernel⟩,
   ⟨runs 0 0 (onCore 0 fun c => { c with wait := .wait 0x10 }), 0, 0x10, by unfold PcMoves; decide +kernel⟩,
   ⟨runs 1 (ins 0x15 3 0 0 0 0) (stream0 0 1 4 1 [(Fld.CLU_STRM_W4_FILLED, 1)]), 1, by unfold Issues Clean; decide +kernel⟩,
   ⟨runs 1 (ins 0x15 3 0 0 0 0) (stream0 0 1 4 1 []), 1, by unfold Issues Clean; decide +kernel⟩,
   ⟨runs 1 (ins 0x15 3 0 0 0 0) (onCore 1 (fun c => { c with wait := .sacq 0 }) (stream0 0 1 4 1 [(Fld.CLU_STRM_W4_FILLED, 1)])), 1, 0, by unfold PcMoves; decide +kernel⟩,
   ⟨runs 1 (ins 0x16 0 0 0 0 1) (onCore 1 (fun c => { c with acquired := [(0, 1)] }) (stream0 0 1 4 1 [(Fld.CLU_STRM_W4_FILLED, 1)])), 1, by unfold Issues Clean; decide +kernel⟩,
   ⟨runs 1 (ins 0x15 3 0 0 0 0), 1, by unfold Issues Clean; decide +kernel⟩⟩

/-- SeqSemaphoreRequests: its clauses’ hypotheses are met. -/
theorem witness_SeqSemaphoreRequests :
  (∃ (r : (Nat → Instr) × Nat) (s : State) (k : _), (r ∈ [((.seqSemWait : Nat → Instr), 0), (.seqSemSignal, 1), (.seqSemTryWait, 2)]) ∧ (Issues s k 0x14) ∧ (iF (instrAt s k) % 4 = r.2)) ∧
  (∃ (s : State) (k : _) (r : _) (op : _) (num : _) (d : _), (s.ok = true) ∧ (PcMoves s k) ∧ ((s.semRsps.find? fun x => x.core == k) = some r) ∧ ((s.core k).wait = .sem op num d) ∧ (r.dgen = s.coreGen k) ∧ (r.tag = s.fg (coreBase k) Fld.CORE_STEP_TAG) ∧ (r.gen = s.fg (coreBase k) Fld.CORE_STEP_GEN) ∧ (seqRun s k = true) ∧ (d < 32) ∧ (routed s r.die (k / 64) 0 = true) ∧ (canPass s (backEnds s (pathEnds s (k / 64) r.die 0)) 1 1 = true)) ∧
  (∃ (s : State) (k : _) (r : _) (op : _) (num : _) (d : _), (s.ok = true) ∧ (PcMoves s k) ∧ ((s.semRsps.find? fun x => x.core == k) = some r) ∧ ((s.core k).wait = .sem op num d) ∧ (r.dgen = s.coreGen k) ∧ (r.tag = s.fg (coreBase k) Fld.CORE_STEP_TAG) ∧ (r.gen = s.fg (coreBase k) Fld.CORE_STEP_GEN) ∧ (seqRun s k = true) ∧ (d < 32) ∧ (routed s r.die (k / 64) 0 = false)) ∧
  (∃ (s : State) (k : _) (r : _), ((s.semRsps.find? fun x => x.core == k) = some r) ∧ (r.dgen ≠ s.coreGen k) ∧ (r.die = k / 64) ∧ (routed s r.die (k / 64) 0 = true)) :=
  ⟨⟨((Instr.seqSemSignal, 1) : (Nat → Instr) × Nat), runs 0 (ins 0x14 2 0 0 1 5), 0, ⟨by simp, by unfold Issues Clean; decide +kernel⟩⟩,
   ⟨{ runs 0 0 (onCore 0 fun c => { c with wait := .sem 0 5 3 }) with semRsps := [⟨0, 0, 0, 0, 0, 7⟩] }, 0, ⟨0, 0, 0, 0, 0, 7⟩, 0, 5, 3, by unfold PcMoves; decide +kernel⟩,
   ⟨{ runs 0 0 (onCore 0 fun c => { c with wait := .sem 0 4101 3 }) with semRsps := [⟨1, 0, 0, 0, 0, 7⟩] }, 0, ⟨1, 0, 0, 0, 0, 7⟩, 0, 4101, 3, by unfold PcMoves; decide +kernel⟩,
   ⟨{ State.reset with semRsps := [⟨0, 0, 0, 0, 9, 7⟩] }, 0, ⟨0, 0, 0, 0, 9, 7⟩, by decide +kernel⟩⟩

/-- SeqEndsStep: its clauses’ hypotheses are met. -/
theorem witness_SeqEndsStep :
  (∃ (s : State) (k : _), (Issues s k 0x01) ∧ (stepOfCore s k = none) ∧ ((s.core k).golden = none)) ∧
  (∃ (s : State) (k : _) (tag : _) (c : _) (r : _), (Issues s k 0x01) ∧ ((s.core k).golden = none) ∧ (stepOfCore s k = some (tag, c, r))) ∧
  (∃ (s : State) (k : _) (tag : _) (c : _) (r : _), (Issues s k 0x02) ∧ ((s.core k).golden = none) ∧ (stepOfCore s k = some (tag, c, r))) ∧
  (∃ (s : State) (k : _), (s.ok = true) ∧ (seqReady s k = true) ∧ (isIllop (instrAt s k) = true) ∧ (Clean s (cmBase k + seqPc s k) 8)) :=
  ⟨⟨runs 0 (ins 1 0 0 0 0 0), 0, by unfold Issues Clean; decide +kernel⟩,
   ⟨stepRuns 0 (ins 1 0 0 0 0 0), 0, 0, { aCmd 0x18 with phase := .running, step := some (aStep [0]) }, aStep [0], by unfold Issues Clean; decide +kernel⟩,
   ⟨stepRuns 0 (ins 2 0 0 0 0 0x1234), 0, 0, { aCmd 0x18 with phase := .running, step := some (aStep [0]) }, aStep [0], by unfold Issues Clean; decide +kernel⟩,
   ⟨runs 0 (ins 0x18 0 0 0 0 0), 0, by unfold Clean; decide +kernel⟩⟩

/-- EngineGo: its clauses’ hypotheses are met. -/
theorem witness_EngineGo :
  (∃ (s : State) (ini : _) (e : _) (v : Word), (GoReady s ini e) ∧ (v.toNat % 8 = 1) ∧ (mmaCheck s e (latchOp s e .mma) = 0)) ∧
  (∃ (s : State) (ini : _) (e : _) (v : Word), (GoReady s ini e) ∧ (v.toNat % 8 = 2) ∧ (wbCheck s e (latchOp s e .wb) = 0)) ∧
  (∃ (s : State) (ini : _) (e : _) (v : Word), (GoReady s ini e) ∧ (v.toNat % 8 = 4) ∧ (loadCheck (latchOp s e .load) = 0)) ∧
  (∃ (s : State) (ini : _) (e : _) (v : Word), (GoReady s ini e) ∧ (v.toNat % 8 = 1) ∧ (mmaCheck s e (latchOp s e .mma) ≠ 0)) ∧
  (∃ (s : State) (ini : _) (e : _) (v : Word), ((accCheck s ini (engBase e + Reg.ENG_GO) 4 true).1 = none) ∧ (bit v.toNat 0 = true) ∧ (s.fb (engBase e) Fld.ENG_STS_HALT = true)) ∧
  (∃ (s : State) (ini : _) (e : _) (v : Word), ((accCheck s ini (engBase e + Reg.ENG_GO) 4 true).1 = none) ∧ (bit v.toNat 1 = true) ∧ (s.fb (engBase e) Fld.ENG_STS_HALT = false) ∧ (s.fb (engBase e) Fld.ENG_CTL_EN = false)) ∧
  (∃ (s : State) (ini : _) (e : _) (v : Word), ((accCheck s ini (engBase e + Reg.ENG_GO) 4 true).1 = none) ∧ (bit v.toNat 2 = true) ∧ (s.fb (engBase e) Fld.ENG_STS_HALT = false) ∧ (s.fb (engBase e) Fld.ENG_CTL_EN = true) ∧ (4 ≤ (s.eng e).held.length ∨ (s.eng e).stalledGo ≠ [])) ∧
  (∃ (s : State) (ini : _) (e : _) (v : Word), (GoReady s ini e) ∧ (v.toNat % 8 ≠ 0) ∧ (v.toNat % 8 ≠ 1) ∧ (v.toNat % 8 ≠ 2) ∧ (v.toNat % 8 ≠ 4) ∧ (bit v.toNat 0 = true)) :=
  ⟨⟨engOn 1023 [(Reg.ENG_MODE, 0), (Reg.ENG_K, 32), (Reg.ENG_W_ADDR, 0x8000)], 0x700, 1023, 1, by unfold GoReady; decide +kernel⟩,
   ⟨engOn 0 [(Reg.ENG_WB_CTL, 10), (Reg.ENG_WB_STRIDE, 128)], 0x100, 0, 2, by unfold GoReady; decide +kernel⟩,
   ⟨engOn 0 [(Reg.ENG_WB_CTL, 11), (Reg.ENG_WB_STRIDE, 128)], 0x100, 0, 4, by unfold GoReady; decide +kernel⟩,
   ⟨engOn 0 [(Reg.ENG_MODE, 0xFF)], 0x100, 0, 1, by unfold GoReady; decide +kernel⟩,
   ⟨setF (engBase 0) [(Fld.ENG_STS_HALT, 1)], 0x100, 0, 1, by decide +kernel⟩,
   ⟨setF (engBase 0) [(Fld.ENG_CTL_EN, 0)], 0x100, 0, 2, by decide +kernel⟩,
   ⟨onEng 0 (fun g => { g with held := List.replicate 4 (anOp .mma 0 4 0 0 false) }) (engOn 0 []), 0x100, 0, 4, by decide +kernel⟩,
   ⟨engOn 0 [], 0x100, 0, 3, by unfold GoReady; decide +kernel⟩⟩

/-- EngineSeedAndErrors: its clauses’ hypotheses are met. -/
theorem witness_EngineSeedAndErrors :
  (∃ (s : State) (ini : _) (e : _), (s.ok = true) ∧ ((accCheck s ini (engBase e + Reg.ENG_SR_SEED) 4 true).1 = none)) ∧
  (∃ (s : State) (ini : _) (e : _), (s.ok = true) ∧ ((accCheck s ini (engBase e + Reg.ENG_ERR) 4 true).1 = none)) :=
  ⟨⟨State.reset, 0x100, 0, by decide +kernel⟩,
   ⟨onEng 0 (fun g => { g with haltBits := 3 }) (setF (engBase 0) [(Fld.ENG_STS_HALT, 1)] (setR [(engBase 0 + Reg.ENG_ERR, 3)])), 0x100, 0, by decide +kernel⟩⟩

/-- EngineOperationsRun: its clauses’ hypotheses are met. -/
theorem witness_EngineOperationsRun :
  (∃ (s : State) (e : _) (o : _) (os : _), (s.ok = true) ∧ (s.fb (coreBase (e / 4)) Fld.CORE_STS_PREEMPT_PEND = false) ∧ (clocked s (e / 4) = true) ∧ ((s.eng e).held = o :: os) ∧ (o.started = false)) ∧
  (∃ (s : State) (e : _) (o : _) (fa : _) (fw : _) (p : _), (s.ok = true) ∧ (ksorted none (s.eng e).banks = true) ∧ (executing s e .mma = some o) ∧ (modeFmts o.mode = some (fa, fw)) ∧ (pairInfo fa fw = some p) ∧ (bit o.mode 8 = false) ∧ (fa ≠ .mxint8) ∧ (fw.isMX = false) ∧ ((∀ r ∈ mmaRanges fa fw false o.kdim o.aAddr o.wAddr o.metaAddr o.asAddr o.wsAddr, Clean s (scrBase e + r.1) r.2)) ∧ ((∀ n < 512, (mmaElem fa fw p false o.kdim (mmaInputs s e o fa fw) (n / 32) (n % 32) (if bit o.mode 12 then bankWord (s.eng e) o.bank n else 0)).2 = AccFlags.none))) ∧
  (∃ (s : State) (e : _) (o : _), (s.ok = true) ∧ (ksorted none (s.eng e).banks = true) ∧ (executing s e .load = some o) ∧ ((∀ i < 16, Clean s (wbKey e o i) 128))) ∧
  (∃ (s : State) (e : _) (o : _), (s.ok = true) ∧ (executing s e .wb = some o) ∧ (bits o.wbCtl 3 0 = 10) ∧ (bit o.wbCtl 8 = false) ∧ (bit o.wbCtl 9 = false) ∧ (bankInt s e o.bank = false) ∧ (s.fb (chkBase (e / 4)) Fld.CHK_CTL_EN = false) ∧ ((s.core (e / 4)).selfTest = false) ∧ (rowsOk o 128 = true)) :=
  ⟨⟨onEng 5 fun g => { g with held := [anOp .wb 0 4 10 0 false] }, 5, anOp .wb 0 4 10 0 false, [], by decide +kernel⟩,
   ⟨onEng 5 fun g => { g with held := [anOp .mma 0 4 0 0 true] }, 5, anOp .mma 0 4 0 0 true, .int8, .int8, ⟨1, true, false⟩, by unfold Clean; decide +kernel⟩,
   ⟨(onEng 5 fun g => { g with held := [anOp .load 0 4 11 0 true] }).mwr (scrBase 5 + 4) [1, 2, 3, 4], 5, anOp .load 0 4 11 0 true, by unfold Clean; decide +kernel⟩,
   ⟨onEng 5 (fun g => { g with held := [anOp .wb 0 4 10 0 true], banks := [(33, 0x3F800000)] }) (setF (chkBase 1) [(Fld.CHK_CTL_EN, 0)] alive), 5, anOp .wb 0 4 10 0 true, by decide +kernel⟩⟩

/-- VectorOperationsRun: its clauses’ hypotheses are met. -/
theorem witness_VectorOperationsRun :
  (∃ (s : State) (k : _) (d : _) (ds : _) (fi : _) (fo : _), (s.ok = true) ∧ ((s.core k).vq = d :: ds) ∧ (d.started = false) ∧ (s.fb (coreBase k) Fld.CORE_STS_PREEMPT_PEND = false) ∧ (clocked s k = true) ∧ (vecCheck (vecFields d.raw) = 0) ∧ (vecIn (vecFields d.raw).ifmt = some fi) ∧ (vecOut (vecFields d.raw).ofmt = some fo) ∧ ((∀ r ∈ (vecRanges (vecFields d.raw) (fi.width / 8) (fo.width / 8)).1, Clean s (cmBase k + r.1) r.2))) ∧
  (∃ (s : State) (k : _) (d : _) (ds : _), ((s.core k).vq = d :: ds) ∧ (d.started = false) ∧ (s.fb (coreBase k) Fld.CORE_STS_PREEMPT_PEND = false) ∧ (clocked s k = true) ∧ (vecCheck (vecFields d.raw) = 1)) ∧
  (∃ (s : State) (k : _) (d : _) (ds : _), ((s.core k).vq = d :: ds) ∧ (d.started = false) ∧ (s.fb (coreBase k) Fld.CORE_STS_PREEMPT_PEND = false) ∧ (clocked s k = true) ∧ (vecCheck (vecFields d.raw) = 2)) ∧
  (∃ (r : (Nat → Instr) × Nat) (s : State) (k : _) (d : _) (ds : _) (fi : _) (fo : _), (r ∈ vecRows) ∧ (s.ok = true) ∧ ((s.core k).vq = d :: ds) ∧ (d.started = true) ∧ (d.finished = false) ∧ (vecIn (vecFields d.raw).ifmt = some fi) ∧ (vecOut (vecFields d.raw).ofmt = some fo) ∧ ((vecFields d.raw).op = r.2)) ∧
  (∃ (s : State) (k : _) (d : _) (ds : _), (s.ok = true) ∧ ((s.core k).vq = d :: ds) ∧ (d.finished = true) ∧ (clocked s k = true)) :=
  ⟨⟨onCore 0 fun c => { c with vq := [vecDesc 1 2 false false] }, 0, vecDesc 1 2 false false, [], Fmt.fp32, Fmt.fp32, by unfold Clean; decide +kernel⟩,
   ⟨onCore 0 fun c => { c with vq := [vecDesc 0x20 2 false false] }, 0, vecDesc 0x20 2 false false, [], by decide +kernel⟩,
   ⟨onCore 0 fun c => { c with vq := [badVec] }, 0, badVec, [], by decide +kernel⟩,
   ⟨((Instr.vecAdd, 0x01) : (Nat → Instr) × Nat), (onCore 0 fun c => { c with vq := [vecDesc 1 2 true false] }).mwr (cmBase 0) [0, 0, 0x80, 0x3F], 0, vecDesc 1 2 true false, [], Fmt.fp32, Fmt.fp32, ⟨by simp [vecRows], by decide +kernel⟩⟩,
   ⟨onCore 0 fun c => { c with vq := [vecDesc 1 2 true true] }, 0, vecDesc 1 2 true true, [], by decide +kernel⟩⟩

/-- MoversMove: its clauses’ hypotheses are met. -/
theorem witness_MoversMove :
  (∃ (s : State) (k : _) (m : _) (v : _) (d : _) (ds : _), (s.ok = true) ∧ (movHead s k m = some v) ∧ ((getMover (s.core k) m).queue = d :: ds) ∧ (v.kind = 0) ∧ (movOk v 0 = true) ∧ (v.ssp = 1) ∧ (v.dsp = 1) ∧ (d.moved = 0) ∧ (movParts v = [(v.src, v.dst, v.len)]) ∧ ((v.src + v.len ≤ v.dst ∨ v.dst + v.len ≤ v.src)) ∧ (Clean s (cmBase k + v.src) v.len)) ∧
  (∃ (s : State) (k : _) (m : _) (v : _) (d : _) (ds : _), (s.ok = true) ∧ (movHead s k m = some v) ∧ ((getMover (s.core k) m).queue = d :: ds) ∧ (v.kind = 1) ∧ (movOk v 0 = true) ∧ (v.dsp = 1) ∧ (d.moved = 0) ∧ (movParts v = [(0, v.dst, v.len)])) ∧
  (∃ (s : State) (k : _) (m : _) (v : _), (movHead s k m = some v) ∧ (v.kind ≠ 1) ∧ (v.kind ≠ 2) ∧ (movOk v 0 = false)) ∧
  (∃ (s : State) (k : _) (m : _) (d : _) (ds : _), (s.ok = true) ∧ (m < 2) ∧ ((getMover (s.core k) m).queue = d :: ds) ∧ (d.finished = true)) :=
  ⟨⟨(onCore 0 fun c => { c with mov0 := ⟨[movDesc 0 1 1 1 32 0 64], []⟩ }).mwr (cmBase 0) [1, 2, 3], 0, 0, movFields (movDesc 0 1 1 1 32 0 64).raw, movDesc 0 1 1 1 32 0 64, [], by unfold Clean; decide +kernel⟩,
   ⟨onCore 0 fun c => { c with mov0 := ⟨[movDesc 1 0 1 1 32 0x11223344 64], []⟩ }, 0, 0, movFields (movDesc 1 0 1 1 32 0x11223344 64).raw, movDesc 1 0 1 1 32 0x11223344 64, [], by decide +kernel⟩,
   ⟨onCore 0 fun c => { c with mov1 := ⟨[movDesc 0 1 1 0 32 0 64], []⟩ }, 0, 1, movFields (movDesc 0 1 1 0 32 0 64).raw, by decide +kernel⟩,
   ⟨onCore 0 fun c => { c with mov1 := ⟨[{ movDesc 0 1 1 1 32 0 64 with finished := true }], []⟩ }, 0, 1, { movDesc 0 1 1 1 32 0 64 with finished := true }, [], by decide +kernel⟩⟩

/-- StreamsFlow: its clauses’ hypotheses are met. -/
theorem witness_StreamsFlow :
  (∃ (s : State) (k : _) (m : _) (v : _) (d : _) (ds : _) (cr : _), (s.ok = true) ∧ (movHead s k m = some v) ∧ ((getMover (s.core k) m).queue = d :: ds) ∧ (m < 2) ∧ (v.kind = 2) ∧ (strmOpen s (v.dst % 4096) = true) ∧ (strmProd s (v.dst % 4096) = endpoint k m) ∧ (movOk v (slotBytes s (v.dst % 4096)) = true) ∧ (v.ssp = 1) ∧ (v.rows = 1) ∧ (v.len = slotBytes s (v.dst % 4096)) ∧ (fencedOut s k = false) ∧ (Clean s (cmBase k + v.src) v.len) ∧ (d.moved = 0) ∧ (prodCredits s (v.dst % 4096) = some (cr + 1))) ∧
  (∃ (s : State) (st : _) (x : _), (s.ok = true) ∧ ((s.strSegs.find? fun x => x.stream == st) = some x) ∧ (strmOpen s st = true) ∧ (msgCan s (strmProd s st / 256) (st / 1024 % 4) (strmAddr st) 2 (segMsg s x) = true) ∧ (s.fb (strmBase st) Fld.CLU_STRM_W0_RING_CM = true)) ∧
  (∃ (s : State) (st : _) (x : _), (s.ok = true) ∧ ((s.strCreds.find? fun x => x.stream == st) = some x) ∧ (strmOpen s st = true) ∧ (msgCan s (st / 1024 % 4) (strmProd s st / 256) (strmAddr st) 2 (credMsg s x) = true) ∧ (prodCredits s st = none)) ∧
  (∃ (s : State) (st : _) (x : _) (c : _), (s.ok = true) ∧ ((s.strCreds.find? fun x => x.stream == st) = some x) ∧ (strmOpen s st = true) ∧ (msgCan s (st / 1024 % 4) (strmProd s st / 256) (strmAddr st) 2 (credMsg s x) = true) ∧ (prodCredits s st = some c)) ∧
  (∃ (s : State) (st : _), (strmOpen s st = true) ∧ (strmInUse s st = false)) :=
  ⟨⟨(onCore 0 (fun c => { c with mov0 := ⟨[movDesc 2 1 3 1 256 0 0], [⟨0, 2⟩]⟩ }) (stream0 0 1 4 1 [] (setF (coreBase 0) [(Fld.CORE_CTL_FENCE, 0)] alive))).mwr (cmBase 0) [1, 2, 3], 0, 0, movFields (movDesc 2 1 3 1 256 0 0).raw, movDesc 2 1 3 1 256 0 0, [], 1, by unfold Clean; decide +kernel⟩,
   ⟨{ stream0 0 1 4 1 [(Fld.CLU_STRM_W0_RING_CM, 1)] with strSegs := [⟨0, List.replicate 256 9, 0⟩] }, 0, ⟨0, List.replicate 256 9, 0⟩, by decide +kernel⟩,
   ⟨{ stream0 0 1 4 1 [] with strCreds := [⟨0, 2⟩] }, 0, ⟨0, 2⟩, by decide +kernel⟩,
   ⟨{ onCore 0 (fun c => { c with mov0 := ⟨[], [⟨0, 1⟩]⟩ }) (stream0 0 1 4 1 []) with strCreds := [⟨0, 2⟩] }, 0, ⟨0, 2⟩, 1, by decide +kernel⟩,
   ⟨stream0 0 1 4 1 [], 0, by decide +kernel⟩⟩

/-- CoreCommandsAct: its clauses’ hypotheses are met. -/
theorem witness_CoreCommandsAct :
  (∃ (s : State) (k : _) (l : _), (k < 256) ∧ (Admits s (dcIni (k / 64)) (coreBase k + Reg.CORE_CMD) l) ∧ (seqRun s k = false) ∧ (dcRuns s (k / 64) = true) ∧ (s.rd (coreBase k + Reg.CORE_SEQ_ENTRY) < cmSize) ∧ (s.rd (coreBase k + Reg.CORE_SEQ_ENTRY) % 8 = 0)) ∧
  (∃ (s : State) (k : _) (l : _), (k < 256) ∧ (Admits s (dcIni (k / 64)) (coreBase k + Reg.CORE_CMD) l) ∧ (seqRun s k = true) ∧ (s.fb (coreBase k) Fld.CORE_STS_PREEMPT_PEND = false)) ∧
  (∃ (s : State) (k : _) (l : _), (Admits s (dcIni (k / 64)) (coreBase k + Reg.CORE_CMD) l) ∧ (seqRun s k = false)) ∧
  (∃ (s : State) (k : _) (l : _) (v : SavedCore), (Admits s (dcIni (k / 64)) (coreBase k + Reg.CORE_CMD) l) ∧ ((s.core k).saved = some v)) ∧
  (∃ (s : State) (k : _) (l : _), (k < 256) ∧ (Admits s (dcIni (k / 64)) (coreBase k + Reg.CORE_CMD) l)) ∧
  (∃ (s : State) (k : _) (c : _) (r : _), (s.ok = true) ∧ (saveReady s k (s.fg (coreBase k) Fld.CORE_STEP_TAG) = true) ∧ (stepOfCore s k = some (s.fg (coreBase k) Fld.CORE_STEP_TAG, c, r)) ∧ (seqRun s k = true) ∧ ((s.core k).vq = []) ∧ ((s.core k).mov0.queue = []) ∧ ((s.core k).mov1.queue = [])) ∧
  (∃ (s : State) (k : _) (c : _) (r : _), (s.ok = true) ∧ (saveReady s k (s.fg (coreBase k) Fld.CORE_STEP_TAG) = true) ∧ (stepOfCore s k = some (s.fg (coreBase k) Fld.CORE_STEP_TAG, c, r)) ∧ (seqRun (movStop (movStop (vecStop s k) k 0) k 1) k = true)) :=
  ⟨⟨alive, 255, loc (coreBase 255 + Reg.CORE_CMD), by unfold Admits; decide +kernel⟩,
   ⟨runs 0 0, 0, loc (coreBase 0 + Reg.CORE_CMD), by unfold Admits; decide +kernel⟩,
   ⟨State.reset, 0, loc (coreBase 0 + Reg.CORE_CMD), by unfold Admits; decide +kernel⟩,
   ⟨onCore 0 fun c => { c with saved := some ⟨0, 0, [], 8, [], [], [], [], [], [], ⟨[], []⟩, ⟨[], []⟩, [], [], [], [], 0⟩ }, 0, loc (coreBase 0 + Reg.CORE_CMD), (⟨0, 0, [], 8, [], [], [], [], [], [], ⟨[], []⟩, ⟨[], []⟩, [], [], [], [], 0⟩ : SavedCore), by unfold Admits; decide +kernel⟩,
   ⟨runs 0 0, 0, loc (coreBase 0 + Reg.CORE_CMD), by unfold Admits; decide +kernel⟩,
   ⟨setF (coreBase 0) [(Fld.CORE_STS_PREEMPT_PEND, 1)] (stepRuns 0 0), 0, { aCmd 0x18 with phase := .running, step := some (aStep [0]) }, aStep [0], by decide +kernel⟩,
   ⟨onCore 0 (fun c => { c with vq := [vecDesc 1 128 true true] }) (setF (coreBase 0) [(Fld.CORE_STS_PREEMPT_PEND, 1)] (stepRuns 0 0)), 0, { aCmd 0x18 with phase := .running, step := some (aStep [0]) }, aStep [0], by decide +kernel⟩⟩

/-- CoresEscalateAndLoad: its clauses’ hypotheses are met. -/
theorem witness_CoresEscalateAndLoad :
  (∃ (s : State) (k : _) (tag : _) (c : _) (r : _), (k < 256) ∧ (wdogDue s k = true) ∧ (wdogCounts s k = true) ∧ (stepOfCore s k = some (tag, c, r))) ∧
  (∃ (s : State) (k : _), (k < 256) ∧ (wdogDue s k = true) ∧ (wdogCounts s k = true) ∧ (stepOfCore s k = none) ∧ ((s.core k).golden = none)) ∧
  (∃ (s : State) (k : _), (s.ok = true) ∧ (k < 256) ∧ (dieHeld s (k / 64) = false) ∧ (getD 0 s.hangLevel k = 1)) ∧
  (∃ (s : State) (k : _), (s.ok = true) ∧ (k < 256) ∧ (dieHeld s (k / 64) = false) ∧ (getD 0 s.hangLevel k = 2)) ∧
  (∃ (s : State) (k : _), (dieHeld s (k / 64) = false) ∧ (getD 0 s.hangLevel k = 3)) ∧
  (∃ (s : State) (ini : _) (c : _) (l : _), (Admits s ini (cluBase c + Reg.CLU_LND) l)) ∧
  (∃ (s : State) (d : _), (s.ok = true) ∧ (d < 4) ∧ (dcRuns s d = true)) ∧
  (∃ (s : State) (tg : _) (c : _) (r : _) (img : List Byte), (s.ok = true) ∧ (s.cmd? tg = some c) ∧ (c.step = some r) ∧ (c.phase = .loading) ∧ (r.victims = []) ∧ (r.cores ≠ []) ∧ ((∀ k ∈ r.cores, k < 256 ∧ seqRun s k = false ∧ dcRuns s (k / 64) = true)) ∧ ((readAll s (dcIni (r.cores.headD 0 / 64)) c.ctx (parts4k (stepImg s r) (imgSize s r.image))).1 = .ack) ∧ (imgStrDecls s (stepImg s r) = []) ∧ (relocAll r.bases ((imgBindings s (stepImg s r)).map (·.size)) [] r.sems 0 (imgRelocs s (stepImg s r)) (pkgBytes s (stepImg s r + (imgFind s (stepImg s r) 1).off) (imgFind s (stepImg s r) 1).size) = .ok img) ∧ (imgEntry s (stepImg s r) < cmSize) ∧ (imgEntry s (stepImg s r) % 8 = 0)) ∧
  (∃ (s : State) (tg : _) (c : _) (r : _), (s.cmd? tg = some c) ∧ (c.step = some r) ∧ (c.phase = .loading) ∧ (r.victims = []) ∧ (r.cores ≠ []) ∧ ((∀ k ∈ r.cores, seqRun s k = false ∧ dcRuns s (k / 64) = true))) :=
  ⟨⟨{ setF (coreBase 0) [(Fld.CORE_WDOG_LIMIT, 5)] (stepRuns 0 0) with stallUs := [(0, 5)] }, 0, 0, { aCmd 0x18 with phase := .running, step := some (aStep [0]) }, aStep [0], by decide +kernel⟩,
   ⟨{ setF (coreBase 0) [(Fld.CORE_WDOG_LIMIT, 5)] (runs 0 0) with stallUs := [(0, 5)] }, 0, by decide +kernel⟩,
   ⟨{ setR [(rstIBase + Reg.RST_DIE_STS, 0)] with hangLevel := [(255, 1)] }, 255, by decide +kernel⟩,
   ⟨{ setR [(rstIBase + Reg.RST_DIE_STS, 0)] with hangLevel := [(0, 2)] }, 0, by decide +kernel⟩,
   ⟨{ setR [(rstIBase + Reg.RST_DIE_STS, 0)] with hangLevel := [(0, 3)] }, 0, by decide +kernel⟩,
   ⟨State.reset, 0x100, 0, loc (cluBase 0 + Reg.CLU_LND), by unfold Admits; decide +kernel⟩,
   ⟨alive, 3, by decide +kernel⟩,
   ⟨{ miniImage with cmds := [(7, { aCmd 0x18 with phase := .loading, step := some (aStep [0]) })] }, 7, { aCmd 0x18 with phase := .loading, step := some (aStep [0]) }, aStep [0], (List.replicate 8 0 : List Byte), by decide +kernel⟩,
   ⟨{ miniImage with cmds := [(7, { aCmd 0x18 with phase := .loading, step := some (aStep [0]) })] }, 7, { aCmd 0x18 with phase := .loading, step := some (aStep [0]) }, aStep [0], by decide +kernel⟩⟩

/-- PantryStartsAndScrubs: its clauses’ hypotheses are met. -/
theorem witness_PantryStartsAndScrubs :
  (∃ (s : State) (ini : _) (d : _) (l : _) (v : Word), (Admits s ini (panBase d + Reg.PAN_CTL) l) ∧ (bit v.toNat 0 = false)) ∧
  (∃ (s : State) (ini : _) (d : _) (l : _) (v : Word), (Admits s ini (panBase d + Reg.PAN_CTL) l) ∧ (bit v.toNat 0 = true) ∧ (s.fb (panBase d) Fld.PAN_CTL_EN = false) ∧ (placementOk s d = true)) ∧
  (∃ (s : State) (ini : _) (d : _) (l : _) (v : Word), (Admits s ini (panBase d + Reg.PAN_CTL) l) ∧ (bit v.toNat 0 = true) ∧ (s.fb (panBase d) Fld.PAN_CTL_EN = false) ∧ (placementOk s d = false)) ∧
  (∃ (s : State) (d : _), (s.ok = true) ∧ (d < 4) ∧ (s.fb (panBase d) Fld.PAN_CTL_EN = true) ∧ (s.fb (panBase d) Fld.PAN_STS_READY = false)) ∧
  (∃ (s : State) (d : _) (p : _), (s.ok = true) ∧ (d < 4) ∧ (p < 4) ∧ (s.fb (panBase d) Fld.PAN_STS_READY = true) ∧ (poolOn s d p = true) ∧ (0 < poolScrb s d p) ∧ (0 < s.fg (panBase d) Fld.PAN_SCRUB_RATE)) ∧
  (∃ (i : Nat → Nat → Instr) (s : State) (ini : _) (d : _) (l : _), (i ∈ [Instr.tcmdOpen, .tcmdReset, .tcmdClose, .tcmdQuery, .tcmdCloseCtx]) ∧ (Admits s ini (panBase d + Reg.PAN_TCMD_GO) l) ∧ (s.fb (panBase d) Fld.PAN_STS_READY = false ∨ (aget s.tcmds d).isSome = true)) :=
  ⟨⟨panReady [], 0x800, 0, loc (panBase 0 + Reg.PAN_CTL), 0, by unfold Admits; decide +kernel⟩,
   ⟨linked, 0x800, 0, loc (panBase 0 + Reg.PAN_CTL), 1, by unfold Admits; decide +kernel⟩,
   ⟨setF (panBase 0) [(Fld.PAN_POOL_CFG_EN, 1), (Fld.PAN_POOL_CFG_PAGES, 2), (Fld.PAN_POOL_BASE_BASE, 0xFFFFF)] linked, 0x800, 0, loc (panBase 0 + Reg.PAN_CTL), 1, by unfold Admits; decide +kernel⟩,
   ⟨setF (panBase 3) [(Fld.PAN_CTL_EN, 1)], 3, by decide +kernel⟩,
   ⟨setF (panBase 0) [(Fld.PAN_POOL_CFG_EN, 1), (Fld.PAN_POOL_CFG_PAGES, 2), (Fld.PAN_POOL_BASE_BASE, 100), (Fld.PAN_POOL_SCRB_COUNT, 1), (Fld.PAN_SCRUB_RATE, 1)] (panReady []), 0, 0, by decide +kernel⟩,
   ⟨(Instr.tcmdOpen : Nat → Nat → Instr), linked, 0x800, 0, loc (panBase 0 + Reg.PAN_TCMD_GO), ⟨by simp, by unfold Admits; decide +kernel⟩⟩⟩

/-- TrackCommandsRun: its clauses’ hypotheses are met. -/
theorem witness_TrackCommandsRun :
  (∃ (s : State) (ini : _) (d : _) (l : _) (u : _) (p : _) (r : _) (y : _), (Admits s ini (panBase d + Reg.PAN_TCMD_GO) l) ∧ (s.fb (panBase d) Fld.PAN_STS_READY = true) ∧ (aget s.tcmds d = none) ∧ ((entryRead s d (s.fg (panBase d) Fld.PAN_TCMD_ARG0_TRACK)).1.state = 0) ∧ (s.fg (panBase d) Fld.PAN_TCMD_ARG1_POOL = p) ∧ (s.fg (panBase d) Fld.PAN_TCMD_ARG1_RING_M1 + 1 = r) ∧ (s.fg (panBase d) Fld.PAN_TCMD_ARG1_LAYERS_M1 + 1 = y) ∧ (poolOn s d p = true) ∧ (2 ≤ r) ∧ (0 < s.fg (panBase d) Fld.PAN_TCMD_ARG1_WINDOW) ∧ (s.fg (panBase d) Fld.PAN_TCMD_ARG1_WINDOW ≤ (r - 1) * 32) ∧ (poolRsvd s d p + y * r ≤ poolPages s d p) ∧ (findRun s d (cdiv (y * blockSize r) 256) = some u)) ∧
  (∃ (s : State) (ini : _) (d : _) (l : _), (Admits s ini (panBase d + Reg.PAN_TCMD_GO) l) ∧ (s.fb (panBase d) Fld.PAN_STS_READY = true) ∧ (aget s.tcmds d = none) ∧ (trackCheck s d (entryRead s d (s.fg (panBase d) Fld.PAN_TCMD_ARG0_TRACK)).1 = 0)) ∧
  (∃ (r : (Nat → Nat → Instr) × Nat) (s : State) (ini : _) (d : _) (l : _), (r ∈ [(Instr.tcmdReset, 2), (.tcmdClose, 3)]) ∧ (Admits s ini (panBase d + Reg.PAN_TCMD_GO) l) ∧ (s.fb (panBase d) Fld.PAN_STS_READY = true) ∧ (aget s.tcmds d = none) ∧ (trackCheck s d (entryRead s d (s.fg (panBase d) Fld.PAN_TCMD_ARG0_TRACK)).1 = 0)) ∧
  (∃ (s : State) (ini : _) (d : _) (l : _), (Admits s ini (panBase d + Reg.PAN_TCMD_GO) l) ∧ (s.fb (panBase d) Fld.PAN_STS_READY = true) ∧ (aget s.tcmds d = none)) ∧
  (∃ (r : Nat → Nat → Instr) (s : State) (ini : _) (d : _) (l : _), (r ∈ [Instr.tcmdReset, .tcmdClose, .tcmdQuery]) ∧ (Admits s ini (panBase d + Reg.PAN_TCMD_GO) l) ∧ (s.fb (panBase d) Fld.PAN_STS_READY = true) ∧ (aget s.tcmds d = none) ∧ (trackCheck s d (entryRead s d (s.fg (panBase d) Fld.PAN_TCMD_ARG0_TRACK)).1 ≠ 0)) ∧
  (∃ (s : State) (d : _) (c : TCmd), (aget s.tcmds d = some c) ∧ ((∀ t ∈ c.tracks, trackBusy s d t = false))) ∧
  (∃ (s : State) (d : _) (c : TCmd) (t0 : _), (aget s.tcmds d = some c) ∧ (t0 ∈ c.tracks) ∧ (trackBusy s d t0 = true)) :=
  ⟨⟨panReady [(Fld.PAN_POOL_CFG_EN, 1), (Fld.PAN_POOL_CFG_PAGES, 16), (Fld.PAN_TCMD_ARG1_RING_M1, 1), (Fld.PAN_TCMD_ARG1_WINDOW, 32)], 0x800, 0, loc (panBase 0 + Reg.PAN_TCMD_GO), 0, 0, 2, 1, by unfold Admits; decide +kernel⟩,
   ⟨panTrack [], 0x800, 0, loc (panBase 0 + Reg.PAN_TCMD_GO), by unfold Admits; decide +kernel⟩,
   ⟨((Instr.tcmdReset, 2) : (Nat → Nat → Instr) × Nat), panTrack [], 0x800, 0, loc (panBase 0 + Reg.PAN_TCMD_GO), ⟨by simp, by unfold Admits; decide +kernel⟩⟩,
   ⟨panTrack [], 0x800, 0, loc (panBase 0 + Reg.PAN_TCMD_GO), by unfold Admits; decide +kernel⟩,
   ⟨(Instr.tcmdQuery : Nat → Nat → Instr), panReady [], 0x800, 0, loc (panBase 0 + Reg.PAN_TCMD_GO), ⟨by simp, by unfold Admits; decide +kernel⟩⟩,
   ⟨{ panTrack [] with tcmds := [(0, ⟨3, [0], none⟩)] }, 0, (⟨3, [0], none⟩ : TCmd), by decide +kernel⟩,
   ⟨{ onAtt 0 (fun a => { a with att := some { aRun [(4, 1, 2)] none with track := 5, lease := true } }) (panReady []) with tcmds := [(0, ⟨3, [5], none⟩)] }, 0, (⟨3, [5], none⟩ : TCmd), 5, by decide +kernel⟩⟩

/-- AttentionPostsAndStarts: its clauses’ hypotheses are met. -/
theorem witness_AttentionPostsAndStarts :
  (∃ (s : State) (k : _) (m : _) (slot : _) (data : List Byte), (m < 2) ∧ (slot < 16) ∧ (data.length = 64) ∧ ((accCheck s (coreIni k (m + 1)) (landBase (k / 8) + ringStart + k % 8 * 0x400 + slot * 64) 64 true).1 = none) ∧ (space s (landBase (k / 8) + ringStart + k % 8 * 0x400 + slot * 64) = .landing (k / 8) (ringStart + k % 8 * 0x400 + slot * 64))) ∧
  (∃ (s : State) (k : _) (raw : _) (im : _), (s.ok = true) ∧ (rSeq raw = seqExpect s (k / 8) (k % 8)) ∧ (seqRun s k = true) ∧ (postedBy (s.att (k / 8)) (fun p => p.core == k) < 16) ∧ (s.fb (cluBase (k / 8)) Fld.CLU_CTL_ATTN_EN = true) ∧ (imageOnCore (seqSet s (k / 8) (k % 8) (if seqExpect s (k / 8) (k % 8) = 255 then 1 else seqExpect s (k / 8) (k % 8) + 1)) k = some im) ∧ (imgAttn (seqSet s (k / 8) (k % 8) (if seqExpect s (k / 8) (k % 8) = 255 then 1 else seqExpect s (k / 8) (k % 8) + 1)) im = true)) ∧
  (∃ (s : State) (c : _) (p : _) (r : _) (u : _), (s.ok = true) ∧ (nextPost (s.att c) = some p) ∧ (startRun s c (newRun p (appendTurn s (c / 8))) = (r, u))) ∧
  (∃ (s : State) (ini : _) (c : _) (l : _) (v : Word), (Admits s ini (attBase c + Reg.PAN_ATT_CTL) l) ∧ (bit v.toNat 0 = true)) :=
  ⟨⟨State.reset, 0, 0, 15, List.replicate 64 1, by decide +kernel⟩,
   ⟨{ runs 0 0 with images := [(1, ⟨0x2000, 4096, 0⟩)], cmds := [(0, { aCmd 0x18 with phase := .running, step := some (aStep [0]) })] }.mwr 0x2011 [4], 0, bytesAt 64 [(63, 1, 1)], 0x2000, by decide +kernel⟩,
   ⟨onAtt 0 fun a => { a with posts := [aPost []] }, 0, aPost [], (startRun (onAtt 0 fun a => { a with posts := [aPost []] }) 0 (newRun (aPost []) 0)).1, (startRun (onAtt 0 fun a => { a with posts := [aPost []] }) 0 (newRun (aPost []) 0)).2, by decide +kernel⟩,
   ⟨State.reset, 0x100, 0, loc (attBase 0 + Reg.PAN_ATT_CTL), 1, by unfold Admits; decide +kernel⟩⟩

/-- AttentionCommandsComplete: its clauses’ hypotheses are met. -/
theorem witness_AttentionCommandsComplete :
  (∃ (s : State) (c : _) (r : _), (s.ok = true) ∧ ((s.att c).app = some r) ∧ (r.status = none) ∧ (appendAhead s c r = false) ∧ (r.row ≠ 0) ∧ (rN r.post.raw ≤ r.row)) ∧
  (∃ (s : State) (c : _) (r : _), ((s.att c).app = some r) ∧ (r.waits = [])) ∧
  (∃ (s : State) (c : _) (r : _) (w : _) (ws : List Nat), ((s.att c).app = some r) ∧ (r.waits = w :: ws)) ∧
  (∃ (s : State) (c : _) (r : _), (s.ok = true) ∧ (attending s c 2 = some r) ∧ (visibleBlocks s (c / 8) r = [])) ∧
  (∃ (s : State) (c : _) (r : _) (bs : _) (u : _), (attending s c 2 = some r) ∧ (visibleBlocks s (c / 8) r ≠ []) ∧ (readBlocks c r.post.ctx (fmtOf (poolFmt s (c / 8) r.pool)) (poolD s (c / 8) r.pool) (visibleBlocks s (c / 8) r) [] s = (.ok bs, u))) ∧
  (∃ (s : State) (c : _) (r : _) (tbl : _), (s.ok = true) ∧ (attending s c 3 = some r) ∧ (attSram s (landBase c + rSeg r.post.raw) 128 = (.ok tbl, s)) ∧ ((∃ g ∈ segmentsOf r.post.raw tbl, rTok r.post.raw < g.1 + g.2))) ∧
  (∃ (s : State) (c : _) (r : _) (tbl : _), (s.ok = true) ∧ (attending s c 3 = some r) ∧ (attSram s (landBase c + rSeg r.post.raw) 128 = (.ok tbl, s)) ∧ ((∀ g ∈ segmentsOf r.post.raw tbl, g.2 = 0 ∧ g.1 ≤ rTok r.post.raw))) ∧
  (∃ (s : State) (c : _) (b : Bool) (r : _) (st : _), (s.ok = true) ∧ ((if b then (s.att c).att else (s.att c).app) = some r) ∧ (r.status = some st) ∧ (st < 256) ∧ (earlierRuns (if b then (s.att c).app else (s.att c).att) r = false) ∧ (rDone r.post.raw % 4 = 0) ∧ (rDone r.post.raw + 4 ≤ cmSize)) :=
  ⟨⟨onAtt 0 fun a => { a with app := some { aRun [(4, 1, 1), (5, 1, 1)] none with row := 1 } }, 0, { aRun [(4, 1, 1), (5, 1, 1)] none with row := 1 }, by decide +kernel⟩,
   ⟨onAtt 0 fun a => { a with app := some (aRun [(4, 1, 1), (5, 1, 1)] none) }, 0, aRun [(4, 1, 1), (5, 1, 1)] none, by decide +kernel⟩,
   ⟨onAtt 0 fun a => { a with app := some { aRun [(4, 1, 1), (5, 1, 1)] none with waits := [1] } }, 0, { aRun [(4, 1, 1), (5, 1, 1)] none with waits := [1] }, 1, ([] : List Nat), by decide +kernel⟩,
   ⟨onAtt 0 fun a => { a with att := some (aRun [(0, 1, 2)] none) }, 0, aRun [(0, 1, 2)] none, by decide +kernel⟩,
   ⟨oneBlock, 0, aBlock, okOf [] (readBlocks 0 0 (fmtOf (poolFmt oneBlock 0 0)) (poolD oneBlock 0 0) (visibleBlocks oneBlock 0 aBlock) [] oneBlock).1, (readBlocks 0 0 (fmtOf (poolFmt oneBlock 0 0)) (poolD oneBlock 0 0) (visibleBlocks oneBlock 0 aBlock) [] oneBlock).2, by decide +kernel⟩,
   ⟨(onAtt 0 fun a => { a with att := some (aRun [(0, 1, 3), (2, 2, 1)] none) }).mwr (landBase 0 + 4) [9], 0, aRun [(0, 1, 3), (2, 2, 1)] none, bytesAt 128 [(4, 4, 9)], by decide +kernel⟩,
   ⟨onAtt 0 fun a => { a with att := some (aRun [(0, 1, 3)] none) }, 0, aRun [(0, 1, 3)] none, List.replicate 128 0, by decide +kernel⟩,
   ⟨onAtt 0 fun a => { a with att := some (aRun [(0, 1, 3), (48, 4, cmSize - 4)] (some 0x11)) }, 0, (true : Bool), aRun [(0, 1, 3), (48, 4, cmSize - 4)] (some 0x11), 0x11, by decide +kernel⟩⟩

/-- MemoryPortsServe: its clauses’ hypotheses are met. -/
theorem witness_MemoryPortsServe :
  (∃ (s : State) (r : _), (s.ok = true) ∧ (firstReq s .iod none = some r) ∧ (r.write = false) ∧ (scOn s = false)) ∧
  (∃ (s : State) (r : _), (s.ok = true) ∧ (firstReq s .iod none = some r) ∧ (r.write = false) ∧ (r.dead = false) ∧ (scOn s = true) ∧ ((∀ l ∈ reqLines s r, ∃ x, scFind s l = some x ∧ x.mark = 0))) ∧
  (∃ (s : State) (r : _), (firstReq s .iod none = some r) ∧ (r.write = true)) ∧
  (∃ (s : State) (d : _) (ch : _) (r : _) (l : _) (u : _), (schedule (grantAll d s.reqs.length s) d ch = (some (r, l), u)) ∧ (r.write = false)) ∧
  (∃ (s : State) (d : _) (ch : _) (r : _) (l : _), (s.ok = true) ∧ ((ksorted none s.openRows = true ∨ rowIsOpen s l = true)) ∧ (aloneAt s d ch r l) ∧ (r.write = false) ∧ (r.data = []) ∧ ((getD 0 s.dram l = 0 ∨ eccOn s d = false))) ∧
  (∃ (s : State) (d : _) (ch : _) (r : _) (l : _), (s.ok = true) ∧ ((ksorted none s.openRows = true ∨ rowIsOpen s l = true)) ∧ (aloneAt s d ch r l) ∧ (r.write = false) ∧ (scServes s r.ini l = false) ∧ (getD 0 s.dram l = 2) ∧ (eccOn s d = true)) ∧
  (∃ (s : State) (d : _) (ch : _) (r : _) (l : _), (s.ok = true) ∧ ((ksorted none s.openRows = true ∨ rowIsOpen s l = true)) ∧ (aloneAt s d ch r l) ∧ (r.write = false) ∧ (scServes s r.ini l = false) ∧ ((getD 0 s.dram l = 0 ∨ eccOn s d = false))) ∧
  (∃ (s : State) (d : _) (ch : _) (r : _) (l : _) (u : _), (schedule (grantAll d s.reqs.length s) d ch = (some (r, l), u)) ∧ (r.write = true)) ∧
  (∃ (s : State) (d : _) (ch : _) (r : _) (l : _), (s.ok = true) ∧ ((ksorted none s.openRows = true ∨ rowIsOpen s l = true)) ∧ (aloneAt s d ch r l) ∧ (r.write = true) ∧ (r.data.length = r.len) ∧ (((scGroup r.ini).isSome = true ∨ s.scSects.contains (l / 64) = false))) ∧
  (∃ (s : State) (d : _) (ch : _) (r : _) (l : _), (s.ok = true) ∧ ((ksorted none s.openRows = true ∨ rowIsOpen s l = true)) ∧ (aloneAt s d ch r l) ∧ (r.write = true) ∧ (r.data.length = r.len) ∧ (scGroup r.ini = none) ∧ (s.scSects.contains (l / 64) = true)) ∧
  (∃ (s : State) (r : _), (firstReq s .inv none = some r) ∧ (canPass s [5 * reqDie s r + 4] 0 (invMsgs s 4 r).1 = true)) ∧
  (∃ (s : State) (d : _) (r : _), (firstReq s .ack (some d) = some r) ∧ (r.dead = false) ∧ (canPass s [20 + d] 1 (invMsgs s 9 r).1 = true)) ∧
  (∃ (s : State) (d : _) (ch : _) (bank : _), (bankWaits s d ch bank = false)) :=
  ⟨⟨{ setF memIBase [(Fld.MEM_SC_CTL_EN, 0)] with reqs := [aReq 1 0 false [] .iod] }, aReq 1 0 false [] .iod, by decide +kernel⟩,
   ⟨{ setF memIBase [(Fld.MEM_SC_CTL_EN, 1)] with reqs := [aReq 0x804 0 false [] .iod], sc := [⟨0, 0, 0⟩] }, aReq 0x804 0 false [] .iod, by decide +kernel⟩,
   ⟨{ State.reset with reqs := [aReq 1 0 true [1, 2] .iod] }, aReq 1 0 true [1, 2] .iod, by decide +kernel⟩,
   ⟨waits (aLine 1 64 false []), 0, 0, { aLine 1 64 false [] with grant := 1 }, 1, (schedule (grantAll 0 1 (waits (aLine 1 64 false []))) 0 0).2, by decide +kernel⟩,
   ⟨(waits (aLine 1 64 false [])).mwr 64 [7], 0, 0, aLine 1 64 false [], 1, by unfold aloneAt; decide +kernel⟩,
   ⟨waits (aLine 1 64 false []) (setF (memBase 0) [(Fld.MEM_DIE_STS_ECC_ACTIVE, 1)] { State.reset with dram := [(1, 2)] }), 0, 0, aLine 1 64 false [], 1, by unfold aloneAt; decide +kernel⟩,
   ⟨waits (aLine 1 64 false []), 0, 0, aLine 1 64 false [], 1, by unfold aloneAt; decide +kernel⟩,
   ⟨waits (aLine 1 64 true [1, 2, 3, 4]), 0, 0, { aLine 1 64 true [1, 2, 3, 4] with grant := 1 }, 1, (schedule (grantAll 0 1 (waits (aLine 1 64 true [1, 2, 3, 4]))) 0 0).2, by decide +kernel⟩,
   ⟨waits (aLine 1 64 true [1, 2, 3, 4]), 0, 0, aLine 1 64 true [1, 2, 3, 4], 1, by unfold aloneAt; decide +kernel⟩,
   ⟨waits (aLine 1 64 true [1, 2, 3, 4]) { State.reset with sc := [⟨1, 0, 0⟩], scSects := [0] }, 0, 0, aLine 1 64 true [1, 2, 3, 4], 1, by unfold aloneAt; decide +kernel⟩,
   ⟨{ upEnd 4 with reqs := [aReq 1 64 true [1] .inv], sc := [⟨1, 0, 0⟩, ⟨200, 0, 0⟩], scSects := [0, 3] }, aReq 1 64 true [1] .inv, by decide +kernel⟩,
   ⟨{ upEnd 20 with reqs := [aReq 1 64 true [1] .ack] }, 0, aReq 1 64 true [1] .ack, by decide +kernel⟩,
   ⟨{ State.reset with openRows := [(255 + 3 * 256, 7)] }, 3, 15, 15, by decide +kernel⟩⟩

/-- MemoryIsMaintained: its clauses’ hypotheses are met. -/
theorem witness_MemoryIsMaintained :
  (∃ (s : State) (d : _) (ch : _), (s.ok = true) ∧ (dieHeld s d = false) ∧ (s.fb (memBase d + 0x100 * ch) Fld.MEM_CH_STS_TRAINED = true) ∧ (s.fb (memBase d + 0x100 * ch) Fld.MEM_CH_STS_SR = false) ∧ ((s.fg (memBase d + 0x100 * ch) Fld.MEM_CH_REFCNT_COUNT + 1) % 8 ≠ 0)) ∧
  (∃ (s : State) (d : _) (ch : _), (s.fb (memBase d) Fld.MEM_DIE_CTL_PATROL_EN = true) ∧ (s.fb (memBase d) Fld.MEM_DIE_STS_INIT_DONE = true) ∧ (max 1 (s.fg (memBase d) Fld.MEM_PATROL_INTERVAL) ≤ (2 ^ 32 + refCnt s d ch - getD 0 s.patrolRef (16 * d + ch)) % 2 ^ 32)) ∧
  (∃ (s : State) (ini : _) (d : _) (l : _), (Admits s ini (memBase d + Reg.MEM_DIE_CTL) l) ∧ (s.fb (memBase d) Fld.MEM_DIE_STS_INIT_DONE = false) ∧ ((s.training.any fun x => x.1 == d) = false)) ∧
  (∃ (s : State) (d : _) (ecc : _), (d < 4) ∧ (s.ok = true) ∧ ((s.training.find? fun x => x.1 == d) = some (d, ecc))) ∧
  (∃ (s : State) (d : _) (fail : _), (d < 4) ∧ (s.ok = true) ∧ ((s.training.any fun x => x.1 == d) = true) ∧ (fail % 65536 ≠ 0)) ∧
  (∃ (s : State) (ini : _) (d : _) (l : _), (Admits s ini (memBase d + Reg.MEM_ELOG_CLR) l)) ∧
  (∃ (s : State) (ini : _) (l : _) (v : Word), (Admits s ini (memIBase + Reg.MEM_IL_CTL) l) ∧ (bit (s.rd (memIBase + Reg.MEM_IL_CTL)) 0 = false) ∧ ((bit v.toNat 0 = true → ilValid s (bits v.toNat 6 1) (bits v.toNat 12 8) = true))) ∧
  (∃ (s : State) (ini : _) (l : _) (v : Word), (Admits s ini (memIBase + Reg.MEM_SC_CTL) l) ∧ (bit v.toNat 1 = true)) :=
  ⟨⟨setF (memBase 3 + 0x100 * 15) [(Fld.MEM_CH_STS_TRAINED, 1)], 3, 15, by decide +kernel⟩,
   ⟨setF (memBase 0) [(Fld.MEM_DIE_CTL_PATROL_EN, 1), (Fld.MEM_DIE_STS_INIT_DONE, 1), (Fld.MEM_CH_REFCNT_COUNT, 60000)], 0, 0, by decide +kernel⟩,
   ⟨linked, 0x800, 0, loc (memBase 0 + Reg.MEM_DIE_CTL), by unfold Admits; decide +kernel⟩,
   ⟨{ State.reset with training := [(2, false)] }, 2, false, by decide +kernel⟩,
   ⟨{ State.reset with training := [(2, true)] }, 2, 0x8001, by decide +kernel⟩,
   ⟨linked (setF (memBase 0) [(Fld.MEM_ELOG_STS_COUNT, 3)]), 0x800, 0, loc (memBase 0 + Reg.MEM_ELOG_CLR), by unfold Admits; decide +kernel⟩,
   ⟨State.reset, 0x800, loc (memIBase + Reg.MEM_IL_CTL), 0x403, by unfold Admits; decide +kernel⟩,
   ⟨{ State.reset with sc := [⟨1, 0, 0⟩], scSects := [0] }, 0x800, loc (memIBase + Reg.MEM_SC_CTL), 2, by unfold Admits; decide +kernel⟩⟩

/-- LinksTrainAndChange: its clauses’ hypotheses are met. -/
theorem witness_LinksTrainAndChange :
  (∃ (s : State) (e : _), (s.ok = true) ∧ (e < 26) ∧ (endFitted s e = true) ∧ (mayTrain s e = true) ∧ (s.fg (portBase e) Fld.DDL_STS_STATE = 0)) ∧
  (∃ (s : State) (e : _) (f : _) (rx : _) (tx : _), (s.ok = true) ∧ (farEnd s e = some f) ∧ (s.fg (portBase e) Fld.DDL_STS_STATE = 1) ∧ (failedInto s e rx = 0) ∧ (failedFrom s e tx = 0) ∧ ((linkEnd s e).unacked = []) ∧ ((linkEnd s f).unacked = []) ∧ (Quiet s)) ∧
  (∃ (s : State) (e : _) (f : _), (farEnd s e = some f) ∧ (s.fg (portBase e) Fld.DDL_STS_STATE = 1)) ∧
  (∃ (s : State) (e : _) (lane : _) (lock : _) (m : _), (s.ok = true) ∧ (endFitted s e = true) ∧ (e < 26) ∧ (lane < 68) ∧ (s.fg (portBase e) Fld.DDL_STS_STATE = 2) ∧ ((lock = true ∨ laneNamed s e lane = true)) ∧ (laneFor s e lane = some m) ∧ (bit (s.fg secBase Fld.SEC_UNITS_DEAD) 3 = false)) ∧
  (∃ (s : State) (e : _) (lane : _) (lock : _) (m : _), (s.ok = true) ∧ (26 ≤ e) ∧ (e < 30) ∧ (s.fg (hostBase (e - 26)) Fld.HP_MOD_STS_STATE = 2) ∧ ((lock = true ∨ laneNamed s e lane = true)) ∧ (laneFor s e lane = some m) ∧ (bit (s.fg secBase Fld.SEC_UNITS_DEAD) 3 = false)) ∧
  (∃ (s : State) (e : _) (lane : _), (laneNamed s e lane = false)) ∧
  (∃ (s : State) (e : _), (s.ok = true) ∧ (endFitted s e = true) ∧ (e < 26) ∧ (linkUp s e = true) ∧ (mayRetrain s e = true)) ∧
  (∃ (s : State) (e : _), (endFitted s e = true) ∧ (e < 26) ∧ (s.fg (portBase e) Fld.DDL_STS_STATE ≠ 0)) ∧
  (∃ (s : State) (ini : _) (d : _) (l : _), (d < 4) ∧ (Admits s ini (ddlBase d + Reg.DDL_ROUTE) l)) ∧
  (∃ (s : State) (e : _) (f : _), (s.ok = true) ∧ (farEnd s e = some f) ∧ ((∀ v < 4, ((linkEnd s e).txLatch.getD v 0 + (linkEnd s f).rxLatch.getD v 0) % 2 ^ 32 = (bufSizes e).getD v 0)) ∧ ((∀ v < 4, ((linkEnd s f).txLatch.getD v 0 + (linkEnd s e).rxLatch.getD v 0) % 2 ^ 32 = (bufSizes f).getD v 0))) :=
  ⟨⟨setF (portBase 25) [(Fld.DDL_CTL_EN, 1)] (setF (portBase 24) [(Fld.DDL_CTL_EN, 1)]), 25, by decide +kernel⟩,
   ⟨dieLink 0 1 (dieLink 7 1), 0, 7, 0, 0, by unfold Quiet; decide +kernel⟩,
   ⟨dieLink 0 1 (dieLink 7 1), 0, 7, by decide +kernel⟩,
   ⟨dieLink 4 2 (dieLink 20 2), 4, 63, true, 63, by decide +kernel⟩,
   ⟨setF (hostBase 0) [(Fld.HP_MOD_STS_STATE, 2)], 26, 3, true, 3, by decide +kernel⟩,
   ⟨State.reset, 0, 0, by decide +kernel⟩,
   ⟨setEnd (dieLink 0 2 (dieLink 7 2)) 0 { LinkEnd.down with retrain := true }, 0, by decide +kernel⟩,
   ⟨dieLink 4 2 (dieLink 20 2), 4, by decide +kernel⟩,
   ⟨linked, 0x800, 0, loc (ddlBase 0 + Reg.DDL_ROUTE), by unfold Admits; decide +kernel⟩,
   ⟨{ State.reset with links := [(4, { LinkEnd.down with txLatch := [384, 1024, 1024, 64] }), (20, { LinkEnd.down with txLatch := [384, 1024, 1024, 64] })] }, 4, 20, by decide +kernel⟩⟩

/-- FlitsAreRetried: its clauses’ hypotheses are met. -/
theorem witness_FlitsAreRetried :
  (∃ (s : State) (e : _) (b : List Byte) (ce : _) (ms : _) (p : _), (s.ok = true) ∧ (Quiet s) ∧ (linkUp s e = true) ∧ (b.length = 256) ∧ (bits (byteAt b 1) 7 4 = 0) ∧ ((injected (fecCount s e ce false) e (leAt b 0 2 % 4096)).1 = false) ∧ (crc64 (b.take 248) = leAt b 248 8) ∧ (leAt b 0 2 % 4096 = (linkEnd s e).rxSeq) ∧ (parsePayload (linkKind e) ((b.drop 8).take 240) (linkEnd s e) = some (ms, p)) ∧ ((∀ m ∈ mates e, (linkEnd s m).unacked = [])) ∧ ((linkEnd s e).ackDue + 1 < ackEvery e)) ∧
  (∃ (s : State) (e : _) (b : List Byte) (ce : _) (ms : _) (p : _), (s.ok = true) ∧ (Quiet s) ∧ (linkUp s e = true) ∧ (b.length = 256) ∧ (bits (byteAt b 1) 7 4 = 0) ∧ ((injected (fecCount s e ce false) e (leAt b 0 2 % 4096)).1 = false) ∧ (crc64 (b.take 248) = leAt b 248 8) ∧ (leAt b 0 2 % 4096 = (linkEnd s e).rxSeq) ∧ (parsePayload (linkKind e) ((b.drop 8).take 240) (linkEnd s e) = some (ms, p)) ∧ ((∀ m ∈ mates e, (linkEnd s m).unacked = [])) ∧ (ackEvery e ≤ (linkEnd s e).ackDue + 1)) ∧
  (∃ (s : State) (e : _) (b : List Byte) (ce : _), (s.ok = true) ∧ (Quiet s) ∧ (linkUp s e = true) ∧ (b.length = 256) ∧ (bits (byteAt b 1) 7 4 = 0) ∧ ((injected (fecCount s e ce false) e (leAt b 0 2 % 4096)).1 = false) ∧ (crc64 (b.take 248) = leAt b 248 8) ∧ (leAt b 0 2 % 4096 ≠ (linkEnd s e).rxSeq) ∧ ((linkEnd s e).nakSent = false)) ∧
  (∃ (s : State) (e : _) (b : List Byte) (unc : _), (linkUp s e = true) ∧ (b.length = 256) ∧ (bits (byteAt b 1) 7 4 ≠ 0) ∧ ((unc = true ∨ crc64 (b.take 248) ≠ leAt b 248 8))) ∧
  (∃ (s : State) (e : _) (seq : _), (s.ok = true) ∧ (linkUp s e = true) ∧ ((ackUpTo s.nowUs (linkEnd s e) seq).unacked ≠ [])) ∧
  (∃ (s : State) (e : _), (s.ok = true) ∧ (linkUp s e = true) ∧ ((linkEnd s e).unacked ≠ []) ∧ ((linkEnd s e).since + replayAfter e ≤ s.nowUs)) ∧
  (∃ (s : State) (e : _), (s.nowUs < (linkEnd s e).since + replayAfter e)) ∧
  (∃ (s : State) (e : _), (s.ok = true) ∧ (linkUp s e = true) ∧ (holdsVc0 s e = false)) ∧
  (∃ (s : State) (f : _) (d : _), (dieMsgCan s f d = true)) ∧
  (∃ (s : State) (f : _) (d : _), (dieMsgCan s f d = false)) :=
  ⟨⟨dieLink 4 2, 4, aFlit 0 0 0, 0, ((parsePayload (linkKind 4) (((aFlit 0 0 0).drop 8).take 240) (linkEnd (dieLink 4 2) 4)).getD ([], LinkEnd.down)).1, ((parsePayload (linkKind 4) (((aFlit 0 0 0).drop 8).take 240) (linkEnd (dieLink 4 2) 4)).getD ([], LinkEnd.down)).2, by
    refine ⟨by decide +kernel, by unfold Quiet; decide +kernel, by decide +kernel, by decide +kernel, by decide +kernel, by decide +kernel, aFlit_good 0 0, by decide +kernel, by decide +kernel, by decide +kernel, by decide +kernel⟩⟩,
   ⟨setEnd (dieLink 4 2) 4 { LinkEnd.down with ackDue := 15 }, 4, aFlit 0 0 0, 0, ((parsePayload (linkKind 4) (((aFlit 0 0 0).drop 8).take 240) (linkEnd (setEnd (dieLink 4 2) 4 { LinkEnd.down with ackDue := 15 }) 4)).getD ([], LinkEnd.down)).1, ((parsePayload (linkKind 4) (((aFlit 0 0 0).drop 8).take 240) (linkEnd (setEnd (dieLink 4 2) 4 { LinkEnd.down with ackDue := 15 }) 4)).getD ([], LinkEnd.down)).2, by
    refine ⟨by decide +kernel, by unfold Quiet; decide +kernel, by decide +kernel, by decide +kernel, by decide +kernel, by decide +kernel, aFlit_good 0 0, by decide +kernel, by decide +kernel, by decide +kernel, by decide +kernel⟩⟩,
   ⟨dieLink 4 2, 4, aFlit 5 0 0, 0, by
    refine ⟨by decide +kernel, by unfold Quiet; decide +kernel, by decide +kernel, by decide +kernel, by decide +kernel, by decide +kernel, aFlit_good 5 0, by decide +kernel, by decide +kernel⟩⟩,
   ⟨dieLink 4 2, 4, aFlit 5 1 1, false, by
    refine ⟨by decide +kernel, by decide +kernel, by decide +kernel, Or.inr (aFlit_bad 5 1)⟩⟩,
   ⟨setEnd (dieLink 4 2) 4 { LinkEnd.down with unacked := [⟨3, 0, 1, [], false⟩, ⟨4, 0, 1, [], false⟩] }, 4, 3, by decide +kernel⟩,
   ⟨(setEnd (dieLink 4 2) 4 { LinkEnd.down with unacked := [⟨3, 0, 1, [], false⟩] }).wr (admBase + Reg.ADM_NOW_LO) 5, 4, by decide +kernel⟩,
   ⟨State.reset, 4, by decide +kernel⟩,
   ⟨setEnd (dieLink 4 2) 4 { LinkEnd.down with ackDue := 4 }, 4, by decide +kernel⟩,
   ⟨upEnd 0 (upEnd 7), 0, 1, by decide +kernel⟩,
   ⟨State.reset, 0, 1, by decide +kernel⟩⟩

/-- SpanLinksWork: its clauses’ hypotheses are met. -/
theorem witness_SpanLinksWork :
  (∃ (s : State) (x : _) (opn : _) (shrt : _), (x < 4) ∧ (s.ok = true) ∧ (s.fb spnBase Fld.SPN_CTL_EN = true) ∧ (spanLanes s x ≠ 0) ∧ (spanUp s x = false) ∧ (bit (s.fg secBase Fld.SEC_UNITS_DEAD) 3 = false) ∧ (spanWidth (spanLanes s x) (Nat.lor opn shrt) ≠ []) ∧ ((linkEnd s (30 + x)).unacked = [])) ∧
  (∃ (s : State) (x : _) (pkg : _), (s.ok = true) ∧ (spanUp s x = true) ∧ (pkg < 4096) ∧ (pkg ≠ s.fg spnBase Fld.SPN_PKG_ID_ID)) ∧
  (∃ (s : State) (x : _), (x < 4) ∧ (s.ok = true) ∧ (spanUp s x = true)) ∧
  (∃ (s : State) (x : _) (lane : _), (x < 4) ∧ (lane < 4) ∧ (s.ok = true) ∧ (spanUp s x = true) ∧ (bit (s.rd (subBase x + Reg.SPN_S_LANE)) (4 * lane + 3) = true)) ∧
  (∃ (s : State) (ini : _) (l : _), (Admits s ini (spnBase + Reg.SPN_CTL) l)) ∧
  (∃ (s : State), (s.ok = true) ∧ (s.discovering = true)) ∧
  (∃ (s : State) (x : _) (dst : _), (s.ok = true) ∧ (spanUp s x = true) ∧ (dst ≠ s.fg spnBase Fld.SPN_PKG_ID_ID)) ∧
  (∃ (s : State) (x : _) (src : _) (ttl : _) (tx : _) (a : _) (n : _) (data : List Byte) (sem : _) (op : _) (cnt : _) (cls : _) (urg : _) (rini : _), (s.ok = true) ∧ (spanUp s x = true) ∧ ((∀ i < 8, spanAdmits s ⟨x, s.fg spnBase Fld.SPN_PKG_ID_ID, src, ttl, 1, tx, a, n, data, sem, op, cnt, cls, urg, rini⟩ i = false))) ∧
  (∃ (s : State) (x : _) (src : _) (ttl : _) (tx : _) (a : _) (n : _) (data : List Byte) (sem : _) (op : _) (cnt : _) (cls : _) (urg : _) (rini : _) (i : _), (i < 8) ∧ (spanUp s x = true) ∧ (spanAdmits s ⟨x, s.fg spnBase Fld.SPN_PKG_ID_ID, src, ttl, 3, tx, a, n, data, sem, op, cnt, cls, urg, rini⟩ i = true)) ∧
  (∃ (s : State) (x : _) (mt : _), (spanUp s x = true) ∧ (isSpanReq mt = false)) :=
  ⟨⟨setF spnBase [(Fld.SPN_CTL_EN, 1), (Fld.SPN_CTL_P0_MODE, 1)], 0, 1, 0, by decide +kernel⟩,
   ⟨setF (subBase 0) [(Fld.SPN_S_STS_STATE, 2)], 0, 9, by decide +kernel⟩,
   ⟨setF (subBase 3) [(Fld.SPN_S_STS_STATE, 2)], 3, by decide +kernel⟩,
   ⟨setR [(subBase 0 + Reg.SPN_S_LANE, 0x8888)] (setF (subBase 0) [(Fld.SPN_S_STS_STATE, 2)]), 0, 3, by decide +kernel⟩,
   ⟨State.reset, 0x800, loc (spnBase + Reg.SPN_CTL), by unfold Admits; decide +kernel⟩,
   ⟨{ State.reset with discovering := true }, by decide +kernel⟩,
   ⟨setF (subBase 0) [(Fld.SPN_S_STS_STATE, 2)], 0, 9, by decide +kernel⟩,
   ⟨setF (subBase 0) [(Fld.SPN_S_STS_STATE, 2)], 0, 1, 3, 5, cmdBase, 4, ([] : List Byte), 0, 0, 0, 0, false, 0, by decide +kernel⟩,
   ⟨setF spnBase [(Fld.SPN_WIN_W2_EN, 1), (Fld.SPN_WIN_W2_ANY, 1), (Fld.SPN_WIN_W2_SEM, 1), (Fld.SPN_WIN_W1_SIZE_MB, 1)] (setF (subBase 0) [(Fld.SPN_S_STS_STATE, 2)]), 0, 1, 3, 5, 0, 4, ([] : List Byte), 3, 1, 0, 0, false, 0, 0, by decide +kernel⟩,
   ⟨setF (subBase 0) [(Fld.SPN_S_STS_STATE, 2)], 0, 12, by decide +kernel⟩⟩

/-- HostPortAdmits: its clauses’ hypotheses are met. -/
theorem witness_HostPortAdmits :
  (∃ (s : State) (m : _), (m < 4) ∧ (s.ok = true) ∧ (bit (s.fg hpBase Fld.HP_CTL_MOD_EN) m = true) ∧ (linkUp s (26 + m) = false) ∧ (s.hostProto ≠ some 1)) ∧
  (∃ (s : State) (m : _) (rx : _) (tx : _), (m < 4) ∧ (s.ok = true) ∧ (bit (s.fg hpBase Fld.HP_CTL_MOD_EN) m = true) ∧ (linkUp s (26 + m) = false) ∧ (s.hostProto = some 1) ∧ (failedInto s (26 + m) rx = 0) ∧ (failedFrom s (26 + m) tx = 0)) ∧
  (∃ (s : State), (s.ok = true)) ∧
  (∃ (s : State) (m : _) (req : _) (tx : _) (wr : Bool) (a : _) (n : _) (data : List Byte), (HostFlows s m) ∧ (hostSizeOk ⟨m, reqField s req, tx, wr, a, n, if wr then data else []⟩ = true) ∧ (hostAdmits s ⟨m, reqField s req, tx, wr, a, n, if wr then data else []⟩ = true) ∧ ((accCheck s (0xE00 + reqField s req) a n wr).1 = none) ∧ (reqWaits s (hostRequest s ⟨m, reqField s req, tx, wr, a, n, if wr then data else []⟩) = false)) ∧
  (∃ (s : State) (m : _) (req : _) (tx : _) (wr : _) (a : _) (n : _) (data : List Byte), (HostFlows s m) ∧ (hostSizeOk ⟨m, reqField s req, tx, wr, a, n, if wr then data else []⟩ = true) ∧ (hostAdmits s ⟨m, reqField s req, tx, wr, a, n, if wr then data else []⟩ = true) ∧ ((accCheck s (0xE00 + reqField s req) a n wr).1 = none) ∧ (reqWaits s (hostRequest s ⟨m, reqField s req, tx, wr, a, n, if wr then data else []⟩) = true)) ∧
  (∃ (s : State) (m : _) (req : _) (tx : _) (wr : _) (a : _) (n : _) (data : List Byte), (s.ok = true) ∧ (HostFlows s m) ∧ (hostSizeOk ⟨m, reqField s req, tx, wr, a, n, if wr then data else []⟩ = true) ∧ (hostAdmits s ⟨m, reqField s req, tx, wr, a, n, if wr then data else []⟩ = false)) ∧
  (∃ (s : State) (m : _) (req : _) (tx : _) (a : _) (n : _), (s.ok = true) ∧ (HostFlows s m) ∧ (hostSizeOk ⟨m, reqField s req, tx, false, a, n, []⟩ = false)) ∧
  (∃ (s : State) (m : _), (m < 4) ∧ (s.ok = true) ∧ (linkUp s (26 + m) = true) ∧ ((∀ j < 4, j ≠ m → linkUp s (26 + j) = false))) ∧
  (∃ (s : State) (m : _) (j : _), (m < 4) ∧ (s.ok = true) ∧ (linkUp s (26 + m) = true) ∧ (j < 4) ∧ (j ≠ m) ∧ (linkUp s (26 + j) = true)) ∧
  (∃ (s : State), (s.cellar = 2)) :=
  ⟨⟨setF hpBase [(Fld.HP_CTL_MOD_EN, 8)], 3, by decide +kernel⟩,
   ⟨{ setF hpBase [(Fld.HP_CTL_MOD_EN, 8)] with hostProto := some 1 }, 3, 0, 0, by decide +kernel⟩,
   ⟨State.reset, by decide +kernel⟩,
   ⟨setF (memBase 0) [(Fld.MEM_DIE_STS_INIT_DONE, 1)] (hosted (credited linked)), 0, 0, 5, (true : Bool), 0, 4, [1, 2, 3, 4], by unfold HostFlows; decide +kernel⟩,
   ⟨setF (memBase 0) [(Fld.MEM_DIE_STS_INIT_DONE, 1)] (hosted linked), 0, 0, 5, true, 0, 4, [1, 2, 3, 4], by unfold HostFlows; decide +kernel⟩,
   ⟨setF (memBase 0) [(Fld.MEM_DIE_STS_INIT_DONE, 1)] (hosted (credited linked)), 0, 0, 5, true, 0x2000000, 4, [1, 2, 3, 4], by unfold HostFlows; decide +kernel⟩,
   ⟨hosted, 0, 0, 5, 0, 5, by unfold HostFlows; decide +kernel⟩,
   ⟨hosted, 0, by decide +kernel⟩,
   ⟨setF (hostBase 1) [(Fld.HP_MOD_STS_STATE, 2)] hosted, 0, 1, by decide +kernel⟩,
   ⟨{ State.reset with cellar := 2 }, by decide +kernel⟩⟩

/-- DoorbellsReachQueues: its clauses’ hypotheses are met. -/
theorem witness_DoorbellsReachQueues :
  (∃ (s : State) (m : _) (req : _) (q : _) (i : _) (d : _), (s.ok = true) ∧ (DbellFlows s m req) ∧ (qmTakes s = true) ∧ ((s.pendDb.any fun p => p.queue == q) = false) ∧ (qHit s q = some d) ∧ (d.state = 0) ∧ (ahead i d.producer ≠ 0) ∧ (ahead i d.producer < 2 ^ 31) ∧ (ahead i d.consumer ≤ 2 ^ d.log2)) ∧
  (∃ (s : State) (m : _) (req : _) (q : _), (DbellFlows s m req) ∧ (qmTakes s = true) ∧ (qHit s q = none)) ∧
  (∃ (s : State) (m : _) (req : _), (s.ok = true) ∧ (DbellFlows s m req) ∧ (qmTakes s = false)) ∧
  (∃ (s : State) (m : _), (linkUp s (26 + m) = true) ∧ (512 ≤ s.pendDb.length)) ∧
  (∃ (s : State) (m : _) (req : _), (HostFlows s m) ∧ ((hostWrites s m (reqField s req) = true ∨ s.act.isSome = true))) ∧
  (∃ (s : State) (m : _) (req : _) (c : _) (i : _), (s.ok = true) ∧ (ksorted none s.cqs = true) ∧ (DbellFlows s m req) ∧ ((cqRec s c).valid = true) ∧ (qmTakes s = true) ∧ (ahead i (cqRec s c).head ≠ 0) ∧ (ahead i (cqRec s c).head < 2 ^ 31) ∧ (ahead i (cqRec s c).head ≤ ahead (cqRec s c).tail (cqRec s c).head)) ∧
  (∃ (s : State) (p : PendDb) (ps : List PendDb) (d : _) (u : _), (s.fb qmBase Fld.QM_CTL_EN = true) ∧ (s.pendDb = p :: ps) ∧ (s.vc0 = []) ∧ (fetchQ (poolUpdate { s with pendDb := ps } 4 10 0) p.queue = (some d, u))) :=
  ⟨⟨{ belled with qcache := [(3, { aQueue 0 false with producer := 0 })] }, 0, 0, 3, 16, { aQueue 0 false with producer := 0 }, by unfold DbellFlows HostFlows; decide +kernel⟩,
   ⟨belled, 0, 0, 3, by unfold DbellFlows HostFlows; decide +kernel⟩,
   ⟨hosted, 0, 0, by unfold DbellFlows HostFlows; decide +kernel⟩,
   ⟨{ belled with pendDb := List.replicate 512 ⟨9, 1⟩ }, 0, by decide +kernel⟩,
   ⟨{ belled with reqs := [aReq 0xE00 0 true [1, 2, 3, 4] .iod] }, 0, 0, by unfold HostFlows; decide +kernel⟩,
   ⟨{ belled with cqs := [(2, { aRing with tail := 5 })] }, 0, 0, 2, 5, by unfold DbellFlows HostFlows; decide +kernel⟩,
   ⟨{ belled with pendDb := [⟨3, 1⟩], qcache := [(3, { aQueue 0 false with producer := 0 })] }, (⟨3, 1⟩ : PendDb), ([] : List PendDb), { aQueue 0 false with producer := 0 }, (fetchQ (poolUpdate { belled with pendDb := [], qcache := [(3, { aQueue 0 false with producer := 0 })] } 4 10 0) 3).2, by decide +kernel⟩⟩

/-- QueueManagerParsesAndReplies: its clauses’ hypotheses are met. -/
theorem witness_QueueManagerParsesAndReplies :
  (∃ (s : State) (q : _) (tag : _) (d : _) (b : _) (u : _) (w : _), (s.fb cmdBase Fld.CMD_CTL_EN = true) ∧ (s.fb cmdBase Fld.CMD_CTL_PAUSE = false) ∧ (s.fb qmBase Fld.QM_CTL_EN = true) ∧ (freeTag s = some tag) ∧ (pickQueue s = some q) ∧ (fetchQ s q = (some d, u)) ∧ (d.state = 0) ∧ (readEntries d 1 d.consumer u = (some b, w)) ∧ (byteAt b 3 = 1) ∧ (byteAt b 2 = 1) ∧ (4 ≤ d.log2) ∧ (bit (byteAt b 1) 1 = false) ∧ (packetCheck (takePacket w q d b 1 tag) d.ctx b = none)) ∧
  (∃ (s : State) (q : _) (tag : _) (d : _) (b : _) (u : _) (w : _), (s.fb cmdBase Fld.CMD_CTL_EN = true) ∧ (s.fb cmdBase Fld.CMD_CTL_PAUSE = false) ∧ (s.fb qmBase Fld.QM_CTL_EN = true) ∧ (freeTag s = some tag) ∧ (pickQueue s = some q) ∧ (fetchQ s q = (some d, u)) ∧ (d.state = 0) ∧ (readEntries d 1 d.consumer u = (some b, w)) ∧ (byteAt b 3 ≠ 1)) ∧
  (∃ (s : State) (tg : _) (c : _), (s.cmd? tg = some c) ∧ (c.phase = .reply) ∧ ((cqRec s c.cq).valid = true) ∧ (heldBefore s c = false) ∧ (cqRoom (cqRec s c.cq) = true)) ∧
  (∃ (s : State) (tg : _) (c : _), (s.ok = true) ∧ (s.cmd? tg = some c) ∧ (c.phase = .reply) ∧ (c.held = none) ∧ ((cqRec s c.cq).valid = true) ∧ (cqRoom (cqRec s c.cq) = false)) ∧
  (∃ (s : State) (cq : _) (m : _), (s.ok = true) ∧ (ksorted none s.cqs = true) ∧ ((cqRec s cq).valid = true) ∧ (0 < (cqRec s cq).unnotified) ∧ (0 < (cqRec s cq).coalUs) ∧ ((cqRec s cq).oldest + (cqRec s cq).coalUs ≤ s.nowUs) ∧ (hostModule s = some m) ∧ (s.notifyQ = []) ∧ (canSend s (26 + m) 3 1 = true)) ∧
  (∃ (s : State) (cq : _) (m : _), ((getD CqRec.absent s.cqs cq).valid = true) ∧ (0 < (cqRec s cq).unnotified) ∧ (0 < (cqRec s cq).coalUs) ∧ ((cqRec s cq).oldest + (cqRec s cq).coalUs ≤ s.nowUs) ∧ (hostModule s = some m) ∧ (canSend s (26 + m) 3 1 = false)) ∧
  (∃ (s : State) (e : HostEv) (es : List HostEv), (s.fb cmdBase Fld.CMD_EVT_CQ_VALID = true) ∧ (cqRoom (cqRec s (s.fg cmdBase Fld.CMD_EVT_CQ_CQ)) = true) ∧ (s.eventsLost = 0) ∧ (s.events = e :: es)) ∧
  (∃ (s : State), (s.fb cmdBase Fld.CMD_EVT_CQ_VALID = true) ∧ (cqRoom (cqRec s (s.fg cmdBase Fld.CMD_EVT_CQ_CQ)) = true) ∧ (0 < s.eventsLost)) ∧
  (∃ (s : State) (ini : _) (l : _), (Admits s ini (cmdBase + Reg.CMD_CTL) l)) :=
  ⟨⟨queued (entry 1 1), 3, 0, aQueue 0 false, entry 1 1, (fetchQ (queued (entry 1 1)) 3).2, (readEntries (aQueue 0 false) 1 0 (fetchQ (queued (entry 1 1)) 3).2).2, by decide +kernel⟩,
   ⟨queued (entry 1 9), 3, 0, aQueue 0 false, entry 1 9, (fetchQ (queued (entry 1 9)) 3).2, (readEntries (aQueue 0 false) 1 0 (fetchQ (queued (entry 1 9)) 3).2).2, by decide +kernel⟩,
   ⟨{ has { aCmd 1 with phase := .reply } linked with cqs := [(0, aRing)] }, 7, { aCmd 1 with phase := .reply }, by decide +kernel⟩,
   ⟨{ has { aCmd 1 with phase := .reply } with cqs := [(0, { aRing with tail := 64 })] }, 7, { aCmd 1 with phase := .reply }, by decide +kernel⟩,
   ⟨{ setF (admBase) [(Fld.ADM_NOW_LO_COUNT, 9)] (setEnd hosted 26 { LinkEnd.down with creds := [0, 0, 0, 8] }) with cqs := [(0, { aRing with unnotified := 1, coalUs := 5 })] }, 0, 0, by decide +kernel⟩,
   ⟨{ setF (admBase) [(Fld.ADM_NOW_LO_COUNT, 9)] (hosted) with cqs := [(0, { aRing with unnotified := 1, coalUs := 5 })] }, 0, 0, by decide +kernel⟩,
   ⟨{ setF cmdBase [(Fld.CMD_EVT_CQ_VALID, 1)] linked with cqs := [(0, aRing)], events := [⟨0x70, 0, 1⟩] }, (⟨0x70, 0, 1⟩ : HostEv), ([] : List HostEv), by decide +kernel⟩,
   ⟨{ setF cmdBase [(Fld.CMD_EVT_CQ_VALID, 1)] linked with cqs := [(0, aRing)], eventsLost := 2 }, by decide +kernel⟩,
   ⟨State.reset, 0x800, loc (cmdBase + Reg.CMD_CTL), by unfold Admits; decide +kernel⟩⟩

/-- SimpleCommandsReply: its clauses’ hypotheses are met. -/
theorem witness_SimpleCommandsReply :
  (∃ (s : State) (tg : _) (c : _), (s.cmd? tg = some c) ∧ (c.phase = .parsed) ∧ (c.opcode = 0x01)) ∧
  (∃ (s : State) (tg : _) (c : _), (s.cmd? tg = some c) ∧ (c.phase = .parsed) ∧ (c.opcode = 0x02) ∧ (cmdEarlier s c.queue c.order = false)) ∧
  (∃ (s : State) (tg : _) (c : _), (s.cmd? tg = some c) ∧ (c.phase = .parsed) ∧ (c.opcode = 0x02) ∧ (cmdEarlier s c.queue c.order = true)) ∧
  (∃ (s : State) (tg : _) (c : _), (s.cmd? tg = some c) ∧ (c.phase = .parsed) ∧ (c.opcode = 0x03) ∧ ((∀ e ∈ s.cmds, unstarted e.2 = true → e.1 ≠ tg → e.2.queue = c.queue → Nat.land e.2.cookie (c.par 24 8) ≠ Nat.land (c.par 16 8) (c.par 24 8)))) ∧
  (∃ (s : State) (tg : _) (c : _), (Parsed s tg 0x04 c) ∧ (0 < c.par 16 2) ∧ (c.par 19 1 ≤ 6) ∧ ((s.ctx (c.par 16 2)).live = false)) ∧
  (∃ (s : State) (tg : _) (c : _), (Parsed s tg 0x04 c) ∧ (0 < c.par 16 2) ∧ (c.par 19 1 ≤ 6) ∧ ((s.ctx (c.par 16 2)).live = true)) ∧
  (∃ (s : State) (tg : _) (c : _), (Parsed s tg 0x05 c) ∧ (tdWaits s tg c = false) ∧ (s.fb qmBase Fld.QM_CTL_EN = true) ∧ (c.par 16 2 = 0)) ∧
  (∃ (s : State) (tg : _) (c : _), (Parsed s tg 0x05 c) ∧ (tdWaits s tg c = false) ∧ (s.fb qmBase Fld.QM_CTL_EN = true) ∧ (c.par 16 2 ≠ 0) ∧ ((s.ctx (c.par 16 2)).live = true)) ∧
  (∃ (s : State) (tg : _) (c : _), (Parsed s tg 0x0D c)) ∧
  (∃ (s : State) (tg : _) (c : _), (Parsed s tg 0x0B c) ∧ (1 ≤ c.par 16 1) ∧ (c.par 16 1 ≤ 15) ∧ (c.par 20 6 % 2 ^ 20 = 0) ∧ (c.par 28 4 < 2 ^ 18) ∧ (c.par 32 2 ≤ 0x1FF) ∧ (c.par 34 2 ≤ 0x1FF) ∧ (windowForbidden s (c.par 20 6) (c.par 28 4 * 2 ^ 20) (bit (c.par 17 1) 1) = false)) ∧
  (∃ (s : State) (tg : _) (c : _), (Parsed s tg 0x0C c) ∧ (1 ≤ c.par 16 1) ∧ (c.par 16 1 ≤ 15)) ∧
  (∃ (s : State) (tg : _) (c : _), (Parsed s tg 0x0C c) ∧ (c.par 16 1 = 0)) :=
  ⟨⟨has (aCmd 1), 7, aCmd 1, by decide +kernel⟩,
   ⟨has (aCmd 2), 7, aCmd 2, by decide +kernel⟩,
   ⟨(has { aCmd 2 with order := 1 }).setCmd 6 (aCmd 1), 7, { aCmd 2 with order := 1 }, by decide +kernel⟩,
   ⟨has (aCmd 3 [(16, 1, 1), (24, 1, 1)]), 7, aCmd 3 [(16, 1, 1), (24, 1, 1)], by decide +kernel⟩,
   ⟨has (aCmd 4 [(16, 2, 65535), (19, 1, 6)]), 7, aCmd 4 [(16, 2, 65535), (19, 1, 6)], by unfold Parsed; decide +kernel⟩,
   ⟨{ has (aCmd 4 [(16, 2, 1)]) with ctxs := [(1, ⟨true, 0, 0, 0, false⟩)] }, 7, aCmd 4 [(16, 2, 1)], by unfold Parsed; decide +kernel⟩,
   ⟨hasQ (aCmd 5), 7, aCmd 5, by unfold Parsed; decide +kernel⟩,
   ⟨{ hasQ (aCmd 5 [(16, 2, 1)]) with ctxs := [(1, ⟨true, 0, 0, 0, false⟩)] }, 7, aCmd 5 [(16, 2, 1)], by unfold Parsed; decide +kernel⟩,
   ⟨has (aCmd 0x0D), 7, aCmd 0x0D, by unfold Parsed; decide +kernel⟩,
   ⟨has (aCmd 0x0B [(16, 1, 15), (17, 1, 3), (28, 4, 16), (34, 2, 0x1FF)]), 7, aCmd 0x0B [(16, 1, 15), (17, 1, 3), (28, 4, 16), (34, 2, 0x1FF)], by unfold Parsed; decide +kernel⟩,
   ⟨has (aCmd 0x0C [(16, 1, 15)]), 7, aCmd 0x0C [(16, 1, 15)], by unfold Parsed; decide +kernel⟩,
   ⟨has (aCmd 0x0C), 7, aCmd 0x0C, by unfold Parsed; decide +kernel⟩⟩

/-- QueueCommandsReply: its clauses’ hypotheses are met. -/
theorem witness_QueueCommandsReply :
  (∃ (s : State) (tg : _) (c : _) (u : _), (Parsed s tg 0x06 c) ∧ (s.fb qmBase Fld.QM_CTL_EN = true) ∧ (queueCreateCheck s c = none) ∧ (fetchQ s (c.par 16 4) = (none, u))) ∧
  (∃ (s : State) (tg : _) (c : _) (st : _) (de : _), (Parsed s tg 0x06 c) ∧ (s.fb qmBase Fld.QM_CTL_EN = true) ∧ (queueCreateCheck s c = some (st, de))) ∧
  (∃ (s : State) (tg : _) (c : _) (d : _), (Parsed s tg 0x06 c) ∧ (s.fb qmBase Fld.QM_CTL_EN = true) ∧ (queueCreateCheck s c = none) ∧ (qHit s (c.par 16 4) = some d)) ∧
  (∃ (s : State) (tg : _) (c : _) (d : _), (Parsed s tg 0x07 c) ∧ (s.fb qmBase Fld.QM_CTL_EN = true) ∧ (qHit s (c.par 16 4) = some d) ∧ (d.state = 0) ∧ ((∀ e ∈ s.cmds, e.1 ≠ tg → e.2.queue ≠ c.par 16 4))) ∧
  (∃ (s : State) (tg : _) (c : _) (d : _), (Parsed s tg 0x07 c) ∧ (s.fb qmBase Fld.QM_CTL_EN = true) ∧ (qHit s (c.par 16 4) = some d) ∧ (d.state = 1 ∨ d.state = 2)) ∧
  (∃ (s : State) (tg : _) (c : _) (d : _), (Parsed s tg 0x08 c) ∧ (s.fb qmBase Fld.QM_CTL_EN = true) ∧ (bit (c.par 20 1) 0 = true) ∧ (qHit s (c.par 16 4) = some d) ∧ (d.pinned = false) ∧ ((qFront s (c.par 16 4) d).fg qmBase Fld.QM_STS_PINNED < 512)) ∧
  (∃ (s : State) (tg : _) (c : _) (d : _), (Parsed s tg 0x08 c) ∧ (s.fb qmBase Fld.QM_CTL_EN = true) ∧ (bit (c.par 20 1) 0 = false) ∧ (qHit s (c.par 16 4) = some d) ∧ (d.pinned = true)) ∧
  (∃ (s : State) (tg : _) (c : _), (Parsed s tg 0x09 c) ∧ (ksorted none s.cqs = true) ∧ (s.fb qmBase Fld.QM_CTL_EN = true) ∧ (cqCreateCheck s c = none)) ∧
  (∃ (s : State) (tg : _) (c : _), (Parsed s tg 0x0A c) ∧ (ksorted none s.cqs = true) ∧ (s.fb qmBase Fld.QM_CTL_EN = true) ∧ ((cqRec s (c.par 16 2)).valid = true) ∧ ((∀ e ∈ queuesOf s, e.2.cq ≠ c.par 16 2)) ∧ ((∀ e ∈ s.cmds, e.2.cq = c.par 16 2 → e.2.phase ≠ .reply))) ∧
  (∃ (s : State) (tg : _) (c : _), (Parsed s tg 0x0A c) ∧ (s.fb qmBase Fld.QM_CTL_EN = true) ∧ ((cqRec s (c.par 16 2)).valid = false)) :=
  ⟨⟨{ hasQ (aCmd 6 [(16, 4, 5), (23, 1, 4), (24, 6, 0x4000)]) uncached with ctxs := [(0, ⟨true, 0, 15, 6, false⟩)], cqs := [(0, aRing)] }, 7, aCmd 6 [(16, 4, 5), (23, 1, 4), (24, 6, 0x4000)], (fetchQ { hasQ (aCmd 6 [(16, 4, 5), (23, 1, 4), (24, 6, 0x4000)]) uncached with ctxs := [(0, ⟨true, 0, 15, 6, false⟩)], cqs := [(0, aRing)] } 5).2, by unfold Parsed; decide +kernel⟩,
   ⟨hasQ (aCmd 6 [(20, 2, 9)]), 7, aCmd 6 [(20, 2, 9)], 0x16, 20, by unfold Parsed; decide +kernel⟩,
   ⟨{ hasQ (aCmd 6 [(16, 4, 5), (23, 1, 4), (24, 6, 0x4000)]) uncached with ctxs := [(0, ⟨true, 0, 15, 6, false⟩)], cqs := [(0, aRing)], qcache := [(5, aQueue 0 false)] }, 7, aCmd 6 [(16, 4, 5), (23, 1, 4), (24, 6, 0x4000)], aQueue 0 false, by unfold Parsed; decide +kernel⟩,
   ⟨{ hasQ (aCmd 7 [(16, 4, 5)]) with qcache := [(5, aQueue 0 false)] }, 7, aCmd 7 [(16, 4, 5)], aQueue 0 false, by unfold Parsed; decide +kernel⟩,
   ⟨{ hasQ (aCmd 7 [(16, 4, 5)]) with qcache := [(5, aQueue 2 false)] }, 7, aCmd 7 [(16, 4, 5)], aQueue 2 false, by unfold Parsed; decide +kernel⟩,
   ⟨{ hasQ (aCmd 8 [(16, 4, 5), (20, 1, 1)]) with qcache := [(5, aQueue 0 false)] }, 7, aCmd 8 [(16, 4, 5), (20, 1, 1)], aQueue 0 false, by unfold Parsed; decide +kernel⟩,
   ⟨{ hasQ (aCmd 8 [(16, 4, 5)]) with qcache := [(5, aQueue 0 true)] }, 7, aCmd 8 [(16, 4, 5)], aQueue 0 true, by unfold Parsed; decide +kernel⟩,
   ⟨hasQ (aCmd 9 [(16, 2, 1), (18, 1, 6), (20, 6, 0x8000)]) hosted, 7, aCmd 9 [(16, 2, 1), (18, 1, 6), (20, 6, 0x8000)], by unfold Parsed; decide +kernel⟩,
   ⟨{ hasQ (aCmd 0x0A [(16, 2, 1)]) with cqs := [(1, aRing)] }, 7, aCmd 0x0A [(16, 2, 1)], by unfold Parsed; decide +kernel⟩,
   ⟨hasQ (aCmd 0x0A [(16, 2, 1)]), 7, aCmd 0x0A [(16, 2, 1)], by unfold Parsed; decide +kernel⟩⟩

/-- ImagesStepsAndReservations: its clauses’ hypotheses are met. -/
theorem witness_ImagesStepsAndReservations :
  (∃ (s : State) (tg : _) (c : _) (h : _) (w : _), (Parsed s tg 0x10 c) ∧ (4096 ≤ c.par 24 4) ∧ (pkgUsable s (c.par 16 6) (c.par 24 4) = true) ∧ (cpReads s c.ctx (c.par 16 6) (c.par 24 4) = (false, w)) ∧ (imageCheck w (c.par 16 6) (c.par 24 4) = 0) ∧ ((1 ≤ h ∧ h ≤ 4096 ∧ aget w.images h = none ∧ ∀ j < h, 1 ≤ j → (aget w.images j).isSome = true))) ∧
  (∃ (s : State) (tg : _) (c : _), (Parsed s tg 0x10 c) ∧ (c.par 24 4 < 4096)) ∧
  (∃ (s : State) (tg : _) (c : _), (Parsed s tg 0x11 c) ∧ ((aget s.images (c.par 16 4)).isSome = true) ∧ (imageNamed s (c.par 16 4) = false)) ∧
  (∃ (s : State) (tg : _) (c : _), (Parsed s tg 0x11 c) ∧ ((aget s.images (c.par 16 4)).isSome = true) ∧ (imageNamed s (c.par 16 4) = true)) ∧
  (∃ (s : State) (tg : _) (c : _) (im : Image) (w : _), (Parsed s tg 0x18 c) ∧ (aget s.images (stepOfPacket c).image = some im) ∧ (imgGolden s im.addr = false) ∧ ((stepOfPacket c).bases.length = (imgFind s im.addr 2).count) ∧ ((stepOfPacket c).sems.length = (imgFind s im.addr 6).count) ∧ (c.par 26 2 = imgArgSize s im.addr) ∧ (bindingBad s (bound s (stepOfPacket c)) = none) ∧ (bindingOverlap s (bound s (stepOfPacket c)) = none) ∧ (kvBad c.ctx c.ctxGen (bound s (stepOfPacket c)) s = (none, w))) ∧
  (∃ (s : State) (tg : _) (c : _) (im : Image) (i : _), (Parsed s tg 0x18 c) ∧ (aget s.images (stepOfPacket c).image = some im) ∧ (imgGolden s im.addr = false) ∧ ((stepOfPacket c).bases.length = (imgFind s im.addr 2).count) ∧ ((stepOfPacket c).sems.length = (imgFind s im.addr 6).count) ∧ (c.par 26 2 = imgArgSize s im.addr) ∧ (bindingBad s (bound s (stepOfPacket c)) = some i)) ∧
  (∃ (s : State) (tg : _) (c : _), (Parsed s tg 0x18 c) ∧ (aget s.images (c.par 16 4) = none)) ∧
  (∃ (s : State) (tg : _) (c : _) (slot : _) (d : _) (gs : _), (Parsed s tg 0x19 c) ∧ (inTurn s c.order = true) ∧ (c.par 28 1 ≠ 0) ∧ (c.par 20 4 ≠ 0) ∧ ((aget s.images (c.par 16 4)).isSome = true) ∧ (s.fb admBase Fld.ADM_CTL_EN = true) ∧ ((s.ctx c.ctx).teardown = false) ∧ (chargeUs s (imgAddr s (c.par 16 4)) ≤ c.par 24 4) ∧ ((1 ≤ slot ∧ slot ≤ 1023 ∧ aget s.resvs slot = none ∧ ∀ j < slot, 1 ≤ j → (aget s.resvs j).isSome = true)) ∧ (rsvGroups s (imgGroup s (imgAddr s (c.par 16 4))) (c.par 28 1) = some (d, gs)) ∧ ((cdiv (goldWin s) (c.par 20 4) + 1) * chargeUs s (imgAddr s (c.par 16 4)) ≤ goldWin s - s.fg admBase Fld.ADM_GOLD_US)) ∧
  (∃ (s : State) (tg : _) (c : _), (Parsed s tg 0x19 c) ∧ (inTurn s c.order = true) ∧ (c.par 28 1 ≠ 0) ∧ (c.par 20 4 ≠ 0) ∧ ((aget s.images (c.par 16 4)).isSome = true) ∧ (s.fb admBase Fld.ADM_CTL_EN = true) ∧ ((s.ctx c.ctx).teardown = false) ∧ (c.par 24 4 < chargeUs s (imgAddr s (c.par 16 4)))) ∧
  (∃ (s : State) (tg : _) (c : _) (v : Resv), (Parsed s tg 0x1A c) ∧ (inTurn s c.order = true) ∧ (aget s.resvs (c.par 16 4 % 1024) = some v) ∧ (v.ctx = c.ctx) ∧ (v.ctxGen = c.ctxGen) ∧ (c.par 16 4 / 1024 = v.die) ∧ (v.closing = false)) ∧
  (∃ (s : State) (tg : _) (c : _), (Parsed s tg 0x1A c) ∧ (inTurn s c.order = true) ∧ (aget s.resvs (c.par 16 4 % 1024) = none)) :=
  ⟨⟨has (aCmd 0x10 [(16, 6, 0x8000000), (24, 4, 4864)]) (imaged false uncached), 7, aCmd 0x10 [(16, 6, 0x8000000), (24, 4, 4864)], 1, (cpReads (has (aCmd 0x10 [(16, 6, 0x8000000), (24, 4, 4864)]) (imaged false uncached)) (aCmd 0x10 [(16, 6, 0x8000000), (24, 4, 4864)]).ctx ((aCmd 0x10 [(16, 6, 0x8000000), (24, 4, 4864)]).par 16 6) ((aCmd 0x10 [(16, 6, 0x8000000), (24, 4, 4864)]).par 24 4)).2, by
    refine ⟨by unfold Parsed; decide +kernel, by decide +kernel, by decide +kernel, reads_clean (by decide +kernel), imageCheck_passes (n := 125) (by decide +kernel) (by decide +kernel) (by decide +kernel)
      (crc32c_runs (n := 240) (m := 4096) (k := 512) (pkgBytes_blank (by decide +kernel) (by decide +kernel) (by decide +kernel)) (by decide +kernel)) (by decide +kernel) (by decide +kernel), by decide +kernel⟩⟩,
   ⟨has (aCmd 0x10 [(16, 6, 0x8000000), (24, 4, 4095)]), 7, aCmd 0x10 [(16, 6, 0x8000000), (24, 4, 4095)], by unfold Parsed; decide +kernel⟩,
   ⟨has (aCmd 0x11 [(16, 4, 1)]) (imaged true), 7, aCmd 0x11 [(16, 4, 1)], by unfold Parsed; decide +kernel⟩,
   ⟨(has (aCmd 0x11 [(16, 4, 1)]) (imaged true)).setCmd 8 (aCmd 0x18 [(16, 4, 1)]), 7, aCmd 0x11 [(16, 4, 1)], by unfold Parsed; decide +kernel⟩,
   ⟨has (aCmd 0x18 [(16, 4, 1), (24, 1, 1), (40, 6, 0x9000000)]) (imaged true), 7, aCmd 0x18 [(16, 4, 1), (24, 1, 1), (40, 6, 0x9000000)], (⟨0x8000000, 4864, 100⟩ : Image), has (aCmd 0x18 [(16, 4, 1), (24, 1, 1), (40, 6, 0x9000000)]) (imaged true), by unfold Parsed; decide +kernel⟩,
   ⟨has (aCmd 0x18 [(16, 4, 1), (24, 1, 1), (40, 6, 0x9000020)]) (imaged true), 7, aCmd 0x18 [(16, 4, 1), (24, 1, 1), (40, 6, 0x9000020)], (⟨0x8000000, 4864, 100⟩ : Image), 0, by unfold Parsed; decide +kernel⟩,
   ⟨has (aCmd 0x18 [(16, 4, 9)]) (imaged true), 7, aCmd 0x18 [(16, 4, 9)], by unfold Parsed; decide +kernel⟩,
   ⟨has (aCmd 0x19 [(16, 4, 1), (20, 4, 100000), (24, 4, 1000), (28, 1, 2)]) (usable [0, 1] (imaged true)), 7, aCmd 0x19 [(16, 4, 1), (20, 4, 100000), (24, 4, 1000), (28, 1, 2)], 1, 0, [[0], [1]], by unfold Parsed; decide +kernel⟩,
   ⟨has (aCmd 0x19 [(16, 4, 1), (20, 4, 1000), (24, 4, 1), (28, 1, 2)]) (usable [0, 1] (imaged true)), 7, aCmd 0x19 [(16, 4, 1), (20, 4, 1000), (24, 4, 1), (28, 1, 2)], by unfold Parsed; decide +kernel⟩,
   ⟨{ has (aCmd 0x1A [(16, 4, 3)]) with resvs := [(3, ⟨0, 0, 1, 1000, 0, [[0], [1]], false⟩)] }, 7, aCmd 0x1A [(16, 4, 3)], (⟨0, 0, 1, 1000, 0, [[0], [1]], false⟩ : Resv), by unfold Parsed; decide +kernel⟩,
   ⟨has (aCmd 0x1A [(16, 4, 3)]), 7, aCmd 0x1A [(16, 4, 3)], by unfold Parsed; decide +kernel⟩⟩

/-- SemaphoreAndPantryCommands: its clauses’ hypotheses are met. -/
theorem witness_SemaphoreAndPantryCommands :
  (∃ (s : State) (tg : _) (c : _), (Parsed s tg 0x20 c) ∧ (semReach s (c.par 16 2) = none) ∧ (c.par 20 4 < 2 ^ 31) ∧ (semOwned s (c.par 16 2) = false)) ∧
  (∃ (s : State) (tg : _) (c : _), (Parsed s tg 0x20 c) ∧ (semReach s (c.par 16 2) = none) ∧ (c.par 20 4 < 2 ^ 31) ∧ (semOwned s (c.par 16 2) = true) ∧ (semHeld s (c.par 16 2) = true)) ∧
  (∃ (s : State) (tg : _) (c : _), (Parsed s tg 0x21 c) ∧ (c.par 20 4 ≠ 0) ∧ (semUsable s c (c.par 16 2) = none)) ∧
  (∃ (s : State) (tg : _) (c : _), (Parsed s tg 0x22 c) ∧ (semUsable s c (c.par 16 2) = none)) ∧
  (∃ (s : State) (tg : _) (c : _), (Parsed s tg 0x28 c) ∧ (panReach s (c.par 18 1) 18 = none) ∧ (c.par 19 1 ≤ 3) ∧ (c.par 20 1 ≤ 63) ∧ (c.par 22 2 ≤ 0x1FFF)) ∧
  (∃ (r : (Nat → Instr) × Nat × Nat) (s : State) (tg : _) (c : _), (r ∈ [(Instr.trackReset, 0x29, 2), (.trackClose, 0x2A, 3), (.trackQuery, 0x2B, 4)]) ∧ (Parsed s tg r.2.1 c) ∧ (panReach s (c.par 18 1) 18 = none)) ∧
  (∃ (r : (Nat → Instr) × Nat) (s : State) (tg : _) (c : _), (r ∈ [(Instr.trackOpen, 0x28), (.trackReset, 0x29), (.trackClose, 0x2A), (.trackQuery, 0x2B)]) ∧ (Parsed s tg r.2 c) ∧ (s.part.fitted (c.par 18 1) = false)) ∧
  (∃ (s : State) (tg : _) (c : _), (Parsed s tg 0x2C c) ∧ (panReach s (c.par 16 1) 16 = none) ∧ (c.par 17 1 ≤ 3) ∧ (bit (c.par 20 1) 3 = false) ∧ (c.par 24 6 % 2 ^ 21 = 0) ∧ (s.fb (panBase (c.par 16 1)) Fld.PAN_CTL_EN = false)) ∧
  (∃ (s : State) (tg : _) (c : _), (Parsed s tg 0x2C c) ∧ (panReach s (c.par 16 1) 16 = none) ∧ (c.par 17 1 ≤ 3) ∧ (bit (c.par 20 1) 3 = false) ∧ (c.par 24 6 % 2 ^ 21 = 0) ∧ (s.fb (panBase (c.par 16 1)) Fld.PAN_CTL_EN = true)) ∧
  (∃ (s : State) (tg : _) (c : _), (Parsed s tg 0x2D c) ∧ (panReach s (c.par 16 1) 16 = none) ∧ (bit (c.par 17 1) 0 = false)) ∧
  (∃ (s : State) (tg : _) (c : _), (Parsed s tg 0x2D c) ∧ (panReach s (c.par 16 1) 16 = none) ∧ (bit (c.par 17 1) 0 = true) ∧ (c.par 24 6 % 2 ^ 21 = 0) ∧ (s.fb (panBase (c.par 16 1)) Fld.PAN_CTL_EN = false) ∧ (placementOk (s.wr (panBase (c.par 16 1) + Reg.PAN_META_BASE) (c.par 24 6 / 2 ^ 21)) (c.par 16 1) = true)) :=
  ⟨⟨has (aCmd 0x20 [(16, 2, 5), (20, 4, 9)]) (setF (synBase 0) [(Fld.SYN_CTL_EN, 1)]), 7, aCmd 0x20 [(16, 2, 5), (20, 4, 9)], by unfold Parsed; decide +kernel⟩,
   ⟨has (aCmd 0x20 [(16, 2, 5), (20, 4, 9)]) (setF (semBase 5) [(Fld.SYN_SEM_W1_OWNED, 1), (Fld.SYN_SEM_W6_WAITERS, 1)] (setF (synBase 0) [(Fld.SYN_CTL_EN, 1)])), 7, aCmd 0x20 [(16, 2, 5), (20, 4, 9)], by unfold Parsed; decide +kernel⟩,
   ⟨has (aCmd 0x21 [(16, 2, 5), (20, 4, 9)]) (setF (semBase 5) [(Fld.SYN_SEM_W1_OWNED, 1)] (setF (synBase 0) [(Fld.SYN_CTL_EN, 1)])), 7, aCmd 0x21 [(16, 2, 5), (20, 4, 9)], by unfold Parsed; decide +kernel⟩,
   ⟨has (aCmd 0x22 [(16, 2, 5)]) (setF (semBase 5) [(Fld.SYN_SEM_W1_OWNED, 1)] (setF (synBase 0) [(Fld.SYN_CTL_EN, 1)])), 7, aCmd 0x22 [(16, 2, 5)], by unfold Parsed; decide +kernel⟩,
   ⟨has (aCmd 0x28 [(16, 2, 5), (19, 1, 1), (20, 1, 1), (22, 2, 64)]) (panReady []), 7, aCmd 0x28 [(16, 2, 5), (19, 1, 1), (20, 1, 1), (22, 2, 64)], by unfold Parsed; decide +kernel⟩,
   ⟨((Instr.trackReset, 0x29, 2) : (Nat → Instr) × Nat × Nat), has (aCmd 0x29) (panReady []), 7, aCmd 0x29, by simp, by unfold Parsed; decide +kernel⟩,
   ⟨((Instr.trackOpen, 0x28) : (Nat → Instr) × Nat), has (aCmd 0x28 [(18, 1, 9)]), 7, aCmd 0x28 [(18, 1, 9)], by simp, by unfold Parsed; decide +kernel⟩,
   ⟨has (aCmd 0x2C [(17, 1, 1), (20, 4, 0x11000001), (24, 6, 0x400000)]), 7, aCmd 0x2C [(17, 1, 1), (20, 4, 0x11000001), (24, 6, 0x400000)], by unfold Parsed; decide +kernel⟩,
   ⟨has (aCmd 0x2C [(17, 1, 1), (20, 4, 0x11000001), (24, 6, 0x400000)]) (setF (panBase 0) [(Fld.PAN_CTL_EN, 1)]), 7, aCmd 0x2C [(17, 1, 1), (20, 4, 0x11000001), (24, 6, 0x400000)], by unfold Parsed; decide +kernel⟩,
   ⟨has (aCmd 0x2D) (panReady []), 7, aCmd 0x2D, by unfold Parsed; decide +kernel⟩,
   ⟨has (aCmd 0x2D [(17, 1, 1), (24, 6, 0x10000000)]), 7, aCmd 0x2D [(17, 1, 1), (24, 6, 0x10000000)], by unfold Parsed; decide +kernel⟩⟩

/-- SensorAndTriggerCommands: its clauses’ hypotheses are met. -/
theorem witness_SensorAndTriggerCommands :
  (∃ (s : State) (tg : _) (c : _), (Parsed s tg 0x30 c) ∧ (sensorCheck s c = none) ∧ (bit (c.par 42 1) 0 = true)) ∧
  (∃ (s : State) (tg : _) (c : _), (Parsed s tg 0x30 c) ∧ (sensorCheck s c = none) ∧ (bit (c.par 42 1) 0 = false) ∧ ((s.port (c.par 16 2)).on = false)) ∧
  (∃ (s : State) (tg : _) (c : _), (Parsed s tg 0x30 c) ∧ (sensorCheck s c = none) ∧ (bit (c.par 42 1) 0 = false) ∧ ((s.port (c.par 16 2)).on = true)) ∧
  (∃ (s : State) (tg : _) (c : _) (st : _) (de : _), (Parsed s tg 0x30 c) ∧ (sensorCheck s c = some (st, de))) ∧
  (∃ (s : State) (p : _), (s.ok = true) ∧ ((s.port p).draining = true) ∧ ((s.port p).recs = [])) ∧
  (∃ (s : State) (tg : _) (c : _), (Parsed s tg 0x31 c) ∧ (c.par 16 1 ≤ 15) ∧ (dieHeld s 5 = false) ∧ ((s.port (c.par 16 1)).restart = none) ∧ ((s.port (c.par 16 1)).draining = false) ∧ ((s.port (c.par 16 1)).on = true)) ∧
  (∃ (s : State) (tg : _) (c : _), (Parsed s tg 0x31 c) ∧ (15 < c.par 16 1)) ∧
  (∃ (s : State) (n : _) (tg : _), (s.ok = true) ∧ (n < 16) ∧ ((s.port n).restart = some tg) ∧ ((s.cmd? tg).isSome = true)) ∧
  (∃ (s : State) (n : _) (tg : _), (s.ok = true) ∧ (n < 16) ∧ ((s.port n).restart = some tg) ∧ ((s.cmd? tg).isSome = true)) ∧
  (∃ (s : State) (tg : _) (c : _), (Parsed s tg 0x32 c) ∧ (c.par 20 4 = 272) ∧ (dieHeld s 5 = false) ∧ (trigBad c = none) ∧ (trigRun s = false) ∧ (s.trigNext = none)) ∧
  (∃ (s : State) (tg : _) (c : _), (Parsed s tg 0x32 c) ∧ (c.par 20 4 = 272) ∧ (dieHeld s 5 = false) ∧ (trigBad c = none) ∧ (trigRun s = true) ∧ (s.trigNext = none)) ∧
  (∃ (s : State) (tg : _) (c : _) (o : _), (Parsed s tg 0x32 c) ∧ (c.par 20 4 = 272) ∧ (dieHeld s 5 = false) ∧ (trigBad c = some o)) :=
  ⟨⟨has (aBig 128 0x30 [(16, 2, 0x20), (20, 4, 96), (42, 1, 1), (96, 1, 0x10), (98, 2, 1), (100, 4, 100)]), 7, aBig 128 0x30 [(16, 2, 0x20), (20, 4, 96), (42, 1, 1), (96, 1, 0x10), (98, 2, 1), (100, 4, 100)], by unfold Parsed; decide +kernel⟩,
   ⟨has (aBig 256 0x30 [(16, 2, 3), (20, 4, 192)]), 7, aBig 256 0x30 [(16, 2, 3), (20, 4, 192)], by unfold Parsed; decide +kernel⟩,
   ⟨onPort 3 (fun x => { x with on := true }) (has (aBig 256 0x30 [(16, 2, 3), (20, 4, 192)])), 7, aBig 256 0x30 [(16, 2, 3), (20, 4, 192)], by unfold Parsed; decide +kernel⟩,
   ⟨has (aBig 64 0x30 [(16, 2, 0x17)]), 7, aBig 64 0x30 [(16, 2, 0x17)], 0x13, 16, by unfold Parsed; decide +kernel⟩,
   ⟨onPort 3 (fun x => { x with on := true, draining := true, disTags := [7] }) (has { aBig 256 0x30 [(16, 2, 3), (20, 4, 192)] with phase := .waiting }), 3, by decide +kernel⟩,
   ⟨onPort 3 (fun x => { x with on := true }) (has (aCmd 0x31 [(16, 1, 3)])), 7, aCmd 0x31 [(16, 1, 3)], by unfold Parsed; decide +kernel⟩,
   ⟨has (aCmd 0x31 [(16, 1, 16)]), 7, aCmd 0x31 [(16, 1, 16)], by unfold Parsed; decide +kernel⟩,
   ⟨onPort 3 (fun x => { x with on := true, restart := some 7 }) (has { aCmd 0x31 [(16, 1, 3)] with phase := .waiting }), 3, 7, by decide +kernel⟩,
   ⟨onPort 3 (fun x => { x with on := true, restart := some 7 }) (has { aCmd 0x31 [(16, 1, 3)] with phase := .waiting }), 3, 7, by decide +kernel⟩,
   ⟨has (aBig 304 0x32 [(20, 4, 272), (32, 4, 33333335), (36, 1, 1), (48, 8, 0x100000000001)]), 7, aBig 304 0x32 [(20, 4, 272), (32, 4, 33333335), (36, 1, 1), (48, 8, 0x100000000001)], by unfold Parsed; decide +kernel⟩,
   ⟨setF pchBase [(Fld.PCH_TRIG_STS_RUN, 1)] (has (aBig 304 0x32 [(20, 4, 272), (32, 4, 33333335), (36, 1, 1), (48, 8, 0x100000000001)])), 7, aBig 304 0x32 [(20, 4, 272), (32, 4, 33333335), (36, 1, 1), (48, 8, 0x100000000001)], by unfold Parsed; decide +kernel⟩,
   ⟨has (aBig 304 0x32 [(20, 4, 272), (32, 4, 7), (36, 1, 1)]), 7, aBig 304 0x32 [(20, 4, 272), (32, 4, 7), (36, 1, 1)], 32, by unfold Parsed; decide +kernel⟩⟩

/-- CalibrationCommands: its clauses’ hypotheses are met. -/
theorem witness_CalibrationCommands :
  (∃ (r : (Nat → Instr) × Nat) (s : State) (tg : _) (c : _), (r ∈ [(Instr.calibCamera, 0), (.calibLidar, 1)]) ∧ (Parsed s tg 0x33 c) ∧ (c.par 32 1 = r.2) ∧ (calCheck s r.2 c = none)) ∧
  (∃ (r : (Nat → Instr) × Nat) (s : State) (tg : _) (c : _), (r ∈ [(Instr.calibImu, 2), (.calibWheel, 3)]) ∧ (Parsed s tg 0x33 c) ∧ (c.par 32 1 = r.2) ∧ (calCheck s r.2 c = none) ∧ (s.integ = none)) ∧
  (∃ (r : (Nat → Instr) × Nat) (s : State) (tg : _) (c : _), (r ∈ [(Instr.calibImu, 2), (.calibWheel, 3)]) ∧ (Parsed s tg 0x33 c) ∧ (c.par 32 1 = r.2) ∧ (calCheck s r.2 c = none) ∧ (s.integ.isSome = true)) ∧
  (∃ (s : State) (tg : _) (c : _), (Parsed s tg 0x33 c) ∧ (c.par 32 1 = 4) ∧ (calCheck s 4 c = none) ∧ (bit (c.par 34 1) 0 = true)) ∧
  (∃ (s : State) (tg : _) (c : _), (Parsed s tg 0x33 c) ∧ (c.par 32 1 = 4) ∧ (calCheck s 4 c = none) ∧ (bit (c.par 34 1) 0 = false)) ∧
  (∃ (s : State) (tg : _) (c : _), (Parsed s tg 0x33 c) ∧ (c.par 32 1 = 5) ∧ (calCheck s 5 c = none) ∧ (bit (c.par 34 1) 0 = true)) ∧
  (∃ (s : State) (tg : _) (c : _), (Parsed s tg 0x33 c) ∧ (c.par 32 1 = 5) ∧ (calCheck s 5 c = none) ∧ (bit (c.par 34 1) 0 = false) ∧ (s.proj.isSome = true) ∧ (s.jobs = [])) ∧
  (∃ (r : (Nat → Instr) × Nat) (s : State) (tg : _) (c : _) (st : _) (de : _), (r ∈ [(Instr.calibCamera, 0), (.calibLidar, 1), (.calibImu, 2), (.calibWheel, 3), (.calibIntegrator, 4), (.calibProjection, 5)]) ∧ (Parsed s tg 0x33 c) ∧ (c.par 32 1 = r.2) ∧ (calCheck s r.2 c = some (st, de))) ∧
  (∃ (s : State) (tg : _) (c : _), (Parsed s tg 0x33 c) ∧ (5 < c.par 32 1)) :=
  ⟨⟨((Instr.calibLidar, 1) : (Nat → Instr) × Nat), has (aBig 128 0x33 [(20, 4, 72), (32, 1, 1), (33, 1, 3), (34, 1, 1), (40, 4, 0x3F800000), (70, 2, 4), (72, 2, 1)]), 7, aBig 128 0x33 [(20, 4, 72), (32, 1, 1), (33, 1, 3), (34, 1, 1), (40, 4, 0x3F800000), (70, 2, 4), (72, 2, 1)], by simp, by unfold Parsed; decide +kernel⟩,
   ⟨((Instr.calibWheel, 3) : (Nat → Instr) × Nat), has (aBig 128 0x33 [(20, 4, 96), (32, 1, 3), (34, 1, 1), (124, 1, 1)]), 7, aBig 128 0x33 [(20, 4, 96), (32, 1, 3), (34, 1, 1), (124, 1, 1)], by simp, by unfold Parsed; decide +kernel⟩,
   ⟨((Instr.calibWheel, 3) : (Nat → Instr) × Nat), { has (aBig 128 0x33 [(20, 4, 96), (32, 1, 3), (34, 1, 1), (124, 1, 1)]) with integ := some (Integ.start 0 0 0) }, 7, aBig 128 0x33 [(20, 4, 96), (32, 1, 3), (34, 1, 1), (124, 1, 1)], by simp, by unfold Parsed; decide +kernel⟩,
   ⟨has (aBig 128 0x33 [(20, 4, 56), (32, 1, 4), (34, 1, 1), (40, 6, 0x8000000), (48, 6, 0x9000000), (56, 1, 4), (60, 2, 1)]), 7, aBig 128 0x33 [(20, 4, 56), (32, 1, 4), (34, 1, 1), (40, 6, 0x8000000), (48, 6, 0x9000000), (56, 1, 4), (60, 2, 1)], by unfold Parsed; decide +kernel⟩,
   ⟨{ has (aBig 128 0x33 [(20, 4, 56), (32, 1, 4)]) with integ := some (Integ.start 0 0 0) }, 7, aBig 128 0x33 [(20, 4, 56), (32, 1, 4)], by unfold Parsed; decide +kernel⟩,
   ⟨has (aBig 128 0x33 [(20, 4, 48), (32, 1, 5), (34, 1, 1), (40, 6, 0x8000000), (48, 6, 0x9000000), (56, 1, 7), (57, 1, 5), (62, 2, 1)]), 7, aBig 128 0x33 [(20, 4, 48), (32, 1, 5), (34, 1, 1), (40, 6, 0x8000000), (48, 6, 0x9000000), (56, 1, 7), (57, 1, 5), (62, 2, 1)], by unfold Parsed; decide +kernel⟩,
   ⟨{ has (aBig 128 0x33 [(20, 4, 48), (32, 1, 5)]) with proj := some ⟨0, 0, 0, 0, false, [], false⟩ }, 7, aBig 128 0x33 [(20, 4, 48), (32, 1, 5)], by unfold Parsed; decide +kernel⟩,
   ⟨((Instr.calibLidar, 1) : (Nat → Instr) × Nat), has (aBig 128 0x33 [(20, 4, 72), (32, 1, 1), (33, 1, 4)]), 7, aBig 128 0x33 [(20, 4, 72), (32, 1, 1), (33, 1, 4)], 0x13, 33, by simp, by unfold Parsed; decide +kernel⟩,
   ⟨has (aCmd 0x33 [(32, 1, 6)]), 7, aCmd 0x33 [(32, 1, 6)], by unfold Parsed; decide +kernel⟩⟩

/-- PolicyCommands: its clauses’ hypotheses are met. -/
theorem witness_PolicyCommands :
  (∃ (s : State) (tg : _) (c : _) (i : _), (Parsed s tg 0x38 c) ∧ (c.par 16 1 = i) ∧ (i < 2) ∧ (policyAccepts s i c = true)) ∧
  (∃ (s : State) (tg : _) (c : _) (i : _), (Parsed s tg 0x38 c) ∧ (c.par 16 1 = i) ∧ (i < 2) ∧ (policyAccepts s i c = false)) ∧
  (∃ (s : State) (tg : _) (c : _), (Parsed s tg 0x38 c) ∧ (c.par 16 1 = 2) ∧ (policyAccepts s 0 c = true) ∧ (policyAccepts s 1 c = true)) ∧
  (∃ (s : State) (tg : _) (c : _) (p : Prepared), (s.ok = true) ∧ (s.cmd? tg = some c) ∧ (c.phase = .waiting) ∧ (c.opcode = 0x38) ∧ ((s.isl 0).prep = some p) ∧ ((s.isl 1).prep = some p) ∧ (p.tag = tg)) ∧
  (∃ (s : State) (tg : _) (c : _) (p : Prepared), (s.ok = true) ∧ (s.cmd? tg = some c) ∧ (c.phase = .waiting) ∧ (c.opcode = 0x38) ∧ ((s.isl 0).prep = some p) ∧ (p.tag = tg) ∧ ((s.isl 1).prep = none)) ∧
  (∃ (s : State) (i : _) (p : Prepared), (s.ok = true) ∧ ((s.isl i).prep = some p) ∧ (islRuns s i = true) ∧ (10000 ≤ acnSince s i p.since)) ∧
  (∃ (s : State) (tg : _) (c : _), (Parsed s tg 0x39 c) ∧ (c.par 16 1 ≤ 1) ∧ (c.par 17 1 ≤ 4) ∧ (c.par 18 2 < policyEntries (c.par 17 1)) ∧ (inWin0 s (c.par 24 6) (c.par 32 4) = true) ∧ ((s.isl (c.par 16 1)).powered = true)) ∧
  (∃ (s : State) (tg : _) (c : _), (Parsed s tg 0x39 c) ∧ (c.par 16 1 ≤ 1) ∧ (4 < c.par 17 1)) ∧
  (∃ (s : State) (tg : _) (c : _), (Parsed s tg 0x3A c) ∧ (c.par 16 1 ≤ 1) ∧ (islRuns s (c.par 16 1) = true) ∧ (authorised s (c.par 16 1) c.ctx c.ctxGen = true) ∧ ((∃ e ∈ (s.isl (c.par 16 1)).latch, e.seq = c.par 20 4 ∧ e.acked = false))) ∧
  (∃ (s : State) (tg : _) (c : _), (Parsed s tg 0x3A c) ∧ (c.par 16 1 ≤ 1) ∧ (islRuns s (c.par 16 1) = false)) :=
  ⟨⟨has (aCmd 0x38 [(18, 1, 3), (20, 1, 16), (32, 4, 0x694b992b), (36, 4, 9), (40, 2, 5)]) (setF (acnBase 0) [(Fld.ACN_STS_STATE, 2)] (setF (acnBase 1) [(Fld.ACN_STS_STATE, 2)])), 7, aCmd 0x38 [(18, 1, 3), (20, 1, 16), (32, 4, 0x694b992b), (36, 4, 9), (40, 2, 5)], 0, by unfold Parsed; decide +kernel⟩,
   ⟨has (aCmd 0x38 [(18, 1, 3), (20, 1, 16), (32, 4, 0x694b992b), (36, 4, 9), (40, 2, 5)]), 7, aCmd 0x38 [(18, 1, 3), (20, 1, 16), (32, 4, 0x694b992b), (36, 4, 9), (40, 2, 5)], 0, by unfold Parsed; decide +kernel⟩,
   ⟨has (aCmd 0x38 [(16, 1, 2), (18, 1, 3), (20, 1, 16), (32, 4, 0x88bff426), (36, 4, 9), (40, 2, 5)]) (setF (acnBase 0) [(Fld.ACN_STS_STATE, 2)] (setF (acnBase 1) [(Fld.ACN_STS_STATE, 2)])), 7, aCmd 0x38 [(16, 1, 2), (18, 1, 3), (20, 1, 16), (32, 4, 0x88bff426), (36, 4, 9), (40, 2, 5)], by unfold Parsed; decide +kernel⟩,
   ⟨{ has ({ aCmd 0x38 with phase := .waiting }) (setF (acnBase 0) [(Fld.ACN_STS_STATE, 2)] (setF (acnBase 1) [(Fld.ACN_STS_STATE, 2)])) with islands := [(0, { Island.reset with prep := some (⟨0, 3, List.replicate 128 0, 9, 0, 7⟩ : Prepared) }), (1, { Island.reset with prep := some (⟨0, 3, List.replicate 128 0, 9, 0, 7⟩ : Prepared) })] }, 7, { aCmd 0x38 with phase := .waiting }, (⟨0, 3, List.replicate 128 0, 9, 0, 7⟩ : Prepared), by decide +kernel⟩,
   ⟨{ has ({ aCmd 0x38 with phase := .waiting }) (setF (acnBase 0) [(Fld.ACN_STS_STATE, 2)] (setF (acnBase 1) [(Fld.ACN_STS_STATE, 2)])) with islands := [(0, { Island.reset with prep := some (⟨0, 3, List.replicate 128 0, 9, 0, 7⟩ : Prepared) })] }, 7, { aCmd 0x38 with phase := .waiting }, (⟨0, 3, List.replicate 128 0, 9, 0, 7⟩ : Prepared), by decide +kernel⟩,
   ⟨{ setF (acnBase 1) [(Fld.ACN_US_COUNT, 10000)] (setF (acnBase 0) [(Fld.ACN_STS_STATE, 2)] (setF (acnBase 1) [(Fld.ACN_STS_STATE, 2)])) with islands := [(1, { Island.reset with prep := some (⟨0, 3, List.replicate 128 0, 9, 0, 7⟩ : Prepared) })] }, 1, (⟨0, 3, List.replicate 128 0, 9, 0, 7⟩ : Prepared), by decide +kernel⟩,
   ⟨has (aCmd 0x39 [(17, 1, 1), (18, 1, 4), (24, 4, 0x10000), (32, 4, 64)]) (hosted), 7, aCmd 0x39 [(17, 1, 1), (18, 1, 4), (24, 4, 0x10000), (32, 4, 64)], by unfold Parsed; decide +kernel⟩,
   ⟨has (aCmd 0x39 [(17, 1, 5)]), 7, aCmd 0x39 [(17, 1, 5)], by unfold Parsed; decide +kernel⟩,
   ⟨{ has (aCmd 0x3A [(20, 4, 6)]) (setF (acnBase 0) [(Fld.ACN_STS_STATE, 2)] (setF (acnBase 1) [(Fld.ACN_STS_STATE, 2)])) with islands := [(0, { Island.reset with latch := [⟨6, 4, 0, false, false⟩] })] }, 7, aCmd 0x3A [(20, 4, 6)], by unfold Parsed; decide +kernel⟩,
   ⟨has (aCmd 0x3A), 7, aCmd 0x3A, by unfold Parsed; decide +kernel⟩⟩

/-- PowerAndUnitCommands: its clauses’ hypotheses are met. -/
theorem witness_PowerAndUnitCommands :
  (∃ (s : State) (tg : _) (c : _), (Parsed s tg 0x40 c) ∧ (c.par 16 1 = 0) ∧ (s.fg rstIBase Fld.RST_PKG_STS_CAUSE ≠ 3)) ∧
  (∃ (s : State) (tg : _) (c : _), (Parsed s tg 0x40 c) ∧ (c.par 16 1 = 1)) ∧
  (∃ (s : State) (tg : _) (c : _), (Parsed s tg 0x40 c) ∧ (c.par 16 1 = 2) ∧ ((∀ x ∈ namedClusters s c, cluReserved s x = false))) ∧
  (∃ (s : State) (tg : _) (c : _), (Parsed s tg 0x40 c) ∧ (c.par 16 1 = 2) ∧ ((∃ x ∈ namedClusters s c, cluReserved s x = true))) ∧
  (∃ (s : State) (tg : _) (c : _), (Parsed s tg 0x40 c) ∧ (c.par 16 1 = 3) ∧ (anyStep s = false) ∧ (s.upd = none)) ∧
  (∃ (s : State) (tg : _) (c : _), (Parsed s tg 0x40 c) ∧ (c.par 16 1 = 3) ∧ (anyStep s = true)) ∧
  (∃ (s : State) (tg : _), (s.cellar = 1) ∧ (s.cmd? tg = none) ∧ (anyStep s = false)) ∧
  (∃ (s : State), (s.ok = true) ∧ ((∀ c ∈ s.napWait, c < 32))) ∧
  (∃ (s : State), (s.cellar = 3)) ∧
  (∃ (s : State) (tg : _) (c : _), (Parsed s tg 0x41 c)) ∧
  (∃ (s : State) (tg : _) (c : _), (Parsed s tg 0x48 c) ∧ (unitCheck s (c.par 16 2) = none)) ∧
  (∃ (s : State) (tg : _) (c : _), (Parsed s tg 0x49 c) ∧ (unitCheck s (c.par 16 2) = none) ∧ (bits (c.par 16 2) 15 14 < 2)) ∧
  (∃ (s : State) (tg : _) (c : _), (Parsed s tg 0x4A c) ∧ (unitCheck s (c.par 16 2) = none) ∧ (bits (c.par 16 2) 15 14 = 0)) ∧
  (∃ (r : (Nat → Instr) × Nat) (s : State) (tg : _) (c : _) (st : _) (de : _), (r ∈ [(Instr.unitFence, 0x48), (.unitReturn, 0x49), (.unitReset, 0x4A)]) ∧ (Parsed s tg r.2 c) ∧ (unitCheck s (c.par 16 2) = some (st, de))) ∧
  (∃ (s : State) (tg : _) (c : _), (Parsed s tg 0x4B c) ∧ (s.dump = none)) ∧
  (∃ (s : State) (tg : _) (c : _), (Parsed s tg 0x4B c) ∧ (s.dump.isSome = true)) :=
  ⟨⟨{ has (aCmd 0x40 [(20, 4, 3)]) with dozeHold := [1] }, 7, aCmd 0x40 [(20, 4, 3)], by unfold Parsed; decide +kernel⟩,
   ⟨has (aCmd 0x40 [(16, 1, 1), (20, 4, 3)]), 7, aCmd 0x40 [(16, 1, 1), (20, 4, 3)], by unfold Parsed; decide +kernel⟩,
   ⟨has (aCmd 0x40 [(16, 1, 2), (20, 4, 3)]), 7, aCmd 0x40 [(16, 1, 2), (20, 4, 3)], by unfold Parsed; decide +kernel⟩,
   ⟨{ has (aCmd 0x40 [(16, 1, 2), (20, 4, 3)]) with resvs := [(1, ⟨0, 0, 1, 1000, 0, [[9]], false⟩)] }, 7, aCmd 0x40 [(16, 1, 2), (20, 4, 3)], by unfold Parsed; decide +kernel⟩,
   ⟨has (aCmd 0x40 [(16, 1, 3)]), 7, aCmd 0x40 [(16, 1, 3)], by unfold Parsed; decide +kernel⟩,
   ⟨(has (aCmd 0x40 [(16, 1, 3)])).setCmd 8 { aCmd 0x18 with phase := .running, step := some (aStep [0]) }, 7, aCmd 0x40 [(16, 1, 3)], by unfold Parsed; decide +kernel⟩,
   ⟨{ State.reset with cellar := 1 }, 7, by decide +kernel⟩,
   ⟨{ State.reset with napWait := [3] }, by decide +kernel⟩,
   ⟨{ State.reset with cellar := 3 }, by decide +kernel⟩,
   ⟨has (aCmd 0x41 [(16, 4, 150)]), 7, aCmd 0x41 [(16, 4, 150)], by unfold Parsed; decide +kernel⟩,
   ⟨has (aCmd 0x48 [(16, 2, 0x40)]), 7, aCmd 0x48 [(16, 2, 0x40)], by unfold Parsed; decide +kernel⟩,
   ⟨has (aCmd 0x49 [(16, 2, 0x40)]), 7, aCmd 0x49 [(16, 2, 0x40)], by unfold Parsed; decide +kernel⟩,
   ⟨has (aCmd 0x4A [(16, 2, 0x40)]), 7, aCmd 0x4A [(16, 2, 0x40)], by unfold Parsed; decide +kernel⟩,
   ⟨((Instr.unitFence, 0x48) : (Nat → Instr) × Nat), has (aCmd 0x48 [(16, 2, 0xC000)]), 7, aCmd 0x48 [(16, 2, 0xC000)], 0x13, 16, by simp, by unfold Parsed; decide +kernel⟩,
   ⟨has (aCmd 0x4B), 7, aCmd 0x4B, by unfold Parsed; decide +kernel⟩,
   ⟨{ has (aCmd 0x4B) with dump := some ⟨0, none, [(0, 3)], 0, 0, 0, 0, 0⟩ }, 7, aCmd 0x4B, by unfold Parsed; decide +kernel⟩⟩

/-- UpdateSpanAndTelemetryCommands: its clauses’ hypotheses are met. -/
theorem witness_UpdateSpanAndTelemetryCommands :
  (∃ (s : State) (tg : _) (c : _), (Parsed s tg 0x50 c) ∧ (inWin0 s (c.par 48 6) (c.par 56 4) = true) ∧ (50880 ≤ c.par 56 4)) ∧
  (∃ (s : State) (tg : _) (c : _), (Parsed s tg 0x50 c) ∧ (inWin0 s (c.par 48 6) (c.par 56 4) = true) ∧ (c.par 56 4 < 50880)) ∧
  (∃ (s : State) (tg : _) (c : _), (Parsed s tg 0x51 c) ∧ (0 < c.par 16 4) ∧ (c.par 16 4 ≤ 127) ∧ (c.par 20 4 ≤ 0x4000000) ∧ (s.upd = none)) ∧
  (∃ (s : State) (tg : _) (c : _) (u : UpdSession), (Parsed s tg 0x51 c) ∧ (0 < c.par 16 4) ∧ (c.par 16 4 ≤ 127) ∧ (c.par 20 4 ≤ 0x4000000) ∧ (s.upd = some u)) ∧
  (∃ (s : State) (tg : _) (c : _) (u : UpdSession), (Parsed s tg 0x52 c) ∧ (sessionOf s c = some u) ∧ (c.par 20 4 % 16 = 0) ∧ (16 ≤ c.par 20 4) ∧ (c.par 20 4 ≤ 8160) ∧ (c.par 24 8 % 16 = 0) ∧ (c.par 24 8 + c.par 20 4 ≤ u.total) ∧ (u.stage < 2)) ∧
  (∃ (s : State) (tg : _) (c : _) (u : _) (slots : _), (Parsed s tg 0x53 c) ∧ (sessionOf s c = some u) ∧ (u.stage < 2) ∧ (staged u = true) ∧ (splitStage s u.total (unitsOf u.units) 0 0 [] = .ok slots)) ∧
  (∃ (s : State) (tg : _) (c : _) (u : UpdSession), (Parsed s tg 0x53 c) ∧ (sessionOf s c = some u) ∧ (u.stage < 2) ∧ (staged u = false)) ∧
  (∃ (s : State) (tg : _) (bad : List Nat) (c : _) (u : _) (w : _), (s.cmd? tg = some c) ∧ (c.opcode = 0x53) ∧ (c.phase = .waiting) ∧ (sessionOf s c = some u) ∧ (bootHeld s = false) ∧ (writeSlots bad u.slots s = (none, w))) ∧
  (∃ (s : State) (tg : _) (c : _) (u : _), (Parsed s tg 0x54 c) ∧ (sessionOf s c = some u) ∧ (u.stage = 4) ∧ (anyStep s = false)) ∧
  (∃ (s : State) (tg : _) (c : _) (u : UpdSession), (Parsed s tg 0x54 c) ∧ (sessionOf s c = some u) ∧ (u.stage ≠ 4)) ∧
  (∃ (s : State) (a : ActRec) (m : _), (s.act = some a) ∧ (hostModule s = some m) ∧ ((∀ u ∈ unitsOf a.units, unitSettled s a u = true))) ∧
  (∃ (s : State) (tg : _) (c : _), (Parsed s tg 0x58 c) ∧ (c.par 16 2 ≠ 0xFFF) ∧ ((s.spnFixed = false ∨ c.par 16 2 = s.fg spnBase Fld.SPN_PKG_ID_ID)) ∧ (c.par 18 1 ≤ 2) ∧ (c.par 19 1 ≤ 2) ∧ (c.par 20 4 < 2 ^ 20)) ∧
  (∃ (s : State) (tg : _) (c : _), (Parsed s tg 0x58 c) ∧ (c.par 16 2 = 0xFFF)) ∧
  (∃ (s : State) (tg : _) (c : _), (Parsed s tg 0x59 c) ∧ (c.par 16 1 ≤ 7) ∧ (c.par 20 6 % 2 ^ 20 = 0) ∧ ((c.par 20 6 + c.par 28 4 * 2 ^ 20 ≤ 0x002000000000 ∨ 0x004000000000 ≤ c.par 20 6 ∧ c.par 20 6 + c.par 28 4 * 2 ^ 20 ≤ 0x004800000000)) ∧ (windowForbidden s (c.par 20 6) (c.par 28 4 * 2 ^ 20) false = false) ∧ (c.par 28 4 < 2 ^ 18)) ∧
  (∃ (r : (Nat → Instr) × Nat) (s : State) (tg : _) (c : _), (r ∈ [(Instr.telemetryCounters, 0), (.telemetryPower, 1), (.telemetryErrorLogs, 2)]) ∧ (Parsed s tg 0x60 c) ∧ (telemetryCheck s c = none) ∧ (c.par 28 1 = r.2)) ∧
  (∃ (r : (Nat → Instr) × Nat) (s : State) (tg : _) (c : _) (st : _) (de : _), (r ∈ [(Instr.telemetryCounters, 0), (.telemetryPower, 1), (.telemetryErrorLogs, 2)]) ∧ (Parsed s tg 0x60 c) ∧ (telemetryCheck s c = some (st, de))) :=
  ⟨⟨has (aCmd 0x50 [(48, 6, 0x10000), (56, 4, 50880)]) (hosted), 7, aCmd 0x50 [(48, 6, 0x10000), (56, 4, 50880)], by unfold Parsed; decide +kernel⟩,
   ⟨has (aCmd 0x50 [(48, 6, 0x10000), (56, 4, 4096)]) (hosted), 7, aCmd 0x50 [(48, 6, 0x10000), (56, 4, 4096)], by unfold Parsed; decide +kernel⟩,
   ⟨has (aCmd 0x51 [(16, 4, 2), (20, 4, 8160)]), 7, aCmd 0x51 [(16, 4, 2), (20, 4, 8160)], by unfold Parsed; decide +kernel⟩,
   ⟨{ has (aCmd 0x51 [(16, 4, 2), (20, 4, 8160)]) with upd := some (⟨4, 2, 8160, [], 1, []⟩ : UpdSession) }, 7, aCmd 0x51 [(16, 4, 2), (20, 4, 8160)], (⟨4, 2, 8160, [], 1, []⟩ : UpdSession), by unfold Parsed; decide +kernel⟩,
   ⟨{ has (aCmd 0x52 [(16, 4, 4), (20, 4, 16), (24, 8, 32)]) with upd := some (⟨4, 2, 8160, [], 1, []⟩ : UpdSession) }, 7, aCmd 0x52 [(16, 4, 4), (20, 4, 16), (24, 8, 32)], (⟨4, 2, 8160, [], 1, []⟩ : UpdSession), by unfold Parsed; decide +kernel⟩,
   ⟨{ has (aCmd 0x53 [(16, 4, 4)]) with upd := some { (⟨4, 2, 8160, [], 1, []⟩ : UpdSession) with units := 0, total := 0 } }, 7, aCmd 0x53 [(16, 4, 4)], { (⟨4, 2, 8160, [], 1, []⟩ : UpdSession) with units := 0, total := 0 }, [], by unfold Parsed; decide +kernel⟩,
   ⟨{ has (aCmd 0x53 [(16, 4, 4)]) with upd := some (⟨4, 2, 8160, [], 1, []⟩ : UpdSession) }, 7, aCmd 0x53 [(16, 4, 4)], (⟨4, 2, 8160, [], 1, []⟩ : UpdSession), by unfold Parsed; decide +kernel⟩,
   ⟨{ has { aCmd 0x53 [(16, 4, 4)] with phase := .waiting } with upd := some { (⟨4, 2, 8160, [], 1, []⟩ : UpdSession) with stage := 3 } }, 7, ([] : List Nat), { aCmd 0x53 [(16, 4, 4)] with phase := .waiting }, { (⟨4, 2, 8160, [], 1, []⟩ : UpdSession) with stage := 3 }, { has { aCmd 0x53 [(16, 4, 4)] with phase := .waiting } with upd := some { (⟨4, 2, 8160, [], 1, []⟩ : UpdSession) with stage := 3 } }, by decide +kernel⟩,
   ⟨{ has (aCmd 0x54 [(16, 4, 4)]) with upd := some { (⟨4, 2, 8160, [], 1, []⟩ : UpdSession) with stage := 4 } }, 7, aCmd 0x54 [(16, 4, 4)], { (⟨4, 2, 8160, [], 1, []⟩ : UpdSession) with stage := 4 }, by unfold Parsed; decide +kernel⟩,
   ⟨{ has (aCmd 0x54 [(16, 4, 4)]) with upd := some (⟨4, 2, 8160, [], 1, []⟩ : UpdSession) }, 7, aCmd 0x54 [(16, 4, 4)], (⟨4, 2, 8160, [], 1, []⟩ : UpdSession), by unfold Parsed; decide +kernel⟩,
   ⟨{ setF secBase [(Fld.SEC_UNITS_RUNNING, 2)] hosted with act := some (⟨7, 0, 0, 0, 0, 0x8000, 6, 0, 0, 0, 2, 0, 0⟩ : ActRec) }, (⟨7, 0, 0, 0, 0, 0x8000, 6, 0, 0, 0, 2, 0, 0⟩ : ActRec), 0, by decide +kernel⟩,
   ⟨has (aCmd 0x58 [(16, 2, 5), (20, 4, 1000)]), 7, aCmd 0x58 [(16, 2, 5), (20, 4, 1000)], by unfold Parsed; decide +kernel⟩,
   ⟨has (aCmd 0x58 [(16, 2, 0xFFF)]), 7, aCmd 0x58 [(16, 2, 0xFFF)], by unfold Parsed; decide +kernel⟩,
   ⟨has (aCmd 0x59 [(16, 1, 3), (20, 4, 0x10000000), (28, 4, 16)]), 7, aCmd 0x59 [(16, 1, 3), (20, 4, 0x10000000), (28, 4, 16)], by unfold Parsed; decide +kernel⟩,
   ⟨((Instr.telemetryErrorLogs, 2) : (Nat → Instr) × Nat), has (aCmd 0x60 [(16, 4, 0x10000), (24, 4, 64), (28, 1, 2)]) (hosted), 7, aCmd 0x60 [(16, 4, 0x10000), (24, 4, 64), (28, 1, 2)], by simp, by unfold Parsed; decide +kernel⟩,
   ⟨((Instr.telemetryErrorLogs, 2) : (Nat → Instr) × Nat), has (aCmd 0x60 [(28, 1, 3)]), 7, aCmd 0x60 [(28, 1, 3)], 0x13, 28, by simp, by unfold Parsed; decide +kernel⟩⟩

/-- ThresholdDecides: its clauses’ hypotheses are met. -/
theorem witness_ThresholdDecides :
  (∃ (s : State) (tg : _) (c : _) (r : _), (s.ok = true) ∧ (s.cmd? tg = some c) ∧ (c.step = some r) ∧ (c.phase = .admitting) ∧ (r.link = 0) ∧ (inTurn s c.order = true) ∧ (admitCheck s c r = none) ∧ (r.budget = 0)) ∧
  (∃ (s : State) (tg : _) (c : _) (r : _) (a : _) (ks : _), (s.ok = true) ∧ (s.cmd? tg = some c) ∧ (c.step = some r) ∧ (c.phase = .admitting) ∧ (r.link = 0) ∧ (inTurn s c.order = true) ∧ (admitCheck s c r = none) ∧ (0 < r.budget) ∧ (fit s s.nowUs [needOf s r []] = some (a, [ks])) ∧ (fitFull s [ks] = false) ∧ (a + chargeUs s (stepImg s r) ≤ s.nowUs + r.budget)) ∧
  (∃ (s : State) (tg : _) (c : _) (r : _) (a : _) (ks : _), (s.ok = true) ∧ (s.cmd? tg = some c) ∧ (c.step = some r) ∧ (c.phase = .admitting) ∧ (r.link = 0) ∧ (inTurn s c.order = true) ∧ (admitCheck s c r = none) ∧ (0 < r.budget) ∧ (fit s s.nowUs [needOf s r []] = some (a, [ks])) ∧ (fitFull s [ks] = true)) ∧
  (∃ (s : State) (tg : _) (c : _) (r : _), (s.ok = true) ∧ (s.cmd? tg = some c) ∧ (c.step = some r) ∧ (c.phase = .admitting) ∧ (r.link = 0) ∧ (inTurn s c.order = true) ∧ (admitCheck s c r = none) ∧ (0 < r.budget) ∧ (fit s s.nowUs [needOf s r []] = none)) ∧
  (∃ (s : State) (tg : _) (c : _) (r : _) (st : _) (de : _), (s.ok = true) ∧ (s.cmd? tg = some c) ∧ (c.step = some r) ∧ (c.phase = .admitting) ∧ (r.link = 0) ∧ (inTurn s c.order = true) ∧ (admitCheck s c r = some (st, de))) ∧
  (∃ (s : State) (tg : _) (c : _) (r : _), (ksorted none s.cmds = true) ∧ (s.cmd? tg = some c) ∧ (c.step = some r) ∧ (c.phase = .admitting) ∧ (heldForLink s tg c r = true) ∧ (s.fg admBase Fld.ADM_PAIR_US ≤ s.nowUs - (linkGroup s tg c r).foldl (fun m x => min m x.2.1.parsedUs) c.parsedUs)) ∧
  (∃ (s : State) (tg : _) (c : _) (r : _), (s.cmd? tg = some c) ∧ (c.step = some r) ∧ (c.phase = .booked) ∧ (r.booking = true) ∧ (r.begun = false) ∧ (r.start ≤ s.nowUs) ∧ (heldByBooked s tg r = false) ∧ (s.fb dspBase Fld.DSP_CTL_EN = true) ∧ (victimsOf s tg r = []) ∧ (conflictSet s r = [])) ∧
  (∃ (s : State) (tg : _) (c : _) (r : _), (s.cmd? tg = some c) ∧ (c.step = some r) ∧ (c.phase = .booked) ∧ (r.booking = true) ∧ (r.begun = false) ∧ (s.nowUs < r.start) ∧ ((∀ k ∈ r.cores, coreFree s tg k = true)) ∧ (resourcesFree s tg r r.cores = true) ∧ (otherBefore s tg r r.start = false) ∧ (s.fb dspBase Fld.DSP_CTL_EN = true)) ∧
  (∃ (s : State) (ps : List ((Nat × Cmd × StepRec) × List Nat)), (bestResume s = none) ∧ (s.fb dspBase Fld.DSP_CTL_EN = true) ∧ (nextPlacement s = some ps)) ∧
  (∃ (s : State) (e : Nat × Cmd × StepRec), (bestResume s = some e)) ∧
  (∃ (s : State) (tg : _) (c : _) (r : _), (s.ok = true) ∧ (s.cmd? tg = some c) ∧ (c.step = some r) ∧ (c.phase = .running) ∧ (r.booking = true) ∧ (r.start + r.charge ≤ s.nowUs)) ∧
  (∃ (s : State), (s.ok = true) ∧ (ksorted none s.cmds = true) ∧ (suspendCause s = true) ∧ (s.fb admBase Fld.ADM_STS_SUSPENDED = false)) ∧
  (∃ (s : State) (tg : _) (c : _) (r : _), (s.ok = true) ∧ (ksorted none s.cmds = true) ∧ (suspendCause s = true) ∧ (s.fb admBase Fld.ADM_STS_SUSPENDED = false) ∧ (s.cmd? tg = some c) ∧ (c.step = some r) ∧ (c.phase = .booked) ∧ (r.begun = true)) ∧
  (∃ (s : State), (s.ok = true) ∧ (suspendCause s = false) ∧ (s.fb admBase Fld.ADM_STS_SUSPENDED = true)) ∧
  (∃ (s : State) (ini : _) (l : _), (Admits s ini (admBase + Reg.ADM_FAULT) l)) :=
  ⟨⟨has ({ aCmd 0x18 with phase := .admitting, step := some { aStep [] with image := 1, bases := [0x9000000], begun := false, reexec := .none } }) (usable [0, 1] (imaged true)), 7, { aCmd 0x18 with phase := .admitting, step := some { aStep [] with image := 1, bases := [0x9000000], begun := false, reexec := .none } }, { aStep [] with image := 1, bases := [0x9000000], begun := false, reexec := .none }, by decide +kernel⟩,
   ⟨has ({ aCmd 0x18 with phase := .admitting, cls := 4, step := some { aStep [] with image := 1, bases := [0x9000000], budget := 1000, begun := false, reexec := .none } }) (usable [0, 1] (imaged true)), 7, { aCmd 0x18 with phase := .admitting, cls := 4, step := some { aStep [] with image := 1, bases := [0x9000000], budget := 1000, begun := false, reexec := .none } }, { aStep [] with image := 1, bases := [0x9000000], budget := 1000, begun := false, reexec := .none }, 0, [0], by decide +kernel⟩,
   ⟨booked16 (has ({ aCmd 0x18 with phase := .admitting, cls := 4, step := some { aStep [] with image := 1, bases := [0x9000000], budget := 1000, begun := false, reexec := .none } }) (usable [0] (imaged true))), 7, { aCmd 0x18 with phase := .admitting, cls := 4, step := some { aStep [] with image := 1, bases := [0x9000000], budget := 1000, begun := false, reexec := .none } }, { aStep [] with image := 1, bases := [0x9000000], budget := 1000, begun := false, reexec := .none }, 160, [0], by decide +kernel⟩,
   ⟨{ has ({ aCmd 0x18 with phase := .admitting, cls := 4, step := some { aStep [] with image := 1, bases := [0x9000000], budget := 1000, begun := false, reexec := .none } }) (usable [0] (imaged true)) with resvs := [(1, ⟨0, 0, 1, 1000, 0, [[0]], false⟩)] }, 7, { aCmd 0x18 with phase := .admitting, cls := 4, step := some { aStep [] with image := 1, bases := [0x9000000], budget := 1000, begun := false, reexec := .none } }, { aStep [] with image := 1, bases := [0x9000000], budget := 1000, begun := false, reexec := .none }, by
    refine ⟨?_, ?_, ?_, ?_, ?_, ?_, ?_, ?_, fit_none ?_⟩ <;> decide +kernel⟩,
   ⟨has ({ aCmd 0x18 with phase := .admitting, step := some { aStep [] with image := 1, bases := [0x9000000], begun := false, reexec := .none } }) (imaged true), 7, { aCmd 0x18 with phase := .admitting, step := some { aStep [] with image := 1, bases := [0x9000000], begun := false, reexec := .none } }, { aStep [] with image := 1, bases := [0x9000000], begun := false, reexec := .none }, 0x26, 0, by decide +kernel⟩,
   ⟨has ({ aCmd 0x18 with phase := .admitting, step := some { aStep [] with image := 1, link := 5, begun := false, reexec := .none } }) (setF admBase [(Fld.ADM_NOW_LO_COUNT, 100000)] ({ ((State.reset.mwr 0x8000006 [1]).mwr 0x8000040 (bytesAt 16 [(0, 1, 5), (4, 4, 256), (12, 4, 1)])).mwr 0x8000100 [1] with images := [(1, ⟨0x8000000, 4864, 100⟩)] })), 7, { aCmd 0x18 with phase := .admitting, step := some { aStep [] with image := 1, link := 5, begun := false, reexec := .none } }, { aStep [] with image := 1, link := 5, begun := false, reexec := .none }, by decide +kernel⟩,
   ⟨has ({ aCmd 0x18 with phase := .booked, step := some { aStep [0] with booking := true, begun := false } }) (setF dspBase [(Fld.DSP_CTL_EN, 1)]), 7, { aCmd 0x18 with phase := .booked, step := some { aStep [0] with booking := true, begun := false } }, { aStep [0] with booking := true, begun := false }, by decide +kernel⟩,
   ⟨has ({ aCmd 0x18 with phase := .booked, step := some { aStep [0] with booking := true, begun := false, start := 10, charge := 30 } }) (setF dspBase [(Fld.DSP_CTL_EN, 1)]), 7, { aCmd 0x18 with phase := .booked, step := some { aStep [0] with booking := true, begun := false, start := 10, charge := 30 } }, { aStep [0] with booking := true, begun := false, start := 10, charge := 30 }, by decide +kernel⟩,
   ⟨has ({ aCmd 0x18 with phase := .queued, step := some { aStep [] with image := 1, bases := [0x9000000], begun := false, reexec := .none } }) (setF dspBase [(Fld.DSP_CTL_EN, 1)] (usable [0, 1] (imaged true))), ([((7, { aCmd 0x18 with phase := .queued, step := some { aStep [] with image := 1, bases := [0x9000000], begun := false, reexec := .none } }, { aStep [] with image := 1, bases := [0x9000000], begun := false, reexec := .none }), [0])] : List ((Nat × Cmd × StepRec) × List Nat)), by decide +kernel⟩,
   ⟨has ({ aCmd 0x18 with phase := .preempted, step := some { aStep [0] with saved := [0] } }) (setF dspBase [(Fld.DSP_CTL_EN, 1)] (usable [0] (imaged true))), ((7, { aCmd 0x18 with phase := .preempted, step := some { aStep [0] with saved := [0] } }, { aStep [0] with saved := [0] }) : Nat × Cmd × StepRec), by decide +kernel⟩,
   ⟨has ({ aCmd 0x18 with phase := .running, step := some { aStep [0] with booking := true } }), 7, { aCmd 0x18 with phase := .running, step := some { aStep [0] with booking := true } }, { aStep [0] with booking := true }, by decide +kernel⟩,
   ⟨has ({ aCmd 0x18 with phase := .booked, step := some { aStep [0] with booking := true, begun := false } }) (setF admBase [(Fld.ADM_CTL_SUSPEND, 1)]), by decide +kernel⟩,
   ⟨(has ({ aCmd 0x18 with phase := .booked, step := some { aStep [0] with booking := true, begun := true } }) (setF admBase [(Fld.ADM_CTL_SUSPEND, 1)])), 7, { aCmd 0x18 with phase := .booked, step := some { aStep [0] with booking := true, begun := true } }, { aStep [0] with booking := true, begun := true }, by decide +kernel⟩,
   ⟨setF admBase [(Fld.ADM_STS_SUSPENDED, 1)], by decide +kernel⟩,
   ⟨State.reset, 0x800, loc (admBase + Reg.ADM_FAULT), by unfold Admits; decide +kernel⟩⟩

/-- SemaphoreUnitsServe: its clauses’ hypotheses are met. -/
theorem witness_SemaphoreUnitsServe :
  (∃ (s : State) (d : _) (m : SemMsg) (k : _), (s.ok = true) ∧ (firstSem s d = some m) ∧ (m.op = 0) ∧ (m.src = .core k) ∧ (semReached s m = true) ∧ (mayOperate s m = true) ∧ (m.hold = false) ∧ (0 < semValue s m.sem)) ∧
  (∃ (s : State) (d : _) (m : SemMsg) (k : _), (s.ok = true) ∧ (firstSem s d = some m) ∧ (m.op = 0) ∧ (m.src = .core k) ∧ (semReached s m = true) ∧ (mayOperate s m = true) ∧ (m.hold = false) ∧ (semValue s m.sem = 0)) ∧
  (∃ (s : State) (d : _) (m : SemMsg) (k : _), (s.ok = true) ∧ (firstSem s d = some m) ∧ (m.op = 2) ∧ (m.src = .core k) ∧ (semReached s m = true) ∧ (mayOperate s m = true) ∧ (semValue s m.sem = 0)) ∧
  (∃ (s : State) (d : _) (m : SemMsg) (k : _), (s.ok = true) ∧ (firstSem s d = some m) ∧ (m.op = 2) ∧ (m.src = .core k) ∧ (semReached s m = true) ∧ (mayOperate s m = true) ∧ (m.hold = false) ∧ (0 < semValue s m.sem)) ∧
  (∃ (s : State) (d : _) (m : SemMsg) (k : _), (s.ok = true) ∧ (firstSem s d = some m) ∧ (m.op = 1) ∧ (m.src = .core k) ∧ (semReached s m = true) ∧ (mayOperate s m = true) ∧ (semValue s m.sem + 1 < 2 ^ 31) ∧ (s.waiters = []) ∧ (holdRec s m.sem m.tag m.gen = none) ∧ (s.cmd? m.tag = none)) ∧
  (∃ (s : State) (d : _) (m : SemMsg) (g : _), (s.ok = true) ∧ (firstSem s d = some m) ∧ (m.op = 3) ∧ (m.src = .cmd g) ∧ (semReached s m = true) ∧ (mayOperate s m = true) ∧ (semValue s m.sem + m.count < 2 ^ 31) ∧ (s.waiters = []) ∧ ((s.cmd? g).isSome = true)) ∧
  (∃ (s : State) (d : _) (m : SemMsg) (k : _), (s.ok = true) ∧ (firstSem s d = some m) ∧ (m.op = 3) ∧ (m.src = .core k) ∧ (semReached s m = true) ∧ (mayOperate s m = true) ∧ (2 ^ 31 ≤ semValue s m.sem + m.count)) ∧
  (∃ (r : (Nat → Instr) × Nat) (s : State) (d : _) (m : SemMsg) (k : _), (r ∈ [(Instr.semunitWait, 0), (.semunitSignal, 1), (.semunitTryWait, 2), (.semunitSignalN, 3)]) ∧ (s.ok = true) ∧ (firstSem s d = some m) ∧ (m.op = r.2) ∧ (m.src = .core k) ∧ (semReached s m = true) ∧ (mayOperate s m = false)) ∧
  (∃ (r : (Nat → Instr) × Nat) (s : State) (d : _) (m : SemMsg) (k : _), (r ∈ [(Instr.semunitWait, 0), (.semunitSignal, 1), (.semunitTryWait, 2), (.semunitSignalN, 3)]) ∧ (s.ok = true) ∧ (firstSem s d = some m) ∧ (m.op = r.2) ∧ (m.src = .core k) ∧ (semReached s m = false)) ∧
  (∃ (s : State) (d : _) (m : SemMsg) (k : _) (w : Waiter), (firstSem s d = some m) ∧ (m.op = 4) ∧ (m.src = .core k) ∧ (semReached s m = true) ∧ ((s.waiters.find? fun x => x.sem == m.sem && x.core == k && x.tag == m.tag && x.gen == m.gen) = some w)) ∧
  (∃ (s : State) (tg : _) (r : Nat × Nat), ((s.tagReleases.find? fun x => x.1 == tg) = some r)) ∧
  (∃ (s : State) (tg : _) (c : _) (r : _) (t0 : _), (s.cmd? tg = some c) ∧ (c.step = some r) ∧ (r.inheritSince = some t0) ∧ (s.fg admBase Fld.ADM_HOLD_NS ≤ 1000 * (s.nowUs - t0))) ∧
  (∃ (s : State) (ini : _) (n : _) (l : _), (Admits s ini (semBase n + Reg.SYN_SEM_W0) l) ∧ (n < 4096 * s.part.dies) ∧ (s.fg (semBase n) Fld.SYN_SEM_W6_WAITERS = 0) ∧ (s.fg (semBase n) Fld.SYN_SEM_W6_HOLDERS = 0)) ∧
  (∃ (s : State) (ini : _) (n : _) (l : _), (Admits s ini (semBase n + Reg.SYN_SEM_W0) l) ∧ (n < 4096 * s.part.dies) ∧ (s.fg (semBase n) Fld.SYN_SEM_W6_HOLDERS ≠ 0)) :=
  ⟨⟨withMsg (⟨.core 2, 5, 0, false, 0, 0, 0, 0, 1, 0, 0⟩ : SemMsg) (semOn 5 9 []), 0, (⟨.core 2, 5, 0, false, 0, 0, 0, 0, 1, 0, 0⟩ : SemMsg), 2, by decide +kernel⟩,
   ⟨withMsg (⟨.core 2, 5, 0, false, 0, 0, 0, 0, 1, 0, 0⟩ : SemMsg) (semOn 5 0 []), 0, (⟨.core 2, 5, 0, false, 0, 0, 0, 0, 1, 0, 0⟩ : SemMsg), 2, by decide +kernel⟩,
   ⟨withMsg (⟨.core 2, 5, 2, false, 0, 0, 0, 0, 1, 0, 0⟩ : SemMsg) (semOn 5 0 []), 0, (⟨.core 2, 5, 2, false, 0, 0, 0, 0, 1, 0, 0⟩ : SemMsg), 2, by decide +kernel⟩,
   ⟨withMsg (⟨.core 2, 5, 2, false, 0, 0, 0, 0, 1, 0, 0⟩ : SemMsg) (semOn 5 1 []), 0, (⟨.core 2, 5, 2, false, 0, 0, 0, 0, 1, 0, 0⟩ : SemMsg), 2, by decide +kernel⟩,
   ⟨withMsg (⟨.core 2, 5, 1, false, 0, 0, 0, 0, 1, 0, 0⟩ : SemMsg) (semOn 5 1 []), 0, (⟨.core 2, 5, 1, false, 0, 0, 0, 0, 1, 0, 0⟩ : SemMsg), 2, by decide +kernel⟩,
   ⟨has { aCmd 0x21 with phase := .waiting } (withMsg (⟨.cmd 7, 5, 3, false, 0, 0, 0, 0, 4, 0, 0⟩ : SemMsg) (upEnd 20 (upEnd 4 (semOn 5 1 [])))), 0, (⟨.cmd 7, 5, 3, false, 0, 0, 0, 0, 4, 0, 0⟩ : SemMsg), 7, by decide +kernel⟩,
   ⟨withMsg (⟨.core 2, 5, 3, false, 0, 0, 0, 0, 4, 0, 0⟩ : SemMsg) (semOn 5 0x7FFFFFFC []), 0, (⟨.core 2, 5, 3, false, 0, 0, 0, 0, 4, 0, 0⟩ : SemMsg), 2, by decide +kernel⟩,
   ⟨((Instr.semunitWait, 0) : (Nat → Instr) × Nat), withMsg (⟨.core 2, 5, 0, false, 0, 0, 0, 0, 1, 1, 0⟩ : SemMsg) (semOn 5 9 []), 0, (⟨.core 2, 5, 0, false, 0, 0, 0, 0, 1, 1, 0⟩ : SemMsg), 2, by simp, by decide +kernel⟩,
   ⟨((Instr.semunitWait, 0) : (Nat → Instr) × Nat), withMsg (⟨.core 70, 5, 0, false, 0, 0, 0, 0, 1, 0, 0⟩ : SemMsg) (semOn 5 9 []), 0, (⟨.core 70, 5, 0, false, 0, 0, 0, 0, 1, 0, 0⟩ : SemMsg), 70, by simp, by decide +kernel⟩,
   ⟨{ withMsg (⟨.core 2, 5, 4, false, 0, 0, 0, 0, 1, 0, 0⟩ : SemMsg) (setF (semBase 5) [(Fld.SYN_SEM_W6_WAITERS, 1)] (semOn 5 0 [])) with waiters := [(⟨5, 2, false, 0, 0, 0, 0, false⟩ : Waiter)] }, 0, (⟨.core 2, 5, 4, false, 0, 0, 0, 0, 1, 0, 0⟩ : SemMsg), 2, (⟨5, 2, false, 0, 0, 0, 0, false⟩ : Waiter), by decide +kernel⟩,
   ⟨{ State.reset with tagReleases := [(7, 0)] }, 7, ((7, 0) : Nat × Nat), by decide +kernel⟩,
   ⟨has { aCmd 0x18 with phase := .running, step := some { aStep [0] with inheritSince := some 0 } } (setF admBase [(Fld.ADM_NOW_LO_COUNT, 100000)]), 7, { aCmd 0x18 with phase := .running, step := some { aStep [0] with inheritSince := some 0 } }, { aStep [0] with inheritSince := some 0 }, 0, by decide +kernel⟩,
   ⟨linked, 0x800, 5, loc (semBase 5 + Reg.SYN_SEM_W0), by unfold Admits; decide +kernel⟩,
   ⟨setF (semBase 5) [(Fld.SYN_SEM_W6_HOLDERS, 1)] linked, 0x800, 5, loc (semBase 5 + Reg.SYN_SEM_W0), by unfold Admits; decide +kernel⟩⟩

/-- ArrivalsBecomeRecords: its clauses’ hypotheses are met. -/
theorem witness_ArrivalsBecomeRecords :
  (∃ (s : State) (ini : _) (d : _) (p : _) (r : _) (l : _) (v : Word) (a : _) (w : _), (a = (if r < 5 then fixAddr d p r else clsAddr d p (r - 5))) ∧ (w = s.wr a (setBits (s.rd a) 19 0 v.toNat)) ∧ (d < 4) ∧ (p < 11) ∧ (r < 13) ∧ (Admits s ini a l) ∧ ((regAt s.part l).isSome = true) ∧ (fixSum w d p + clsSum w d p ≤ pathCap w d p)) ∧
  (∃ (s : State) (ini : _) (d : _) (p : _) (r : _) (l : _) (v : Word) (a : _) (w : _), (a = (if r < 5 then fixAddr d p r else clsAddr d p (r - 5))) ∧ (w = s.wr a (setBits (s.rd a) 19 0 v.toNat)) ∧ (d < 4) ∧ (p < 11) ∧ (r < 13) ∧ (Admits s ini a l) ∧ ((regAt s.part l).isSome = true) ∧ (pathCap w d p < fixSum w d p + clsSum w d p)) ∧
  (∃ (s : State) (n : _) (dt : _) (data : List Byte) (e : Nat × Nat) (es : List (Nat × Nat)), (n < 16) ∧ (s.ok = true) ∧ (s.fb pchBase Fld.PCH_CTL_EN = true) ∧ ((s.port n).on = true) ∧ (s.fb (camBase n) Fld.PCH_CAM_STS_LINK = true) ∧ ((s.port n).restart = none) ∧ ((s.port n).draining = false) ∧ (bit (portNum s n 97 1) (bits dt 7 6) = true) ∧ (openFrame s n = none) ∧ ((s.port n).edges = e :: es) ∧ (data.length ≤ slotRoom s n) ∧ (bufFill s n + data.length ≤ bufCap s n)) ∧
  (∃ (s : State) (n : _) (e : Nat × Nat) (es : List (Nat × Nat)), (s.ok = true) ∧ ((s.port n).edges = e :: es) ∧ (portTakes s n = true) ∧ ((s.port n).restart = none) ∧ (e.2 + 2 * camPeriod s n ≤ pchTime s)) ∧
  (∃ (s : State) (m : _) (frame : List Byte), (m < 6) ∧ (s.ok = true) ∧ (portTakes s (16 + m) = true) ∧ (s.fb (ethBase m) Fld.PCH_ETH_STS_LINK = true) ∧ (ethKept s (16 + m) frame = true) ∧ (bufFill s (bufOf (16 + m)) + min frame.length (slotRoom s (16 + m)) ≤ bufCap s (bufOf (16 + m)))) ∧
  (∃ (s : State) (m : _) (frame : List Byte), (m < 6) ∧ (s.ok = true) ∧ (portTakes s (16 + m) = true) ∧ (s.fb (ethBase m) Fld.PCH_ETH_STS_LINK = true) ∧ (ethKept s (16 + m) frame = true) ∧ (bufCap s (bufOf (16 + m)) < bufFill s (bufOf (16 + m)) + min frame.length (slotRoom s (16 + m)))) ∧
  (∃ (s : State) (k : _) (id : _) (data : List Byte), (k < 4) ∧ (s.ok = true) ∧ (portTakes s (24 + k) = true) ∧ (s.fb (canBase k) Fld.PCH_CAN_STS_BUS_OFF = false) ∧ (canKept s (24 + k) id = true) ∧ (bufFill s 21 + min data.length (slotRoom s (24 + k)) ≤ bufCap s 21)) ∧
  (∃ (s : State) (k : _), (k < 4) ∧ (s.ok = true) ∧ (portTakes s (24 + k) = true) ∧ (s.fb (canBase k) Fld.PCH_CAN_STS_BUS_OFF = false)) ∧
  (∃ (s : State) (j : _) (data : List Byte), (j < 2) ∧ (s.ok = true) ∧ (portTakes s (28 + j) = true) ∧ (bufFill s 21 + min (min (portNum s (28 + j) 98 1) data.length) (slotRoom s (28 + j)) ≤ bufCap s 21)) ∧
  (∃ (s : State) (k : _) (p : _) (r : _) (w : _), (nextBuf s = some (false, k)) ∧ (bufNext s k = some (p, r)) ∧ (r.drained ≠ 0) ∧ (writeBytes { s with drainNorm := k } 0xA00 (s.port p).ctx (headSlot s p + 64 + r.drained) ((r.payload.drop r.drained).take 4096) = (true, w))) ∧
  (∃ (s : State) (p : _) (r : _) (rs : List InRec) (w : _), (s.ok = true) ∧ ((s.port p).recs = r :: rs) ∧ (r.ended = true) ∧ (r.lost = false) ∧ (r.drained = r.payload.length) ∧ (r.payload ≠ []) ∧ (commitHead s 0xA00 (s.port p).ctx (headSlot s p) (recHeader p r) ((s.port p).seq + 1) (statusAddr s p) ((s.port p).seq % slotCount s p) = (true, true, w))) :=
  ⟨⟨linked, 0x800, 0, 0, 1, loc (fixAddr 0 0 1), 100, (fixAddr 0 0 1), linked.wr (fixAddr 0 0 1) (setBits (linked.rd (fixAddr 0 0 1)) 19 0 100), by unfold Admits; decide +kernel⟩,
   ⟨linked, 0x800, 0, 0, 1, loc (fixAddr 0 0 1), 0xFFFFF, (fixAddr 0 0 1), linked.wr (fixAddr 0 0 1) (setBits (linked.rd (fixAddr 0 0 1)) 19 0 0xFFFFF), by unfold Admits; decide +kernel⟩,
   ⟨(sensing 3 [(97, 1, 1)] (fun x => { x with edges := [(5, 100)] }) (setF (camBase 3) [(Fld.PCH_CAM_STS_LINK, 1)])), 3, 0x12, [1, 2, 3], ((5, 100) : Nat × Nat), ([] : List (Nat × Nat)), by decide +kernel⟩,
   ⟨sensing 3 [] (fun x => { x with edges := [(5, 0)] }), 3, ((5, 0) : Nat × Nat), ([] : List (Nat × Nat)), by decide +kernel⟩,
   ⟨(sensing 17 [] (fun x => x) (setF (ethBase 1) [(Fld.PCH_ETH_STS_LINK, 1)])), 1, List.replicate 14 8, by decide +kernel⟩,
   ⟨setF (pchBase + 4 * 17) [(Fld.PCH_BUF_UNITS, 0)] (sensing 17 [] (fun x => x) (setF (ethBase 1) [(Fld.PCH_ETH_STS_LINK, 1)])), 1, List.replicate 14 8, by decide +kernel⟩,
   ⟨sensing 26 [] (fun x => x), 2, 0x123, [1, 2], by decide +kernel⟩,
   ⟨sensing 26 [] (fun x => x), 2, by decide +kernel⟩,
   ⟨sensing 28 [(98, 1, 4)] (fun x => x), 0, [1, 2, 3, 4, 5], by decide +kernel⟩,
   ⟨(sensing 3 [] (fun x => { x with recs := [aRec [1, 2, 3] 1 true] }) uncached), 3, 3, aRec [1, 2, 3] 1 true, (writeBytes { (sensing 3 [] (fun x => { x with recs := [aRec [1, 2, 3] 1 true] }) uncached) with drainNorm := 3 } 0xA00 ((sensing 3 [] (fun x => { x with recs := [aRec [1, 2, 3] 1 true] }) uncached).port 3).ctx (headSlot (sensing 3 [] (fun x => { x with recs := [aRec [1, 2, 3] 1 true] }) uncached) 3 + 64 + (aRec [1, 2, 3] 1 true).drained) (((aRec [1, 2, 3] 1 true).payload.drop (aRec [1, 2, 3] 1 true).drained).take 4096)).2, by decide +kernel⟩,
   ⟨(sensing 3 [] (fun x => { x with recs := [aRec [1, 2, 3] 3 true] }) uncached), 3, aRec [1, 2, 3] 3 true, ([] : List InRec), (commitHead (sensing 3 [] (fun x => { x with recs := [aRec [1, 2, 3] 3 true] }) uncached) 0xA00 ((sensing 3 [] (fun x => { x with recs := [aRec [1, 2, 3] 3 true] }) uncached).port 3).ctx (headSlot (sensing 3 [] (fun x => { x with recs := [aRec [1, 2, 3] 3 true] }) uncached) 3) (recHeader 3 (aRec [1, 2, 3] 3 true)) (((sensing 3 [] (fun x => { x with recs := [aRec [1, 2, 3] 3 true] }) uncached).port 3).seq + 1) (statusAddr (sensing 3 [] (fun x => { x with recs := [aRec [1, 2, 3] 3 true] }) uncached) 3) (((sensing 3 [] (fun x => { x with recs := [aRec [1, 2, 3] 3 true] }) uncached).port 3).seq % slotCount (sensing 3 [] (fun x => { x with recs := [aRec [1, 2, 3] 3 true] }) uncached) 3)).2.2, by decide +kernel⟩⟩

/-- PorchTimeTriggersAndPins: its clauses’ hypotheses are met. -/
theorem witness_PorchTimeTriggersAndPins :
  (∃ (s : State), (s.ok = true) ∧ ((s.port 0x20).on = true) ∧ (timeState s = 1)) ∧
  (∃ (s : State) (ofs : Int), (s.ok = true) ∧ ((s.port 0x20).on = true) ∧ (timeState s ≠ 1) ∧ (portNum s 0x20 100 4 < ofs.natAbs)) ∧
  (∃ (s : State), (s.ok = true) ∧ (timeState s = 1) ∧ (s.lastSync + 375000 ≤ s.nowUs)) ∧
  (∃ (s : State), (s.ok = true) ∧ (timeState s = 2) ∧ (s.holdSince + portNum s 0x20 98 2 * 1000000 ≤ s.nowUs)) ∧
  (∃ (s : State), (s.ok = true) ∧ (trigRun s = true) ∧ (s.trigNext = none)) ∧
  (∃ (s : State) (x : TrigSet), (s.ok = true) ∧ (trigRun s = true) ∧ (s.trigNext = some x)) ∧
  (∃ (s : State) (i : _) (k : _), (i < 32) ∧ (edgeIndex s (outWord s i) = some k) ∧ (trigRun s = true) ∧ (bit (outWord s i) 0 = true) ∧ (outHeld s i = false) ∧ (getD 0 s.trigFired i ≠ k + 1) ∧ (bit (outWord s i) 2 = true) ∧ (i ∉ s.trigHiz)) ∧
  (∃ (s : State) (n : _) (code : _), (n < 16) ∧ (s.ok = true) ∧ ((s.port n).on = true) ∧ ((s.port n).ocRun = 2) ∧ (portNum s n 124 2 < min 0xFFFF (code * portNum s n 122 2 / 1000))) ∧
  (∃ (s : State) (m : _) (sqi : _), (m < 6) ∧ (s.ok = true) ∧ (s.fb (ethBase m) Fld.PCH_ETH_STS_LINK = true) ∧ (sqi < 8)) ∧
  (∃ (s : State) (m : _) (result : _), (m < 6) ∧ (s.ok = true) ∧ ((s.port (16 + m)).diag = true) ∧ (result < 4)) ∧
  (∃ (s : State) (i : _), (i < 32) ∧ (s.ok = true)) ∧
  (∃ (s : State) (i : _), (i < 32) ∧ (s.ok = true) ∧ (bit (s.rd (pchBase + Reg.PCH_PIN_TSHORT)) i = true) ∧ (i ∉ s.trigHiz)) ∧
  (∃ (s : State) (i : _), (i < 32) ∧ (s.ok = true)) ∧
  (∃ (s : State) (k : _), (k < 4) ∧ (s.ok = true)) ∧
  (∃ (s : State) (n : _), (n < 16) ∧ (s.ok = true) ∧ (openFrame s n = none)) ∧
  (∃ (s : State) (m : _), (m < 6) ∧ (s.ok = true) ∧ ((s.port (16 + m)).on = true)) ∧
  (∃ (s : State), (s.ok = true) ∧ (s.trigNext = none)) :=
  ⟨⟨setF pchBase [(Fld.PCH_TIME_STS_STATE, 1)] (onPort 0x20 fun x => { x with on := true }), by decide +kernel⟩,
   ⟨onPort 0x20 fun x => { x with on := true }, (-5 : Int), by decide +kernel⟩,
   ⟨setF pchBase [(Fld.PCH_TIME_STS_STATE, 1)] (setF admBase [(Fld.ADM_NOW_LO_COUNT, 375000)]), by decide +kernel⟩,
   ⟨setF pchBase [(Fld.PCH_TIME_STS_STATE, 2)], by decide +kernel⟩,
   ⟨setF pchBase [(Fld.PCH_TRIG_STS_RUN, 1)], by decide +kernel⟩,
   ⟨{ setF pchBase [(Fld.PCH_TRIG_STS_RUN, 1)] with trigNext := some ⟨List.replicate 272 1, []⟩ }, (⟨List.replicate 272 1, []⟩ : TrigSet), by decide +kernel⟩,
   ⟨setR [(trigArea, 33333335), (trigArea + 4 * 4, 5)] (setF pchBase [(Fld.PCH_TRIG_STS_RUN, 1)]), 0, 0, by decide +kernel⟩,
   ⟨sensing 3 [(122, 2, 1000), (124, 2, 100)] (fun x => { x with ocRun := 2 }), 3, 200, by decide +kernel⟩,
   ⟨setF (ethBase 1) [(Fld.PCH_ETH_STS_LINK, 1)], 1, 6, by decide +kernel⟩,
   ⟨onPort 17 fun x => { x with diag := true }, 1, 2, by decide +kernel⟩,
   ⟨State.reset, 31, by decide +kernel⟩,
   ⟨setR [(pchBase + Reg.PCH_PIN_TSHORT, 2)], 1, by decide +kernel⟩,
   ⟨State.reset, 31, by decide +kernel⟩,
   ⟨State.reset, 3, by decide +kernel⟩,
   ⟨State.reset, 15, by decide +kernel⟩,
   ⟨onPort 17 fun x => { x with on := true }, 1, by decide +kernel⟩,
   ⟨State.reset, by decide +kernel⟩⟩

/-- FusionUnitsRun: its clauses’ hypotheses are met. -/
theorem witness_FusionUnitsRun :
  (∃ (s : State) (x : _), (s.integ = some x) ∧ (pchTime s / 1000000 ≠ x.lastT)) ∧
  (∃ (s : State) (x : _), (s.integ = some x) ∧ (pchTime s / 1000000 = x.lastT)) ∧
  (∃ (s : State) (x : Proj) (r : LidRec) (rs : List LidRec), (s.ok = true) ∧ (s.proj = some x) ∧ (x.stopping = false) ∧ (s.lidIn = r :: rs)) ∧
  (∃ (s : State) (j : ProjJob) (pt : LidPoint) (ps : List LidPoint), ((s.jobs.find? fun x => (match x.points with | p :: _ => covered s x p | [] => false)) = some j) ∧ (j.points = pt :: ps) ∧ (ps ≠ [])) ∧
  (∃ (s : State) (j : ProjJob), (s.ok = true) ∧ ((s.jobs.find? fun x => (match x.points with | p :: _ => decide (p.since + waitUs s ≤ s.nowUs) | [] => false)) = some j)) :=
  ⟨⟨setF pchBase [(⟨Reg.PCH_TIME_LO, 31, 0⟩, 5000000)] { State.reset with integ := some (Integ.start 0 0 0) }, Integ.start 0 0 0, by decide +kernel⟩,
   ⟨{ State.reset with integ := some (Integ.start 0 0 0) }, Integ.start 0 0 0, by decide +kernel⟩,
   ⟨{ State.reset with proj := some ⟨0, 0, 0, 0, false, [], false⟩, lidIn := [(⟨1, 10, 1, List.replicate 16 0⟩ : LidRec)] }, (⟨0, 0, 0, 0, false, [], false⟩ : Proj), (⟨1, 10, 1, List.replicate 16 0⟩ : LidRec), ([] : List LidRec), by decide +kernel⟩,
   ⟨{ State.reset with jobs := [(⟨0, 0, 0, 0, [], [], [⟨0, [0, 0, 0], 5, 0, 0⟩, ⟨1, [0, 0, 0], 5, 0, 0⟩], []⟩ : ProjJob)], poses := [⟨9, [0, 0, 0, 0], [0, 0, 0], [0, 0, 0], [0, 0, 0], [0, 0, 0], 0⟩] }, (⟨0, 0, 0, 0, [], [], [⟨0, [0, 0, 0], 5, 0, 0⟩, ⟨1, [0, 0, 0], 5, 0, 0⟩], []⟩ : ProjJob), (⟨0, [0, 0, 0], 5, 0, 0⟩ : LidPoint), ([⟨1, [0, 0, 0], 5, 0, 0⟩] : List LidPoint), by decide +kernel⟩,
   ⟨setF admBase [(Fld.ADM_NOW_LO_COUNT, 25000)] { State.reset with jobs := [(⟨0, 0, 0, 0, [], [], [⟨0, [0, 0, 0], 5, 0, 0⟩, ⟨1, [0, 0, 0], 5, 0, 0⟩], []⟩ : ProjJob)] }, (⟨0, 0, 0, 0, [], [], [⟨0, [0, 0, 0], 5, 0, 0⟩, ⟨1, [0, 0, 0], 5, 0, 0⟩], []⟩ : ProjJob), by decide +kernel⟩⟩

/-- IslandsWatch: its clauses’ hypotheses are met. -/
theorem witness_IslandsWatch :
  (∃ (s : State) (i : _), (s.ok = true) ∧ ((s.isl i).powered = true) ∧ (islState s i ≠ 4)) ∧
  (∃ (s : State) (i : _) (src : _), (s.ok = true) ∧ (islRuns s i = true) ∧ (hbLive s i src = true) ∧ (hbTimeout s i src ≤ acnSince s i ((aget (s.isl i).beats src).getD 0))) ∧
  (∃ (s : State) (i : _) (r : Report), (s.ok = true) ∧ (i < 2) ∧ ((s.reports.find? fun x => x.island == i) = some r) ∧ (islRuns s i = true) ∧ (evaluates i r.event = true)) ∧
  (∃ (s : State) (i : _) (r : Report), ((s.reports.find? fun x => x.island == i) = some r) ∧ ((islRuns s i && evaluates i r.event) = false)) ∧
  (∃ (s : State) (i : _), (s.ok = true) ∧ (islRuns s i = true) ∧ ((∀ c ∈ (s.isl i).clamps, occurs s i c.event c.unit c.read = false ∧ 1000 * c.hold ≤ acnSince s i c.since))) ∧
  (∃ (s : State) (i : _), (s.ok = true) ∧ (i < 2) ∧ (islRuns s i = true) ∧ (s.fb (acnBase i) Fld.ACN_STS_CLAMP = true) ∧ ((s.isl i).readDone = false) ∧ (5 ≤ acnSince s i (s.isl i).clampAt) ∧ (s.fb admBase Fld.ADM_STS_SUSPENDED = false)) ∧
  (∃ (s : State) (i : _) (u : UnitImg), (s.ok = true) ∧ (i < 2) ∧ ((s.isl i).powered = true) ∧ (islState s i = 1) ∧ (s.fg secBase Fld.SEC_STS_STAGE = 1) ∧ (aget s.unitImgs (4 + i) = some u)) ∧
  (∃ (s : State) (pll : Bool), (s.ok = true) ∧ ((if pll then s.pllBad else s.mainBad) = false)) ∧
  (∃ (s : State), (s.ok = true)) ∧
  (∃ (s : State) (r : _), (r ∉ s.railsBad)) ∧
  (∃ (s : State), (s.ok = true) ∧ (islRuns s 0 = true) ∧ ((s.isl 1).powered = true) ∧ (islState s 1 ≠ 4)) :=
  ⟨⟨guarded, 1, by decide +kernel⟩,
   ⟨setF (acnBase 0) [(Fld.ACN_US_COUNT, 100000)] (setR [(acnBase 0 + Reg.ACN_HB, 16)] guarded), 0, 4, by decide +kernel⟩,
   ⟨{ guarded with reports := [⟨1, 0x0F, 0⟩] }, 1, (⟨1, 0x0F, 0⟩ : Report), by decide +kernel⟩,
   ⟨{ guarded with reports := [⟨1, 0x04, 0⟩] }, 1, (⟨1, 0x04, 0⟩ : Report), by decide +kernel⟩,
   ⟨{ setF (acnBase 0) [(Fld.ACN_STS_CLAMP, 1), (Fld.ACN_US_COUNT, 5000)] guarded with islands := [(0, { Island.reset with clamps := [⟨0x0F, 0, 0, 5, false⟩] })] }, 0, by decide +kernel⟩,
   ⟨setF (acnBase 1) [(Fld.ACN_STS_CLAMP, 1), (Fld.ACN_US_COUNT, 5)] guarded, 1, by decide +kernel⟩,
   ⟨{ setF secBase [(Fld.SEC_STS_STAGE, 1)] with unitImgs := [(5, ⟨1, 2, [], [], []⟩)] }, 1, (⟨1, 2, [], [], []⟩ : UnitImg), by decide +kernel⟩,
   ⟨State.reset, (true : Bool), by decide +kernel⟩,
   ⟨{ State.reset with mainBad := true }, by decide +kernel⟩,
   ⟨State.reset, 5, by decide +kernel⟩,
   ⟨guarded, by decide +kernel⟩⟩

/-- CheckersAndGoldenSteps: its clauses’ hypotheses are met. -/
theorem witness_CheckersAndGoldenSteps :
  (∃ (s : State) (tg : _) (c : _) (r : _) (k : _) (ks : List Nat), (s.cmd? tg = some c) ∧ (c.step = some r) ∧ (r.reexec = .undecided) ∧ (r.mmCores = k :: ks) ∧ (reexecOk s r = false)) ∧
  (∃ (s : State) (tg : _) (c : _) (r : _) (k : _) (ks : List Nat), (s.cmd? tg = some c) ∧ (c.step = some r) ∧ (r.reexec = .undecided) ∧ (r.mmCores = k :: ks) ∧ (reexecOk s r = true) ∧ (r.booking = false)) ∧
  (∃ (s : State), (s.ok = true) ∧ (islRuns s 0 = true) ∧ ((s.isl 0).testAt = none ∨ (∃ a, (s.isl 0).testAt = some a ∧ 1000 ≤ acnSince s 0 a))) ∧
  (∃ (s : State) (ini : _) (k : _) (l : _) (v : Word), (Admits s ini (chkBase k + Reg.CHK_ST) l) ∧ (bit v.toNat 0 = true)) ∧
  (∃ (s : State) (k : _) (a : _), (s.ok = true) ∧ (aget s.stGo k = some a) ∧ ((s.core k).selfTest = true) ∧ (a + 100 ≤ s.nowUs)) ∧
  (∃ (s : State), (s.ok = true) ∧ (islRuns s 1 = true) ∧ ((s.isl 1).stalled = false) ∧ (policyField s 1 2 0 48 4 ≤ acnSince s 1 (s.isl 1).countAt)) ∧
  (∃ (s : State) (k : _) (g : GoldenRun), ((s.core k).golden = some g) ∧ (g.waits = none) ∧ (g.loaded = false)) ∧
  (∃ (s : State) (k : _) (e : _), ((s.core k).golden = none) ∧ (nextGold s k = some e) ∧ (goldPlaceable s k (goldInterval s e) = true)) ∧
  (∃ (s : State), (s.goldNext ≤ s.nowUs / goldWin s)) :=
  ⟨⟨{ has ({ aCmd 0x18 with phase := .running, step := some { aStep [3] with mmCores := [3], image := 9 } }) with policy := [(0x300, bytesAt 128 [])] }, 7, { aCmd 0x18 with phase := .running, step := some { aStep [3] with mmCores := [3], image := 9 } }, { aStep [3] with mmCores := [3], image := 9 }, 3, ([] : List Nat), by decide +kernel⟩,
   ⟨{ has ({ aCmd 0x18 with phase := .running, step := some { aStep [3] with mmCores := [3], image := 9 } }) with policy := [(0x300, bytesAt 128 [(13, 1, 3)])] }, 7, { aCmd 0x18 with phase := .running, step := some { aStep [3] with mmCores := [3], image := 9 } }, { aStep [3] with mmCores := [3], image := 9 }, 3, ([] : List Nat), by decide +kernel⟩,
   ⟨guarded, by decide +kernel⟩,
   ⟨linked, 0xC00, 9, loc (chkBase 9 + Reg.CHK_ST), 1, by unfold Admits; decide +kernel⟩,
   ⟨{ onCore 9 (fun c => { c with selfTest := true }) (setF admBase [(Fld.ADM_NOW_LO_COUNT, 100)]) with stGo := [(9, 0)] }, 9, 0, by decide +kernel⟩,
   ⟨setF (acnBase 1) [(Fld.ACN_US_COUNT, 100000)] guarded, by decide +kernel⟩,
   ⟨onCore 9 fun c => { c with golden := some ⟨0, 0, 30, none, false⟩ }, 9, (⟨0, 0, 30, none, false⟩ : GoldenRun), by decide +kernel⟩,
   ⟨{ onCore 9 (fun c => { c with goldDue := some 0 }) (usable [9] (imaged true (setF dspBase [(Fld.DSP_CTL_EN, 1)]))) with policy := [(1024, bytesAt 128 [(8, 4, 1), (12, 1, 1)])] }, 9, 0, by decide +kernel⟩,
   ⟨State.reset, by decide +kernel⟩⟩

/-- HearthBudgetsAct: its clauses’ hypotheses are met. -/
theorem witness_HearthBudgetsAct :
  (∃ (s : State), (s.ok = true) ∧ (s.fb hthBase Fld.HTH_CTL_EN = true) ∧ (dieHeld s 4 = false)) ∧
  (∃ (s : State) (d : _), (d < 6) ∧ (s.ok = true) ∧ (dieHeld s d = false) ∧ ((d < 4 → s.part.fitted d = true)) ∧ (s.fb hthBase Fld.HTH_CTL_EN = true) ∧ (dieHeld s 4 = false) ∧ (dieMsgCan s d 4 = true)) ∧
  (∃ (s : State) (d : _), (d < 6) ∧ (s.ok = true) ∧ (dieHeld s d = false) ∧ ((d < 4 → s.part.fitted d = true)) ∧ (dieMsgCan s d 4 = false)) ∧
  (∃ (s : State) (d : _), (d < 6) ∧ (s.ok = true) ∧ (dieHeld s d = false) ∧ ((d < 4 → s.part.fitted d = true)) ∧ (s.fb hthBase Fld.HTH_CTL_EN = false)) ∧
  (∃ (s : State) (d : _) (m : BudgetMsg), (d < 6) ∧ (s.ok = true) ∧ ((s.budgetMsgs.find? fun x => x.die == d) = some m) ∧ (dieHeld s d = false) ∧ (dieMsgCan s 4 d = true)) ∧
  (∃ (s : State) (d : _) (m : BudgetMsg), ((s.budgetMsgs.find? fun x => x.die == d) = some m) ∧ (dieHeld s d = true)) ∧
  (∃ (s : State) (d : _), (d < 6) ∧ (s.ok = true) ∧ (dieHeld s d = false) ∧ (s.fb (agBase d) Fld.HTH_AG_STS_SURVIVAL = false) ∧ (getD 0 s.agBudgetAt d + 1000 ≤ s.nowUs)) ∧
  (∃ (s : State) (d : _) (r : DieRep), (d < 6) ∧ (s.ok = true) ∧ (s.fb hthBase Fld.HTH_CTL_EN = true) ∧ (dieHeld s 4 = false) ∧ (d ∈ agents s) ∧ (aget s.dieReps d = some r) ∧ (r.since + 300 ≤ s.nowUs)) ∧
  (∃ (s : State) (d : _), (d < 6) ∧ (s.ok = true) ∧ (d ∈ s.clampMsgs) ∧ (dieHeld s d = false) ∧ (dieMsgCan s 4 d = true)) ∧
  (∃ (s : State) (d : _) (b : _) (e : _), (s.ok = true) ∧ (s.part.fitted d = true) ∧ (dieHeld s d = false) ∧ (s.fg (agBase d) Fld.HTH_AG_STS_BUDGET_DW = b) ∧ (b < e) ∧ (reduceOnce (noteDraw s d b e) d = none)) ∧
  (∃ (s : State) (d : _) (b : _) (e : _) (e' : _) (w : _), (s.ok = true) ∧ (s.part.fitted d = true) ∧ (dieHeld s d = false) ∧ (s.fg (agBase d) Fld.HTH_AG_STS_BUDGET_DW = b) ∧ (b < e ∨ (e = b ∧ 0 < b ∧ paysBack (noteDraw s d b e) d b = true)) ∧ (e' < b) ∧ (reduceOnce (noteDraw s d b e) d = some w)) ∧
  (∃ (s : State) (d : _) (b : _) (e : _), (s.part.fitted d = true) ∧ (dieHeld s d = false) ∧ (s.fg (agBase d) Fld.HTH_AG_STS_BUDGET_DW = b) ∧ (e ≤ b) ∧ (paysBack (noteDraw s d b e) d b = false) ∧ ((∀ c ∈ s.rampFill, c / 8 ≠ d))) ∧
  (∃ (s : State) (d : _) (b : _) (e : _) (c : _) (cs : _), (s.ok = true) ∧ (s.part.fitted d = true) ∧ (dieHeld s d = false) ∧ (s.fg (agBase d) Fld.HTH_AG_STS_BUDGET_DW = b) ∧ (e ≤ b) ∧ (paysBack (noteDraw s d b e) d b = false) ∧ (rampFree s d = c :: cs)) ∧
  (∃ (s : State), (s.ok = true) ∧ (s.fb hthBase Fld.HTH_STS_BUDGET_SHORT = true) ∧ (s.shortSince + 1000 * s.fg hthBase Fld.HTH_MISC_GRACE_MS < s.nowUs)) ∧
  (∃ (s : State) (c : _), (s.ok = true) ∧ (10 ≤ (aget s.cluIdle c).getD 0) ∧ (cluRuns s c = false) ∧ (c ∉ s.filler) ∧ (s.fg (cluBase c) Fld.CLU_STS_PWR = 0) ∧ (dieHeld s (c / 8) = false)) :=
  ⟨⟨(setF hthBase [(Fld.HTH_CTL_EN, 1)] linked), by decide +kernel⟩,
   ⟨(upEnd 14 (setF hthBase [(Fld.HTH_CTL_EN, 1)] linked)), 2, by decide +kernel⟩,
   ⟨(setF hthBase [(Fld.HTH_CTL_EN, 1)] linked), 2, by decide +kernel⟩,
   ⟨setF hthBase [(Fld.HTH_CTL_EN, 0)], 2, by decide +kernel⟩,
   ⟨{ upEnd 22 with budgetMsgs := [⟨2, 500, 2⟩] }, 2, (⟨2, 500, 2⟩ : BudgetMsg), by decide +kernel⟩,
   ⟨{ setR [(rstIBase + Reg.RST_DIE_STS, 4)] with budgetMsgs := [⟨2, 500, 2⟩] }, 2, (⟨2, 500, 2⟩ : BudgetMsg), by decide +kernel⟩,
   ⟨setF (agBase 2) [(Fld.HTH_AG_STS_SURVIVAL, 0)] (setF admBase [(Fld.ADM_NOW_LO_COUNT, 1000)]), 2, by decide +kernel⟩,
   ⟨{ setF admBase [(Fld.ADM_NOW_LO_COUNT, 300)] (setF hthBase [(Fld.HTH_CTL_EN, 1)] linked) with dieReps := [(2, ⟨0, 1, 2, 3⟩)] }, 2, (⟨0, 1, 2, 3⟩ : DieRep), by decide +kernel⟩,
   ⟨{ upEnd 22 with clampMsgs := [2] }, 2, by decide +kernel⟩,
   ⟨((List.range 8).foldl (fun t c => t.fs (cluBase c) Fld.CLU_STS_PWR 2) State.reset), 0, ((List.range 8).foldl (fun t c => t.fs (cluBase c) Fld.CLU_STS_PWR 2) State.reset).fg (agBase 0) Fld.HTH_AG_STS_BUDGET_DW, 700, by decide +kernel⟩,
   ⟨(setF (agBase 0) [(Fld.HTH_AG_STS_BUDGET_DW, 600)] { State.reset with filler := [3] }), 0, 600, 700, 500, (reduceOnce (noteDraw (setF (agBase 0) [(Fld.HTH_AG_STS_BUDGET_DW, 600)] { State.reset with filler := [3] }) 0 600 700) 0).getD (setF (agBase 0) [(Fld.HTH_AG_STS_BUDGET_DW, 600)] { State.reset with filler := [3] }), by decide +kernel⟩,
   ⟨setF (agBase 0) [(Fld.HTH_AG_STS_BUDGET_DW, 600)], 0, 600, 500, by decide +kernel⟩,
   ⟨(setF (agBase 0) [(Fld.HTH_AG_STS_BUDGET_DW, 600)] alive), 0, 600, 500, (rampFree (setF (agBase 0) [(Fld.HTH_AG_STS_BUDGET_DW, 600)] alive) 0).headD 0, (rampFree (setF (agBase 0) [(Fld.HTH_AG_STS_BUDGET_DW, 600)] alive) 0).tail, by decide +kernel⟩,
   ⟨setF hthBase [(Fld.HTH_STS_BUDGET_SHORT, 1)] (setF admBase [(Fld.ADM_NOW_LO_COUNT, 50001)]), by decide +kernel⟩,
   ⟨{ State.reset with cluIdle := [(3, 10)] }, 3, by decide +kernel⟩⟩

/-- ThermalAndCoolantAct: its clauses’ hypotheses are met. -/
theorem witness_ThermalAndCoolantAct :
  (∃ (s : State) (d : _) (ts : List Int) (i : _), (d < 6) ∧ (s.ok = true) ∧ (dieHeld s d = false) ∧ ((d < 4 → s.part.fitted d = true)) ∧ (i < snsCount d) ∧ (i < ts.length)) ∧
  (∃ (s : State), (s.ok = true) ∧ (s.fb hthBase Fld.HTH_STS_THERMAL = true) ∧ ((∀ d < 6, (aget s.hotAt d).getD 0 + 1000000 ≤ s.nowUs)) ∧ (anyRef4 s = false) ∧ (s.fg hthBase Fld.HTH_STS_COOL ≠ 2)) ∧
  (∃ (s : State) (d : _), (s.ok = true) ∧ (hotChannel s d = true) ∧ (getD 0 s.capAt d + 10000 ≤ s.nowUs)) ∧
  (∃ (s : State) (d : _), ((∀ c < 16, s.fb (memBase d + 0x100 * c) Fld.MEM_CH_STS_REF2X = false)) ∧ (getD 0 s.capAt d + 100000 ≤ s.nowUs) ∧ (0 < getD 0 s.dieCap d)) ∧
  (∃ (s : State) (rs : List Nat), (s.ok = true) ∧ (dieHeld s 4 = false) ∧ (50 * s.fg hthBase Fld.HTH_THERM_RNOM < rs.getD 0 0)) ∧
  (∃ (s : State) (rs : List Nat), (s.ok = true) ∧ (dieHeld s 4 = false) ∧ (rs.getD 1 0 ≤ 50 * s.fg hthBase Fld.HTH_THERM_RNOM) ∧ (s.fg hthBase Fld.HTH_THERM_RNOM ≤ 50 * rs.getD 1 0)) ∧
  (∃ (s : State), (s.ok = true) ∧ (dieHeld s 4 = false) ∧ (flowOn s ≠ []) ∧ ((∀ i ∈ flowOn s, flowSilent s i = true)) ∧ (s.fg hthBase Fld.HTH_STS_COOL ≠ 2)) ∧
  (∃ (s : State), (s.ok = true) ∧ (s.fg hthBase Fld.HTH_STS_COOL = 2) ∧ (s.coolBadAt + 2000000 ≤ s.nowUs) ∧ (s.fb hthBase Fld.HTH_STS_THERMAL = false)) ∧
  (∃ (s : State) (i : _), (s.ok = true) ∧ (s.fb hthBase Fld.HTH_CTL_EN = true) ∧ (s.fb (hthBase + 4 * i) Fld.HTH_REG_EN = true) ∧ (s.fb (hthBase + 4 * i) Fld.HTH_REG_AVS = false)) ∧
  (∃ (s : State) (i : _), (s.ok = true) ∧ (s.fb hthBase Fld.HTH_CTL_EN = true) ∧ (s.fb (hthBase + 4 * i) Fld.HTH_REG_EN = true) ∧ (s.fb (hthBase + 4 * i) Fld.HTH_REG_AVS = false)) ∧
  (∃ (s : State) (i : _) (a : _), (aget s.flowLast i = some a)) :=
  ⟨⟨State.reset, 2, (List.replicate 24 1700 : List Int), 5, by decide +kernel⟩,
   ⟨setF hthBase [(Fld.HTH_STS_THERMAL, 1)] (setF admBase [(Fld.ADM_NOW_LO_COUNT, 1000000)]), by decide +kernel⟩,
   ⟨setF (memBase 1) [(Fld.MEM_CH_STS_REF2X, 1)] (setF admBase [(Fld.ADM_NOW_LO_COUNT, 10000)]), 1, by decide +kernel⟩,
   ⟨{ setF admBase [(Fld.ADM_NOW_LO_COUNT, 100000)] with dieCap := [(1, 80)] }, 1, by decide +kernel⟩,
   ⟨State.reset, ([500001] : List Nat), by decide +kernel⟩,
   ⟨State.reset, ([0, 12000] : List Nat), by decide +kernel⟩,
   ⟨setF admBase [(Fld.ADM_NOW_LO_COUNT, 250000)], by decide +kernel⟩,
   ⟨setF hthBase [(Fld.HTH_STS_COOL, 2)] (setF admBase [(Fld.ADM_NOW_LO_COUNT, 2000000)]), by decide +kernel⟩,
   ⟨setF (hthBase + 4 * 3) [(Fld.HTH_REG_EN, 1)] (setF hthBase [(Fld.HTH_CTL_EN, 1)] linked), 3, by decide +kernel⟩,
   ⟨setF (hthBase + 4 * 3) [(Fld.HTH_REG_EN, 1)] (setF hthBase [(Fld.HTH_CTL_EN, 1)] linked), 3, by decide +kernel⟩,
   ⟨{ State.reset with flowLast := [(1, 0)] }, 1, 0, by decide +kernel⟩⟩

/-- ResetsTeardownsAndDumps: its clauses’ hypotheses are met. -/
theorem witness_ResetsTeardownsAndDumps :
  (∃ (s : State), (s.powerOff = false)) ∧
  (∃ (s : State) (ini : _) (v : Word) (l : _), (Admits s ini (rstIBase + Reg.RST_PKG_CTL) l) ∧ (bit v.toNat 0 = true)) ∧
  (∃ (s : State) (ini : _) (v : Word) (l : _), (Admits s ini (rstIBase + Reg.RST_DIE_CMD) l) ∧ (bit v.toNat 8 = true) ∧ (resettable s (v.toNat % 8) = true)) ∧
  (∃ (s : State) (ini : _) (v : Word) (l : _), (Admits s ini (rstIBase + Reg.RST_DIE_CMD) l) ∧ (bit v.toNat 8 = true) ∧ (resettable s (v.toNat % 8) = true) ∧ (getD 0 s.dieRst (v.toNat % 8) = 2) ∧ (v.toNat % 8 < 4) ∧ (s.cmds = [])) ∧
  (∃ (s : State) (ini : _) (k : _) (l : _), (k < 256) ∧ (Admits s ini (rstBase (k / 64) + Reg.RST_CMD) l)) ∧
  (∃ (s : State) (ini : _) (c : _) (l : _), (c < 32) ∧ (Admits s ini (rstBase (c / 8) + Reg.RST_CMD) l)) ∧
  (∃ (s : State) (k : _) (n : _), (k < 256) ∧ (n < 32) ∧ (s.ok = true)) ∧
  (∃ (s : State) (i : _), (i < 2) ∧ ((s.isl i).rails = true)) ∧
  (∃ (s : State) (i : _), ((s.isl i).rails = false)) ∧
  (∃ (s : State), (s.ok = true)) ∧
  (∃ (i : _), (i < 2)) ∧
  (∃ (s : State) (r : TdRun), (s.ok = true) ∧ (s.td = some r) ∧ (closeCtxAll s r.ctx = s) ∧ (tdOver s r = true) ∧ (tdHolds s = false)) ∧
  (∃ (s : State) (r : TdRun), (s.td = some r) ∧ (r.esc = 0) ∧ (r.since + s.fg rstIBase Fld.RST_TD_LIMIT_VALUE ≤ s.nowUs) ∧ (tdHolds s = true)) ∧
  (∃ (s : State) (r : TdRun), (s.td = some r) ∧ (r.esc = 1) ∧ (r.escAt + 1000 ≤ s.nowUs)) ∧
  (∃ (s : State) (ini : _) (txid : _) (r : _), (s.ok = true) ∧ ((s.reqs.find? fun x => x.ini == ini && x.txid == txid && !x.dead) = some r) ∧ (0 < s.fg (portRst ini) Fld.RST_REQ_TO_US) ∧ (r.since + s.fg (portRst ini) Fld.RST_REQ_TO_US ≤ s.nowUs)) ∧
  (∃ (s : State) (d : _), (dcLost s d = true)) ∧
  (∃ (s : State), (dieHeld s 5 = false)) ∧
  (∃ (s : State) (ini : _) (v : Word) (l : _), (Admits s ini (rstIBase + Reg.RST_MP_WDOG) l) ∧ (bit v.toNat 16 = true)) ∧
  (∃ (s : State), (s.ok = true) ∧ (s.fb rstIBase Fld.RST_MP_WDOG_EN = true) ∧ (s.wdogDump = false) ∧ (s.dump = none) ∧ (s.mpKick + 1000 * s.fg rstIBase Fld.RST_MP_WDOG_MS ≤ s.nowUs)) ∧
  (∃ (s : State) (d : _), (d < 6) ∧ (s.ok = true) ∧ (bit (s.rd (admBase + Reg.ADM_FAULT)) d = true) ∧ (faultOver s d = true)) ∧
  (∃ (s : State), (s.ok = true)) ∧
  (∃ (s : State) (ini : _) (v : Word) (l : _), (Admits s ini (rstIBase + Reg.RST_DUMP_CTL) l) ∧ (bit v.toNat 0 = true) ∧ (s.dump = none)) ∧
  (∃ (s : State) (r : DumpRun), (s.dump = some r)) ∧
  (∃ (s : State) (r : DumpRun), (s.dump = some r) ∧ (s.wdogDump = false) ∧ (s.dieRst = [])) ∧
  (∃ (s : State) (r : DumpRun), (s.dump = some r) ∧ (s.wdogDump = true)) :=
  ⟨⟨State.reset, by decide +kernel⟩,
   ⟨State.reset, 0x800, (1 : Word), loc (rstIBase + Reg.RST_PKG_CTL), by unfold Admits; decide +kernel⟩,
   ⟨State.reset, 0x800, (0x102 : Word), loc (rstIBase + Reg.RST_DIE_CMD), by unfold Admits; decide +kernel⟩,
   ⟨{ State.reset with dieRst := [(2, 2)] }, 0x800, (0x102 : Word), loc (rstIBase + Reg.RST_DIE_CMD), by unfold Admits; decide +kernel⟩,
   ⟨linked, 0x800, 70, loc (rstBase 1 + Reg.RST_CMD), by unfold Admits; decide +kernel⟩,
   ⟨linked, 0x800, 9, loc (rstBase 1 + Reg.RST_CMD), by unfold Admits; decide +kernel⟩,
   ⟨setR [(sregAddr 70 3, 55)], 70, 3, by decide +kernel⟩,
   ⟨{ State.reset with islands := [(1, { Island.reset with powered := false })] }, 1, by decide +kernel⟩,
   ⟨{ State.reset with islands := [(1, { Island.reset with rails := false })] }, 1, by decide +kernel⟩,
   ⟨{ State.reset with islands := [(1, { Island.reset with rails := false })] }, by decide +kernel⟩,
   ⟨1, by decide +kernel⟩,
   ⟨{ State.reset with td := some (⟨7, 0, 0, 0, 0, 0⟩ : TdRun) }, (⟨7, 0, 0, 0, 0, 0⟩ : TdRun), by decide +kernel⟩,
   ⟨{ setF rstIBase [(Fld.RST_TD_LIMIT_VALUE, 0)] with td := some (⟨7, 0, 0, 0, 0, 0⟩ : TdRun), reqs := [aReq 1 0 false [] .iod] }, (⟨7, 0, 0, 0, 0, 0⟩ : TdRun), by decide +kernel⟩,
   ⟨{ setF admBase [(Fld.ADM_NOW_LO_COUNT, 1000)] with td := some (⟨7, 0, 0, 0, 1, 0⟩ : TdRun) }, (⟨7, 0, 0, 0, 1, 0⟩ : TdRun), by decide +kernel⟩,
   ⟨{ setF (portRst 1) [(Fld.RST_REQ_TO_US, 100)] (setF admBase [(Fld.ADM_NOW_LO_COUNT, 100)]) with reqs := [aReq 1 0 false [] .iod] }, 1, 5, aReq 1 0 false [] .iod, by decide +kernel⟩,
   ⟨setF (dieBase 1) [(Fld.CLU_DC_STS_DC_RUN, 1), (Fld.CLU_DC_STS_DC_FAULT, 1)], 1, by decide +kernel⟩,
   ⟨State.reset, by decide +kernel⟩,
   ⟨State.reset, 0x800, (0x10064 : Word), loc (rstIBase + Reg.RST_MP_WDOG), by unfold Admits; decide +kernel⟩,
   ⟨setF rstIBase [(Fld.RST_MP_WDOG_EN, 1), (Fld.RST_MP_WDOG_MS, 0)], by decide +kernel⟩,
   ⟨setR [(admBase + Reg.ADM_FAULT, 4)], 2, by decide +kernel⟩,
   ⟨State.reset, by decide +kernel⟩,
   ⟨State.reset, 0x800, (1 : Word), loc (rstIBase + Reg.RST_DUMP_CTL), by unfold Admits; decide +kernel⟩,
   ⟨{ State.reset with dump := some (⟨0, none, [], 0, 0, 0, 0, 0⟩ : DumpRun) }, (⟨0, none, [], 0, 0, 0, 0, 0⟩ : DumpRun), by decide +kernel⟩,
   ⟨{ State.reset with dump := some (⟨0, none, [], 0, 0, 0, 0, 0⟩ : DumpRun) }, (⟨0, none, [], 0, 0, 0, 0, 0⟩ : DumpRun), by decide +kernel⟩,
   ⟨{ State.reset with dump := some (⟨0, none, [], 0, 0, 0, 0, 0⟩ : DumpRun), wdogDump := true }, (⟨0, none, [], 0, 0, 0, 0, 0⟩ : DumpRun), by decide +kernel⟩⟩

/-- FlashTapTestAndSupplies: its clauses’ hypotheses are met. -/
theorem witness_FlashTapTestAndSupplies :
  (∃ (s : State) (op : _) (l : _), (op < 3) ∧ (Admits s 0x800 (secBase + Reg.SEC_FLASH_CMD) l) ∧ (mpInRom s = true) ∧ (s.flashOp = none)) ∧
  (∃ (s : State) (op : _) (l : _), (op < 3) ∧ (Admits s 0x800 (secBase + Reg.SEC_FLASH_CMD) l) ∧ (mpInRom s = false)) ∧
  (∃ (s : State) (addr : _), (s.ok = true) ∧ (s.flashOp = some (0, addr)) ∧ (kwf (fun _ => 0xFF) s.flash = true)) ∧
  (∃ (s : State) (addr : _), (s.flashOp = some (1, addr)) ∧ (kwf (fun _ => 0xFF) s.flash = true)) ∧
  (∃ (s : State) (op : _) (addr : _), (s.ok = true) ∧ (s.flashOp = some (op, addr))) ∧
  (∃ (s : State) (ini : _) (l : _), (Admits s ini (secBase + Reg.SEC_OTP_LOCK) l)) ∧
  (∃ (s : State), (tapOn s = true)) ∧
  (∃ (s : State), (tapOn s = true)) ∧
  (∃ (s : State) (i : _) (x : _), (tapOn s = true) ∧ ((i, x) ∈ [(Instr.tapExtest, 0x03), (.tapClamp, 0x04), (.tapHighz, 0x05), (.tapBypass, 0xFF)])) ∧
  (∃ (s : State), (tapOn s = true) ∧ (lifecycle s ≠ 3)) ∧
  (∃ (s : State), (tapOn s = true) ∧ (lifecycle s = 3)) ∧
  (∃ (s : State), (tapOn s = true) ∧ (s.fb secBase Fld.SEC_STS_TEST_UNLOCKED = false)) ∧
  (∃ (s : State), (tapOn s = true) ∧ (s.fb secBase Fld.SEC_STS_TEST_UNLOCKED = true)) ∧
  (∃ (s : State) (d : _), (s.ok = true) ∧ (s.fb secBase Fld.SEC_STS_TEST_UNLOCKED = true) ∧ (islRuns s 0 = true) ∧ (d < 6) ∧ ((d < 4 → s.part.fitted d = true)) ∧ (dieHeld s d = false)) ∧
  (∃ (s : State) (ini : _) (d : _) (i : _) (w : _) (v : Word) (l : _), (d < 6) ∧ (i < 4) ∧ (w < 2) ∧ (Admits s ini (pertAt d i + 4 * w) l) ∧ (s.fb (tstBase d) Fld.TST_LOCK_LOCKED = false) ∧ ((w = 0 → pertRefused d v.toNat = false))) ∧
  (∃ (s : State) (ini : _) (d : _) (i : _) (v : Word) (l : _), (d < 6) ∧ (i < 4) ∧ (Admits s ini (pertAt d i) l) ∧ (s.fb (tstBase d) Fld.TST_LOCK_LOCKED = false) ∧ (pertRefused d v.toNat = true)) ∧
  (∃ (s : State) (ini : _) (d : _) (i : _) (w : _) (v : Word) (l : _), (d < 6) ∧ (i < 4) ∧ (w < 4) ∧ (Admits s ini (injAt d i + 4 * w) l) ∧ (s.fb (tstBase d) Fld.TST_LOCK_LOCKED = false) ∧ ((w = 0 → d < 4 → bits v.toNat 8 4 = 3 → s.fb (memBase d) Fld.MEM_DIE_STS_ECC_ACTIVE = true))) ∧
  (∃ (s : State) (ini : _) (d : _) (i : _) (w : _), (d < 6) ∧ (i < 4) ∧ (w < 2) ∧ ((accCheck s ini (pertAt d i + 4 * w) 4 true).1 = none) ∧ (s.fb (tstBase d) Fld.TST_LOCK_LOCKED = true) ∧ (isAcina ini = false)) ∧
  (∃ (s : State), (s.powerOff = true)) ∧
  (∃ (s : State), (s.powerOff = false)) ∧
  (∃ (s : State), (s.powerOff = false)) :=
  ⟨⟨setF secBase [(Fld.SEC_FLASH_ADDR_ADDR, 0x20000)], 1, loc (secBase + Reg.SEC_FLASH_CMD), by unfold Admits; decide +kernel⟩,
   ⟨setF secBase [(Fld.SEC_STS_STAGE, 1)], 1, loc (secBase + Reg.SEC_FLASH_CMD), by unfold Admits; decide +kernel⟩,
   ⟨{ State.reset with flashOp := some (0, 0x10000), flash := [(0x10005, 7), (0x20001, 8)] }, 0x10000, by decide +kernel⟩,
   ⟨{ State.reset with flashOp := some (1, 0x10000), flash := [(0x10005, 7), (0x20001, 8)] }, 0x10000, by decide +kernel⟩,
   ⟨{ State.reset with flashOp := some (1, 0x10000) }, 1, 0x10000, by decide +kernel⟩,
   ⟨State.reset, 0x800, loc (secBase + Reg.SEC_OTP_LOCK), by unfold Admits; decide +kernel⟩,
   ⟨{ State.reset with tapHeld := false }, by decide +kernel⟩,
   ⟨{ State.reset with tapHeld := false }, by decide +kernel⟩,
   ⟨{ State.reset with tapHeld := false }, Instr.tapClamp, 4, by decide +kernel⟩,
   ⟨{ State.reset with tapHeld := false }, by decide +kernel⟩,
   ⟨{ { State.reset with tapHeld := false } with otp := [(0x800, 7)] }, by decide +kernel⟩,
   ⟨{ State.reset with tapHeld := false }, by decide +kernel⟩,
   ⟨setF secBase [(Fld.SEC_STS_TEST_UNLOCKED, 1)] { State.reset with tapHeld := false }, by decide +kernel⟩,
   ⟨setF secBase [(Fld.SEC_STS_TEST_UNLOCKED, 1)] guarded, 2, by decide +kernel⟩,
   ⟨(setF (tstBase 0) [(Fld.TST_LOCK_LOCKED, 0)] linked), 0x800, 0, 1, 0, (9 : Word), loc (pertAt 0 1), by unfold Admits; decide +kernel⟩,
   ⟨(setF (tstBase 0) [(Fld.TST_LOCK_LOCKED, 0)] linked), 0x800, 0, 1, (255 : Word), loc (pertAt 0 1), by unfold Admits; decide +kernel⟩,
   ⟨(setF (tstBase 0) [(Fld.TST_LOCK_LOCKED, 0)] linked), 0x800, 0, 1, 1, (9 : Word), loc (injAt 0 1 + 4), by unfold Admits; decide +kernel⟩,
   ⟨setF (tstBase 0) [(Fld.TST_LOCK_LOCKED, 1)] linked, 0x800, 0, 1, 0, by decide +kernel⟩,
   ⟨{ State.reset with powerOff := true }, by decide +kernel⟩,
   ⟨State.reset, by decide +kernel⟩,
   ⟨State.reset, by decide +kernel⟩⟩

/-- StepKeepsInvariant: its hypotheses are met. -/
theorem witness_StepKeepsInvariant :
  (∃ (s : State) (t : State), (s.ok = true) ∧ (step s = .next t)) :=
  ⟨{ State.reset with pending := [.hWake], cellar := 2 }, ({ State.reset with cellar := 3 } : State), by exact ⟨by decide +kernel, rfl⟩⟩

/-- OtpBitsNeverClear: its hypotheses are met. -/
theorem witness_OtpBitsNeverClear :
  (∃ (s : State) (t : State), (s.ok = true) ∧ (step s = .next t)) :=
  ⟨{ State.reset with pending := [.hWake], cellar := 2 }, ({ State.reset with cellar := 3 } : State), by exact ⟨by decide +kernel, rfl⟩⟩

/-- CommandsLeaveTheQueue: its clauses’ hypotheses are met. -/
theorem witness_CommandsLeaveTheQueue :
  (∃ (i : _) (s : State) (t : State), (exec i s = .next t)) ∧
  (∃ (s : State) (t : State), (step s = .next t)) :=
  ⟨⟨.hWake, { State.reset with pending := [.hWake], cellar := 2 }, ({ State.reset with pending := [.hWake], cellar := 3 } : State), by rfl⟩,
   ⟨{ State.reset with pending := [.hWake], cellar := 2 }, ({ State.reset with cellar := 3 } : State), by rfl⟩⟩

end Sys2Proof.Tests
end

section
/-!
PROOFS. Accesses and 4 KiB pages (R26): `accCheck` rejects an access that crosses a boundary, and the parts of a range
are non-empty, lie in one page each and cover the range in order.
-/
namespace Sys2Proof.Machine

/-! ### Ranges -/

@[simp] theorem rangeFrom_zero (lo : Nat) : rangeFrom lo 0 = [] := rfl

/-- A range is the range of its first `m` numbers followed by that of the rest. -/
theorem rangeFrom_add (lo m k : Nat) : rangeFrom lo (m + k) = rangeFrom lo m ++ rangeFrom (lo + m) k := by
  simp [rangeFrom, List.range_add, Nat.add_assoc]

/-! ### Splitting at page boundaries -/

@[simp] theorem split4k_len_zero (f a : Nat) : split4k f a 0 = [] := by cases f <;> rfl

/-- A range that is not empty starts with the part up to its end or to the next boundary, whichever comes first. -/
theorem split4k_succ (f a : Nat) {n : Nat} (hn : n ≠ 0) :
    split4k (f + 1) a n = (a, min n (4096 - a % 4096))
      :: split4k f (a + min n (4096 - a % 4096)) (n - min n (4096 - a % 4096)) := by
  simp [split4k, hn]

/-- A non-empty part that ends at the next boundary or before it lies in one page. -/
theorem samePage_of_le_boundary {a m : Nat} (hm : 0 < m) (hle : m ≤ 4096 - a % 4096) :
    a / 4096 = (a + m - 1) / 4096 := by omega

/-- Whatever the fuel, no part is empty or crosses a boundary. -/
theorem split4k_samePage (f : Nat) : ∀ a n : Nat, ∀ p ∈ split4k f a n,
    0 < p.2 ∧ p.1 / 4096 = (p.1 + p.2 - 1) / 4096 := by
  induction f with
  | zero => simp [split4k]
  | succ f ih =>
    intro a n p hp
    by_cases hn : n = 0
    · simp [hn] at hp
    · rw [split4k_succ f a hn, List.mem_cons] at hp
      rcases hp with rfl | hp
      · have hpos : 0 < min n (4096 - a % 4096) := by omega
        exact ⟨hpos, samePage_of_le_boundary hpos (Nat.min_le_right ..)⟩
      · exact ih _ _ p hp

/-- With a unit of fuel for each page the range touches, counted from the start of its first page, the parts cover it
in order: after the first part the rest is empty or starts at a boundary, one page further on. -/
theorem split4k_covers (f : Nat) : ∀ a n : Nat, a % 4096 + n ≤ 4096 * f →
    ((split4k f a n).flatMap fun p => rangeFrom p.1 p.2) = rangeFrom a n := by
  induction f with
  | zero =>
    intro a n hf
    obtain rfl : n = 0 := by omega
    rfl
  | succ f ih =>
    intro a n hf
    by_cases hn : n = 0
    · simp [hn]
    · rw [split4k_succ f a hn, List.flatMap_cons]
      generalize hm : min n (4096 - a % 4096) = m
      have hrest : ((split4k f (a + m) (n - m)).flatMap fun p => rangeFrom p.1 p.2) = rangeFrom (a + m) (n - m) := by
        by_cases hlast : n ≤ 4096 - a % 4096
        · have hend : n - m = 0 := by omega
          simp [hend]
        · exact ih (a + m) (n - m) (by omega)
      rw [hrest, ← rangeFrom_add, Nat.add_sub_cancel' (by omega)]

/-- The parts of a range cover it in order: the fuel of `parts4k` reaches its last page. -/
theorem parts4k_covers (a n : Nat) : ((parts4k a n).flatMap fun p => rangeFrom p.1 p.2) = rangeFrom a n :=
  split4k_covers _ a n (by omega)

/-! ### The check of an access -/

/-- An access that crosses a boundary, from an initiator that can issue one, is rejected with code 1 before any other
check, and nothing changes. -/
theorem accCheck_of_crosses {s : State} {ini a n : Nat} (w : Bool) (hini : iniBlocked s ini = false)
    (hcross : a / 4096 ≠ (a + n - 1) / 4096) : accCheck s ini a n w = (some 1, s) := by
  simp [accCheck, hini, hcross]

/-- Settles O7: the page rule comes first in `accCheck`; the parts of a range follow by induction on the fuel of
`split4k`. -/
theorem accessesStayInPages : Obligations.AccessesStayInPages := by
  unfold Obligations.AccessesStayInPages
  exact ⟨fun _ _ _ _ w hini hcross => accCheck_of_crosses w hini hcross,
    fun a n => ⟨split4k_samePage _ a n, parts4k_covers a n⟩⟩

end Sys2Proof.Machine
end

section
/-!
PROOFS. Updates apart from the cores' own blocks (R33 to R38): where the register blocks lie, and what an update outside the
cores leaves alone. `Outside` moves no core's register, record or byte; `CoreKept` may move bytes; `SeqKept` may also
move records.
-/
namespace Sys2Proof.Machine

open Sys2Proof

/-! ### Where the register blocks lie (R33 to R38) -/

/-- An address of a core's own block, the first 16 KiB of the 64 KiB that R35 gives each core of a cluster. -/
def SeqAddr (a : Nat) : Prop :=
  0x100000 ≤ a % 0x1000000 ∧ a / 0x80000 % 2 = 1 ∧ a % 0x10000 < 0x4000

/-- The first `n` bytes at `b` hold no register of a core's own block. -/
def OffSeq (b n : Nat) : Prop := ∀ o < n, ¬ SeqAddr (b + o)

theorem seqAddr_core (k : Nat) {o : Nat} (ho : o < 0x4000) : SeqAddr (coreBase k + o) := by
  unfold SeqAddr coreBase cluBase dieBase; omega

theorem offSeq_die (d : Nat) : OffSeq (dieBase d) 0x100000 := by
  intro o ho; unfold SeqAddr dieBase; omega

theorem offSeq_clu (c : Nat) : OffSeq (cluBase c) 0x80000 := by
  intro o ho; unfold SeqAddr cluBase dieBase; omega

theorem offSeq_chk (k : Nat) : OffSeq (chkBase k) 0x4000 := by
  intro o ho; unfold SeqAddr chkBase coreBase cluBase dieBase; omega

theorem offSeq_eng (e : Nat) : OffSeq (engBase e) 0x1000 := by
  intro o ho; unfold SeqAddr engBase coreBase cluBase dieBase; omega

theorem OffSeq.add {b n : Nat} (h : OffSeq b n) (m : Nat) {n' : Nat} (hm : m + n' ≤ n) : OffSeq (b + m) n' := by
  intro o ho; rw [Nat.add_assoc]; exact h _ (by omega)

theorem offSeq_mem (d : Nat) : OffSeq (memBase d) 0x10000 := (offSeq_die d).add _ (by decide)
theorem offSeq_pan (d : Nat) : OffSeq (panBase d) 0x10000 := (offSeq_die d).add _ (by decide)
theorem offSeq_syn (d : Nat) : OffSeq (synBase d) 0x80000 := (offSeq_die d).add _ (by decide)

theorem offSeq_bwr (d : Nat) : OffSeq (bwrBase d) 0x10000 := by
  intro o ho; unfold SeqAddr bwrBase dieBase; split_ifs <;> omega

theorem offSeq_tst (d : Nat) : OffSeq (tstBase d) 0x10000 := by
  intro o ho; unfold SeqAddr tstBase dieBase; split_ifs <;> omega

/-- The blocks of the IOD (R36) lie below the clusters' megabytes. -/
theorem offSeq_iod {b : Nat} (h : b % 0x1000000 + 0x10000 ≤ 0x100000) : OffSeq b 0x10000 := by
  intro o ho; unfold SeqAddr; omega

theorem offSeq_strm (st : Nat) : OffSeq (strmBase st) 0x10000 := (offSeq_die _).add _ (by omega)

/-! ### Updates outside the cores -/

/-- The common part of the state is kept, and every register of a core's own block reads as before. -/
structure SeqKept (s t : State) : Prop extends Kept s t where
  seq : s.ok = true → ∀ a, SeqAddr a → t.rd a = s.rd a

/-- Besides, no core's record changes. -/
structure CoreKept (s t : State) : Prop extends SeqKept s t where
  cores : t.cores = s.cores

/-- Besides, no byte of memory changes. -/
structure Outside (s t : State) : Prop extends CoreKept s t where
  mem : t.mem = s.mem
  undef : t.undef = s.undef

theorem SeqKept.refl (s : State) : SeqKept s s := ⟨Kept.refl s, fun _ _ _ => rfl⟩
theorem CoreKept.refl (s : State) : CoreKept s s := ⟨SeqKept.refl s, rfl⟩
theorem Outside.refl (s : State) : Outside s s := ⟨CoreKept.refl s, rfl, rfl⟩

section
variable {s t u : State}

theorem SeqKept.trans (h : SeqKept s t) (h' : SeqKept t u) : SeqKept s u :=
  ⟨h.toKept.trans h'.toKept, fun e a ha => (h'.seq (h.ok e) a ha).trans (h.seq e a ha)⟩

theorem CoreKept.trans (h : CoreKept s t) (h' : CoreKept t u) : CoreKept s u :=
  ⟨h.toSeqKept.trans h'.toSeqKept, h'.cores.trans h.cores⟩

theorem Outside.trans (h : Outside s t) (h' : Outside t u) : Outside s u :=
  ⟨h.toCoreKept.trans h'.toCoreKept, h'.mem.trans h.mem, h'.undef.trans h.undef⟩

/-- An update of fields that hold neither registers, nor cores, nor bytes. -/
theorem Outside.of_kept (hk : Kept s t) (hr : t.regs = s.regs) (hc : t.cores = s.cores)
    (hm : t.mem = s.mem) (hu : t.undef = s.undef) : Outside s t :=
  ⟨⟨⟨hk, fun _ a _ => State.rd_congr hk.part hr a⟩, hc⟩, hm, hu⟩

theorem CoreKept.core_eq (h : CoreKept s t) (k : Nat) : t.core k = s.core k := by
  unfold State.core; rw [h.cores]

theorem SeqKept.fg_core (h : SeqKept s t) (hs : s.ok = true) (k : Nat) (f : Fld) (hf : f.off < 0x4000) :
    t.fg (coreBase k) f = s.fg (coreBase k) f := by
  unfold State.fg; rw [h.seq hs _ (seqAddr_core k hf)]

theorem Outside.ite {c : Prop} [Decidable c] (ht : Outside s t) (hu : Outside s u) : Outside s (if c then t else u) := by
  split <;> assumption

theorem Outside.ite_snd {A : Type} {p q : A × State} {c : Prop} [Decidable c] (hp : Outside s p.2) (hq : Outside s q.2) :
    Outside s (if c then p else q).2 := by
  split <;> assumption

theorem Outside.sameMem (h : Outside s t) : SameMem s t := State.mb_congr h.mem h.undef

/-! A write in a block that lies apart from the cores' own. -/

variable {b n : Nat}

theorem OffSeq.wr (hb : OffSeq b n) {o v : Nat} (ho : o < n) : Outside s (s.wr (b + o) v) :=
  ⟨⟨⟨Kept.wr _ _ _, fun hs _ ha => State.rd_wr_other v hs fun e => hb o ho (e ▸ ha)⟩, rfl⟩, rfl, rfl⟩

theorem OffSeq.fs (hb : OffSeq b n) {f : Fld} {v : Nat} (hf : f.off < n) : Outside s (s.fs b f v) :=
  hb.wr hf

theorem OffSeq.fs_ite (hb : OffSeq b n) {c : Prop} [Decidable c] {f g : Fld} {v : Nat} (hf : f.off < n)
    (hg : g.off < n) : Outside s (s.fs b (if c then f else g) v) := by
  split
  · exact hb.fs hf
  · exact hb.fs hg

theorem OffSeq.faddWrap (hb : OffSeq b n) {f : Fld} {v : Nat} (hf : f.off < n) :
    Outside s (s.faddWrap b f v) := hb.fs hf

theorem OffSeq.faddSat (hb : OffSeq b n) {f : Fld} {v : Nat} (hf : f.off < n) :
    Outside s (s.faddSat b f v) := hb.fs hf

/-! ### Loops -/

theorem SeqKept.foldl {A : Type} {f : State → A → State} {xs : List A} (hf : ∀ t, ∀ x ∈ xs, SeqKept t (f t x)) :
    SeqKept s (xs.foldl f s) := by
  induction xs generalizing s with
  | nil => exact SeqKept.refl s
  | cons x xs ih => exact (hf s x (by simp)).trans (ih fun t y hy => hf t y (by simp [hy]))

theorem CoreKept.foldl {A : Type} {f : State → A → State} {xs : List A} (hf : ∀ t, ∀ x ∈ xs, CoreKept t (f t x)) :
    CoreKept s (xs.foldl f s) := by
  induction xs generalizing s with
  | nil => exact CoreKept.refl s
  | cons x xs ih => exact (hf s x (by simp)).trans (ih fun t y hy => hf t y (by simp [hy]))

theorem Outside.foldl {A : Type} {f : State → A → State} {xs : List A} (hf : ∀ t, ∀ x ∈ xs, Outside t (f t x)) :
    Outside s (xs.foldl f s) := by
  induction xs generalizing s with
  | nil => exact Outside.refl s
  | cons x xs ih => exact (hf s x (by simp)).trans (ih fun t y hy => hf t y (by simp [hy]))

theorem Outside.foldl_snd {A B : Type} {f : B × State → A → B × State} {xs : List A} {p : B × State}
    (hf : ∀ p : B × State, ∀ x ∈ xs, Outside p.2 (f p x).2) : Outside p.2 (xs.foldl f p).2 := by
  induction xs generalizing p with
  | nil => exact Outside.refl p.2
  | cons x xs ih => exact (hf p x (by simp)).trans (ih fun q y hy => hf q y (by simp [hy]))

end

/-! ### Messages, events, injection -/

section
variable {s : State}

theorem outside_emit (k : String) (d : Nat) (w : List Nat) : Outside s (s.emit k d w) :=
    .of_kept (Kept.update s) rfl rfl rfl rfl
theorem outside_report (i e u : Nat) : Outside s (s.report i e u) := .of_kept (Kept.update s) rfl rfl rfl rfl
theorem outside_reportBoth (e u : Nat) : Outside s (s.reportBoth e u) := (outside_report 0 e u).trans (outside_report 1 e u)
theorem outside_toMp (k u : Nat) : Outside s (s.toMp k u) := .of_kept (Kept.update s) rfl rfl rfl rfl
theorem outside_setCmd (tg : Nat) (c : Cmd) : Outside s (s.setCmd tg c) := .of_kept (Kept.update s) rfl rfl rfl rfl
theorem outside_free : Outside s s.free.2 := .of_kept (Kept.update s) rfl rfl rfl rfl
theorem outside_setEng (e : Nat) (g : Eng) : Outside s (s.setEng e g) := .of_kept (Kept.setEng s e g) rfl rfl rfl rfl

theorem outside_freeWords (n : Nat) : Outside s (freeWords n s).2 := by
  induction n generalizing s with
  | zero => exact Outside.refl s
  | succ n ih => exact outside_free.trans ih

theorem outside_event (st d r : Nat) : Outside s (s.event st d r) := by
  have hlist : ∀ (es : List HostEv) (n : Nat), Outside s { s with events := es, eventsLost := n } :=
    fun _ _ => .of_kept (Kept.update s) rfl rfl rfl rfl
  unfold State.event
  dsimp only
  split
  · exact (hlist ..).trans ((offSeq_iod (b := cmdBase) (by decide)).fs (by decide))
  · exact hlist _ s.eventsLost

theorem outside_notice (c u g x : Nat) : Outside s (s.notice c u g x) := by
  unfold State.notice
  split
  · exact (outside_event ..).trans (.foldl fun t p _ =>
      (outside_emit ..).trans ((offSeq_iod (b := rstIBase) (by decide)).wr (by decide)))
  · exact outside_event ..

/-- An injection slot changes its own words, TST_STS and its count (R551, R552). -/
theorem outside_injectSlot (d tg : Nat) (sel : Nat → Nat → Nat → Bool) {i : Nat} (hi : i < 4) :
    Outside s (injectSlot d tg sel s i).2 := by
  have word : ∀ {t : State} (v o : Nat), o < 16 → Outside t (t.wr (tstBase d + Reg.TST_INJ_W0 + 16 * i + o) v) := by
    intro t v o ho
    exact (((offSeq_tst d).add Reg.TST_INJ_W0 (n' := 64) (by decide)).add (16 * i) (n' := 16) (by omega)).wr ho
  exact .ite_snd (.ite_snd (.ite_snd ((word _ 12 (by decide)).trans (.of_kept (Kept.update _) rfl rfl rfl rfl))
    (.of_kept (Kept.update s) rfl rfl rfl rfl))
    ((word _ 12 (by decide)).trans ((word _ 0 (by decide)).trans ((offSeq_tst d).wr (by decide))))) (Outside.refl s)

theorem outside_injectAll (d tg : Nat) (sel : Nat → Nat → Nat → Bool) : Outside s (injectAll s d tg sel).2 := by
  unfold injectAll
  split
  · exact Outside.refl s
  · exact Outside.foldl_snd (p := ([], s)) fun p i hi => outside_injectSlot d tg sel (List.mem_range.1 hi)

theorem outside_inject (d tg : Nat) (sel : Nat → Nat → Nat → Bool) : Outside s (inject s d tg sel).2 :=
  outside_injectAll d tg sel

end

end Sys2Proof.Machine
end

section
/-!
PROOFS. Operations outside the cores: DRAM and SRAM with their check words, group tables, ledgers, engines, hold records and
the marks of dispatcher and checkers.
-/
namespace Sys2Proof.Machine

open Sys2Proof

section
variable {s : State}

/-- The errors of DRAM lines and of SRAM words are no register, core or byte. -/
theorem outside_dram (m : List (Nat × Nat)) : Outside s { s with dram := m } := .of_kept (Kept.update s) rfl rfl rfl rfl
theorem outside_sram (m : List (Nat × Nat)) : Outside s { s with sram := m } := .of_kept (Kept.update s) rfl rfl rfl rfl

/-! ### DRAM lines, the system cache, SRAM (R195 to R217) -/

theorem outside_chCount (raw : Nat) (f : Fld) (hf : f.off + 0xF01 ≤ 0x10000) : Outside s (chCount s raw f) := by
  have hopen : Outside s (openRow s raw) := .ite (Outside.refl s) (.of_kept (Kept.update s) rfl rfl rfl rfl)
  have hch : dramCh (rawOff raw) < 16 := Nat.mod_lt _ (by decide)
  have hblk : OffSeq (memBase (rawDie raw) + 0x100 * dramCh (rawOff raw)) (f.off + 1) := (offSeq_mem _).add _ (by omega)
  exact hopen.trans (hblk.faddWrap (by omega))

theorem outside_readCheck (raw : Nat) : Outside s (readCheck s raw) := .ite (.of_kept (Kept.update s) rfl rfl rfl rfl)
    (Outside.refl s)

/-- The log takes an entry only while it holds fewer than 16 (R216). -/
theorem outside_elogAdd (raw ty : Nat) (w : Who) : Outside s (elogAdd s raw ty w) := by
  unfold elogAdd
  dsimp only
  split
  · exact ((offSeq_mem _).faddSat (by decide)).trans ((offSeq_mem _).fs (by decide))
  · next hn =>
    generalize s.fg (memBase (rawDie raw)) Fld.MEM_ELOG_STS_COUNT = n at hn ⊢
    have hblk : OffSeq (memBase (rawDie raw) + Reg.MEM_ELOG_W0 + 16 * n) 16 :=
      ((offSeq_mem _).add Reg.MEM_ELOG_W0 (n' := 256) (by decide)).add _ (by omega)
    exact outside_free.trans <| (hblk.wr (o := 0) (by decide)).trans <| (hblk.wr (by decide)).trans <|
      (hblk.wr (by decide)).trans <| (hblk.wr (by decide)).trans <|
      (Outside.of_kept (Kept.update _) rfl rfl rfl rfl).trans ((offSeq_mem _).fs (by decide))

theorem outside_memEvent (d : Nat) : Outside s (memEvent s d) :=
  (outside_reportBoth ..).trans <| (outside_toMp ..).trans (outside_notice ..)

theorem outside_dramError (raw mark : Nat) (w : Who) : Outside s (dramError s raw mark w) := by
  unfold dramError
  dsimp only
  split
  · refine Outside.trans ?_ (.ite (outside_toMp ..) (Outside.refl _))
    refine Outside.trans ?_ (.ite (outside_elogAdd ..) (Outside.refl _))
    exact ((offSeq_mem _).fs (by decide)).trans ((offSeq_mem _).wr (by decide))
  · refine .ite ?_ (.ite ?_ (Outside.refl s))
    · exact ((offSeq_mem _).fs_ite (by decide) (by decide)).trans <| ((offSeq_mem _).wr (by decide)).trans <|
        (outside_elogAdd ..).trans (outside_memEvent _)
    · exact ((offSeq_mem _).fs (by decide)).trans <| (outside_elogAdd ..).trans (outside_memEvent _)

theorem outside_dramLineWrite (l : Nat) (full : Bool) (w : Who) : Outside s (dramLineWrite s l full w) := by
  unfold dramLineWrite
  dsimp only
  have hread : Outside s (if full = true then s else readCheck (chCount s (64 * l) Fld.MEM_CH_RDCNT_COUNT) (64 * l)) :=
    .ite (Outside.refl s) ((outside_chCount _ _ (by decide)).trans (outside_readCheck _))
  refine hread.trans <| (outside_chCount (64 * l) Fld.MEM_CH_WRCNT_COUNT (by decide)).trans ?_
  refine .ite (Outside.refl _) (.ite ?_ (.ite (Outside.refl _) (.ite ?_ ?_)))
  · exact (outside_dram _).trans <| (outside_inject ..).trans (.ite (Outside.refl _) (outside_dram _))
  · exact (outside_dramError ..).trans (outside_dram _)
  · refine Outside.trans ?_ <| (outside_elogAdd ..).trans <| (outside_memEvent _).trans (outside_dram _)
    exact .ite ((offSeq_mem _).fs (by decide))
      (((offSeq_mem _).fs_ite (by decide) (by decide)).trans ((offSeq_mem _).wr (by decide)))

theorem outside_scDrop (p : Nat → Bool) : Outside s (scDrop s p) := .of_kept (Kept.update s) rfl rfl rfl rfl
theorem outside_scMend (l : Nat) : Outside s (scMend s l) := .of_kept (Kept.update s) rfl rfl rfl rfl

theorem outside_scWritten (l : Nat) (full : Bool) (w : Who) : Outside s (scWritten s l full w) := by
  unfold scWritten
  split
  · exact Outside.refl s
  · exact .ite (outside_scDrop _) (.ite (outside_scMend l) (Outside.refl s))

/-- A store changes bytes alone. -/
theorem coreKept_mwr (a : Nat) (bs : List Byte) : CoreKept s (s.mwr a bs) :=
  ⟨⟨Kept.mwr s a bs, fun _ a _ => State.rd_congr (State.mwr_part s _ bs) (State.mwr_regs s _ bs) a⟩, State.mwr_cores s a bs⟩

theorem coreKept_dramWrite (raw : Nat) (bs : List Byte) (w : Who) : CoreKept s (dramWrite s raw bs w) :=
  (Outside.foldl fun t l _ => (outside_dramLineWrite (s := t) l _ w).trans (outside_scWritten l _ w)).toCoreKept.trans
    (coreKept_mwr raw bs)

theorem coreKept_sramWrite (key : Nat) (bs : List Byte) : CoreKept s (sramWrite s key bs) := by
  have hend : ∀ (t : State) (m : Prop) [Decidable m] (w : List (Nat × Nat)) (d x : Nat) (sel : Nat → Nat → Nat → Bool),
      Outside t (if m then (inject t d x sel).2 else { (inject t d x sel).2 with sram := w }) :=
    fun t m _ w d x sel => (outside_inject d x sel).trans (.ite (Outside.refl _) (outside_sram _))
  have hmark : ∀ c : Bool, Outside s (if c = true then s.fs (memBase (sramPlace key).1) Fld.MEM_DIE_ERR_SRAM_CE 1 else s) :=
    fun _ => .ite ((offSeq_mem _).fs (by decide)) (Outside.refl s)
  unfold sramWrite
  exact ((hmark _).trans (outside_sram _)).toCoreKept.trans <| (coreKept_mwr key bs).trans (hend ..).toCoreKept

/-- Bytes that become undefined leave the registers and the cores. -/
theorem coreKept_mundef (a n : Nat) : CoreKept s (s.mundef a n) := by
  unfold State.mundef
  split
  · exact CoreKept.refl s
  · next hn =>
    have hok : s.ok = true → ({ s with
        mem := kdrop (fun k => decide (a ≤ k) && decide (k < a + n)) s.mem,
        undef := cutUndef a (a + n) s.undef ++ [(a, a + n, s.fresh)], fresh := s.fresh + 1 } : State).ok = true :=
      fun hs => State.ok_of (State.ok_regs (s := s) hs) (State.wf_mzero a n (State.ok_mem hs)) (State.ok_maps (s := s) hs)
    exact ⟨⟨Kept.of_ok rfl rfl hok rfl, fun _ a _ => State.rd_congr (s := s) rfl rfl a⟩, rfl⟩

theorem coreKept_mwrUndef (a n : Nat) : CoreKept s (s.mwrUndef a n) :=
  (coreKept_mundef a n).trans (Outside.of_kept (Kept.update _) rfl rfl rfl rfl).toCoreKept

end

section
variable {s : State}

/-! ### Floors and groups (R353, R358, R362) -/

theorem outside_countShort (before : State) (d : Nat) : Outside s (countShort before d s) :=
  .foldl fun _ _ _ => .foldl fun _ _ _ =>
    .ite (((offSeq_bwr d).fs (by decide)).trans ((offSeq_bwr d).faddSat (by decide))) (Outside.refl _)

theorem outside_syncGroups (before : State) (d : Nat) : Outside s (syncGroups before s d) := by
  unfold syncGroups
  refine Outside.trans (.foldl fun t p hp => .foldl fun u c hc => ?_) (outside_countShort ..)
  have hreg : OffSeq (regAddr d p c) 1 := by
    rw [List.mem_range] at hp hc
    intro o ho
    have := offSeq_bwr d (0x100 + 0x80 * p + 0x48 + 4 * c + o) (by omega)
    simpa only [regAddr, pathArea, Nat.add_assoc] using this
  exact hreg.wr (o := 0) (by decide)

theorem outside_putGroup (d w0 w1 w2 w3 : Nat) {g : Nat} (hg : g < 64) : Outside s (putGroup s d g w0 w1 w2 w3) := by
  have hent : OffSeq (grpAddr d g) 16 := ((offSeq_bwr d).add 0x1000 (n' := 0x1000) (by decide)).add (16 * g) (by omega)
  have hfill : Outside s (fillBuckets s fun k => k / 2048 == d && k % 128 == 64 + g) :=
    .of_kept (Kept.update s) rfl rfl rfl rfl
  exact hfill.trans <| (hent.wr (o := 0) (by decide)).trans <| (hent.wr (by decide)).trans <|
    (hent.wr (by decide)).trans <| (hent.wr (by decide)).trans (outside_syncGroups ..)

theorem outside_dropGroup (d first : Nat) : Outside s (dropGroup s d first) := by
  unfold dropGroup
  split
  · next g hfind => exact outside_putGroup d 0 0 0 0 (List.mem_range.1 (List.mem_of_find?_eq_some hfind))
  · exact Outside.refl s

theorem outside_clearGroup (ks : List Nat) : Outside s (clearGroup s ks) := by
  unfold clearGroup
  split
  · exact Outside.refl s
  · exact outside_dropGroup ..

/-! ### Faults and ledgers (R342 to R345, R496) -/

theorem outside_declareFaults (mask : Nat) : Outside s (declareFaults s mask) :=
  .foldl fun _ _ _ => .ite (outside_setCmd ..) (Outside.refl _)

theorem outside_faultDie (d : Nat) : Outside s (faultDie s d) := by
  have hset : ∀ t : State, Outside t (setFault t d) := fun t =>
    .ite (Outside.refl t) (((offSeq_iod (b := admBase) (by decide)).wr (by decide)).trans (outside_declareFaults _))
  have hlist : ∀ ds : List Nat, Outside s { s with hardFault := ds } := fun _ => .of_kept (Kept.update s) rfl rfl rfl rfl
  exact (hlist _).trans (hset _)

theorem outside_ledgerFail (d id inst diff : Nat) : Outside s (ledgerFail s d id inst diff) := by
  have hnote : ∀ t : State, Outside t (faultDie (((t.reportBoth 8 (unitOfDie d)).toMp 8 (unitOfDie d)).notice 9 (unitOfDie d) 0 0) d) :=
    fun t => (outside_reportBoth ..).trans <| (outside_toMp ..).trans <| (outside_notice ..).trans (outside_faultDie d)
  have hlog : ∀ (t : State) (v : Nat), Outside t
      (if t.fb (synBase d) Fld.SYN_LEDGER_LOG0_VALID then t
        else (t.wr (synBase d + Reg.SYN_LEDGER_LOG0) v).wr (synBase d + Reg.SYN_LEDGER_LOG1) diff) :=
    fun t v => .ite (Outside.refl t) (((offSeq_syn d).wr (by decide)).trans ((offSeq_syn d).wr (by decide)))
  have hmute : Outside s { s with ledgerMute := ledgerKey d id inst :: s.ledgerMute } :=
    .of_kept (Kept.update s) rfl rfl rfl rfl
  unfold ledgerFail
  refine hmute.trans (Outside.trans (.ite (Outside.trans ?_ <| (hlog _ _).trans ((offSeq_syn d).faddSat (by decide)))
    (Outside.refl _)) (hnote _))
  exact .ite ((offSeq_pan d).fs (by decide)) ((offSeq_syn d).fs (by decide))

theorem outside_ledgerCheck (d id inst l r : Nat) : Outside s (ledgerCheck s d id inst l r) :=
  .ite (Outside.refl s) (outside_ledgerFail ..)

theorem outside_ledgerUpdate (d id inst : Nat) : Outside s (ledgerUpdate s d id inst).2 := by
  refine (outside_injectAll d (if d < 4 then 5 else 4) fun w1 _ _ => bits w1 14 11 == id).trans ?_
  refine Outside.trans ?_ (.ite (outside_ledgerFail ..) (Outside.refl _))
  exact .ite (Outside.refl _) (.ite ((offSeq_syn d).fs (by decide)) (.ite ((offSeq_syn d).fs (by decide)) (Outside.refl _)))

theorem outside_ledger1 (st : Nat) : Outside s (ledger1 s st) := outside_ledgerCheck ..
theorem outside_ctxUpdate (k m : Nat) : Outside s (ctxUpdate s k m) := outside_ledgerUpdate ..

/-! ### Engines (R81 to R84) -/

theorem outside_syncEng (e : Nat) : Outside s (syncEng s e) :=
  ((offSeq_eng e).fs (by decide)).trans <| ((offSeq_eng e).fs (by decide)).trans ((offSeq_eng e).fs (by decide))

theorem outside_bankUndefined (e b : Nat) : Outside s (bankUndefined s e b) :=
  (outside_freeWords 512).trans (outside_setEng ..)

theorem coreKept_wbUndefined (e : Nat) (o : EngOp) : CoreKept s (wbUndefined s e o) :=
  .foldl fun _ _ _ => coreKept_mwrUndef ..

theorem coreKept_opUndefined (e : Nat) (o : EngOp) : CoreKept s (opUndefined s e o) := by
  unfold opUndefined
  split
  · exact CoreKept.refl s
  · split
    · exact (outside_bankUndefined ..).toCoreKept
    · exact (outside_bankUndefined ..).toCoreKept
    · exact coreKept_wbUndefined ..

/-! ### What the dispatcher and the checkers note -/

theorem outside_setCoreBusy (k : Nat) (b : Bool) : Outside s (setCoreBusy s k b) := (offSeq_clu _).wr (by decide)
theorem outside_sendCancel (k num : Nat) : Outside s (sendCancel s k num) := .of_kept (Kept.update s) rfl rfl rfl rfl
theorem outside_retired (k : Nat) : Outside s (s.retired k) := .of_kept (Kept.update s) rfl rfl rfl rfl

theorem outside_wakeCluster (c : Nat) : Outside s (wakeCluster s c) :=
  Outside.trans (.ite ((offSeq_clu c).fs (by decide)) (Outside.refl s)) (.of_kept (Kept.update _) rfl rfl rfl rfl)

theorem outside_syncDsp : Outside s (syncDsp s) :=
  ((offSeq_iod (b := dspBase) (by decide)).fs (by decide)).trans ((offSeq_iod (b := dspBase) (by decide)).fs (by decide))

theorem outside_chkCount (k : Nat) (f : Fld) (hf : f.off < 0x4000) : Outside s (chkCount s k f) :=
  (offSeq_chk k).faddWrap hf

theorem outside_logMismatch (k info diff tol : Nat) : Outside s (logMismatch s k info diff tol) := by
  refine Outside.trans (.ite (Outside.refl s) ?_) <| ((offSeq_chk k).faddSat (by decide)).trans <|
    ((offSeq_chk k).faddWrap (by decide)).trans (outside_reportBoth ..)
  exact ((offSeq_chk k).wr (by decide)).trans <| ((offSeq_chk k).wr (by decide)).trans ((offSeq_chk k).wr (by decide))

theorem outside_noteMismatch (k : Nat) : Outside s (noteMismatch s k) := by
  unfold noteMismatch
  split
  · exact Outside.refl s
  · exact outside_setCmd ..

theorem outside_recordMismatch (e b : Nat) (int : Bool) (c : Comparison) : Outside s (recordMismatch s e b int c) :=
  (outside_logMismatch ..).trans (outside_noteMismatch _)

/-! ### Hold records (R332, R349) -/

/-- The hold records of a die lie in its SYN_ block. -/
theorem holdsOn_lt (d : Nat) (p : Nat → Nat → Bool) : ∀ j ∈ holdsOn s d p, j < 0x8000 := by
  intro j hj
  unfold holdsOn at hj
  rw [List.mem_filterMap] at hj
  obtain ⟨e, -, he⟩ := hj
  split at he
  · next hrange =>
    split at he
    · simp only [Option.some.injEq] at he; omega
    · simp at he
  · simp at he

theorem outside_mapHolds_saved (tag gen v : Nat) :
    Outside s (mapHolds s tag gen fun d j t => t.fs (synBase d + 8 * j) Fld.SYN_HOLD_W0_SAVED v) := by
  refine .foldl fun t d _ => .foldl fun u j hj => ?_
  have := holdsOn_lt d _ j hj
  exact OffSeq.fs (n := 0x40001) ((offSeq_syn d).add (8 * j) (by omega)) (by decide)

end

end Sys2Proof.Machine
end

section
/-!
PROOFS. The register port, the fields of a core's block that `syncCore` and `stopSeq` leave, and a core that goes idle.
-/
namespace Sys2Proof.Machine

open Sys2Proof

/-! ### The register port (R12, R42) -/

/-- A request that passes the checks leaves the state as it is. -/
theorem accCheck_snd_of_none {s : State} {ini a n : Nat} {w : Bool} (h : (accCheck s ini a n w).1 = none) :
    (accCheck s ini a n w).2 = s := by
  unfold accCheck at h ⊢
  dsimp only at h ⊢
  split at h
  · cases h
  · next hini =>
    rw [if_neg hini]
    split at h
    · cases h
    · next hpage =>
      rw [if_neg hpage]
      cases hsp : space s a <;> simp only [hsp] at h ⊢ <;> split_ifs at h ⊢ <;> simp_all

theorem regDenied_snd_of_allowed {s : State} {ini a : Nat} {l : Loc} {r : Option (RegSpec × Nat × Nat)}
    (h : (regDenied s ini a l r).1 = false) : (regDenied s ini a l r).2 = s := by
  unfold regDenied at h ⊢
  dsimp only at h ⊢
  split_ifs at h ⊢ <;> rfl

/-- A write that the port admits is handed on as it stands. -/
theorem viaPort_of_admits {s : State} {ini a : Nat} {l : Loc} (h : Admits s ini a l)
    (f : State → Option (RegSpec × Nat × Nat) → State) : viaPort s ini a f = f s (regAt s.part l) := by
  obtain ⟨-, hacc, hloc, hreg⟩ := h
  simp only [viaPort, hacc, accCheck_snd_of_none hacc, hloc, hreg, regDenied_snd_of_allowed hreg, Bool.false_eq_true, if_false]

/-! ### A core's registers -/

theorem coreBase_aligned (k : Nat) : coreBase k % 0x10000 = 0 := by unfold coreBase cluBase dieBase; omega

section
variable {s : State}

/-- Setting a field of one core's block leaves the fields of other offsets, on every core. -/
theorem fg_fs_core_off (hs : s.ok = true) (j k : Nat) {f g : Fld} {v : Nat} (hne : f.off ≠ g.off)
    (hf : f.off < 0x10000) (hg : g.off < 0x10000) :
    (s.fs (coreBase k) g v).fg (coreBase j) f = s.fg (coreBase j) f := by
  refine State.fg_fs_other v hs ?_
  have := coreBase_aligned j
  have := coreBase_aligned k
  omega

/-- Setting a field leaves the fields that lie apart from it in the same register, on every core. -/
theorem fg_fs_core_field (hs : s.ok = true) (j k : Nat) {f g : Fld} {v : Nat} (hoff : f.off = g.off)
    (hd : f.hi < g.lo ∨ g.hi < f.lo) (hg : g.lo ≤ g.hi) (hw : g.hi < 32) :
    (s.fs (coreBase k) g v).fg (coreBase j) f = s.fg (coreBase j) f := by
  by_cases hjk : coreBase j = coreBase k
  · rw [hjk]; exact State.fg_fs_field v hs hoff hg hw hd
  · exact State.fg_fs_other v hs (by omega)

/-- CORE_STS but for VEC_BUSY. -/
structure StsField (f : Fld) : Prop where
  off : f.off = 8
  apart : f.hi < 1 ∨ 1 < f.lo

theorem kept_syncCore (k : Nat) : Kept s (syncCore s k) :=
  (Kept.wr ..).trans <| (Kept.wr ..).trans <| (Kept.wr ..).trans <| (Kept.wr ..).trans (Kept.wr ..)

/-- `syncCore` sets VEC_BUSY of CORE_STS and leaves its other fields. -/
theorem fg_syncCore (hs : s.ok = true) (j k : Nat) {f : Fld} (hf : StsField f) :
    (syncCore s k).fg (coreBase j) f = s.fg (coreBase j) f := by
  obtain ⟨hoff, hapart⟩ := hf
  have hmov : ∀ (t : State) (g : Fld) (v b : Nat), t.ok = true → g.off = 0x30 → b = coreBase k ∨ b = coreBase k + 4 →
      (t.fs b g v).fg (coreBase j) f = t.fg (coreBase j) f := fun t g v b ht hg hb => by
    refine State.fg_fs_other v ht ?_
    have := coreBase_aligned j
    have := coreBase_aligned k
    omega
  unfold syncCore
  dsimp only
  have h1 : ∀ v, (s.fs (coreBase k) Fld.CORE_STS_VEC_BUSY v).ok = true := fun _ => State.ok_fs hs
  have h2 : ∀ v w, ((s.fs (coreBase k) Fld.CORE_STS_VEC_BUSY v).fs (coreBase k) Fld.CORE_SM_STS_QDEPTH w).ok = true :=
    fun v _ => State.ok_fs (h1 v)
  rw [hmov _ _ _ _ (State.ok_fs (State.ok_fs (h2 ..))) rfl (.inr rfl), hmov _ _ _ _ (State.ok_fs (h2 ..)) rfl (.inr rfl),
    hmov _ _ _ _ (h2 ..) rfl (.inl rfl), hmov _ _ _ _ (h1 _) rfl (.inl rfl)]
  exact fg_fs_core_field hs j k hoff hapart (by decide) (by decide)

/-! ### A core that goes idle (R581) -/

theorem kept_stopSeq (k : Nat) : Kept s (stopSeq s k) :=
  (Kept.wr ..).trans <| (Kept.wr ..).trans <| (outside_setCoreBusy ..).toKept.trans (Kept.setCore ..)

theorem stopSeq_core (hs : s.ok = true) (k : Nat) : (stopSeq s k).core k = { s.core k with wait := .none } :=
  State.core_setCore_same (outside_setCoreBusy k false |>.ok (by simp [hs]))

theorem seqRun_stopSeq (hs : s.ok = true) (k : Nat) : seqRun (stopSeq s k) k = false := by
  unfold seqRun State.fb stopSeq
  rw [State.fg_congr (State.setCore_part ..) (State.setCore_regs ..),
    (outside_setCoreBusy k false).fg_core (State.ok_fs (State.ok_fs hs)) k Fld.CORE_STS_SEQ_RUN (by decide),
    fg_fs_core_field (State.ok_fs hs) k k (by decide) (by decide) (by decide) (by decide),
    State.fg_fs_same _ _ _ hs (by decide) (by decide)]
  rfl

/-- The core holds nothing and runs nothing; its stream contexts, its saved record and its golden step stay. -/
def idleCore (s : State) (k : Nat) : State :=
  let c := s.core k
  let s := s.setCore k { c with vq := [], mov0 := { c.mov0 with queue := [] }, mov1 := { c.mov1 with queue := [] }, acquired := [] }
  syncCore (stopSeq s k) k

theorem kept_idleCore (k : Nat) : Kept s (idleCore s k) :=
  (Kept.setCore ..).trans <| (kept_stopSeq k).trans (kept_syncCore k)

theorem idleCore_core (hs : s.ok = true) (k : Nat) : (idleCore s k).core k = { s.core k with
    wait := .none, vq := [], mov0 := ⟨[], (s.core k).mov0.ctxs⟩, mov1 := ⟨[], (s.core k).mov1.ctxs⟩, acquired := [] } := by
  show (stopSeq _ k).core k = _
  rw [stopSeq_core (by simp [hs]), State.core_setCore_same hs]

theorem seqRun_idleCore (hs : s.ok = true) (k : Nat) : seqRun (idleCore s k) k = false := by
  have hset : ∀ c, (s.setCore k c).ok = true := fun c => State.ok_setCore hs
  have hsync : ∀ t : State, t.ok = true → seqRun (syncCore t k) k = seqRun t k := fun t ht => by
    unfold seqRun State.fb
    rw [fg_syncCore ht k k ⟨rfl, by decide⟩]
  unfold idleCore
  dsimp only
  rw [hsync _ ((kept_stopSeq k).ok (hset _)), seqRun_stopSeq (hset _)]

/-- An engine's operations and waiting writes change. -/
theorem outside_resetEng (e : Nat) (g : Eng) : Outside s (syncEng (s.setEng e g) e) :=
  (outside_setEng e g).trans (outside_syncEng e)

/-- What ABORT does to an engine of the core: its operations go, and what one of them was writing is undefined. -/
def abortEng (k : Nat) (t : State) (i : Nat) : State :=
  let e := 4 * k + i
  let t := (t.eng e).held.foldl (fun u o => opUndefined u e o) t
  syncEng (t.setEng e { t.eng e with held := [], stalledGo := noSeqGo k (t.eng e).stalledGo }) e

theorem coreKept_abortEng (k i : Nat) : CoreKept s (abortEng k s i) :=
  (CoreKept.foldl fun _ o _ => coreKept_opUndefined _ o).trans (outside_resetEng ..).toCoreKept

/-- ABORT stops the engines, cancels a blocked wait and leaves the core idle. -/
theorem abortCore_eq (s : State) (k : Nat) : ∃ u, CoreKept s u ∧ abortCore s k = idleCore u k := by
  unfold abortCore
  dsimp only
  generalize hfold : List.foldl _ s (List.range 4) = t
  have heng : CoreKept s t := hfold ▸ .foldl fun _ i _ => coreKept_abortEng k i
  split
  · next num _ _ => exact ⟨_, heng.trans (outside_sendCancel k num).toCoreKept, rfl⟩
  · exact ⟨t, heng, rfl⟩

end

end Sys2Proof.Machine
end

section
/-!
PROOFS. START and PREEMPT (R97, R127, R128), and how CORE_CMD reaches them.
-/
namespace Sys2Proof.Machine

open Sys2Proof

/-! ### START (R97) -/

/-- Writing a run of registers: each reads as its value, and the others as before. -/
theorem rd_writeRun {s : State} (hs : s.ok = true) (b : Nat) (g : Nat → Nat) (n : Nat) :
    let t := (List.range n).foldl (fun t i => t.wr (b + 4 * i) (g i)) s
    t.ok = true ∧ (∀ i < n, t.rd (b + 4 * i) = g i % 2 ^ 32) ∧ ∀ a, (∀ i < n, a ≠ b + 4 * i) → t.rd a = s.rd a := by
  induction n with
  | zero => exact ⟨hs, by simp, fun _ _ => rfl⟩
  | succ n ih =>
    obtain ⟨hok, hval, hother⟩ := ih
    simp only [List.range_succ, List.foldl_append, List.foldl_cons, List.foldl_nil]
    refine ⟨State.ok_wr hok, fun i hi => ?_, fun a ha => ?_⟩
    · rcases Nat.lt_succ_iff_lt_or_eq.1 hi with h | rfl
      · rw [State.rd_wr_other _ hok (by omega)]; exact hval i h
      · exact State.rd_wr_same _ _ hok
    · rw [State.rd_wr_other _ hok (ha n (by omega))]
      exact hother a fun i hi => ha i (by omega)

/-- S0 to S31 of a step that starts. -/
def startSreg (s1 s2 s3 n : Nat) : Nat := if n = 1 then s1 else if n = 2 then s2 else if n = 3 then s3 else 0

/-- The scalar registers of core `k` as START sets them. -/
def startSregs (s : State) (k s1 s2 s3 : Nat) : State :=
  (List.range 32).foldl (fun t n => t.wr (coreBase k + Reg.CORE_SEQ_S + 4 * n) (startSreg s1 s2 s3 n)) s

/-- The status fields that START sets: SEQ_RUN, PREEMPT_PEND and the movers' HALT. -/
def startFlags (s : State) (k : Nat) : State :=
  let b := coreBase k
  (((s.fs b Fld.CORE_STS_SEQ_RUN 1).fs b Fld.CORE_STS_PREEMPT_PEND 0).fs b Fld.CORE_SM_STS_HALT 0).fs (b + 4)
    Fld.CORE_SM_STS_HALT 0

/-- The watchdog takes its limit, and the marks outside the core's block are set. -/
def startMarks (s : State) (k : Nat) : State :=
  let s := s.wr (coreBase k + Reg.CORE_WDOG) (s.fg (rstBase (k / 64)) Fld.RST_HANG_WDOG_US)
  setCoreBusy (s.fs (chkBase k) Fld.CHK_STEP_MM_COUNT 0) k true

theorem startCore_eq (s : State) (k s1 s2 s3 : Nat) : startCore s k s1 s2 s3 =
    let t := startMarks (startFlags (startSregs (wakeCluster s (k / 8)) k s1 s2 s3) k) k
    setPc (t.setCore k { t.core k with wait := .none, acquired := [] }) k (t.rd (coreBase k + Reg.CORE_SEQ_ENTRY)) := by
  unfold startCore startMarks startFlags startSregs startSreg
  dsimp only
  generalize List.foldl _ _ (List.range 32) = r
  rfl

/-- What START leaves alone in the core's block: every register but CORE_STS, the watchdog and the movers' status. -/
def ctlReg (k a : Nat) : Prop :=
  a = coreBase k + Reg.CORE_STS ∨ a = coreBase k + Reg.CORE_WDOG ∨ a = coreBase k + Reg.CORE_SM_STS
    ∨ a = coreBase k + 4 + Reg.CORE_SM_STS ∨ ¬ SeqAddr a

section
variable {s : State}

/-- A change outside the cores' own blocks moves no register of theirs. -/
theorem Outside.onlyRegs {t : State} {p : Nat → Prop} (h : Outside s t) (hs : s.ok = true) (hp : ∀ a, ¬ SeqAddr a → p a) :
    OnlyRegs p s t := fun a ha => h.seq hs a (by by_contra hc; exact ha (hp a hc))

theorem kept_startFlags (k : Nat) : Kept s (startFlags s k) :=
  (Kept.wr ..).trans <| (Kept.wr ..).trans <| (Kept.wr ..).trans (Kept.wr ..)

theorem onlyRegs_startFlags (hs : s.ok = true) (k : Nat) : OnlyRegs (ctlReg k) s (startFlags s k) := by
  have h1 := State.ok_fs (b := coreBase k) (f := Fld.CORE_STS_SEQ_RUN) (v := 1) hs
  have h2 := State.ok_fs (b := coreBase k) (f := Fld.CORE_STS_PREEMPT_PEND) (v := 0) h1
  have h3 := State.ok_fs (b := coreBase k) (f := Fld.CORE_SM_STS_HALT) (v := 0) h2
  exact (OnlyRegs.fs _ hs (.inl rfl)).trans <| (OnlyRegs.fs _ h1 (.inl rfl)).trans <|
    (OnlyRegs.fs _ h2 (.inr (.inr (.inl rfl)))).trans (OnlyRegs.fs _ h3 (.inr (.inr (.inr (.inl rfl)))))

/-- START sets SEQ_RUN. -/
theorem seqRun_startFlags (hs : s.ok = true) (k : Nat) : seqRun (startFlags s k) k = true := by
  have h1 := State.ok_fs (b := coreBase k) (f := Fld.CORE_STS_SEQ_RUN) (v := 1) hs
  have h2 := State.ok_fs (b := coreBase k) (f := Fld.CORE_STS_PREEMPT_PEND) (v := 0) h1
  have h3 := State.ok_fs (b := coreBase k) (f := Fld.CORE_SM_STS_HALT) (v := 0) h2
  unfold seqRun State.fb startFlags
  rw [State.fg_fs_other _ h3 (by simp only [ne_eq]; omega), fg_fs_core_off h2 k k (by decide) (by decide) (by decide),
    fg_fs_core_field h1 k k (by decide) (by decide) (by decide) (by decide),
    State.fg_fs_same _ _ _ hs (by decide) (by decide)]
  rfl

theorem kept_startMarks (k : Nat) : Kept s (startMarks s k) :=
  (Kept.wr ..).trans <| (Kept.wr ..).trans (outside_setCoreBusy k true).toKept

theorem onlyRegs_startMarks (hs : s.ok = true) (k : Nat) : OnlyRegs (ctlReg k) s (startMarks s k) := by
  have hwd := OnlyRegs.wr (p := ctlReg k) (s.fg (rstBase (k / 64)) Fld.RST_HANG_WDOG_US) hs (.inr (.inl rfl))
  refine hwd.trans ((((offSeq_chk k).fs (by decide)).trans (outside_setCoreBusy k true)).onlyRegs (State.ok_wr hs) ?_)
  exact fun a ha => .inr (.inr (.inr (.inr ha)))

theorem setPc_eq (k pc : Nat) (hlt : pc < cmSize) (hal : pc % 8 = 0) :
    setPc s k pc = (s.retired k).wr (coreBase k + Reg.CORE_SEQ_PC) pc := by
  have hcut : pc % 2 ^ 20 / 8 * 8 = pc := by unfold cmSize at hlt; omega
  simp only [setPc, hlt, hal, and_self, if_true, hcut]

/-- From the scalar registers to the marks, START writes registers alone. -/
theorem regsMove_start (k s1 s2 s3 : Nat) : RegsMove s (startMarks (startFlags (startSregs s k s1 s2 s3) k) k) := by
  have hsregs : RegsMove s (startSregs s k s1 s2 s3) := RegsMove.foldl _ (fun t n => RegsMove.wr t _ _) _ s
  have hflags : ∀ t, RegsMove t (startFlags t k) := fun t =>
    (RegsMove.fs t ..).trans <| (RegsMove.fs ..).trans <| (RegsMove.fs ..).trans (RegsMove.fs ..)
  have hmarks : ∀ t, RegsMove t (startMarks t k) := fun t => (RegsMove.wr t ..).trans <|
    (RegsMove.fs ..).trans (RegsMove.wr ..)
  exact hsregs.trans <| (hflags _).trans (hmarks _)

/-- No control register is the entry or a scalar register. -/
theorem not_ctlReg (k : Nat) {o : Nat} (ho : o < 0x4000) (hne : o ≠ 8 ∧ o ≠ 0x24 ∧ o ≠ 0x30 ∧ o ≠ 0x34) :
    ¬ ctlReg k (coreBase k + o) := by
  have hin := seqAddr_core k ho
  unfold ctlReg
  simp only [hin, not_true_eq_false, or_false, Reg.CORE_STS, Reg.CORE_WDOG, Reg.CORE_SM_STS]
  omega

/-- Before its record and the PC are set, the core that starts shows the step: SEQ_RUN, S1 to S31, and the entry. -/
theorem startMarks_shows (hs : s.ok = true) (k s1 s2 s3 : Nat) :
    let m := startMarks (startFlags (startSregs s k s1 s2 s3) k) k
    m.ok = true ∧ seqRun m k = true ∧ (∀ n < 32, m.rd (sregAddr k n) = startSreg s1 s2 s3 n % 2 ^ 32)
      ∧ m.rd (coreBase k + Reg.CORE_SEQ_ENTRY) = s.rd (coreBase k + Reg.CORE_SEQ_ENTRY) := by
  obtain ⟨hrok, hval, hother⟩ := rd_writeRun hs (coreBase k + Reg.CORE_SEQ_S) (startSreg s1 s2 s3) 32
  change (startSregs s k s1 s2 s3).ok = true at hrok
  have hfok := (kept_startFlags k).ok hrok
  have hctl := (onlyRegs_startFlags hrok k).trans (onlyRegs_startMarks hfok k)
  refine ⟨(kept_startMarks k).ok hfok, ?_, fun n hn => ?_, ?_⟩
  · have hsts : (startMarks (startFlags (startSregs s k s1 s2 s3) k) k).rd (coreBase k + Reg.CORE_STS)
        = (startFlags (startSregs s k s1 s2 s3) k).rd (coreBase k + Reg.CORE_STS) := by
      have hwd := State.ok_wr (a := coreBase k + Reg.CORE_WDOG)
        (v := (startFlags (startSregs s k s1 s2 s3) k).fg (rstBase (k / 64)) Fld.RST_HANG_WDOG_US) hfok
      exact ((((offSeq_chk k).fs (by decide)).trans (outside_setCoreBusy k true)).seq hwd _ (seqAddr_core k (by decide))).trans
        (State.rd_wr_other _ hfok (by simp))
    have := seqRun_startFlags hrok k
    unfold seqRun State.fb State.fg at this ⊢
    rwa [hsts]
  · have hlt : Reg.CORE_SEQ_S + 4 * n < 0x4000 := by simp only [Reg.CORE_SEQ_S]; omega
    have hne : ¬ ctlReg k (sregAddr k n) := by
      rw [sregAddr, Nat.add_assoc]
      exact not_ctlReg k hlt (by simp only [Reg.CORE_SEQ_S]; omega)
    exact (hctl _ hne).trans (hval n hn)
  · have hne : ∀ n < 32, coreBase k + Reg.CORE_SEQ_ENTRY ≠ coreBase k + Reg.CORE_SEQ_S + 4 * n := fun n _ => by
      simp only [Reg.CORE_SEQ_ENTRY, Reg.CORE_SEQ_S]; omega
    exact (hctl _ (not_ctlReg k (by decide) (by decide))).trans (hother _ hne)

/-- What holds on a core once its step has started (R97). -/
theorem startCore_starts (hs : s.ok = true) (k s1 s2 s3 : Nat) (hlt : s.rd (coreBase k + Reg.CORE_SEQ_ENTRY) < cmSize)
    (hal : s.rd (coreBase k + Reg.CORE_SEQ_ENTRY) % 8 = 0) :
    let t := startCore s k s1 s2 s3
    seqPc t k = s.rd (coreBase k + Reg.CORE_SEQ_ENTRY) ∧ seqRun t k = true
      ∧ (∀ n, 0 < n → n < 32 → sreg t k n = startSreg s1 s2 s3 n % 2 ^ 32)
      ∧ t.core k = { s.core k with wait := .none, acquired := [] } ∧ SameMem s t := by
  have hw : Outside s (wakeCluster s (k / 8)) := outside_wakeCluster _
  have hentry := hw.seq hs (coreBase k + Reg.CORE_SEQ_ENTRY) (seqAddr_core k (by decide))
  obtain ⟨hmok, hmrun, hmval, hment⟩ := startMarks_shows (hw.ok hs) k s1 s2 s3
  obtain ⟨q, hq, -⟩ := regsMove_start (s := wakeCluster s (k / 8)) k s1 s2 s3
  have heq := startCore_eq s k s1 s2 s3
  dsimp only at heq ⊢
  rw [heq]
  generalize startMarks (startFlags (startSregs (wakeCluster s (k / 8)) k s1 s2 s3) k) k = m at *
  have hcore : m.core k = s.core k := by rw [hq]; exact hw.toCoreKept.core_eq k
  rw [setPc_eq k _ (by rw [hment, hentry]; exact hlt) (by rw [hment, hentry]; exact hal), hment, hentry]
  have hcok := State.ok_setCore (k := k) (v := { m.core k with wait := .none, acquired := [] }) hmok
  have hrok := (outside_retired k).ok hcok
  refine ⟨?_, ?_, fun n hpos hn => ?_, ?_, ?_⟩
  · exact (State.rd_wr_same _ _ hrok).trans (Nat.mod_eq_of_lt (State.rd_lt ..))
  · unfold seqRun State.fb at hmrun ⊢
    rw [State.fg_wr_other _ hrok (by simp)]
    exact hmrun
  · rw [sreg, if_neg (by omega), State.rd_wr_other _ hrok (by simp only [Reg.CORE_SEQ_S, Reg.CORE_SEQ_PC]; omega)]
    exact hmval n hn
  · exact (State.core_setCore_same hmok).trans (by rw [hcore])
  · intro a
    rw [← hw.sameMem a]
    exact State.mb_congr (by rw [hq]; rfl) (by rw [hq]; rfl) a

end

/-! ### PREEMPT (R127, R128) -/

/-- What the checkpoint of a core's streams keeps: the bytes, and PREEMPT_PEND of every core. -/
structure PendKept (s t : State) : Prop extends Kept s t where
  mem : t.mem = s.mem
  undef : t.undef = s.undef
  pend : s.ok = true → ∀ k, t.fb (coreBase k) Fld.CORE_STS_PREEMPT_PEND = s.fb (coreBase k) Fld.CORE_STS_PREEMPT_PEND

section
variable {s t u : State}

theorem PendKept.refl (s : State) : PendKept s s := ⟨Kept.refl s, rfl, rfl, fun _ _ => rfl⟩

theorem PendKept.trans (h : PendKept s t) (h' : PendKept t u) : PendKept s u :=
  ⟨h.toKept.trans h'.toKept, h'.mem.trans h.mem, h'.undef.trans h.undef,
    fun hs k => (h'.pend (h.ok hs) k).trans (h.pend hs k)⟩

theorem Outside.pendKept (h : Outside s t) : PendKept s t :=
  ⟨h.toKept, h.mem, h.undef, fun hs k => by unfold State.fb; rw [h.fg_core hs k Fld.CORE_STS_PREEMPT_PEND (by decide)]⟩

theorem PendKept.foldl {A : Type} {f : State → A → State} (hf : ∀ t x, PendKept t (f t x)) (xs : List A) :
    PendKept s (xs.foldl f s) := by
  induction xs generalizing s with
  | nil => exact PendKept.refl s
  | cons x xs ih => exact (hf s x).trans ih

theorem pendKept_setCore (k : Nat) (c : CoreSt) : PendKept s (s.setCore k c) :=
  ⟨Kept.setCore s k c, rfl, rfl,
    fun _ _ => by unfold State.fb; rw [State.fg_congr (State.setCore_part ..) (State.setCore_regs ..)]⟩

theorem pendKept_syncCore (k : Nat) : PendKept s (syncCore s k) :=
  ⟨kept_syncCore k, rfl, rfl, fun hs j => by unfold State.fb; rw [fg_syncCore hs j k ⟨rfl, by decide⟩]⟩

theorem pendKept_giveContext (k m : Nat) : PendKept s (giveContext s k m) := by
  unfold giveContext
  dsimp only
  split
  · exact PendKept.refl s
  · split
    · exact PendKept.refl s
    · exact ((offSeq_strm _).fs (by decide)).pendKept.trans <| (pendKept_setCore ..).trans <| (pendKept_syncCore k).trans
        (outside_ctxUpdate k m).pendKept

theorem pendKept_checkpointStream (st : Nat) : PendKept s (checkpointStream s st) := by
  unfold checkpointStream
  dsimp only
  split
  · exact PendKept.refl s
  · exact ((offSeq_strm st).fs (by decide)).pendKept.trans <| ((offSeq_strm st).fs (by decide)).pendKept.trans <|
      (pendKept_setCore ..).trans <|
      (pendKept_syncCore _).trans <| (outside_ctxUpdate _ _).pendKept.trans <| (outside_ledger1 st).pendKept.trans
      (pendKept_giveContext ..)

/-- PREEMPT on a core that runs raises PREEMPT_PEND, and what follows keeps it. -/
theorem preemptCore_pends (hs : s.ok = true) {k : Nat} (hrun : seqRun s k = true)
    (hpend : s.fb (coreBase k) Fld.CORE_STS_PREEMPT_PEND = false) :
    (preemptCore s k).fb (coreBase k) Fld.CORE_STS_PREEMPT_PEND = true ∧ SameMem s (preemptCore s k) := by
  have hraise : (s.fs (coreBase k) Fld.CORE_STS_PREEMPT_PEND 1).fb (coreBase k) Fld.CORE_STS_PREEMPT_PEND = true := by
    unfold State.fb
    rw [State.fg_fs_same _ _ _ hs (by decide) (by decide)]
    rfl
  have hrest : PendKept (s.fs (coreBase k) Fld.CORE_STS_PREEMPT_PEND 1) (preemptCore s k) := by
    unfold preemptCore
    simp only [hrun, hpend, Bool.not_true, Bool.false_eq_true, if_false]
    refine PendKept.trans ?_ (PendKept.trans (Outside.foldl fun t i _ => outside_setEng ..).pendKept
      (PendKept.foldl (fun _ st => pendKept_checkpointStream st) _))
    split
    · exact (outside_sendCancel ..).pendKept
    · exact PendKept.refl _
    · exact pendKept_setCore ..
  exact ⟨(hrest.pend (State.ok_fs hs) k).trans hraise, State.mb_congr hrest.mem hrest.undef⟩

end

/-! ### CORE_CMD through the port -/

/-- A write of CORE_CMD that the port admits is carried out on the state as it stands. -/
theorem coreCmdWrite_of_admits {s : State} {ini k v : Nat} {l : Loc} (h : Admits s ini (coreBase k + Reg.CORE_CMD) l) :
    coreCmdWrite ini k v s = coreCmd s k v := viaPort_of_admits h _

theorem coreCmd_start {s : State} {k : Nat} (hrun : seqRun s k = false) (hdc : dcRuns s (k / 64) = true) :
    coreCmd s k 1 = startCore s k (startArgs s k).1 (startArgs s k).2.1 (startArgs s k).2.2 := by
  have hbit : bit 1 0 = true := by decide
  simp only [coreCmd, hbit, hrun, hdc, if_true, Bool.not_true, Bool.or_self, Bool.false_eq_true, if_false]

theorem coreCmd_preempt (s : State) (k : Nat) : coreCmd s k 2 = preemptCore s k := rfl
theorem coreCmd_resume (s : State) (k : Nat) : coreCmd s k 4 = resumeCore s k := rfl
theorem coreCmd_abort (s : State) (k : Nat) : coreCmd s k 8 = abortCore s k := rfl

end Sys2Proof.Machine
end

section
/-!
PROOFS. What reads and writes of memory keep, for the movers.
-/
namespace Sys2Proof.Machine

open Sys2Proof

section
variable {s : State}

/-! ### Reads and writes of memory by the units -/

theorem outside_dramLineRead (l : Nat) (w : Who) : Outside s (dramLineRead s l w).2 :=
  (outside_chCount _ _ (by decide)).trans <| (outside_readCheck _).trans (outside_dramError ..)

theorem outside_scFill (l ini : Nat) : Outside s (scFill s l ini) := by
  have hroom : ∀ sec : Nat, Outside s (if (s.scSects.contains sec || decide (s.scSects.length < 16384)) = true then s
      else match s.scSects with | [] => s | o :: _ => scDrop s fun x => x / 64 == o) := fun sec => by
    split
    · exact Outside.refl s
    · split
      · exact Outside.refl s
      · exact outside_scDrop _
  have hvictim : ∀ (t : State) (v : Option Nat), Outside t (match v with | some o => scDrop t fun x => x == o | none => t) :=
    fun t v => by
      split
      · exact outside_scDrop _
      · exact Outside.refl t
  have hfill : ∀ (t : State) (w : List ScLine) (x : List Nat), Outside t { t with sc := w, scSects := x } :=
    fun t _ _ => .of_kept (Kept.update t) rfl rfl rfl rfl
  have hfresh : ∀ t : State, Outside t { t with fresh := t.fresh + 1 } := fun t => .of_kept (Kept.update t) rfl rfl rfl rfl
  unfold scFill
  split
  · exact Outside.refl s
  · refine .ite (Outside.refl s) ?_
    exact (hroom _).trans <| (hfresh _).trans <| (hvictim _ _).trans <| (outside_inject ..).trans (hfill ..)

theorem outside_scMiss (l : Nat) (w : Who) : Outside s (scMiss s l w).2 := by
  have hread : Outside s (dramLineRead (s.faddWrap memIBase Fld.MEM_SC_MISS_COUNT 1) l w).2 :=
    ((offSeq_iod (by decide)).faddWrap (by decide)).trans (outside_dramLineRead l w)
  exact hread.trans (.ite (Outside.refl _) (outside_scFill ..))

theorem outside_lineRead (l : Nat) (w : Who) : Outside s (lineRead s l w).2 := by
  have hiod : OffSeq memIBase 0x10000 := offSeq_iod (by decide)
  unfold lineRead
  split
  · exact outside_dramLineRead ..
  · split
    · exact outside_scMiss ..
    · refine .ite_snd ((hiod.fs (by decide)).trans <| (outside_scDrop _).trans (outside_scMiss ..)) ?_
      exact Outside.trans (.ite ((hiod.fs (by decide)).trans (outside_scMend l))
        (Outside.refl s)) (hiod.faddWrap (by decide))

theorem outside_dramRead (raw n : Nat) (w : Who) : Outside s (dramRead s raw n w).2 :=
  Outside.foldl_snd (p := (false, s)) fun _ l _ => outside_lineRead l w

theorem outside_sramRead (key n : Nat) : Outside s (sramRead s key n).2 := by
  unfold sramRead
  dsimp only
  split
  · exact Outside.refl s
  · have hmark : ∀ (c : Bool) (t : State),
        Outside t (if c = true then t else t.fs (memBase (sramPlace key).1) Fld.MEM_DIE_ERR_SRAM_CE 1) :=
      fun c t => .ite (Outside.refl t) ((offSeq_mem _).fs (by decide))
    split
    · exact (outside_sram _).trans (hmark ..)
    · exact (outside_sram _).trans <| (hmark ..).trans <| ((offSeq_mem _).fs (by decide)).trans <|
        ((offSeq_mem _).wr (by decide)).trans <|
        (outside_report ..).trans (outside_toMp ..)

/-! ### Metering (R353, R364) -/

theorem outside_pathServe (d p : Nat) (x : Charge) : Outside s (pathServe s d p x) := by
  unfold pathServe
  split <;> exact .of_kept (Kept.update s) rfl rfl rfl rfl

theorem outside_chargeAll (es : List Nat) (x : Charge) : Outside s (chargeAll s es x) := by
  refine .foldl fun t e _ => ?_
  split
  · exact outside_pathServe ..
  · exact Outside.refl t

theorem outside_meterLinks (r : Req) : Outside s (meterLinks s r) := by
  refine Outside.trans ?_ (outside_chargeAll ..)
  split
  · exact outside_pathServe ..
  · exact Outside.refl s

theorem outside_meter (r : Req) : Outside s (meter s r) := by
  unfold meter
  dsimp only
  refine (outside_meterLinks r).trans ?_
  split
  · exact outside_pathServe ..
  · exact Outside.refl _

/-! ### Requests that are answered at once -/

theorem kept_accCheck (ini a n : Nat) (w : Bool) : Kept s (accCheck s ini a n w).2 := by
  unfold accCheck
  dsimp only
  refine .ite_snd (Kept.refl s) (.ite_snd (Kept.refl s) ?_)
  split
  · exact .ite (Kept.wr ..) (Kept.refl s)
  · refine .ite_snd (.ite (Kept.wr ..) (Kept.refl s)) ?_
    split
    · exact .ite_snd (Kept.wr ..) (.ite_snd (Kept.wr ..) (Kept.refl s))
    · exact .ite_snd (Kept.refl s) (Kept.refl s)
    · exact .ite_snd (Kept.refl s) (Kept.refl s)
    · exact .ite_snd (Kept.refl s) (Kept.refl s)
    · exact .ite_snd (Kept.refl s) (Kept.refl s)
    · exact Kept.refl s

theorem kept_readEffect (l : Loc) (a : Nat) : Kept s (readEffect s l a) := by
  unfold readEffect
  split
  · exact Kept.update s
  · exact Kept.update s
  · exact Kept.update s
  · exact Kept.update s
  · exact Kept.wr ..
  · exact Kept.refl s

theorem kept_regRead (a : Nat) : Kept s (regRead s a).2 := by
  unfold regRead
  split
  · exact Kept.refl s
  · split
    · exact Kept.refl s
    · exact Kept.refl s
    · exact kept_readEffect ..

theorem kept_memGet (ini ctx a n : Nat) : Kept s (memGet s ini ctx a n).2 := by
  have hacc := kept_accCheck (s := s) ini a n false
  unfold memGet
  dsimp only
  split
  · exact hacc
  · split
    · exact hacc.trans (outside_dramRead ..).toKept
    · exact hacc.trans (outside_sramRead ..).toKept
    · exact hacc.trans (outside_sramRead ..).toKept
    · exact hacc
    · exact hacc.trans (kept_regRead a)
    · exact hacc

theorem kept_memRead (ini ctx a n : Nat) : Kept s (memRead s ini ctx a n).2 := by
  have hget := kept_memGet (s := s) ini ctx a n
  unfold memRead
  dsimp only
  split
  · exact hget
  · exact hget.trans (outside_meter _).toKept

theorem kept_memPut (ini ctx a : Nat) (bs : List Byte) : Kept s (memPut s ini ctx a bs).2 := by
  have hacc := kept_accCheck (s := s) ini a bs.length true
  unfold memPut
  dsimp only
  split
  · exact hacc
  · split
    · exact hacc.trans (coreKept_dramWrite ..).toKept
    · exact hacc.trans (coreKept_sramWrite ..).toKept
    · exact hacc.trans (coreKept_sramWrite ..).toKept
    · exact hacc

theorem kept_memWrite (ini ctx a : Nat) (bs : List Byte) : Kept s (memWrite s ini ctx a bs).2 := by
  have hput := kept_memPut (s := s) ini ctx a bs
  unfold memWrite
  dsimp only
  split
  · exact hput
  · exact hput.trans (outside_meter _).toKept

/-! ### What the attention unit sees of a write (R176 to R181) -/

theorem kept_setAtt (c : Nat) (a : AttSt) : Kept s (s.setAtt c a) := by
  have hmap : Kept s { s with atts := setD AttSt.reset s.atts c a } := by
    refine Kept.of_ok rfl rfl (fun hs => State.ok_of (State.ok_regs (s := s) hs) (State.ok_mem (s := s) hs) ?_) rfl
    obtain ⟨h1, h2, h3, h4, h5⟩ := (State.maps_iff _).1 (State.ok_maps hs)
    exact (State.maps_iff _).2 ⟨h1, h2, h3, ksorted_setD h4, h5⟩
  exact hmap.trans <| (Kept.wr ..).trans <| (Kept.wr ..).trans <| (Kept.wr ..).trans <| (Kept.wr ..).trans (Kept.wr ..)

theorem kept_attDone (c core : Nat) (raw : List Byte) (st total : Nat) : Kept s (attDone s c core raw st total) := by
  have hword : Kept s (if rDone raw % 4 = 0 ∧ rDone raw + 4 ≤ cmSize then
      sramWrite s (cmBase core + rDone raw) (leBytes 4 (rSeq raw + st * 256 + min total 0xFFFF * 65536)) else s) :=
    .ite (coreKept_sramWrite ..).toKept (Kept.refl s)
  unfold attDone
  dsimp only
  split
  · exact hword.trans <| (Kept.wr ..).trans (Kept.wr ..)
  · exact hword.trans (Kept.wr ..)

theorem kept_slotPosted (k : Nat) (mover : Bool) (raw : List Byte) : Kept s (slotPosted s k mover raw) := by
  unfold slotPosted
  dsimp only
  split
  · have hseq : ∀ v, Kept s (seqSet s (k / 8) (k % 8) v) := fun _ => Kept.wr ..
    exact (hseq _).trans (.ite (kept_setAtt ..) (kept_attDone ..))
  · exact .ite (Kept.refl s) (Kept.wr ..)

theorem kept_ringWrite (c off ini : Nat) (bs : List Byte) : Kept s (ringWrite s c off ini bs) := by
  refine .ite (Kept.refl s) (Kept.foldl (fun t j => ?_) (Kept.refl s))
  exact .ite (Kept.refl t) (.ite (kept_slotPosted ..) (.ite (Kept.wr ..) (Kept.refl t)))

theorem kept_busWrite (ini ctx a : Nat) (bs : List Byte) : Kept s (busWrite s ini ctx a bs).2 := by
  have hput := kept_memWrite (s := s) ini ctx a bs
  unfold busWrite
  dsimp only
  split
  · exact hput.trans (kept_ringWrite ..)
  · exact hput

end

end Sys2Proof.Machine
end

section
/-!
PROOFS. What the end of a step, a fault and a pre-emption's stops keep.
-/
namespace Sys2Proof.Machine

open Sys2Proof

section
variable {s : State}

/-! ### The end of a step (R285, R298, R338, R341) -/

theorem kept_setCmd (tg : Nat) (c : Cmd) : Kept s (s.setCmd tg c) := (outside_setCmd tg c).toKept

theorem kept_finishCmd (tg st d r : Nat) : Kept s (finishCmd s tg st d r) := by
  unfold finishCmd
  split
  · exact Kept.refl s
  · exact kept_setCmd ..

theorem kept_pastBooking (c : Cmd) (r : StepRec) : Kept s (pastBooking s c r) := .ite (Kept.update s) (Kept.refl s)

theorem kept_replyStep (tg : Nat) (c : Cmd) (r : StepRec) (st d : Nat) : Kept s (replyStep s tg c r st d) :=
  (kept_pastBooking c r).trans <| Kept.trans (.ite (Kept.wr ..) (Kept.refl _)) (kept_setCmd ..)

theorem kept_freeContexts (k : Nat) : Kept s (freeContexts s k) :=
  .ite (Kept.refl s) <| (Kept.foldl (fun _ _ => Kept.wr ..) (Kept.refl s)).trans <|
    (Kept.setCore ..).trans (kept_syncCore k)

theorem kept_leaveRun (tg : Nat) (c : Cmd) (r : StepRec) : Kept s (leaveRun s tg c r) := by
  have hrel : ∀ t : State, Kept t (releaseTag t tg c.gen) := fun t => Kept.update t
  refine .ite ?_ (.ite (hrel s) (Kept.refl s))
  exact (Kept.foldl (fun _ k => kept_freeContexts k) (Kept.refl s)).trans <| (outside_clearGroup _).toKept.trans (hrel _)

theorem kept_victimGone (tg : Nat) : Kept s (victimGone s tg) := by
  unfold victimGone
  dsimp only
  refine (Kept.foldl (fun t b => ?_) (Kept.refl s)).trans (Kept.foldl (fun t k => ?_) (Kept.refl _))
  · split
    · split
      · exact .ite (kept_setCmd ..) (Kept.refl t)
      · exact Kept.refl t
    · exact Kept.refl t
  · split
    · exact .ite (Kept.setCore ..) (Kept.refl t)
    · exact Kept.refl t

theorem kept_dropSaved (tg : Nat) : Kept s (dropSaved s tg) := by
  refine Kept.foldl (fun t k => ?_) (Kept.refl s)
  split
  · exact .ite (Kept.setCore ..) (Kept.refl t)
  · exact Kept.refl t

theorem kept_settleResvs : Kept s (settleResvs s) := Kept.trans (Kept.update s) (Kept.wr ..)

theorem kept_settleWaiting : Kept s (settleWaiting s) := by
  refine kept_settleResvs.trans (Kept.foldl (fun t tg => ?_) (Kept.refl _))
  split
  · exact Kept.refl t
  · refine .ite (Kept.refl t) (.ite (.ite (Kept.refl t) (kept_finishCmd ..)) (.ite (.ite (Kept.refl t) (kept_finishCmd ..)) ?_))
    refine .ite (.ite (Kept.refl t) ?_) (Kept.refl t)
    split <;> exact kept_finishCmd ..

theorem kept_endStep (tg st d : Nat) : Kept s (endStep s tg st d) := by
  unfold endStep
  split
  · exact Kept.refl s
  · split
    · exact kept_finishCmd ..
    · exact .ite (Kept.refl s) <| (kept_leaveRun ..).trans <| (kept_replyStep ..).trans <| (kept_victimGone tg).trans <|
        (kept_dropSaved tg).trans <| outside_syncDsp.toKept.trans kept_settleWaiting

/-! ### Quarantine and golden steps (R443, R451) -/

theorem kept_loseSaved (k unit : Nat) : Kept s (loseSaved s k unit) := by
  unfold loseSaved
  split
  · exact kept_endStep ..
  · exact Kept.refl s

theorem kept_replaceOne (k unit tg : Nat) : Kept s (replaceOne k unit s tg) := by
  unfold replaceOne
  split
  · exact Kept.refl s
  · split
    · exact Kept.refl s
    · dsimp only
      split
      · split
        · exact kept_setCmd ..
        · exact kept_endStep ..
      · split
        · split <;> exact kept_setCmd ..
        · exact Kept.refl s

theorem kept_replaceResv (k slot : Nat) : Kept s (replaceResv k s slot) := by
  unfold replaceResv
  split
  · exact Kept.refl s
  · refine Kept.foldl (fun t g => ?_) (Kept.refl s)
    split
    · exact Kept.refl t
    · dsimp only
      split <;> exact Kept.update t

theorem kept_coreOut (k unit : Nat) : Kept s (coreOut s k unit) :=
  (Kept.foldl (fun _ tg => kept_replaceOne k unit tg) (Kept.refl s)).trans
    (Kept.foldl (fun _ slot => kept_replaceResv k slot) (Kept.refl _))

theorem kept_quarantine (k : Nat) : Kept s (quarantine s k) := by
  refine Kept.trans (.ite (Kept.refl s) ((Kept.wr ..).trans (Kept.wr ..))) <| (Kept.wr ..).trans <|
    Kept.trans (.ite (Kept.refl _) (Kept.setCore ..)) <| (kept_coreOut k _).trans <| (kept_loseSaved k _).trans <|
    (outside_report ..).toKept.trans (outside_event ..).toKept

theorem kept_returnCore (k : Nat) : Kept s (returnCore s k) := by
  exact (Kept.wr ..).trans <| (Kept.wr ..).trans <| (Kept.setCore ..).trans <|
    .ite (outside_event ..).toKept (.ite (outside_event ..).toKept (Kept.refl _))

theorem kept_goldenEnd (k : Nat) (pass : Bool) : Kept s (goldenEnd s k pass) := by
  unfold goldenEnd
  split
  · exact Kept.refl s
  · dsimp only
    refine Kept.trans ?_ kept_settleWaiting
    generalize hcount : State.faddWrap _ (chkBase k) Fld.CHK_GOLD_RUNS 1 = t
    have hpre : Kept s t := by
      rw [← hcount]
      exact Kept.trans (.ite (Kept.refl s) ((Kept.wr ..).trans (Kept.wr ..))) <| (Kept.setCore ..).trans <|
        (Kept.wr ..).trans <| (Kept.wr ..).trans (Kept.wr ..)
    refine hpre.trans (.ite (.ite ?_ ?_) (.ite ?_ (kept_quarantine k)))
    · exact (Kept.wr ..).trans (.ite (kept_returnCore k) (Kept.refl _))
    · exact (Kept.setCore ..).trans <| Kept.trans (.ite (outside_report ..).toKept (kept_quarantine k)) (Kept.setCore ..)
    · exact (Kept.wr ..).trans (.ite ((Kept.wr ..).trans (outside_event ..).toKept) (Kept.refl _))

/-! ### A core that stops (R84, R100, R581) -/

theorem kept_abortCore (k : Nat) : Kept s (abortCore s k) := by
  obtain ⟨u, hu, hab⟩ := abortCore_eq s k
  rw [hab]
  exact hu.toKept.trans (kept_idleCore k)

theorem kept_haltCore (k : Nat) : Kept s (haltCore s k) :=
  (Kept.foldl (fun _ _ => (outside_resetEng ..).toKept) (Kept.refl s)).trans (kept_idleCore k)

theorem kept_failStep (k st d : Nat) : Kept s (failStep s k st d) := by
  unfold failStep
  split
  · exact Kept.refl s
  · split
    · exact (kept_haltCore k).trans (kept_goldenEnd ..)
    · split
      · exact kept_haltCore k
      · exact (kept_haltCore k).trans <| (Kept.foldl (fun _ j => kept_abortCore j) (Kept.refl _)).trans (kept_endStep ..)

/-! ### The movers and the vector unit (R104 to R108, R128) -/

theorem kept_movRead (k m sp mask a n : Nat) : Kept s (movRead s k m sp mask a n).2 :=
  .ite_snd (.ite_snd (Kept.refl s) (kept_memRead ..)) (outside_sramRead ..).toKept

theorem kept_movWrite (k m sp mask a : Nat) (bs : List Byte) : Kept s (movWrite s k m sp mask a bs).2 := by
  refine .ite_snd (.ite_snd (Kept.refl s) (kept_busWrite ..)) (.ite_snd (coreKept_sramWrite ..).toKept ?_)
  exact Kept.foldl (fun t _ => .ite (coreKept_sramWrite ..).toKept (Kept.refl t)) (Kept.refl s)

theorem kept_copyRun (k m : Nat) (v : MovFields) (ps : List (Nat × Nat × Nat)) : Kept s (copyRun k m v ps s).2 := by
  induction ps generalizing s with
  | nil => exact Kept.refl s
  | cons p ps ih =>
    have hread := kept_movRead (s := s) k m v.ssp v.mask p.1 p.2.2
    unfold copyRun
    split
    · next hr =>
      have hread' := Kept.snd hr hread
      split
      · next hw => exact hread'.trans <| (Kept.snd hw (kept_movWrite ..)).trans ih
      · next hw => exact hread'.trans (Kept.snd hw (kept_movWrite ..))
    · next hr => exact Kept.snd hr hread
    · next hr => exact Kept.snd hr hread

theorem kept_fillRun (k m : Nat) (v : MovFields) (ps : List (Nat × Nat × Nat)) : Kept s (fillRun k m v ps s).2 := by
  induction ps generalizing s with
  | nil => exact Kept.refl s
  | cons p ps ih =>
    unfold fillRun
    split
    · next hw => exact (Kept.snd hw (kept_movWrite ..)).trans ih
    · next hw => exact Kept.snd hw (kept_movWrite ..)

theorem kept_movRun (k m : Nat) (v : MovFields) (ps : List (Nat × Nat × Nat)) : Kept s (movRun k m v ps s).2 :=
  .ite_snd (kept_fillRun ..) (kept_copyRun ..)

theorem kept_recordFault (k : Nat) (f : Fld) (e pc : Nat) : Kept s (recordFault s k f e pc) :=
  Kept.trans (.ite (Kept.wr ..) (Kept.refl s)) <| (Kept.wr ..).trans (Kept.wr ..)

theorem kept_movFault (k m : Nat) (f : Fld) (st : Nat) (hw : Option Nat) : Kept s (movFault s k m f st hw) := by
  have hnote : ∀ (c : CoreSt) (pc : Nat), Kept s
      (recordFault ((syncCore (s.setCore k c) k).fs (coreBase k + 4 * m) Fld.CORE_SM_STS_HALT 1) k f 0 pc) := fun c pc =>
    (Kept.setCore ..).trans <| (kept_syncCore k).trans <| (Kept.wr ..).trans (kept_recordFault ..)
  unfold movFault
  dsimp only
  cases hw with
  | some d => exact (hnote ..).trans (kept_failStep ..)
  | none => exact (hnote ..).trans (kept_failStep ..)

theorem kept_movEnd (r : MovEnd × State) (k m : Nat) : Kept r.2 (movEnd r k m) := by
  unfold movEnd
  split
  · unfold movFinish
    dsimp only
    split
    · exact Kept.refl r.2
    · exact Kept.setCore ..
  · exact kept_movFault ..
  · exact kept_movFault ..
  · exact kept_movFault ..

theorem kept_movStop (k m : Nat) : Kept s (movStop s k m) := by
  unfold movStop
  dsimp only
  split
  · exact Kept.refl s
  · split
    · exact Kept.refl s
    · split
      · exact outside_free.toKept.trans <| (kept_movRun ..).trans (Kept.setCore ..)
      · exact outside_free.toKept.trans <| (kept_movRun ..).trans (kept_movEnd ..)

theorem kept_vecWrite (k : Nat) (v : VecFields) (fi fo : Fmt) (lo hi : Nat) : Kept s (vecWrite s k v fi fo lo hi) := by
  unfold vecWrite
  dsimp only
  refine Kept.trans (Kept.foldl_snd (p := (([] : List Byte), s)) (fun p x => ?_) (Kept.refl s)) (coreKept_sramWrite ..).toKept
  split
  · exact outside_free.toKept
  · exact Kept.refl p.2

theorem kept_vecStop (k : Nat) : Kept s (vecStop s k) := by
  unfold vecStop
  dsimp only
  split
  · exact Kept.refl s
  · split
    · exact .ite (outside_free.toKept.trans <| (kept_vecWrite ..).trans (Kept.setCore ..)) (Kept.refl s)
    · exact Kept.refl s

end

end Sys2Proof.Machine
end

section
/-!
PROOFS. The record of a pre-empted core, and the statement on core commands.
-/
namespace Sys2Proof.Machine

open Sys2Proof

section
variable {s : State}

/-! ### The checks of a save (R128, R435) -/

theorem seqKept_setCore (k : Nat) (c : CoreSt) : SeqKept s (s.setCore k c) :=
  ⟨Kept.setCore s k c, fun _ a _ => State.rd_congr (State.setCore_part ..) (State.setCore_regs ..) a⟩

theorem seqKept_selfTestAt (k : Nat) (int : Bool) (cs : List Comparison) : SeqKept s (selfTestAt s k int cs).1 := by
  unfold selfTestAt
  dsimp only
  split
  · exact SeqKept.refl s
  · exact (seqKept_setCore ..).trans
      (((offSeq_chk k).fs (by decide)).trans <|
        ((offSeq_chk k).fs (by decide)).trans ((offSeq_chk k).fs (by decide))).toSeqKept

theorem seqKept_wbChecked (e : Nat) (o : EngOp) : SeqKept s (wbChecked s e o).1 := by
  unfold wbChecked
  dsimp only
  split
  · exact ((outside_setEng ..).trans (outside_chkCount _ _ (by decide))).toSeqKept
  · refine SeqKept.trans ?_ (seqKept_selfTestAt ..)
    split
    · exact ((outside_setEng ..).trans <| (outside_chkCount _ _ (by decide)).trans <| (outside_inject ..).trans
        (outside_recordMismatch ..)).toSeqKept
    · exact ((outside_setEng ..).trans <| (outside_chkCount _ _ (by decide)).trans (outside_inject ..)).toSeqKept

theorem seqKept_saveBanks (k : Nat) (live : List (List Nat)) :
    SeqKept s ((List.range 4).foldl (fun t i => (live.getD i []).foldl (saveBank (4 * k + i)) t) s) :=
  .foldl fun _ _ _ => .foldl fun _ _ _ => seqKept_wbChecked ..

/-! ### A pre-empted group settles (R298, R322) -/

/-- A change that leaves the cores' own blocks, and of the cores' records all but the golden step. -/
structure Settled (s t : State) : Prop extends SeqKept s t where
  core : s.ok = true → ∀ k, t.core k = { s.core k with golden := (t.core k).golden }

theorem Settled.refl (s : State) : Settled s s := ⟨SeqKept.refl s, fun _ _ => rfl⟩

theorem Settled.trans {t u : State} (h : Settled s t) (h' : Settled t u) : Settled s u :=
  ⟨h.toSeqKept.trans h'.toSeqKept, fun hs k => by rw [h'.core (h.ok hs) k, h.core hs k]⟩

theorem CoreKept.settled {t : State} (h : CoreKept s t) : Settled s t :=
  ⟨h.toSeqKept, fun _ k => by rw [h.core_eq k]⟩

theorem Settled.foldl {A : Type} {f : State → A → State} (hf : ∀ t x, Settled t (f t x)) (xs : List A) :
    Settled s (xs.foldl f s) := by
  induction xs generalizing s with
  | nil => exact Settled.refl s
  | cons x xs ih => exact (hf s x).trans ih

/-- Of a core, its golden step alone changes. -/
theorem settled_setGolden (k : Nat) (g : Option GoldenRun) : Settled s (s.setCore k { s.core k with golden := g }) := by
  refine ⟨seqKept_setCore .., fun hs j => ?_⟩
  by_cases hj : j = k
  · subst hj; rw [State.core_setCore_same hs]
  · rw [State.core_setCore_other hs hj]

/-- A victim that is off its cores changes, of the cores, only the golden steps that waited for it. -/
theorem settled_victimGone (tg : Nat) : Settled s (victimGone s tg) := by
  unfold victimGone
  dsimp only
  refine (Settled.foldl (fun t b => ?_) _).trans (Settled.foldl (fun t k => ?_) _)
  · split
    · split
      · split
        · exact (outside_setCmd ..).toCoreKept.settled
        · exact Settled.refl t
      · exact Settled.refl t
    · exact Settled.refl t
  · split
    · split
      · exact settled_setGolden ..
      · exact Settled.refl t
    · exact Settled.refl t

theorem settled_settlePreempt (tg : Nat) : Settled s (settlePreempt s tg) := by
  unfold settlePreempt
  split
  · exact Settled.refl s
  · split
    · exact Settled.refl s
    · dsimp only
      split
      · exact Settled.refl s
      · next r _ _ =>
        have hland : ∀ b : Bool, CoreKept s (if b = true then (clustersOf r.cores).foldl (fun t c => saveLanding t r c) s else s) :=
          fun b => by
            split
            · exact .foldl fun _ _ _ => coreKept_dramWrite ..
            · exact CoreKept.refl s
        have hmarks : ∀ (t : State) (g : Nat) (c : Cmd), CoreKept t ((mapHolds (clearGroup t r.cores) tg g fun d j t =>
            t.fs (synBase d + 8 * j) Fld.SYN_HOLD_W0_SAVED 1).setCmd tg c) := fun t g c =>
          ((outside_clearGroup _).trans <| (outside_mapHolds_saved ..).trans (outside_setCmd ..)).toCoreKept
        exact ((hland _).trans (hmarks ..)).settled.trans <|
          (settled_victimGone tg).trans outside_syncDsp.toCoreKept.settled

/-! ### The record of a pre-empted core (R128, R129) -/

/-- What is saved is gone from the core: its engines are empty and it is idle. -/
theorem emptyCore_eq (s : State) (k : Nat) : ∃ u, CoreKept s u ∧ emptyCore s k = idleCore u k :=
  ⟨_, .foldl fun _ _ _ => (outside_resetEng ..).toCoreKept, rfl⟩

/-- The core that a command saves: its vector unit and movers have stopped. -/
def stopped (s : State) (k : Nat) : State := movStop (movStop (vecStop s k) k 0) k 1

theorem kept_stopped (k : Nat) : Kept s (stopped s k) :=
  (kept_vecStop k).trans <| (kept_movStop k 0).trans (kept_movStop k 1)

/-- With nothing queued, nothing has to stop. -/
theorem stopped_of_empty {k : Nat} (hv : (s.core k).vq = []) (h0 : (s.core k).mov0.queue = [])
    (h1 : (s.core k).mov1.queue = []) : stopped s k = s := by
  have hvec : vecStop s k = s := by simp only [vecStop, hv]
  have hm0 : movStop s k 0 = s := by simp only [movStop, getMover, if_true, h0]
  have hm1 : movStop s k 1 = s := by simp only [movStop, getMover, one_ne_zero, if_false, h1]
  rw [stopped, hvec, hm0, hm1]

/-- The saved core: the record is written, the core is emptied and reported, and its group settles. -/
theorem execCorePreemptComplete_eq {k tg : Nat} {c : Cmd} {r : StepRec}
    (hready : saveReady s k (s.fg (coreBase k) Fld.CORE_STEP_TAG) = true) (hstep : stepOfCore s k = some (tg, c, r))
    (hrun : seqRun (stopped s k) k = true) : ∃ (u w t : State) (v : SavedCore),
      SeqKept (stopped s k) u ∧ CoreKept u w
        ∧ v.tag = s.fg (coreBase k) Fld.CORE_STEP_TAG ∧ v.pc = seqPc u k
        ∧ Settled ((idleCore w k).setCore k { (idleCore w k).core k with saved := some v }) t
        ∧ execCorePreemptComplete k s = .next t := by
  unfold execCorePreemptComplete
  simp only [hready, hstep, Bool.not_true, Bool.false_eq_true, if_false]
  change seqRun (movStop (movStop (vecStop s k) k 0) k 1) k = true at hrun
  simp only [hrun, Bool.not_true, Bool.false_eq_true, if_false]
  change ∃ u w t v, SeqKept (movStop (movStop (vecStop s k) k 0) k 1) u ∧ _
  generalize movStop (movStop (vecStop s k) k 0) k 1 = p
  generalize hu : List.foldl _ p (List.range 4) = u
  generalize hv : savedOf u k _ _ _ _ _ = v
  obtain ⟨w, hw, hempty⟩ := emptyCore_eq (u.mwrUndef (recordAddr u (s.fg (coreBase k) Fld.CORE_STEP_TAG) r k)
    (imgSaveBytes u (stepImg s r))) k
  rw [hempty]
  refine ⟨u, w, _, v, hu ▸ seqKept_saveBanks k _, (coreKept_mwrUndef ..).trans hw, by rw [← hv]; rfl,
    by rw [← hv]; rfl, ?_, rfl⟩
  refine (outside_emit "CORE_SAVED" (unitOfCore k) []).toCoreKept.settled.trans ?_
  split
  · exact Settled.refl _
  · split
    · exact Settled.refl _
    · exact (outside_setCmd ..).toCoreKept.settled.trans (settled_settlePreempt _)

/-- A core whose units have stopped without a fault holds its record and is free. -/
theorem corePreemptComplete_saves {k tg : Nat} {c : Cmd} {r : StepRec} (hs : s.ok = true)
    (hready : saveReady s k (s.fg (coreBase k) Fld.CORE_STEP_TAG) = true) (hstep : stepOfCore s k = some (tg, c, r))
    (hrun : seqRun (stopped s k) k = true) :
    Next (.corePreemptComplete k) s fun t => ∃ v, (t.core k).saved = some v ∧ v.tag = s.fg (coreBase k) Fld.CORE_STEP_TAG
      ∧ v.pc = seqPc (stopped s k) k ∧ (t.core k).vq = [] ∧ (t.core k).acquired = [] ∧ seqRun t k = false := by
  obtain ⟨u, w, t, v, hbanks, hempty, htag, hpc, hsettle, hexec⟩ := execCorePreemptComplete_eq hready hstep hrun
  have hsok := (kept_stopped k).ok hs
  have hwok := hempty.ok (hbanks.ok hsok)
  have hiok := (kept_idleCore k).ok hwok
  have hset := State.ok_setCore (k := k) (v := { (idleCore w k).core k with saved := some v }) hiok
  have hcore := hsettle.core hset k
  rw [State.core_setCore_same hiok, idleCore_core hwok] at hcore
  refine ⟨t, hexec, v, by rw [hcore], htag, hpc.trans (hbanks.seq hsok _ (seqAddr_core k (by decide))), by rw [hcore],
    by rw [hcore], ?_⟩
  have hidle := seqRun_idleCore hwok k
  unfold seqRun State.fb at hidle ⊢
  rw [hsettle.fg_core hset k Fld.CORE_STS_SEQ_RUN (by decide),
    (seqKept_setCore ..).fg_core hiok k Fld.CORE_STS_SEQ_RUN (by decide), hidle]

end

/-! ### The clauses of CORE_CMD and of a save -/

theorem next_coreCmdStart {s : State} {k : Nat} {l : Loc} (h : Admits s (dcIni (k / 64)) (coreBase k + Reg.CORE_CMD) l)
    (hrun : seqRun s k = false) (hdc : dcRuns s (k / 64) = true) (hlt : s.rd (coreBase k + Reg.CORE_SEQ_ENTRY) < cmSize)
    (hal : s.rd (coreBase k + Reg.CORE_SEQ_ENTRY) % 8 = 0) :
    Next (.coreCmdStart (dcIni (k / 64)) k) s fun t =>
      seqPc t k = s.rd (coreBase k + Reg.CORE_SEQ_ENTRY) ∧ seqRun t k = true
      ∧ sreg t k 1 = (startArgs s k).1 % 2 ^ 32 ∧ sreg t k 2 = (startArgs s k).2.1 % 2 ^ 32
      ∧ sreg t k 3 = (startArgs s k).2.2 % 2 ^ 32 ∧ (∀ n, 4 ≤ n → n < 32 → sreg t k n = 0)
      ∧ t.core k = { s.core k with wait := .none, acquired := [] } ∧ SameMem s t := by
  have hexec : exec (.coreCmdStart (dcIni (k / 64)) k) s
      = .next (startCore s k (startArgs s k).1 (startArgs s k).2.1 (startArgs s k).2.2) :=
    congrArg Host.Outcome.next ((coreCmdWrite_of_admits h).trans (coreCmd_start hrun hdc))
  obtain ⟨hpc, hgo, hsreg, hcore, hmem⟩ := startCore_starts h.1 k (startArgs s k).1 (startArgs s k).2.1 (startArgs s k).2.2 hlt hal
  refine ⟨_, hexec, hpc, hgo, hsreg 1 (by decide) (by decide), hsreg 2 (by decide) (by decide), hsreg 3 (by decide) (by decide),
    fun n hlo hn => ?_, hcore, hmem⟩
  have hzero : ∀ a b c, startSreg a b c n = 0 := fun a b c => by
    rw [startSreg, if_neg (by omega), if_neg (by omega), if_neg (by omega)]
  rw [hsreg n (by omega) hn, hzero, Nat.zero_mod]

/-- What ABORT leaves of the core: its stream contexts alone. -/
theorem abortCore_idles {s : State} (hs : s.ok = true) (k : Nat) : seqRun (abortCore s k) k = false
    ∧ (abortCore s k).core k = { s.core k with
        wait := .none, vq := [], mov0 := ⟨[], (s.core k).mov0.ctxs⟩, mov1 := ⟨[], (s.core k).mov1.ctxs⟩, acquired := [] } := by
  obtain ⟨u, hu, hab⟩ := abortCore_eq s k
  rw [hab, idleCore_core (hu.ok hs), hu.core_eq]
  exact ⟨seqRun_idleCore (hu.ok hs) k, rfl⟩

/-- Settles O23: START, PREEMPT and ABORT by what each does to the core, RESUME as the port hands it on, and a save by
the record that the die controller writes, which what follows leaves in place. -/
theorem coreCommandsAct : Obligations.CoreCommandsAct := by
  unfold Obligations.CoreCommandsAct
  refine ⟨fun s k l _ h hrun hdc hlt hal => next_coreCmdStart h hrun hdc hlt hal, fun s k l _ h hrun hpend => ?_,
    fun s k l h hrun => ?_, fun s k l _ h _ => ?_, fun s k l _ h => ?_, fun s k c r hs hready hstep hrun hv h0 h1 => ?_,
    fun s k c r hs hready hstep hrun => ?_⟩
  · obtain ⟨hraised, hmem⟩ := preemptCore_pends h.1 hrun hpend
    exact ⟨_, congrArg Host.Outcome.next ((coreCmdWrite_of_admits h).trans (coreCmd_preempt s k)), rfl, hraised, hmem⟩
  · refine ⟨_, congrArg Host.Outcome.next ((coreCmdWrite_of_admits h).trans (coreCmd_preempt s k)), ?_⟩
    simp only [preemptCore, hrun, Bool.not_false, if_true]
  · exact ⟨_, congrArg Host.Outcome.next ((coreCmdWrite_of_admits h).trans (coreCmd_resume s k)), rfl⟩
  · obtain ⟨hstop, hcore⟩ := abortCore_idles h.1 k
    refine ⟨_, congrArg Host.Outcome.next ((coreCmdWrite_of_admits h).trans (coreCmd_abort s k)), rfl, hstop, ?_⟩
    rw [hcore]
    exact ⟨rfl, rfl, rfl, rfl⟩
  · have hstop := stopped_of_empty hv h0 h1
    obtain ⟨t, hexec, v, hsaved, htag, hpc, -, hacq, hidle⟩ := corePreemptComplete_saves hs hready hstep (by rw [hstop]; exact hrun)
    exact ⟨t, hexec, v, hsaved, htag, by rw [hpc, hstop], hacq, hidle⟩
  · obtain ⟨t, hexec, v, hsaved, htag, -, hvq, hacq, -⟩ := corePreemptComplete_saves hs hready hstep hrun
    exact ⟨t, hexec, v, hsaved, htag, hvq, hacq⟩

end Sys2Proof.Machine
end

section
/-!
PROOFS. The partition firewall: what a rejection records at each island, and that the register port rejects every write
that the firewall guards against.
-/
namespace Sys2Proof.Machine

open Sys2Proof

theorem JustRegs.mono {p q : Nat → Prop} {s t : State} (h : JustRegs p s t) (hpq : ∀ a, p a → q a) : JustRegs q s t :=
  ⟨h.1, fun a ha => h.2 a fun hp => ha (hpq a hp)⟩

/-! ### The record of a rejection (R428) -/

/-- An island records a rejection, unless it holds one. -/
def logFirst (ini a : Nat) (s : State) (i : Nat) : State :=
  if s.fb (acnBase i) Fld.ACN_FW_LOG1_VALID then s
  else (s.wr (acnBase i + Reg.ACN_FW_LOG0) (a % 2 ^ 32)).wr (acnBase i + Reg.ACN_FW_LOG1)
    (a / 2 ^ 32 % 2 ^ 16 + ini * 2 ^ 16 + 2 ^ 28)

/-- A register of an island's firewall log that is still open for its first rejection. -/
def openLog (s : State) (i x : Nat) : Prop :=
  s.fb (acnBase i) Fld.ACN_FW_LOG1_VALID = false ∧ (x = acnBase i + Reg.ACN_FW_LOG0 ∨ x = acnBase i + Reg.ACN_FW_LOG1)

/-- In `t` the island holds a record, and it is of this write if none was held in `s`. -/
def HoldsFirst (ini a i : Nat) (s t : State) : Prop :=
  t.fb (acnBase i) Fld.ACN_FW_LOG1_VALID = true
    ∧ (s.fb (acnBase i) Fld.ACN_FW_LOG1_VALID = false →
      t.rd (acnBase i + Reg.ACN_FW_LOG0) = a % 2 ^ 32
      ∧ bits (t.rd (acnBase i + Reg.ACN_FW_LOG1)) 15 0 = a / 2 ^ 32 % 2 ^ 16
      ∧ bits (t.rd (acnBase i + Reg.ACN_FW_LOG1)) 27 16 = ini)

/-- The record of an island reads its two log registers alone. -/
theorem HoldsFirst.congr {ini a i : Nat} {s s' t t' : State} (h : HoldsFirst ini a i s t)
    (hs : s'.rd (acnBase i + Reg.ACN_FW_LOG1) = s.rd (acnBase i + Reg.ACN_FW_LOG1))
    (h0 : t'.rd (acnBase i + Reg.ACN_FW_LOG0) = t.rd (acnBase i + Reg.ACN_FW_LOG0))
    (h1 : t'.rd (acnBase i + Reg.ACN_FW_LOG1) = t.rd (acnBase i + Reg.ACN_FW_LOG1)) : HoldsFirst ini a i s' t' := by
  unfold HoldsFirst State.fb State.fg at h ⊢
  rwa [hs, h0, h1]

/-- The fields of the second log word: the high address bits, the writer and VALID lie apart. -/
theorem logWord_fields {hi ini : Nat} (hhi : hi < 2 ^ 16) (hini : ini < 2 ^ 12) :
    bits ((hi + ini * 2 ^ 16 + 2 ^ 28) % 2 ^ 32) 15 0 = hi ∧ bits ((hi + ini * 2 ^ 16 + 2 ^ 28) % 2 ^ 32) 27 16 = ini
      ∧ bits ((hi + ini * 2 ^ 16 + 2 ^ 28) % 2 ^ 32) 28 28 = 1 := by
  unfold bits
  omega

section
variable {s : State} {ini a : Nat}

theorem logFirst_of_valid {i : Nat} (hv : s.fb (acnBase i) Fld.ACN_FW_LOG1_VALID = true) : logFirst ini a s i = s :=
  if_pos hv

theorem logFirst_of_open {i : Nat} (hv : s.fb (acnBase i) Fld.ACN_FW_LOG1_VALID = false) :
    logFirst ini a s i = (s.wr (acnBase i + Reg.ACN_FW_LOG0) (a % 2 ^ 32)).wr (acnBase i + Reg.ACN_FW_LOG1)
      (a / 2 ^ 32 % 2 ^ 16 + ini * 2 ^ 16 + 2 ^ 28) := by
  rw [logFirst, if_neg (by simp [hv])]

theorem justRegs_logFirst (hs : s.ok = true) (i : Nat) : JustRegs (openLog s i) s (logFirst ini a s i) := by
  cases hv : s.fb (acnBase i) Fld.ACN_FW_LOG1_VALID with
  | true => rw [logFirst_of_valid hv]; exact JustRegs.refl _ s
  | false =>
    rw [logFirst_of_open hv]
    exact (JustRegs.wr _ hs ⟨hv, .inl rfl⟩).trans (JustRegs.wr _ (State.ok_wr hs) ⟨hv, .inr rfl⟩)

theorem ok_logFirst (hs : s.ok = true) (i : Nat) : (logFirst ini a s i).ok = true := by
  unfold logFirst
  split
  · exact hs
  · exact State.ok_wr (State.ok_wr hs)

theorem logFirst_holdsFirst (hs : s.ok = true) (hini : ini < 4096) (i : Nat) :
    HoldsFirst ini a i s (logFirst ini a s i) := by
  cases hv : s.fb (acnBase i) Fld.ACN_FW_LOG1_VALID with
  | true =>
    rw [logFirst_of_valid hv]
    exact ⟨hv, fun h => absurd (hv.symm.trans h) (by decide)⟩
  | false =>
    obtain ⟨hhi, hwho, hvalid⟩ := logWord_fields (Nat.mod_lt (a / 2 ^ 32) (by decide : 0 < 2 ^ 16)) hini
    have hlog0 : (logFirst ini a s i).rd (acnBase i + Reg.ACN_FW_LOG0) = a % 2 ^ 32 := by
      rw [logFirst_of_open hv, State.rd_wr_other _ (State.ok_wr hs) (by simp), State.rd_wr_same _ _ hs]
      exact Nat.mod_mod a (2 ^ 32)
    have hlog1 : (logFirst ini a s i).rd (acnBase i + Reg.ACN_FW_LOG1)
        = (a / 2 ^ 32 % 2 ^ 16 + ini * 2 ^ 16 + 2 ^ 28) % 2 ^ 32 := by
      rw [logFirst_of_open hv]
      exact State.rd_wr_same _ _ (State.ok_wr hs)
    refine ⟨?_, fun _ => ⟨hlog0, by rw [hlog1, hhi], by rw [hlog1, hwho]⟩⟩
    rw [State.fb, State.fg, hlog1, hvalid, beq_self_eq_true]

/-- The log of one island leaves the block of the other as it is. -/
theorem rd_logFirst_other (hs : s.ok = true) {i j off : Nat} (hij : j ≠ i) (hoff : off < 0x1000000) :
    (logFirst ini a s i).rd (acnBase j + off) = s.rd (acnBase j + off) :=
  (justRegs_logFirst hs i).2 _ fun ⟨_, hx⟩ => by
    simp only [acnBase, Reg.ACN_FW_LOG0, Reg.ACN_FW_LOG1] at hx
    omega

theorem openLog_logFirst_other (hs : s.ok = true) {i j x : Nat} (hij : j ≠ i) (h : openLog (logFirst ini a s i) j x) :
    openLog s j x := by
  unfold openLog State.fb State.fg at h ⊢
  rwa [rd_logFirst_other hs hij (by decide)] at h

/-! ### Both islands -/

/-- Both islands record the rejection. -/
def logBoth (ini a : Nat) (s : State) : State := logFirst ini a (logFirst ini a s 0) 1

theorem fwLog_eq (s : State) (ini a : Nat) : fwLog s ini a = (logBoth ini a s).reportBoth 0x12 0 := rfl

/-- Of the registers, only the logs that are still open change. -/
theorem justRegs_logBoth (hs : s.ok = true) : JustRegs (fun x => ∃ i < 2, openLog s i x) s (logBoth ini a s) :=
  ((justRegs_logFirst hs 0).mono fun _ h => ⟨0, by decide, h⟩).trans
    ((justRegs_logFirst (ok_logFirst hs 0) 1).mono fun _ h => ⟨1, by decide, openLog_logFirst_other hs (by decide) h⟩)

theorem logBoth_holdsFirst (hs : s.ok = true) (hini : ini < 4096) : ∀ i < 2, HoldsFirst ini a i s (logBoth ini a s)
  | 0, _ => by
    have hs' := ok_logFirst (ini := ini) (a := a) hs 0
    exact (logFirst_holdsFirst hs hini 0).congr rfl (rd_logFirst_other hs' (by decide) (by decide))
      (rd_logFirst_other hs' (by decide) (by decide))
  | 1, _ => (logFirst_holdsFirst (ok_logFirst hs 0) hini 1).congr (rd_logFirst_other hs (by decide) (by decide)).symm rfl rfl

/-! ### The register port rejects what the firewall guards -/

/-- The firewall guards the register: it is of the Acina partition, or it holds an RWL field. -/
def Guarded (p : Part) (l : Loc) : Prop := l.blk = .acn ∨ ∃ r, regAt p l = some r ∧ r.1.hasRwl = true

theorem regDenied_of_guarded {l : Loc} (hini : isAcina ini = false) (hg : Guarded s.part l) :
    regDenied s ini a l (regAt s.part l) = (true, fwLog s ini a) := by
  rcases hg with hblk | ⟨r, hreg, hrwl⟩
  · simp [regDenied, hblk, hini]
  · simp [regDenied, hreg, hrwl, hini]

theorem findReg_of_regAt {p : Part} {l : Loc} {r : RegSpec × Nat × Nat} (h : regAt p l = some r) :
    findReg (regsOf l.blk) l.off = some r := by
  unfold regAt at h
  split at h
  · next hfound => split at h <;> simp_all
  · cases h

/-- SEC_FLASH_CMD, whose refusals R542 counts, is no register that the firewall guards. -/
theorem portRefused_of_guarded {p : Part} {l : Loc} (hg : Guarded p l) (t : State) : portRefused t l = t := by
  refine if_neg fun ⟨hblk, hoff⟩ => ?_
  rcases hg with hacn | ⟨r, hreg, hrwl⟩
  · exact absurd (hblk.symm.trans hacn) (by decide)
  · have hfree : (findReg (regsOf .sec) Reg.SEC_FLASH_CMD).all (fun r => !r.1.hasRwl) = true := by decide
    have hfound := findReg_of_regAt hreg
    rw [hblk, hoff] at hfound
    rw [hfound] at hfree
    simp [hrwl] at hfree

theorem portWord_of_guarded {l : Loc} (v : Nat) (hloc : locate s.part a = some l) (hini : isAcina ini = false)
    (hg : Guarded s.part l) : portWord s ini a v = (true, fwLog s ini a) := by
  simp only [portWord, hloc, regDenied_of_guarded hini hg, portRefused_of_guarded hg, if_true, ite_self]

/-- An initiator that is held back gets no answer of the access checks. -/
theorem not_iniBlocked_of_accCheck {n : Nat} {w : Bool} (h : (accCheck s ini a n w).1 = none) : iniBlocked s ini = false := by
  cases hb : iniBlocked s ini with
  | false => rfl
  | true => simp [accCheck, hb] at h

theorem exec_registerWrite_of_guarded {l : Loc} (v : Word) (hsp : space s a = .reg) (hacc : (accCheck s ini a 4 true).1 = none)
    (hloc : locate s.part a = some l) (hini : isAcina ini = false) (hg : Guarded s.part l) :
    exec (.registerWrite ini a 4 v) s = .next ((fwLog s ini a).emit "ACCESS_ERROR" ini [1]) := by
  have hport : regPort s ini a 4 v.toNat = (1, fwLog s ini a) := by
    simp only [regPort, hacc, accCheck_snd_of_none hacc, hsp, portWord_of_guarded _ hloc hini hg, b2n, if_true]
  change execRegisterWrite ini a 4 v s = _
  simp only [execRegisterWrite, not_iniBlocked_of_accCheck hacc, hport, accessError, Bool.false_eq_true, if_false,
    Nat.one_ne_zero]

end

/-- Settles O10: the port answers a guarded write with the firewall's log and an access error, and each island's log is
written apart from the other's. The unit 0 of event 0x12 is log entry 86, its report to both islands log entry 58. -/
theorem firewallRejectsAndLogs : Obligations.FirewallRejectsAndLogs := by
  unfold Obligations.FirewallRejectsAndLogs
  intro s ini a l v hs hini hsp hacc hloc hacina hg
  have hexec := exec_registerWrite_of_guarded v hsp hacc hloc hacina hg
  rw [fwLog_eq] at hexec
  have hframe := justRegs_logBoth (ini := ini) (a := a) hs
  have hfirst := logBoth_holdsFirst (a := a) hs hini
  generalize logBoth ini a s = t at hexec hframe hfirst
  obtain ⟨ht, honly⟩ := hframe
  obtain ⟨r, rfl⟩ : ∃ r, t = { s with regs := r } := ⟨t.regs, ht⟩
  refine ⟨_, hexec, ?_, ?_, ?_, honly, hfirst⟩
  · exact List.append_assoc ..
  · rfl
  · rfl

end Sys2Proof.Machine
end
